-- ==== Sys2Proof/Word.lean ====
section
/-! DEFINITION. The word types of Aelval and the finite table every sparse piece of state is held in. -/

namespace Sys2Proof

/-- An s register, the PC, an address (R17, R195). -/
abbrev W64 := BitVec 64
/-- A v register (R17). -/
abbrev W1024 := BitVec 1024
/-- An m register: one bit per byte lane (R17). -/
abbrev W128 := BitVec 128
/-- An instruction word (R59). -/
abbrev W32 := BitVec 32

/-- A finite map from numbers, held as a list of pairs in rising key order with no pair whose value is the
default `d`: equal maps are equal lists. -/
abbrev Tab (α : Type) := List (Nat × α)

namespace Tab
variable {α : Type}

/-- The pair's value at `k`, if the table lists it. -/
def find? : Tab α → Nat → Option α
  | [], _ => none
  | (j, v) :: r, k => if j = k then some v else find? r k

/-- The value at `k`; `d` where nothing is listed. -/
def get (d : α) (t : Tab α) (k : Nat) : α := (find? t k).getD d

/-- Lists `v` at `k`, in its place by rising key. -/
def put : Tab α → Nat → α → Tab α
  | [], k, v => [(k, v)]
  | (j, w) :: r, k, v =>
    if j = k then (k, v) :: r
    else if k < j then (k, v) :: (j, w) :: r
    else (j, w) :: put r k v

/-- Takes `k` out of the table. -/
def del : Tab α → Nat → Tab α
  | [], _ => []
  | (j, w) :: r, k => if j = k then del r k else (j, w) :: del r k

/-- Writes `v` at `k`; writing the default unlists `k`. -/
def set [DecidableEq α] (d : α) (t : Tab α) (k : Nat) (v : α) : Tab α :=
  if v = d then del t k else put t k v

/-- Keys rise strictly from above `lo`, and no value is the default. -/
def wfFrom [DecidableEq α] (d : α) : Nat → Tab α → Bool
  | _, [] => true
  | lo, (j, v) :: r => decide (lo ≤ j) && decide (v ≠ d) && wfFrom d (j + 1) r

/-- The canonical form: strictly rising keys and no default value. -/
def wf [DecidableEq α] (d : α) (t : Tab α) : Bool := wfFrom d 0 t

end Tab
end Sys2Proof
end

