-- ==== Sys2Proof/Config.lean ====
section
/-! DEFINITION. What one device fixes and the specification leaves open. Each constant is opaque: it has no value that
a proof could use (notes/assumptions/3.md). -/

namespace Sys2Proof.Config

/-- The register file of a fresh value where the specification lists several permitted ones (R2, R3): the n-th choice. -/
opaque freeNat : Nat → Nat
/-- The device identity fused at manufacture (R402). -/
opaque devid : W64
/-- The initial object fuse counter and translator floor (R381, R451). -/
opaque fuseObj : Nat
opaque fuseFloor : Nat
/-- Partition layout from fuses: partition of each die, below 8 (R451, R345). -/
opaque partOfDie : Nat → Nat
/-- What the storage port's namespaces hold at power-on, by namespace * 2^76 + block * 4096 + byte (R366). -/
opaque flash : Nat → BitVec 8
/-- Bytes of a partition's shadow pool (R409). -/
opaque shadowPool : Nat → Nat
/-- The shape record that the dispatcher writes for a launch with the compatibility bit, by the launch's number (R165). -/
opaque shape : Nat → BitVec 512
/-- SHA-384 of a byte string (R378, R400). -/
opaque sha384 : List (BitVec 8) → BitVec 384
/-- The two signatures of a statement over its covered bytes by a signer (R398): 384 and 16,224 bytes. -/
opaque sigRsa : W64 → List (BitVec 8) → List (BitVec 8)
opaque sigSlh : W64 → List (BitVec 8) → List (BitVec 8)
/-- Whether a signature block verifies over a hash (R380, R387). -/
opaque verify : BitVec 384 → List (BitVec 8) → Bool
/-- The portable image with a hash (R385). -/
opaque portable : BitVec 384 → List (BitVec 8)
/-- The translator's output, a function of the source's hash and the target (R385); none when translation fails. -/
opaque translate : BitVec 384 → Nat → W64 → W64 → Option (List (BitVec 8))
/-- Whether the export table of the object of an image names `_resolve` (R371, R375). -/
opaque hasResolve : List (BitVec 8) → Bool
/-- The security version of a translator version (R386). -/
opaque translatorSvn : Nat → Nat
/-- The pod's translation leader, and whether an identity is a pod member that the root of trust knows (R387). -/
opaque leader : W64
opaque podMember : W64 → Bool
/-- Whether a core still holds the former word of a code patch at a cycle, before an ICSYNC has dropped it (R389). -/
opaque holdsWord : Nat → Nat → Nat → Bool
/-- Start-up (R451): whether a die comes up at step 4; the step, 1 to 3, at which the root of trust of die 0 or 31 fails, or 0 (taken
modulo 4); and the code that the management port reports of a failed step. -/
opaque dieStarts : Nat → Bool
opaque bootFails : Nat → Nat
opaque bootCode : Nat → Nat
/-- Where the supervisor cores start, and the bytes of their firmware's page. -/
opaque svcEntry : W64
opaque svcImage : Nat → BitVec 8
/-- Fields of a pod export table entry: base, length, read and write flags (R458). -/
opaque podBase : BitVec 128 → Nat
opaque podLen : BitVec 128 → Nat
opaque podRead : BitVec 128 → Bool
opaque podWrite : BitVec 128 → Bool
/-- Whether a client and the module authenticate each other (R402, R450), and the certificate chains. -/
opaque clientOk : Nat → Bool
opaque certs : List (BitVec 8)
/-- The reserved region of the storage namespace (R400): its NSID, and the first block of a plate's checkpoint. -/
opaque ckNsid : W64
opaque ckBlock : Nat → W64
/-- Firmware measurements (R402). -/
opaque fwHash : Nat → BitVec 384

/-- Which of the possible next steps of the module comes next in a cycle (notes/assumptions/2.md). -/
opaque order : Nat → Nat
/-- Whether a supervisor core asks for a round at a cycle (R331). -/
opaque svcAsks : Nat → Bool
/-- A free choice of the dispatcher among placements, by cycle and index (R325). -/
opaque placeNat : Nat → Nat → Nat
/-- Whether a die's HBM trains at bring-up (R454), and whether the storage port's access in a cycle succeeds (R358, R401). -/
opaque hbmTrains : Nat → Bool
opaque storageOk : Nat → Bool

end Sys2Proof.Config
end

