-- ==== Sys2Proof/Syntax.lean ====
section
/-! DEFINITION. The syntax: one constructor of `Instr` for each row of spec/opcode_table.json. The first part holds
the operand shapes of the encoded instructions (R60-R72, R74); the second the operands of the steps that other units
than an issuing slot take (spec/95_what_each_step_holds.md). -/

namespace Sys2Proof

/-! ## Operand kinds (R61) -/

abbrev SReg := BitVec 6
abbrev VReg := BitVec 5
abbrev MReg := BitVec 3
abbrev CReg := BitVec 4
abbrev ZReg := BitVec 3
abbrev QReg := BitVec 2

/-- A memory operand: cursor(cap) + s[idx] * 2^scale + disp (R45, R61, R62). -/
structure MemOp where
  cap : CReg
  scale : BitVec 2
  idx : SReg
  disp : BitVec 20
  deriving DecidableEq, Repr

/-- What every kind M instruction with an outcome table carries: the switch marker, the not-ready mode, whether it is
the long form, and the try target (R60, R64). -/
structure Hd where
  p : Bool
  nr : BitVec 2
  ext : Bool
  tgt : BitVec 20
  deriving DecidableEq, Repr

/-- What an instruction without outcome table carries: the switch marker and whether it is the three-word form. -/
structure Pl where
  p : Bool
  ext : Bool
  deriving DecidableEq, Repr

/-! ## Kind I shapes -/

/-- The second value of a two-source instruction (R105). -/
inductive Src where
  | reg (sb : SReg)
  | imm (v : W32)
  | lit (v : W64)
  deriving DecidableEq, Repr

/-- ADD ... SLTU (R105). -/
structure Alu where
  p : Bool
  sd : SReg
  sa : SReg
  b : Src
  deriving DecidableEq, Repr

/-- SEL (R108). -/
structure Sel where
  p : Bool
  sd : SReg
  sa : SReg
  sb : SReg
  sc : SReg
  deriving DecidableEq, Repr

/-- CLZ, CTZ, POPC, MOV (R109). -/
structure Alu1 where
  h : Pl
  sd : SReg
  sa : SReg
  deriving DecidableEq, Repr

/-- SXT, ZXT: `n1` holds n - 1 (R109). -/
structure Xt where
  h : Pl
  sd : SReg
  sa : SReg
  n1 : BitVec 6
  deriving DecidableEq, Repr

/-- The field of BFX and BFI: from a register, or constant with len - 1 (R110). -/
inductive BfCtl where
  | reg (sc : SReg)
  | const (pos : BitVec 6) (len1 : BitVec 6)
  deriving DecidableEq, Repr

structure Bf where
  p : Bool
  sd : SReg
  sa : SReg
  ctl : BfCtl
  deriving DecidableEq, Repr

/-- ADDI (R111). -/
structure Addi where
  p : Bool
  sd : SReg
  sa : SReg
  imm : BitVec 8
  deriving DecidableEq, Repr

/-- The three constants of LI (R112). -/
inductive LiK where
  | base (v : BitVec 14)
  | imm (v : W32)
  | lit (v : W64)
  deriving DecidableEq, Repr

structure Li where
  p : Bool
  sd : SReg
  k : LiK
  deriving DecidableEq, Repr

/-- A branch offset in words: the base word's `n` bits, or IMM32 (R72). -/
inductive Off (n : Nat) where
  | base (o : BitVec n)
  | ext (o : W32)
  deriving DecidableEq, Repr

/-- BR, CALL, BNR, BRDY (R72). -/
structure Br where
  p : Bool
  off : Off 18
  deriving DecidableEq, Repr

/-- BZ, BNZ (R72). -/
structure Bz where
  p : Bool
  sa : SReg
  off : Off 12
  deriving DecidableEq, Repr

/-- BEQ ... BGEU (R72). -/
structure Bcc where
  p : Bool
  sa : SReg
  sb : SReg
  off : Off 6
  deriving DecidableEq, Repr

/-- BOC (R72, R284). -/
structure Boc where
  p : Bool
  code : BitVec 4
  off : Off 12
  deriving DecidableEq, Repr

/-- CALLI, JMPI (R115). -/
structure Jmpi where
  h : Pl
  cN : CReg
  sa : SReg
  deriving DecidableEq, Repr

/-- One s register: RET (R114), HRET (R228), SETPRIO (R340), GETO (R285), ENGST (R289). -/
structure S1 where
  h : Pl
  sr : SReg
  deriving DecidableEq, Repr

/-- TRAP, BKPT (R120). -/
structure Trap where
  p : Bool
  code : Off 12
  deriving DecidableEq, Repr

/-- MFS, MTS: an s register and a special register's number (R117). -/
structure Mfs where
  h : Pl
  sr : SReg
  num : BitVec 6
  deriving DecidableEq, Repr

/-- RDCYC (R119). -/
structure Rdcyc where
  h : Pl
  sd : SReg
  se : SReg
  deriving DecidableEq, Repr

/-! ## Vector shapes (R124, R128) -/

/-- vd, va, vb under a predicate. -/
structure V3 where
  h : Hd
  et : BitVec 4
  rm : BitVec 2
  msk : MReg
  vd : VReg
  va : VReg
  vb : VReg
  deriving DecidableEq, Repr

/-- vd, va under a predicate. -/
structure V2 where
  h : Hd
  et : BitVec 4
  rm : BitVec 2
  msk : MReg
  vd : VReg
  va : VReg
  deriving DecidableEq, Repr

/-- VFMA (R130). -/
structure V4 where
  h : Hd
  et : BitVec 4
  rm : BitVec 2
  msk : MReg
  vd : VReg
  va : VReg
  vb : VReg
  vc : VReg
  deriving DecidableEq, Repr

/-- VCMP, VFCMP (R132). -/
structure VCmpA where
  h : Hd
  et : BitVec 4
  msk : MReg
  md : MReg
  va : VReg
  vb : VReg
  cond : BitVec 4
  deriving DecidableEq, Repr

/-- VCVT (R134). -/
structure VCvtA where
  h : Hd
  et : BitVec 4
  rm : BitVec 2
  ov : Bool
  msk : MReg
  vd : VReg
  va : VReg
  ud : Bool
  us : Bool
  part : BitVec 3
  src : BitVec 4
  deriving DecidableEq, Repr

/-- VDSX (R135). -/
structure VDsxA where
  h : Hd
  et : BitVec 4
  rm : BitVec 2
  ov : Bool
  msk : MReg
  vd : VReg
  va : VReg
  sb : SReg
  n4 : Bool
  part : BitVec 3
  deriving DecidableEq, Repr

/-- VRED (R136). -/
structure VRedA where
  h : Hd
  et : BitVec 4
  rm : BitVec 2
  msk : MReg
  vd : VReg
  va : VReg
  op : BitVec 2
  deriving DecidableEq, Repr

/-- VBCAST (R137). -/
structure VBcA where
  h : Hd
  et : BitVec 4
  msk : MReg
  vd : VReg
  sa : SReg
  deriving DecidableEq, Repr

/-- VINS (R137). -/
structure VInsA where
  h : Hd
  et : BitVec 4
  vd : VReg
  sa : SReg
  sb : SReg
  deriving DecidableEq, Repr

/-- VEXT (R137). -/
structure VExtA where
  h : Hd
  et : BitVec 4
  sd : SReg
  va : VReg
  sb : SReg
  deriving DecidableEq, Repr

/-- VSLIDE (R137). -/
structure VSlA where
  h : Hd
  et : BitVec 4
  msk : MReg
  vd : VReg
  va : VReg
  sb : SReg
  deriving DecidableEq, Repr

/-- MAND, MOR, MXOR (R138). -/
structure M3 where
  h : Hd
  md : MReg
  ma : MReg
  mb : MReg
  deriving DecidableEq, Repr

/-- MNOT (R138). -/
structure M2 where
  h : Hd
  md : MReg
  ma : MReg
  deriving DecidableEq, Repr

/-- MPOP, MFIRST (R138). -/
structure MCnt where
  h : Hd
  et : BitVec 4
  sd : SReg
  ma : MReg
  deriving DecidableEq, Repr

/-! ## Matrix shapes -/

/-- The tensor parameter block (R69); a set register flag makes the low six bits a register number (R70). -/
structure TP where
  acap : CReg
  bcap : CReg
  sas : Bool
  sa : BitVec 20
  sbs : Bool
  sb : BitVec 20
  ms : Bool
  m : BitVec 6
  ns : Bool
  n : BitVec 6
  ks : Bool
  k : BitVec 11
  ta : Bool
  tb : Bool
  mcm : BitVec 2
  mc : BitVec 6
  qe : Bool
  q : QReg
  deriving DecidableEq, Repr

/-- MMA, MMAS (R163, R164). -/
structure Mma where
  h : Hd
  zd : ZReg
  tp : TP
  deriving DecidableEq, Repr

/-- MMA.BGS (R165): no try target is encoded. -/
structure MmaBgs where
  h : Hd
  zd : ZReg
  deriving DecidableEq, Repr

/-- ZZERO (R167). -/
structure ZZeroA where
  h : Hd
  et : BitVec 4
  zd : ZReg
  deriving DecidableEq, Repr

/-- ZLD, ZST (R167). -/
structure ZMem where
  h : Hd
  z : ZReg
  mem : MemOp
  deriving DecidableEq, Repr

/-- ZCVT (R167, R168). -/
structure ZCvtA where
  h : Hd
  et : BitVec 4
  rm : BitVec 2
  ov : Bool
  zd : ZReg
  za : ZReg
  scale : BitVec 8
  deriving DecidableEq, Repr

/-- QSET (R169). -/
structure QSetA where
  h : Hd
  qd : QReg
  mem : MemOp
  sc : SReg
  deriving DecidableEq, Repr

/-- QPOS (R169). -/
structure QPosA where
  h : Hd
  sd : SReg
  qa : QReg
  deriving DecidableEq, Repr

/-! ## Attention shapes (R185-R191) -/

structure AtqA where
  h : Hd
  mem : MemOp
  cD : CReg
  cQ : CReg
  deriving DecidableEq, Repr

/-- A memory operand alone: ATC, ATM, HALOPUSH. -/
structure MemA where
  h : Hd
  mem : MemOp
  deriving DecidableEq, Repr

structure KvappA where
  h : Hd
  sd : SReg
  mem : MemOp
  cS : CReg
  deriving DecidableEq, Repr

structure KvdescA where
  h : Hd
  mem : MemOp
  cK : CReg
  cS : CReg
  deriving DecidableEq, Repr

/-! ## Memory shapes -/

/-- LD and ST of one size; also LDSY, STSY, LDPK, FEGET (R218, R305). -/
structure MemS where
  h : Hd
  ord : BitVec 2
  scope : BitVec 3
  sr : SReg
  mem : MemOp
  deriving DecidableEq, Repr

/-- LDV, STV (R219). -/
structure MemV where
  h : Hd
  et : BitVec 4
  ord : BitVec 2
  scope : BitVec 3
  rm : BitVec 2
  ov : Bool
  msk : MReg
  v : VReg
  mem : MemOp
  deriving DecidableEq, Repr

/-- LDG, STS (R220). -/
structure MemG where
  h : Hd
  et : BitVec 4
  msk : MReg
  v : VReg
  vi : VReg
  mem : MemOp
  deriving DecidableEq, Repr

/-- LDC, STC (R221). -/
structure MemC where
  h : Hd
  ord : BitVec 2
  scope : BitVec 3
  c : CReg
  mem : MemOp
  deriving DecidableEq, Repr

/-- PREF (R222). -/
structure PrefA where
  h : Pl
  write : Bool
  mem : MemOp
  deriving DecidableEq, Repr

/-- CPY, CPYT (R223). -/
structure CpyA where
  h : Hd
  cD : CReg
  scale : BitVec 2
  idx : SReg
  cS : CReg
  disp : BitVec 20
  sn : SReg
  deriving DecidableEq, Repr

/-- Two s registers: CPYW, LREV, XINV, GOVCFG, PRNEW (R226, R364, R341, R422). -/
structure SS where
  h : Hd
  ra : SReg
  rb : SReg
  deriving DecidableEq, Repr

/-- AMSG (R227). -/
structure AmsgA where
  h : Hd
  sd : SReg
  mem : MemOp
  cH : CReg
  deriving DecidableEq, Repr

/-- BANKMODE (R229). -/
structure BankA where
  h : Hd
  mem : MemOp
  mode : BitVec 2
  deriving DecidableEq, Repr

/-- HALO (R230). -/
structure HaloA where
  h : Hd
  cN : CReg
  sP : SReg
  deriving DecidableEq, Repr

/-- FENCE (R250): P is always set, NR always 0. -/
structure FenceA where
  ext : Bool
  ord : BitVec 2
  scope : BitVec 3
  deriving DecidableEq, Repr

/-- ENGWAIT (R253). -/
structure EngwaitA where
  h : Hd
  mask : BitVec 4
  deriving DecidableEq, Repr

/-! ## Outcome, queue and synchronisation shapes -/

/-- PARK, ICSYNC: a memory operand, a register; ICSYNC's scope (R287, R389). -/
structure ParkA where
  h : Pl
  scope : BitVec 3
  sa : SReg
  mem : MemOp
  deriving DecidableEq, Repr

/-- QPUT, QGET, QPEEK, QCNT, LNCH, LEASE: one s register and a memory operand (R291, R339, R364). -/
structure RMem where
  h : Hd
  sr : SReg
  mem : MemOp
  deriving DecidableEq, Repr

/-- FESET (R305). -/
structure FesetA where
  h : Hd
  ord : BitVec 2
  scope : BitVec 3
  full : Bool
  mem : MemOp
  deriving DecidableEq, Repr

/-- WAITGE (R306). -/
structure WaitgeA where
  h : Hd
  ord : BitVec 2
  scope : BitVec 3
  sa : SReg
  sb : SReg
  mem : MemOp
  deriving DecidableEq, Repr

/-- BARA, BART, BARC (R308-R310). -/
structure BarA where
  h : Hd
  ord : BitVec 2
  scope : BitVec 3
  sr : SReg
  tag : BitVec 3
  deriving DecidableEq, Repr

/-- AMO and AMOCAS (R311). -/
structure AmoA where
  h : Hd
  et : BitVec 4
  ord : BitVec 2
  scope : BitVec 3
  sd : SReg
  mem : MemOp
  sb : SReg
  deriving DecidableEq, Repr

/-- RED (R312). -/
structure RedA where
  h : Hd
  et : BitVec 4
  sb : SReg
  mem : MemOp
  deriving DecidableEq, Repr

/-- One s register with outcomes: REDW, SQGET, DLCFG, PRSET, PRPASS, PRCAN. -/
structure SH where
  h : Hd
  sr : SReg
  deriving DecidableEq, Repr

/-- CBPUT, CBGET (R315). -/
structure CbA where
  h : Hd
  v : VReg
  mem : MemOp
  deriving DecidableEq, Repr

/-- CBFREE (R315). -/
structure CbfreeA where
  h : Hd
  sd : SReg
  mem : MemOp
  sa : SReg
  deriving DecidableEq, Repr

/-! ## Task-system, capability, proof and supervisor shapes -/

/-- GANG (R336). -/
structure GangA where
  h : Hd
  sd : SReg
  cA : CReg
  sa : SReg
  deriving DecidableEq, Repr

/-- SPAWN (R337). -/
structure SpawnA where
  h : Hd
  sa : SReg
  stage : BitVec 4
  deriving DecidableEq, Repr

/-- CSETB (R362). -/
structure CsetbA where
  p : Bool
  cd : CReg
  cs : CReg
  sl : SReg
  deriving DecidableEq, Repr

/-- The third operand of CADD and CRESTR (R361). -/
inductive CSrc (n : Nat) where
  | reg (sa : SReg)
  | imm (v : BitVec n)
  deriving DecidableEq, Repr

structure CaddA where
  p : Bool
  cd : CReg
  cs : CReg
  b : CSrc 20
  deriving DecidableEq, Repr

structure CrestrA where
  p : Bool
  cd : CReg
  cs : CReg
  b : CSrc 16
  deriving DecidableEq, Repr

/-- CSUB (R361). -/
structure CsubA where
  p : Bool
  sd : SReg
  ca : CReg
  cb : CReg
  deriving DecidableEq, Repr

/-- CSEAL, CUNSEAL (R363). -/
structure CsealA where
  p : Bool
  cd : CReg
  cs : CReg
  ck : CReg
  deriving DecidableEq, Repr

/-- CGETB, CGETL, CGETP, CTAG (R361). -/
structure CgetA where
  p : Bool
  sd : SReg
  cs : CReg
  deriving DecidableEq, Repr

/-- CCLR, CMOV (R361). -/
structure CmovA where
  p : Bool
  cd : CReg
  cs : CReg
  deriving DecidableEq, Repr

/-- PLATE (R394). -/
structure PlateA where
  h : Hd
  cd : CReg
  cs : CReg
  sa : SReg
  deriving DecidableEq, Repr

/-- IMPRD (R399). -/
structure ImprdA where
  h : Hd
  mem : MemOp
  cP : CReg
  sn : SReg
  deriving DecidableEq, Repr

/-- PRST, FREEZE: sd and sa without outcome modes (R426, R447). -/
structure SSP where
  h : Pl
  sd : SReg
  sa : SReg
  deriving DecidableEq, Repr

/-- PRORV (R427). -/
structure ProrvA where
  h : Pl
  sd : SReg
  imm : BitVec 20
  deriving DecidableEq, Repr

/-- PREEMPT, RESUME (R445, R446). -/
structure SSS where
  h : Hd
  sd : SReg
  sa : SReg
  sb : SReg
  deriving DecidableEq, Repr

/-! ## Operands of the other units' steps -/

/-- A request to the map-executable service (R380): the staged image, its virtual base, lease, and where its
signature block or translation record stands. -/
structure MapReq where
  part : Nat
  stage : W64
  bytes : Nat
  base : W64
  lease : Nat
  svn : Nat
  /-- the image carries a translation record in place of a signature block -/
  record : Bool
  revid : W64
  featreq : W64
  /-- the object's descriptor table: offsets of its `.block`s in the code segment, with their descriptors (R53) -/
  descs : List (Nat × BitVec 16)
  deriving DecidableEq, Repr

/-- The key of a translation (R387). -/
structure TransKey where
  src : BitVec 384
  tver : Nat
  trev : W64
  tfeat : W64
  deriving DecidableEq, Repr

/-- A translation record as received, with the image's bytes (R386). -/
structure TransRec where
  key : TransKey
  tsvn : Nat
  osvn : Nat
  imghash : BitVec 384
  signer : W64
  seq : Nat
  image : List (BitVec 8)
  sig : List (BitVec 8)
  deriving DecidableEq, Repr

/-- Where an uncorrectable error arises (R435, R436). -/
inductive ErrSite where
  /-- the 64-byte block of this memory key -/
  | block (key : Nat)
  /-- physical accumulator tile `tile` of a core -/
  | tile (core tile : Nat)
  /-- q register `n` of the task at a position -/
  | qreg (pos n : Nat)
  /-- entry `entry` of a queue (0 VXE, 1 MXE, 2 CPE, 3 attention) of the task at a position -/
  | queue (pos eng entry : Nat)
  /-- a link of a die -/
  | link (die : Nat)
  deriving DecidableEq, Repr

/-- The trained ports (R458). -/
inductive Port where
  | host | cxl | scaleUp (n : Nat) | storage
  deriving DecidableEq, Repr

/-- An SPDM message on the management port (R402, R450). -/
inductive SpdmReq where
  | openSession (client : Nat) (part : Nat)
  | measure (client : Nat) (index : Nat) (nonce : BitVec 256)
  | close (client : Nat)
  deriving DecidableEq, Repr

/-! ## The instructions and steps -/

/-- One constructor per row of spec/opcode_table.json: the encoded instructions in its order, then the steps of other
units. Who acts is part of the state: for an encoded instruction `State.cur` is the issuing master; for a step without
operands here, `State.cur` is the acting unit (a master's position, a request's number, a core, a die, a plate, a slot
of the launch table) and `State.arg` the bit, line, page or die that the step is about. -/
inductive Instr where
  | add (x : Alu)
  | sub (x : Alu)
  | mul (x : Alu)
  | mulh (x : Alu)
  | mulhu (x : Alu)
  | div (x : Alu)
  | divu (x : Alu)
  | rem (x : Alu)
  | remu (x : Alu)
  | and (x : Alu)
  | or (x : Alu)
  | xor (x : Alu)
  | andn (x : Alu)
  | shl (x : Alu)
  | shr (x : Alu)
  | sra (x : Alu)
  | rot (x : Alu)
  | min (x : Alu)
  | max (x : Alu)
  | minu (x : Alu)
  | maxu (x : Alu)
  | seq (x : Alu)
  | sne (x : Alu)
  | slt (x : Alu)
  | sltu (x : Alu)
  | sel (x : Sel)
  | addi (x : Addi)
  | li (x : Li)
  | clz (x : Alu1)
  | ctz (x : Alu1)
  | popc (x : Alu1)
  | mov (x : Alu1)
  | sxt (x : Xt)
  | zxt (x : Xt)
  | bfx (x : Bf)
  | bfi (x : Bf)
  | br (x : Br)
  | call (x : Br)
  | bz (x : Bz)
  | bnz (x : Bz)
  | beq (x : Bcc)
  | bne (x : Bcc)
  | blt (x : Bcc)
  | bge (x : Bcc)
  | bltu (x : Bcc)
  | bgeu (x : Bcc)
  | calli (x : Jmpi)
  | jmpi (x : Jmpi)
  | ret (x : S1)
  | nop (x : Pl)
  | trap (x : Trap)
  | bkpt (x : Trap)
  | mfs (x : Mfs)
  | mts (x : Mfs)
  | rdcyc (x : Rdcyc)
  | vadd (x : V3)
  | vsub (x : V3)
  | vmul (x : V3)
  | vmulh (x : V3)
  | vmin (x : V3)
  | vmax (x : V3)
  | vabs (x : V2)
  | vand (x : V3)
  | vor (x : V3)
  | vxor (x : V3)
  | vshl (x : V3)
  | vshr (x : V3)
  | vsra (x : V3)
  | vadds (x : V3)
  | vsubs (x : V3)
  | vfadd (x : V3)
  | vfsub (x : V3)
  | vfmul (x : V3)
  | vfma (x : V4)
  | vfmin (x : V3)
  | vfmax (x : V3)
  | vrcp (x : V2)
  | vrsq (x : V2)
  | vex2 (x : V2)
  | vlg2 (x : V2)
  | vcvt (x : VCvtA)
  | vcmp (x : VCmpA)
  | vfcmp (x : VCmpA)
  | vsel (x : V3)
  | vred (x : VRedA)
  | vperm (x : V3)
  | vbcast (x : VBcA)
  | vins (x : VInsA)
  | vext (x : VExtA)
  | vslide (x : VSlA)
  | vdsx (x : VDsxA)
  | vmov (x : V2)
  | mand (x : M3)
  | mor (x : M3)
  | mxor (x : M3)
  | mnot (x : M2)
  | mpop (x : MCnt)
  | mfirst (x : MCnt)
  | mma (x : Mma)
  | mmas (x : Mma)
  | mmaBgs (x : MmaBgs)
  | zzero (x : ZZeroA)
  | zld (x : ZMem)
  | zst (x : ZMem)
  | zcvt (x : ZCvtA)
  | qset (x : QSetA)
  | qpos (x : QPosA)
  | atq (x : AtqA)
  | atc (x : MemA)
  | atm (x : MemA)
  | kvapp (x : KvappA)
  | kvdesc (x : KvdescA)
  | ldB (x : MemS)
  | ldH (x : MemS)
  | ldW (x : MemS)
  | ldD (x : MemS)
  | stB (x : MemS)
  | stH (x : MemS)
  | stW (x : MemS)
  | stD (x : MemS)
  | ldv (x : MemV)
  | stv (x : MemV)
  | ldg (x : MemG)
  | sts (x : MemG)
  | ldc (x : MemC)
  | stc (x : MemC)
  | pref (x : PrefA)
  | cpy (x : CpyA)
  | cpyt (x : CpyA)
  | cpyw (x : SS)
  | amsg (x : AmsgA)
  | hret (x : S1)
  | bankmode (x : BankA)
  | halo (x : HaloA)
  | halopush (x : MemA)
  | fence (x : FenceA)
  | engwait (x : EngwaitA)
  | boc (x : Boc)
  | bnr (x : Br)
  | brdy (x : Br)
  | geto (x : S1)
  | yield (x : Pl)
  | park (x : ParkA)
  | engst (x : S1)
  | qput (x : RMem)
  | qget (x : RMem)
  | qpeek (x : RMem)
  | qcnt (x : RMem)
  | ldsy (x : MemS)
  | stsy (x : MemS)
  | ldpk (x : MemS)
  | feset (x : FesetA)
  | feget (x : MemS)
  | waitge (x : WaitgeA)
  | waiteq (x : MemS)
  | bara (x : BarA)
  | bart (x : BarA)
  | barc (x : BarA)
  | amoAdd (x : AmoA)
  | amoSub (x : AmoA)
  | amoMin (x : AmoA)
  | amoMax (x : AmoA)
  | amoMinu (x : AmoA)
  | amoMaxu (x : AmoA)
  | amoAnd (x : AmoA)
  | amoOr (x : AmoA)
  | amoXor (x : AmoA)
  | amoSwp (x : AmoA)
  | amocas (x : AmoA)
  | redAdd (x : RedA)
  | redMin (x : RedA)
  | redMax (x : RedA)
  | redAnd (x : RedA)
  | redOr (x : RedA)
  | redXor (x : RedA)
  | redFadd (x : RedA)
  | redw (x : SH)
  | cbput (x : CbA)
  | cbget (x : CbA)
  | cbfree (x : CbfreeA)
  | gang (x : GangA)
  | spawn (x : SpawnA)
  | sqget (x : SH)
  | exit (x : Pl)
  | lnch (x : RMem)
  | setprio (x : S1)
  | govcfg (x : SS)
  | dlcfg (x : SH)
  | csetb (x : CsetbA)
  | cadd (x : CaddA)
  | csub (x : CsubA)
  | crestr (x : CrestrA)
  | cseal (x : CsealA)
  | cunseal (x : CsealA)
  | cgetb (x : CgetA)
  | cgetl (x : CgetA)
  | cgetp (x : CgetA)
  | ctag (x : CgetA)
  | cclr (x : CmovA)
  | cmov (x : CmovA)
  | lease (x : RMem)
  | lrev (x : SS)
  | xinv (x : SS)
  | icsync (x : ParkA)
  | imprd (x : ImprdA)
  | plate (x : PlateA)
  | prnew (x : SS)
  | prset (x : SH)
  | prpass (x : SH)
  | prcan (x : SH)
  | prst (x : SSP)
  | prorv (x : ProrvA)
  | preempt (x : SSS)
  | resume (x : SSS)
  | freeze (x : SSP)
  /-- A write of a submission queue's PUTS announces records, or disables the queue if the value is invalid. (R457) -/
  | submissionDoorbell (part : Nat) (q : Nat) (puts : W32)
  /-- The dispatcher places a gang whole on neighbouring cores and makes its tasks READY. (R325) -/
  | gangDispatch (slot : Nat) (core : Nat) (offs : List Nat)
  /-- An SVC writes a frozen master's window or a save record; the write is ignored at other times. (R439) -/
  | windowWrite (die : Nat) (va : W64) (v : W64)
  /-- A page's home is moved to another die, leaving a forwarding pointer. (R204) -/
  | homeMove (part : Nat) (page : Nat) (die : Nat)
  /-- A request that reaches an old home is forwarded, and the reply corrects the sender's HLT. (R204) -/
  | requestForward (die : Nat) (part : Nat) (page : Nat)
  /-- An HLT miss is filled from the partition's home directory. (R355) -/
  | hltMissFill (die : Nat) (part : Nat) (page : Nat)
  /-- A flash write completes, or fails, and the page becomes CLEAN or DIRTY. (R358) -/
  | writebackFlashDone (part : Nat) (page : Nat) (ok : Bool)
  /-- The root of trust verifies an image and maps it executable, or refuses it with a code. (R380) -/
  | mapExecutable (r : MapReq)
  /-- An authenticated request raises the object fuse counter or the translator floor after purging and dropping stale code. (R381) -/
  | fuseRaise (floor : Bool) (v : Nat)
  /-- The pod's translation leader receives a request, translates, signs and multicasts the record. (R387) -/
  | translationRequest (key : TransKey)
  /-- A module checks a received translation record and caches it or discards it. (R387) -/
  | translationRecordReceive (r : TransRec)
  /-- A request to the leader with no reply within 2^26 cycles is given up, and the module translates for itself. (R458) -/
  | translationTimeout (key : TransKey)
  /-- The root of trust's patch service writes a logged BKPT patch into code. (R450) -/
  | codePatch (part : Nat) (va : W64) (w : W32)
  /-- The root of trust changes the partitioning of idle dies. (R345) -/
  | partitionChange (parts : List Nat)
  /-- SVCs bring up one die after another, and each die joins reduced service when its tests pass. (R451) -/
  | dieBringup (die : Nat) (ok : Bool)
  /-- A die's stack links finish training; its partition enters full service at the next edge. (R454) -/
  | hbmTrainingComplete (die : Nat) (ok : Bool)
  /-- An SVC's setting of a core-array island clock takes effect at a round edge. (R459) -/
  | islandClockSet (die : Nat) (k : Nat)
  /-- A write of SHARE to a stack's scan-share register, clamped to 10–90. (R179) -/
  | abucfgWrite (die : Nat) (v : W32)
  /-- A write to a control-block register that has no row of its own. (R7) -/
  | registerWrite (part : Nat) (va : W64) (v : W64)
  /-- A task issues a word whose (OP, F) pair is unassigned, such as an all-zero word or a region marker, and freezes with ILLEGAL. (R78) -/
  | unassignedOpcode (w : W32) (stage : Nat)
  /-- An instruction fetch fails its lease, X, UE or SVN check and the task freezes with the fetched address as PC. (R356) -/
  | fetchFault (cause : Nat) (va : W64)
  /-- A LEASE finishes mapping its pages, and for FILE pages reading them from storage; it adds the range and replies. (R366) -/
  | leaseComplete (id : Nat) (ok : Bool)
  /-- An error arises of itself in stored bits of memory, a tile, a q register or a queued command: single-bit errors are corrected on read and counted, and others leave the data poisoned. (R436) -/
  | uncorrectableError (site : ErrSite) (single : Bool)
  /-- The host writes records, rings or exported IMM memory over CXL.mem or PCIe posted writes. (R457) -/
  | hostMemoryWrite (part : Nat) (va : W64) (bytes : List (BitVec 8))
  /-- A module of the pod reads or writes a range of the partition's pod export table over the scale-up link. (R458) -/
  | podAccess (part : Nat) (va : W64) (wr : Bool) (bytes : List (BitVec 8))
  /-- A host, scale-up or storage port trains, fixing its generation, or loses its link. (R458) -/
  | portTraining (port : Port) (gen : Nat)
  /-- An SPDM 1.3 message arrives on the management port to open a session or to ask for a signed measurement. (R402) -/
  | spdmRequest (r : SpdmReq)
  /-- The VXE takes the command at the head of a task's queue, executes it and writes its results. (R126) `cur`: the position. -/
  | vxeExecute
  /-- The MXE walks the skip stream for one K-step of a job and, if the step is performed, checks its blocks and updates the tile. (R146) `cur`: the position. -/
  | mxeKstep
  /-- The MXE merges one slice image of an MMAS job into the tile. (R164) `cur`: the position. -/
  | mmasSlice
  /-- The MXE executes a whole ZZERO, ZLD, ZST, ZCVT, QSET or QPOS job. (R167) `cur`: the position. -/
  | mxeTileJob
  /-- The ATQ job reads the descriptor with acquire, checks it, writes the header and sends the slice requests. (R185) `cur`: the position. -/
  | atqExecute
  /-- A slice request that waited at the network interface takes a free place at its ABU. (R179) `cur`: the request. -/
  | abuRequestAccept
  /-- An ABU scans one slice of tokens and computes its maximum, sum and accumulator. (R177) `cur`: the request. -/
  | abuSliceScan
  /-- A slice record lands in the result area, and ARR is incremented. (R185) `cur`: the request. -/
  | abuRecordLand
  /-- The ATM job merges the records in slice order and writes the header and o. (R182) `cur`: the position. -/
  | atmExecute
  /-- The KVAPP job reserves tokens at the descriptor's home and copies the rows. (R189) `cur`: the position. -/
  | kvappExecute
  /-- Once every row is applied and LEN equals p, the job adds count to LEN with release and writes sd. (R189) `cur`: the position. -/
  | kvappPublish
  /-- The KVDESC job writes the 64-byte descriptor in one access. (R191) `cur`: the position. -/
  | kvdescExecute
  /-- The memory-side unit completes the publication of a killed launch's reservation with poisoned rows. (R190) `cur`: the request. -/
  | killedKvappComplete
  /-- The CPE performs one 4 KiB chunk of a copy, or ends the copy as failed on an uncorrectable error. (R224) `cur`: the position. -/
  | cpeChunk
  /-- A bank mode switch completes its write-back and clearing, and the bank takes its new mode. (R200) `cur`: the bank. -/
  | bankSwitchComplete
  /-- A replica die applies a push, replacing the replica whole. (R206) `cur`, `arg`: number, die. -/
  | haloPushApply
  /-- Slot 15 of the owner core serves a remote LS access message with the built-in handler. (R209) `cur`: the core. -/
  | activeMessageServe
  /-- Slot 15 takes an AMSG from its arrival queue and starts the program's handler with the stated entry state. (R210) `cur`: the core. -/
  | handlerStart
  /-- The handler's reply reaches the sender and completes its AMSG. (R227) `cur`: the request. -/
  | amsgReply
  /-- A FENCE or release probe echoes once its destination has performed the task's earlier writes. (R251) `cur`, `arg`: position, destination bit. -/
  | fenceProbeEcho
  /-- The core re-reads a parked task's word, at least every 1,024 cycles, and wakes the task if the word changed. (R288) `cur`: the position. -/
  | parkReread
  /-- A FIFO bank performs a queue or circular-buffer request and sends its reply. (R293) `cur`: the request. -/
  | fifoPerform
  /-- The performing unit performs a non-local synchronisation instruction and replies to the parked task. (R299) `cur`: the request. -/
  | syncRemotePerform
  /-- After the span's latency, GEN of a closed generation advances on every core of the instance. (R307) `cur`: the instance. -/
  | barrierGenAdvance
  /-- The performing unit performs an AMO or AMOCAS indivisibly and returns the old value to sd. (R311) `cur`: the request. -/
  | amoPerform
  /-- The unit performs a reduction and acknowledges it, freeing the request slot and retiring the PEND entry. (R312) `cur`: the request. -/
  | redPerform
  /-- The dispatcher takes a launch record, checks it and creates the launch or refuses it. (R321) `cur`, `arg`: partition, submission queue. -/
  | dispatchTakeRecord
  /-- A free slot on a stage core takes an item from the stage ring and creates a task. (R328) `cur`, `arg`: launch slot, core. -/
  | stageItemTake
  /-- A gang that has stayed unplaceable beyond the stall limit causes a STALL packet to an SVC. (R326) `cur`, `arg`: launch slot, core. -/
  | stallReport
  /-- The round controller starts a new round on its timer or on demand and sends markers. (R331) -/
  | roundStart
  /-- A unit that has the marker on every input enters the new round and forwards it. (R331) `cur`: the unit. -/
  | roundMarkerArrival
  /-- At a round edge the proof table applies its cancels, then its passes, then the commits and aborts that are due. (R411) -/
  | roundEdgeApply
  /-- Every 4,096 cycles a reduction tree sweeps the message counts and idleness and may declare the launch's end. (R333) `cur`: the launch slot. -/
  | endSweep
  /-- The detector examines the wait-for relation and reports a cycle that has stood twice. (R334) `cur`: the partition. -/
  | deadlockExamine
  /-- The root of trust snapshots a plate at an edge and writes the signed report, ending with its first 8 bytes. (R399) `cur`: the request. -/
  | imprdReportWrite
  /-- An authenticated management request moves an open plate to CLOSING. (R393) `cur`: the plate. -/
  | plateCloseRequest
  /-- Once no live launch has PENDING on the plate, the closing statement is signed and the plate becomes FREE. (R393) `cur`: the plate. -/
  | plateCloseFinish
  /-- A checkpoint write completes durably, releasing the holds it covers. (R400) `cur`: the plate. -/
  | checkpointDurable
  /-- A checkpoint cannot be made durable; the holds remain and a STORAGE packet is written. (R401) `cur`: the plate. -/
  | checkpointFailure
  /-- The collector holds every core's acknowledgement and the pre-emption completes. (R440) `cur`: the request. -/
  | preemptComplete
  /-- The reply of a posted operation returns, writes its register, frees its request slot and may wake its task. (R280) `cur`: the request. -/
  | postedResultReturn
  /-- A parked task's wait count exceeds WLIM and the task freezes with cause WAITLIM. (R283) `cur`: the position. -/
  | waitlimExpiry
  /-- A task parked without a waiter record is reissued every 1,024 cycles. (R302) `cur`: the position. -/
  | recordlessReissue
  /-- A division's result is written after its wait of at most 20 cycles, and the task becomes eligible again. (R102) `cur`: the position. -/
  | divideResultWrite
  /-- Tokens held for a task are released 256 cycles after they arrive if the task has not used them. (R281) `cur`, `arg`: core, line. -/
  | persistentTokenRelease
  /-- A home or copy-holding die applies a write batch after its causal predecessors. (R203) `cur`, `arg`: number, die. -/
  | writeBatchApply
  /-- The home applies a masked write-back of dirty bytes. (R236) `cur`: the request. -/
  | writebackApply
  /-- At the end of a 2^20-cycle window a home decides whether to move a page. (R204) `cur`, `arg`: partition, page. -/
  | homeCountWindow
  /-- A GLOB page moves between HBM and the second tier with all its state. (R198) `cur`, `arg`: partition, page. -/
  | pageTierMigrate
  /-- Once the master's posted results have landed, the device writes a packet to the die's fault ring and advances PUTS. (R432) `cur`: the die. -/
  | faultPacketWrite
  /-- A page's staging copy ends and the page enters WRITING. (R358) `cur`, `arg`: partition, page. -/
  | writebackCopyDone
  /-- After power-on the module verifies firmware, reads fuses and brings up the dies in order. (R451) -/
  | powerOn
  /-- Power is lost; plate counters later resume at their checkpoint plus the reserve, and the carries rise. (R400) -/
  | powerLoss
  /-- The host sets the module power cap over the management port, clamped to its range. (R459) `cur`: the watts. -/
  | powerCapSet
  /-- At each 10 ms window the SVCs compare the averaged power with the cap and lower clocks or hold placements. (R459) `cur`: the watts. -/
  | powerWindow
  /-- A fill or token transfer started for a GLOB line lands in the core's L1 and wakes the tasks parked on that line. (R282) `cur`, `arg`: core, line. -/
  | lineFill
  /-- The proof table performs a PRNEW, PRSET, PRPASS, PRCAN or PRST and replies to the parked task. (R422) `cur`: the request. -/
  | proofTableReply
  /-- The partition's collector performs a PREEMPT, RESUME or FREEZE request and replies to the parked SVC. (R444) `cur`: the request. -/
  | collectorPerform
  /-- After every core has acknowledged and the overlapping running jobs have completed, LREV completes and replies. (R367) `cur`: the request. -/
  | lrevComplete
  /-- XINV completes its unmapping, shoot-down and freeing, and replies. (R368) `cur`: the request. -/
  | xinvComplete
  /-- The last core within scope acknowledges that it has dropped the code range, and the parked ICSYNC completes. (R389) `cur`: the request. -/
  | icsyncComplete
  /-- The root of trust performs a PLATE, opening the plate if needed, and replies with the plate capability or FALSE. (R394) `cur`: the request. -/
  | plateComplete
  /-- Every replica of a declared or removed halo region has been established or removed, and HALO returns. (R230) `cur`: the request. -/
  | haloComplete
  deriving DecidableEq, Repr

end Sys2Proof
end

