-- ==== Sys2Proof/Machine/State.lean ====
section
/-! DEFINITION. The state of the module, as plain data. A master (a task, a handler or a supervisor core) is named by its
position: 16 * core + slot for a slot of a compute core, with core = 256 * die + 16 * cluster + core number, and
131072 + 4 * die + n for supervisor core n of a die. -/

namespace Sys2Proof.Machine

/-- Bytes by key. One key space holds every byte of the module: data bytes, and beside them the block format
descriptors, hidden tags, full/empty bits and poison marks, which order as further bytes (R84, R232, R301, R352).
Rising keys, and no entry equal to 0, which is what an unlisted byte reads as (notes/assumptions/4.md). -/
abbrev Mem := List Host.Cell

/-- A capability: 128 bits and its hidden tag (R346). -/
structure Cap where
  bits : BitVec 128
  tag : Bool
  deriving DecidableEq, Repr

/-- The null capability (R346). -/
def Cap.null : Cap := { bits := 0, tag := false }

/-- A fault with its detail words (R435). -/
structure Flt where
  cause : Nat
  d0 : W64 := 0
  d1 : W64 := 0
  d2 : W64 := 0
  d3 : W64 := 0
  deriving DecidableEq, Repr

/-- What a load has read: its bytes, the tag of its granule, the descriptors of its blocks, and the blocks in error. -/
structure Img where
  bytes : List (BitVec 8)
  tag : Bool
  fmts : List (BitVec 16)
  bad : List Nat
  deriving DecidableEq, Repr

/-- A register write that a reply carries (R280). -/
inductive RegW where
  | s (r : Nat) (v : W64)
  | v (r : Nat) (x : W1024)
  /-- the byte lanes of `mk` alone -/
  | vm (r : Nat) (mk : W128) (x : W1024)
  | c (r : Nat) (x : Cap)
  | o (x : BitVec 4)
  deriving DecidableEq, Repr

/-- A memory operand as a job or request keeps it: the space of its capability and the effective address (R195). -/
structure Opd where
  sp : Nat
  ea : W64
  deriving DecidableEq, Repr

/-- A footprint range [lo, hi) in one space (R207), with the operand and the cursor of the capability that it was checked against
(R435). -/
structure Fp where
  sp : Nat
  lo : Nat
  hi : Nat
  opn : Nat := 0
  cur : W64 := 0
  deriving DecidableEq, Repr

/-- What an accepted engine job does (R124, R163-R169, R185-R191, R223). -/
inductive JobK where
  /-- a vector instruction, with its sampled s operands -/
  | vxe (i : Instr) (a b : W64)
  | mma (z : Nat) (a b : Opd) (sa sb m n k : Nat) (ta tb : Bool) (mcm mc : Nat) (q : Option Nat) (bgs : Bool)
  /-- slice images at `a`, `stride` apart, merged into tile z over m rows and n columns -/
  | mmas (z : Nat) (a : Opd) (stride m n k rowStride : Nat)
  /-- ZZERO, ZLD, ZST, ZCVT, QSET, QPOS: bound tiles, the memory operand, a sampled register -/
  | tile (i : Instr) (zd za : Nat) (mem : Opd) (x : W64)
  /-- rows of `len` bytes; a flat copy is one row. `blk`: whole blocks are copied with their descriptors -/
  | copy (dst src : Opd) (rows len drs srs : Nat) (blk : Bool)
  | atq (cR cD cQ : Cap) (ea : W64)
  | atm (cR : Cap) (ea : W64)
  | kvapp (sd : Nat) (cD : Cap) (ea : W64) (cS : Cap) (count : W64)
  | kvdesc (ea : W64) (cK : Cap) (par : BitVec 128)
  deriving DecidableEq, Repr

/-- A descriptor as an ATQ read it (R173). -/
structure Desc where
  kv : Cap
  sstr : Nat
  nsl : Nat
  cap : Nat
  kew : Nat
  vew : Nat
  dim : Nat
  sc : W32
  res : Nat
  len : Nat
  deriving DecidableEq, Repr

/-- An accepted job in an engine queue. -/
structure Job where
  k : JobK
  /-- the PC of its instruction, for a fault packet (R158) -/
  pc : W64
  /-- acceptance order on the core (R207) -/
  ord : Nat
  /-- the proof under which it reads and writes (R160, R414) -/
  proof : Nat
  /-- the proof id of its acceptance, which stays in use while it is queued (R414) -/
  acc : Nat
  /-- its proof was cancelled: transactional writes are dropped (R414) -/
  dead : Bool
  /-- declared units completed: K-steps, slices, chunks, rows (R440) -/
  unit : Nat
  /-- stopped by a fault of the job (R158) -/
  held : Bool
  /-- the queue entry holds an uncorrectable error (R435) -/
  bad : Bool
  rd : List Fp
  wr : List Fp
  /-- plate blocks already counted (R161) -/
  seen : List Nat
  /-- KVAPP's reservation p, and the descriptor as it was read and checked (R189) -/
  res : Option Nat
  kd : Option Desc
  /-- the task's earlier accesses that must be performed before the job acts, by number (R207, R246) -/
  after : List Nat
  /-- cycle at which it came to the head of its queue (R125, R156) -/
  at' : Nat
  deriving DecidableEq, Repr

/-- An outstanding post of a task (R185). -/
structure Post where
  id : Nat
  ea : W64
  lim : Nat
  d : Desc
  np : Nat
  /-- the query's bytes and block descriptors as read -/
  q : List (BitVec 8)
  qfmt : List (BitVec 16)
  /-- slices whose records have landed -/
  landed : List Nat
  /-- acceptance order of its ATQ on the core (R183, R207) -/
  ord : Nat
  deriving DecidableEq, Repr

/-- What a parked task waits on (R282). -/
inductive Park where
  | none
  /-- a switch marker: the instruction has taken effect (R274) -/
  | marker
  /-- the reply of a request already sent (R299) -/
  | reply
  /-- a request slot of the core, toward a bank (R278) -/
  | slot (bank : Nat)
  /-- a bank switch, a job's blocks, or a line in transfer (BUSY) -/
  | busy
  | line (l : Nat)
  /-- a queue or circular buffer: `full` when waiting for space -/
  | queue (key : Nat) (full : Bool)
  | engine (e : Nat)
  | copies (k : Nat)
  | engwait (mask : Nat)
  | posts
  | area (ea : W64)
  | red (k : Nat)
  /-- PARK: the word's key, the value waited against, and the instruction's form (R287) -/
  | word (key : Nat) (v : W32) (h : Pl)
  /-- a full/empty word: 0 LDSY and 3 LDPK wait for full, 1 STSY for empty, 2 for any write; `own` when a waiter record is held (R302) -/
  | fe (key : Nat) (c : Nat) (own : Bool)
  | bar (key : Nat)
  | tag (key : Nat)
  /-- FENCE at a scope (R251) -/
  | fence (scope : BitVec 3)
  /-- the instruction waits for earlier accesses (R216, R234, R299) -/
  | release
  /-- an access to a window waits until the frozen master at a position has settled (R32, R439) -/
  | window (pos : Nat)
  | gang
  | lnch
  | halo
  | imprd
  /-- the proof table; woken at each round edge (R422) -/
  | table
  | lease
  | preempt
  | resume
  deriving DecidableEq, Repr

inductive MKind where
  | empty | task | svc | handler
  deriving DecidableEq, Repr

/-- READY, PARKED or FROZEN (R29). A RETIRED task leaves its slot; a SAVED one stands in a save record. -/
inductive MSt where
  | ready | parked | frozen
  deriving DecidableEq, Repr

/-- The remote LS value that a task keeps (R213). -/
structure Kept where
  ea : W64
  img : Img
  deriving DecidableEq, Repr

/-- A task, handler or supervisor core: R17, R21-R27 and the hidden state the rules give it. -/
structure Master where
  kind : MKind
  st : MSt
  /-- s1-s63 (R17); s0 is never listed -/
  s : Tab W64
  v : Tab W1024
  /-- m1-m7 -/
  m : Tab W128
  /-- c1-c15 -/
  c : Tab Cap
  q : Tab W64
  o : BitVec 4
  pc : W64
  /-- the group's task index and the other identities (R22, R23, R323) -/
  taskid : Nat
  grpid : Nat
  gangid : Nat
  coord : W64
  /-- launch slot and generation (R24); generation 0: no launch -/
  lslot : Nat
  lgen : Nat
  stage : Nat
  proof : Nat
  orphv : W64
  wlim : BitVec 32
  rlim : BitVec 8
  pend : Nat
  tbmask : W64
  errst : BitVec 4
  lsbase : Nat
  lssize : Nat
  zbase : Nat
  zcount : Nat
  prio : Nat
  slice : Nat
  nslice : Nat
  /-- orphaned, with the proof that PROOF would receive (R415) -/
  orphan : Option Nat
  park : Park
  /-- order of parking, kept through re-parks on the same object, and that object (R282) -/
  place : Nat
  was : Park
  /-- kept wait count and the cycle it last began to run (R31, R283) -/
  wait : Nat
  since : Nat
  /-- the outcome and the object's address that parked it, for WAITLIM's packet (R435) -/
  parkO : BitVec 4
  parkA : W64
  /-- hardware reissues made of the instruction at the PC (R275) -/
  tries : Nat
  /-- a request slot is reserved for its reissue, toward this bank (R278) -/
  resv : Option Nat
  /-- first cycle in which it may issue again (R28) -/
  issued : Nat
  /-- its instruction has been sent, and the reply completes it: on a FIFO bank with the task ineligible (R293), elsewhere
  with the task parked on the reply (R299) -/
  await : Bool
  /-- result awaited after a division, and when it lands (R102) -/
  div : Option (Nat × W64)
  /-- slots that a YIELD waits for (R286) -/
  yield : List Nat
  /-- copies accepted, complete, failed; a failure not yet reported (R226) -/
  cAcc : Nat
  cDone : Nat
  cFail : Nat
  cRep : Bool
  /-- a RED has failed and not been reported by REDW (R313) -/
  rRep : Bool
  posts : List Post
  kept : Option Kept
  vxe : List Job
  mxe : List Job
  cpe : List Job
  att : List Job
  /-- failed hint-class attempts by line (R281) -/
  att8 : Tab Nat
  /-- TBMASK bits whose probes have not echoed while a FENCE waits (R251) -/
  probes : W64
  /-- EXIT has issued and the slot frees when everything has landed (R338) -/
  exiting : Bool
  /-- instructions issued by a handler, and the AMSG it serves (R210) -/
  hcount : Nat
  hreq : Nat
  /-- ZSEL of the window (R438) -/
  zsel : Nat
  /-- q registers that hold an uncorrectable error (R435) -/
  qbad : List Nat
  /-- the PREEMPT that is saving it: it issues no more (R440) -/
  saving : Option Nat
  /-- frozen by a fault, not by FREEZE (R211, R447) -/
  flt : Bool
  /-- it has been resumed PARKED and its condition is still to be examined (R283) -/
  exam : Bool
  /-- the cycle in which it last became READY, and the number of its group, which no other group has (R334) -/
  woke : Nat
  gno : Nat
  deriving DecidableEq, Repr

/-- An empty slot; every register 0 (R19). -/
def Master.empty : Master :=
  { kind := .empty, st := .frozen, s := [], v := [], m := [], c := [], q := [], o := 0, pc := 0
    taskid := 0, grpid := 0, gangid := 0, coord := 0, lslot := 0, lgen := 0, stage := 0, proof := 0
    orphv := 0, wlim := 0x00100000, rlim := 16, pend := 0, tbmask := 0, errst := 0, lsbase := 0, lssize := 0
    zbase := 0, zcount := 0, prio := 0, slice := 0, nslice := 0, orphan := none
    park := .none, place := 0, was := .none, wait := 0, since := 0, parkO := 0, parkA := 0, tries := 0, resv := none, issued := 0
    await := false, div := none, yield := [], cAcc := 0, cDone := 0, cFail := 0, cRep := false, rRep := false, posts := []
    kept := none, vxe := [], mxe := [], cpe := [], att := [], att8 := [], probes := 0, exiting := false
    hcount := 0, hreq := 0, zsel := 0, qbad := [], saving := none, flt := false, exam := false, woke := 0, gno := 0 }

/-- A fault packet before it stands in a ring (R434). -/
structure Packet where
  /-- the master whose posted results must land first, if one is named -/
  pos : Option Nat
  type : Nat
  eng : Nat
  cause : Nat
  pc : W64
  d0 : W64
  d1 : W64
  d2 : W64
  d3 : W64
  proof : Nat
  lnch : Nat
  round : Nat
  die : Nat
  clu : Nat
  core : Nat
  slot : Nat
  svc : Bool
  /-- it stands directly behind the packet before it: a further packet of one report (R437) -/
  cont : Bool := false
  /-- what its master had under way at the fault and must have landed first, should the master be resumed before (R32): requests and
  started scans, and jobs by acceptance order -/
  first : List Nat := []
  jobs : List Nat := []
  deriving DecidableEq, Repr

/-- What happens when a request is performed or returns (R280, R299). -/
inductive ReqK where
  /-- a load or another posted result: the writes that land, and a fault that it met; in a try mode (`try'`) an uncorrectable
  error is the outcome ERR (R214) -/
  | land (ws : List RegW) (flt : Option Flt) (try' : Bool)
  /-- a store's acknowledgement -/
  | ack
  /-- an instruction performed at another unit: the operand key, its capability and the sampled registers -/
  | unit (i : Instr) (key : Nat) (mem : Opd) (c : Cap) (a b : W64) (v : W1024)
  /-- the same, performed and with its register writes ready; the reply is on its way -/
  | done (ws : List RegW)
  /-- an accepted PRPASS or PRCAN, until the edge that applies it (R425) -/
  | resolve
  deriving DecidableEq, Repr

/-- A posted request (R278). -/
structure Req where
  id : Nat
  pos : Nat
  /-- PC of its instruction -/
  pc : W64
  /-- it holds one of the core's 48 request slots -/
  slot : Bool
  /-- where it goes: a byte's key, or `ctlKey` -/
  key : Nat
  bank : Nat
  /-- a switch marker waits for it (R274) -/
  mark : Bool
  k : ReqK
  /-- latest cycle of its return (R280) -/
  due : Nat
  lslot : Nat
  /-- write batches that must be applied before it is performed (R216) -/
  after : List Nat
  /-- a try-mode load of a remote LS whose value will not be kept (R213) -/
  drop : Bool
  /-- what a posted load reads, as (key, bytes), and its proof -/
  ext : List (Nat × Nat) := []
  proof : Nat := 0
  deriving DecidableEq, Repr

/-- A write that has not reached its home (R203), or a release that waits for earlier writes (R216). -/
structure Batch where
  id : Nat
  src : Nat
  pos : Nat
  lslot : Nat
  home : Nat
  chan : Nat
  cells : List Host.Cell
  /-- the proof of a held release to a transactional page (R407) -/
  proof : Nat
  after : List Nat
  /-- not yet performed in the writer's die: only the issuer sees it (R216, R237) -/
  hold : Bool
  /-- applied at the home -/
  applied : Bool
  /-- dies with a copy that have not applied it -/
  todo : List Nat
  /-- the request it acknowledges -/
  req : Nat
  /-- a halo push: the strips replace the replicas whole (R206) -/
  push : Bool
  deriving DecidableEq, Repr

/-- A part of a core's LS granted to a group (R14, R324). -/
structure Alloc where
  lslot : Nat
  gang : Nat
  grp : Nat
  base : Nat
  size : Nat
  /-- pinned by saved tasks (R441) -/
  pinned : Bool
  /-- the number of its group -/
  gno : Nat := 0
  deriving DecidableEq, Repr

/-- A core's persistent request for a GLOB line, for the task at a position: the cycle of its issue or, once the tokens have come
(`got`), of their arrival (R202, R281). -/
structure Pers where
  line : Nat
  pos : Nat
  at' : Nat
  got : Bool
  deriving DecidableEq, Repr

structure Core where
  allocs : List Alloc
  /-- owner of each physical tile, position + 1 (R27, R35) -/
  tiles : Tab Nat
  /-- tokens held by the L1, by GLOB line; a listed line is valid (R201) -/
  l1 : Tab Nat
  /-- lines with a transient request outstanding: the line, whether it asks for every token, and the latest cycle of its arrival -/
  fills : List (Nat × Bool × Nat)
  pers : List Pers
  /-- rotation pointer (R273) -/
  rr : Nat
  /-- first cycle in which the core may issue again, and in which slot 15 may (R28, R273) -/
  next : Nat
  hnd : Nat
  /-- slot whose turn at the MXE is next (R156) -/
  mxr : Nat
  /-- accepted jobs so far (R207) -/
  ord : Nat
  /-- stage to which a launch's core is assigned: (launch slot, stage) (R328) -/
  stage : List (Nat × Nat)
  /-- messages sent and received, by launch slot (R333) -/
  sent : Tab Nat
  recv : Tab Nat
  deriving DecidableEq, Repr

def Core.empty : Core :=
  { allocs := [], tiles := [], l1 := [], fills := [], pers := [], rr := 0, next := 0, hnd := 0, mxr := 0, ord := 0, stage := [], sent := [], recv := [] }

/-- A cluster bank (R199, R314). -/
structure Bank where
  /-- 0 cache, 1 scratchpad, 2 FIFO -/
  mode : Nat
  /-- mode switches in arrival order, by request and mode; the first is in progress (R200) -/
  sw : List (Nat × Nat)
  fill : Nat
  held : Nat
  free : Nat
  wpos : Nat
  rpos : Nat
  /-- tokens held by a bank in cache mode, by GLOB line (R199, R201) -/
  lines : Tab Nat
  deriving DecidableEq, Repr

def Bank.empty : Bank := { mode := 0, sw := [], fill := 0, held := 0, free := 0, wpos := 0, rpos := 0, lines := [] }

/-- A barrier tag's instance (R307). -/
structure Bar where
  owner : Option Nat
  count : Nat
  arr : Nat
  gen : Nat
  /-- cycles at which generations closed whose GEN is not yet visible, oldest first -/
  closed : List Nat
  deriving DecidableEq, Repr

def Bar.empty : Bar := { owner := none, count := 0, arr := 0, gen := 0, closed := [] }

/-- A mapped page (R353, R365). -/
structure Page where
  psz : Nat
  w : Bool
  x : Bool
  pl : Bool
  imm : Bool
  ms : Bool
  abu : Bool
  file : Bool
  hpin : Bool
  tier : Nat
  home : Nat
  nsid : Nat
  flba : Nat
  /-- it stands in the second tier now -/
  t2 : Bool
  /-- 0 CLEAN, 1 DIRTY, 2 COPYING, 3 WRITING (R358) -/
  wb : Nat
  /-- a commit wrote the page while WRITING -/
  again : Bool
  /-- order in which it became dirty -/
  dord : Nat
  /-- SVN recorded at mapping (65,536: none, a page that LEASE alone mapped), and the mark of R381 -/
  svn : Nat
  stale : Bool
  /-- object and TSVN recorded (R380) -/
  tsvn : Option Nat
  /-- a control page or window page that the root of trust maps (R438, R455) -/
  ctl : Bool
  /-- dies whose HLT still names an old home (R204) -/
  fwd : List Nat
  /-- addresses of the kernel headers of the mapped image that lie on it (R372) -/
  hdrs : List Nat := []
  /-- the code segment of that image: its first address and the one behind its last (R371) -/
  seg : Option (Nat × Nat) := none
  deriving DecidableEq, Repr

/-- A range of a lease (R357). -/
structure Rng where
  lease : Nat
  base : Nat
  len : Nat
  /-- an LREV of it has started (R367) -/
  rev : Bool
  deriving DecidableEq, Repr

/-- A live proof (R405, R410). -/
structure Proof where
  lslot : Nat
  parent : Nat
  depth : Nat
  /-- 0 OPEN, 1 PASSING, 2 CANCELLING -/
  st : Nat
  /-- order in which its pass was accepted -/
  ord : Nat
  deriving DecidableEq, Repr

inductive LSt where
  | running | doomed | ending | aborting
  deriving DecidableEq, Repr

/-- A range of a footprint (R320). -/
structure Foot where
  lo : Nat
  hi : Nat
  write : Bool
  deriving DecidableEq, Repr

/-- Gangs not yet dispatched: the record's own or a GANG's, first id, count, c1 (R336). -/
structure GangReq where
  own : Bool
  first : Nat
  count : Nat
  arg : Cap
  deriving DecidableEq, Repr

/-- A stage table entry with the governor's count (R329, R330). -/
structure Stage where
  addr : W64
  kind : Nat
  cores : Nat
  high : Nat
  low : Nat
  w : Nat
  above : Nat
  /-- cores first assigned to it so far (R328) -/
  got : Nat
  deriving DecidableEq, Repr

/-- A deferred LNCH (R339). -/
structure Defer where
  proof : Nat
  img : BitVec 1024
  tag : Bool
  deriving DecidableEq, Repr

/-- A declared halo region (R230). -/
structure Halo where
  lo : Nat
  hi : Nat
  ts : Nat
  hw : Nat
  /-- owner die of each tile at the declaration -/
  own : List Nat
  deriving DecidableEq, Repr

/-- A live launch (R320-R339, R417). -/
structure Launch where
  st : LSt
  gen : Nat
  part : Nat
  /-- the queue whose completion ring takes its entry -/
  sq : Nat
  usertag : Nat
  compat : Bool
  lease : Nat
  prio : Nat
  arg : Cap
  entry : W64
  root : Nat
  gx : Nat
  gy : Nat
  gpg : Nat
  tpg : Nat
  pmode : Nat
  pdie : Nat
  pclu : Nat
  pcore : Nat
  stage : Nat
  nslice : Nat
  /-- from the kernel's header (R372) -/
  slots : Nat
  lsb : Nat
  zacc : Nat
  hash : BitVec 384
  foot : List Foot
  /-- shadow budget and use, in bytes (R409) -/
  budget : Nat
  use : Nat
  /-- highest GANGID + 1 -/
  gangs : Nat
  greqs : List GangReq
  stages : List Stage
  /-- the cluster of its FIFO bank rings: that of its first gang (R329) -/
  clu : Option Nat
  gov : Bool
  /-- GOVCFG settings that the next edge applies (R341) -/
  govNew : List (Nat × Nat × Nat × Nat × Bool)
  defers : List Defer
  halos : List Halo
  /-- PENDING by plate * 64 + slot (R393), and the slot bound by plate (R395) -/
  pend : Tab Nat
  bound : Tab Nat
  /-- order in which the dispatcher took it, and its end was declared -/
  ord : Nat
  endAt : Nat
  /-- the sums of the last sweep that found it idle (R333) -/
  sweep : Option Nat
  /-- cycle since which its next gang has not been placeable, and the cycle of the last report of it (R326) -/
  stall : Nat
  stallRep : Option Nat
  /-- the cycle of the last SETPRIO, and the priority before that cycle (R342) -/
  prioAt : Option (Nat × Nat) := none
  deriving DecidableEq, Repr

/-- A record taken by the dispatcher that waits (R321, R325, R327). -/
structure Waiting where
  part : Nat
  sq : Nat
  img : BitVec 1024
  tag : Bool
  ord : Nat
  deriving DecidableEq, Repr

/-- A save record (R441). -/
structure Save where
  m : Master
  core : Nat
  /-- the round at whose edge it was saved -/
  edge : Nat
  /-- its resolutions that the next edge applies, by request (R425) -/
  res : List Nat
  /-- its group's LS allocation stayed on the core -/
  pinned : Bool
  /-- the allocation and its bytes, when they left the core -/
  alloc : Option Alloc
  ls : List Host.Cell
  /-- its tiles by task tile * 1024 + element, their tags, and the tiles in error -/
  tiles : Tab W32
  ztags : List Bool
  zbad : List Nat
  deriving DecidableEq, Repr

/-- An accepted PREEMPT (R445). -/
structure Pre where
  /-- its request -/
  id : Nat
  sel : Nat
  kill : Bool
  /-- the position, or the core, that it selects -/
  pos : Nat
  lslot : Nat
  /-- its edge has passed; acknowledgements are gathered -/
  done : Bool
  /-- the round of that edge -/
  edge : Nat
  /-- tasks selected, or retired -/
  count : Nat
  deriving DecidableEq, Repr

/-- A submission queue header (R457). -/
structure SubQ where
  puts : Nat
  gets : Nat
  cputs : Nat
  log2cap : Nat
  ring : W64
  cring : W64
  /-- the host's read index of the completion ring -/
  hidx : Nat
  deriving DecidableEq, Repr

def SubQ.empty : SubQ := { puts := 0, gets := 0, cputs := 0, log2cap := 0, ring := 0, cring := 0, hidx := 0 }

/-- A partition (R345). -/
structure Part where
  dies : List Nat
  /-- in full service (R454) -/
  full : Bool
  sq : Tab SubQ
  /-- detector: enabled, period, stall limit, die and number of the SVC (R341) -/
  dlEn : Bool
  dlPer : Nat
  dlStall : Nat
  dlDie : Nat
  dlSvc : Nat
  /-- cycles of groups seen at the last examination, and reported ones: each group with its number and the cycles in which its tasks
  last woke (R334) -/
  dlSeen : List (List (List Nat))
  dlRep : List (List (List Nat))
  /-- round of the last examination -/
  dlAt : Nat
  pres : List Pre
  /-- by priority level: the locality bin being drained, and the order before which its records were there (R325) -/
  bins : Tab (Nat × Nat)
  /-- records waiting, in order of taking -/
  waiting : List Waiting
  /-- halo regions that the partition's supervisor cores have declared (R230) -/
  halos : List Halo := []
  deriving DecidableEq, Repr

def Part.empty : Part :=
  { dies := [], full := false, sq := [], dlEn := false, dlPer := 4, dlStall := 64, dlDie := 0, dlSvc := 0, dlSeen := []
    dlRep := [], dlAt := 0, pres := [], bins := [], waiting := [] }

/-- A die (R12, R451-R459). -/
structure Die where
  joined : Bool
  full : Bool
  failed : Bool
  part : Nat
  /-- cycles at which it joined, for CYC (R22) -/
  born : Nat
  /-- packets not yet in the ring, oldest first (R432, R433), and the next SEQ -/
  pkts : List Packet
  seq : Nat
  /-- island clock step, and the step that the next edge sets (R459) -/
  clk : Nat
  clkNew : Option Nat
  /-- SHARE (R179) -/
  share : Nat
  /-- corrected-error counters (R455) -/
  eSram : Nat
  eHbm : Nat
  eTier2 : Nat
  eLink : Nat
  deriving DecidableEq, Repr

def Die.empty : Die :=
  { joined := false, full := false, failed := false, part := 0, born := 0, pkts := [], seq := 0, clk := 0, clkNew := none
    share := 75, eSram := 0, eHbm := 0, eTier2 := 0, eLink := 0 }

/-- A kernel slot of a plate (R393). -/
structure PSlot where
  hash : BitVec 384
  struck : Nat
  spoiled : Nat
  carryS : Nat
  carryP : Nat
  sat : Bool
  /-- values in the last durable checkpoint (R400) -/
  ckS : Nat
  ckP : Nat
  deriving DecidableEq, Repr

/-- A plate table entry (R393). -/
structure Plate where
  /-- 0 FREE, 1 OPEN, 2 CLOSING -/
  st : Nat
  gen : Nat
  part : Nat
  base : Nat
  top : Nat
  slots : Tab PSlot
  /-- a checkpoint snapshot in flight: its counters by slot (R400) -/
  ck : Option (List (Nat × Nat × Nat))
  ckAt : Nat
  /-- a checkpoint failed and is retried; last STORAGE packet (R401) -/
  ckFail : Bool
  ckRep : Nat
  /-- the record that the checkpoint in flight writes -/
  ckRec : List (BitVec 8)
  /-- bytes 0-6271 of the closing statement, once an edge has taken it (R398) -/
  fin : Option (List (BitVec 8))
  deriving DecidableEq, Repr

def Plate.empty : Plate :=
  { st := 0, gen := 0, part := 0, base := 0, top := 0, slots := [], ck := none, ckAt := 0, ckFail := false, ckRep := 0, ckRec := [], fin := none }

/-- An IMPRD request (R399). -/
structure Report where
  id : Nat
  part : Nat
  /-- key of its first byte; in an LS, the launch, gang and group of the allocation that holds it -/
  dst : Nat
  lslot : Nat
  gang : Nat
  grp : Nat
  plate : Nat
  nonce : W64
  /-- bytes 0-6271 of the snapshot, once an edge has taken it -/
  snap : Option (List (BitVec 8))
  /-- cycle of the snapshot -/
  snapAt : Nat
  deriving DecidableEq, Repr

/-- A slice scan on its way to or in an ABU, or done with its record (R177-R180). -/
structure Scan where
  id : Nat
  pos : Nat
  post : Nat
  slice : Nat
  abu : Nat
  /-- accepted by the ABU; otherwise it waits at the network interface -/
  acc : Bool
  /-- writes that its ATQ may have observed and that reach the home before it reads there (R241) -/
  after : List Nat
  /-- record and accumulator bytes when scanned -/
  img : Option (List (BitVec 8))
  deriving DecidableEq, Repr

/-- A reservation of a killed launch that the memory-side unit completes (R190). -/
structure Orphaned where
  id : Nat
  lnch : Nat
  part : Nat
  desc : Nat
  d : Desc
  p : Nat
  count : Nat
  rows : Nat
  /-- accesses of the killed task that are performed before LEN advances, by number -/
  after : List Nat
  deriving DecidableEq, Repr

/-- Groups that last put to and took from a ring, newest first (R334). -/
structure Ring where
  puts : List Nat
  takes : List Nat
  deriving DecidableEq, Repr

def Ring.empty : Ring := { puts := [], takes := [] }

/-- A cached translation (R387). -/
structure Trans where
  r : TransRec
  deriving DecidableEq, Repr

/-- A code word that a debug patch changed: a core may still hold the former word until an ICSYNC drops it there (R389). -/
structure Patched where
  id : Nat
  part : Nat
  va : Nat
  old : W32
  /-- where it has been dropped: level (1 core, 2 cluster, 3 die) and number -/
  drops : List (Nat × Nat)
  deriving DecidableEq, Repr

/-- The root of trust (R344, R381, R402, R451). -/
structure Rot where
  /-- the module has come up, and the die that holds the root of trust -/
  on : Bool
  die : Nat
  objFuse : Nat
  floor : Nat
  seq : Nat
  cache : List Trans
  /-- requests to the leader without a reply, with the cycle of sending -/
  asked : List (TransKey × Nat)
  /-- debug patches logged: partition, address, word -/
  patches : List (Nat × W64 × W32)
  /-- replies of the map-executable service, newest first: partition and code (R380) -/
  replies : List (Nat × Nat)
  /-- translation records discarded, newest first (R387) -/
  discards : List TransKey
  /-- SPDM sessions: client and its partition -/
  sessions : List (Nat × Nat)
  /-- statements signed: kind, plate and bytes, newest first -/
  stmts : List (Nat × Nat × List (BitVec 8))
  /-- measurement answers sent on the management port, and the codes of a failed start-up (0), newest first -/
  answers : List (Nat × List (BitVec 8))
  /-- the partition of each die, as the fuses or the last change of the partitions give it (R345, R451) -/
  layout : List Nat
  /-- what start-up has logged, newest first: a die and the step of R451 at which it failed -/
  log : List (Nat × Nat)
  /-- raises reported as complete, newest first: the translator floor, or the object fuse counter, and its value (R381) -/
  raises : List (Bool × Nat)
  /-- translations reported as failed, newest first (R379, R390) -/
  failed : List TransKey
  /-- the reserved region of the storage namespace: the last durable checkpoint by plate (R400) -/
  region : Tab (List (BitVec 8))
  /-- the replay-protected block: the record's SHA-384, its count and the reserve, by plate (R400) -/
  rpmb : Tab (BitVec 384 × Nat × Nat)
  deriving DecidableEq, Repr

/-- The round controller (R331). -/
structure Round where
  num : Nat
  /-- a start is under way; dies that have entered the new round -/
  opened : Bool
  entered : List Nat
  demand : Bool
  /-- cycle of the last start -/
  at' : Nat
  deriving DecidableEq, Repr

structure Power where
  cap : Nat
  /-- a cap that the next edge sets -/
  capNew : Option Nat
  hold : Bool
  watts : Nat
  deriving DecidableEq, Repr

/-- Ports by generation: 0 down (R458). -/
structure Ports where
  host : Nat
  cxl : Nat
  scale : Tab Nat
  storage : Nat
  deriving DecidableEq, Repr

/-- A step that another unit takes next, and who takes it. -/
structure Act where
  i : Instr
  cur : Nat
  arg : Nat
  deriving DecidableEq, Repr

/-- The whole module. -/
structure State where
  /-- who acts: the issuing master, or the acting unit; and what its step is about (Instr) -/
  cur : Nat
  arg : Nat
  /-- core clock cycles since power-on -/
  cyc : Nat
  /-- free values drawn so far -/
  free : Nat
  /-- steps taken so far: the model's own counter, by which `Config.order` chooses -/
  turn : Nat
  /-- steps of other units and of the outside that come next, in order -/
  agenda : List Act
  mem : Mem
  /-- versions: bytes tagged with each proof (R407); a listed byte is in the mask -/
  vers : Tab (Tab (BitVec 8))
  masters : Tab Master
  saves : Tab Save
  cores : Tab Core
  banks : Tab Bank
  bars : Tab Bar
  reqs : List Req
  nextReq : Nat
  nextPlace : Nat
  batches : List Batch
  /-- bytes that a die with a copy still reads, of memory and of versions (R235, R238), by die -/
  stale : Tab (Tab (BitVec 8))
  /-- dies that hold a copy of a GLOB line, by line key -/
  copies : Tab (List Nat)
  /-- halo replicas: bytes by holding die (R206) -/
  halo : Tab (Tab (BitVec 8))
  /-- tile elements by (core * 16 + tile) * 1024 + element, and tiles whose tag is INT32 (R140) -/
  tiles : Tab W32
  ztag : List Nat
  /-- tiles that hold an uncorrectable error (R435) -/
  zbad : List Nat
  launches : Tab Launch
  gens : Tab Nat
  proofs : Tab Proof
  /-- retired ids and the edges still to pass (R414) -/
  retired : Tab Nat
  round : Round
  parts : Tab Part
  dies : Tab Die
  pages : Tab Page
  /-- committed bytes of FILE pages staged for the flash write, by page (R358) -/
  staging : Tab (List (BitVec 8))
  /-- bytes that write-backs have put on the storage port's namespaces, by namespace * 2^76 + block * 4096 + byte (R358) -/
  flash : Tab (BitVec 8)
  ranges : Tab Rng
  /-- HLT entries by (die, partition, page) (R204, R355), and translation-cache entries -/
  hlt : Tab Nat
  tcache : List Nat
  /-- GLOB writes by die and page in the window (R204) -/
  wcount : Tab Nat
  plates : Tab Plate
  reports : List Report
  scans : List Scan
  orphaned : List Orphaned
  /-- former words of patched code (R389) -/
  patched : List Patched
  rings : Tab Ring
  rot : Rot
  power : Power
  ports : Ports
  deriving DecidableEq, Repr

/-- Why the machine stops: the specification gives every instruction an effect and every fault an entry, so the model
never stops with a fault and the type has no constructor. -/
inductive Fault where
  deriving DecidableEq, Repr

/-- Why a step has no meaning. -/
inductive Refusal where
  /-- an instruction without a meaning yet; raised by `exec` alone. Safe: nothing is claimed of it. -/
  | notModelled (mnemonic : String)
  deriving DecidableEq, Repr

/-- The module as power comes on, its first step being POWER_ON (R451): every slot empty, every bank in cache mode (R199), detector off with period 4 and
stall limit 64 (R341), SHARE 75 (R179), no plate (R393). -/
def State.reset : State :=
  { cur := 0, arg := 0, cyc := 0, free := 0, turn := 0, agenda := [{ i := .powerOn, cur := 0, arg := 0 }], mem := [], vers := [], masters := [], saves := [], cores := []
    banks := [], bars := [], reqs := [], nextReq := 1, nextPlace := 1, batches := [], stale := [], copies := []
    halo := [], tiles := [], ztag := [], zbad := [], launches := [], gens := [], proofs := [], retired := []
    round := { num := 0, opened := false, entered := [], demand := false, at' := 0 }
    parts := [], dies := [], pages := [], staging := [], flash := [], ranges := [], hlt := [], tcache := [], wcount := [], plates := []
    reports := [], scans := [], orphaned := [], patched := [], rings := []
    rot := { on := false, die := 0, objFuse := 0, floor := 0, seq := 0, cache := [], asked := [], patches := []
             replies := [], discards := [], sessions := [], stmts := [], answers := [], layout := [], log := [], raises := [], failed := []
             region := [], rpmb := [] }
    power := { cap := 12000, capNew := none, hold := false, watts := 0 }
    ports := { host := 0, cxl := 0, scale := [], storage := 0 } }

end Sys2Proof.Machine
end

