-- ==== Sys2Proof/Machine/Regs.lean ====
section
/-! DEFINITION. Masters and their registers: where a master stands, and the one reader and writer of each register file
(R17, R18). -/

namespace Sys2Proof.Machine

/-- Position of supervisor core 0 of die 0. -/
def svcBase : Nat := 131072

/-- The position of a task that a SAVE's edge has taken out of the slot at `pos`, while its results and jobs end: it stands by the
save record `key` that its PREEMPT gives it (R440, R441). -/
def savePos (key pos : Nat) : Nat := 2 ^ 24 * (key + 1) + pos
/-- The slot where a master stands, or stood until its SAVE's edge. -/
def homePos (pos : Nat) : Nat := pos % 2 ^ 24

/-- The compute core of a task's position. -/
def coreOf (pos : Nat) : Nat := homePos pos / 16
def slotOf (pos : Nat) : Nat := pos % 16
def isSvcPos (pos : Nat) : Bool := svcBase ≤ homePos pos
def clusterOf (pos : Nat) : Nat := homePos pos / 256
def dieOf (pos : Nat) : Nat := if svcBase ≤ homePos pos then (homePos pos - svcBase) / 4 else homePos pos / 4096

/-- The master at a position. -/
def State.ms (s : State) (pos : Nat) : Master := Tab.get Master.empty s.masters pos
/-- Replaces the master at a position. -/
def State.setM (s : State) (pos : Nat) (m : Master) : State :=
  { s with masters := Tab.set Master.empty s.masters pos m }
def State.updM (s : State) (pos : Nat) (f : Master → Master) : State := s.setM pos (f (s.ms pos))
/-- The issuing master. -/
def State.me (s : State) : Master := s.ms s.cur
def State.upd (s : State) (f : Master → Master) : State := s.updM s.cur f

/-- The launch slot that a master acts for; a supervisor core acts for itself, under its position (notes/assumptions/81.md). -/
def State.party (s : State) (pos : Nat) : Nat := if isSvcPos pos then pos else (s.ms pos).lslot

def State.core (s : State) (n : Nat) : Core := Tab.get Core.empty s.cores n
def State.setCore (s : State) (n : Nat) (c : Core) : State := { s with cores := Tab.set Core.empty s.cores n c }
def State.updCore (s : State) (n : Nat) (f : Core → Core) : State := s.setCore n (f (s.core n))
def State.bank (s : State) (n : Nat) : Bank := Tab.get Bank.empty s.banks n
def State.setBank (s : State) (n : Nat) (b : Bank) : State := { s with banks := Tab.set Bank.empty s.banks n b }
def State.die (s : State) (d : Nat) : Die := Tab.get Die.empty s.dies d
def State.setDie (s : State) (d : Nat) (x : Die) : State := { s with dies := Tab.set Die.empty s.dies d x }
def State.updDie (s : State) (d : Nat) (f : Die → Die) : State := s.setDie d (f (s.die d))
def State.part (s : State) (p : Nat) : Part := Tab.get Part.empty s.parts p
def State.setPart (s : State) (p : Nat) (x : Part) : State := { s with parts := Tab.set Part.empty s.parts p x }
def State.updPart (s : State) (p : Nat) (f : Part → Part) : State := s.setPart p (f (s.part p))
def State.plate (s : State) (n : Nat) : Plate := Tab.get Plate.empty s.plates n
def State.setPlate (s : State) (n : Nat) (x : Plate) : State := { s with plates := Tab.set Plate.empty s.plates n x }
def State.bar (s : State) (n : Nat) : Bar := Tab.get Bar.empty s.bars n
def State.setBar (s : State) (n : Nat) (x : Bar) : State := { s with bars := Tab.set Bar.empty s.bars n x }
def State.launch? (s : State) (slot : Nat) : Option Launch := Tab.find? s.launches slot
def State.setLaunch (s : State) (slot : Nat) (l : Launch) : State := { s with launches := Tab.put s.launches slot l }
def State.updLaunch (s : State) (slot : Nat) (f : Launch → Launch) : State :=
  match s.launch? slot with
  | some l => s.setLaunch slot (f l)
  | none => s

/-- The halo regions of a party: its launch's; those of supervisor cores, which belong to no launch, are the partition's
(notes/assumptions/95.md). -/
def State.halosOf (s : State) (party : Nat) : List Halo :=
  if isSvcPos party then (s.part (s.die (dieOf party)).part).halos else ((s.launch? party).map (·.halos)).getD []
def State.setHalos (s : State) (party : Nat) (hs : List Halo) : State :=
  if isSvcPos party then s.updPart (s.die (dieOf party)).part fun p => { p with halos := hs }
  else s.updLaunch party fun l => { l with halos := hs }
/-- Every declared region of a partition. -/
def State.regions (s : State) (part : Nat) : List Halo :=
  (s.launches.flatMap fun ((_, l) : Nat × Launch) => if l.part = part then l.halos else []) ++ (s.part part).halos

/-- A core counts a message that a launch sends or receives (R333); a supervisor core has no launch. -/
def State.noteSent (s : State) (pos lslot : Nat) : State :=
  if isSvcPos pos then s
  else s.updCore (coreOf pos) fun c => { c with sent := Tab.set 0 c.sent lslot (Tab.get 0 c.sent lslot + 1) }
def State.noteRecv (s : State) (pos lslot : Nat) : State :=
  if isSvcPos pos then s
  else s.updCore (coreOf pos) fun c => { c with recv := Tab.set 0 c.recv lslot (Tab.get 0 c.recv lslot + 1) }

/-- The partition of a die (R345). -/
def State.partOf (s : State) (pos : Nat) : Nat := (s.die (dieOf pos)).part

/-- LNCHID as R24 lays it out. -/
def lnchid (gen slot : Nat) : Nat := gen % 65536 * 64 + slot % 64

def Master.lnch (m : Master) : Nat := if m.lgen = 0 then 0 else lnchid m.lgen m.lslot

/-! ## Register files (R17) -/

/-- Reads s[r]; s0 reads 0. -/
def Master.rs (m : Master) (r : SReg) : W64 := if r = 0 then 0 else Tab.get 0 m.s r.toNat
/-- Writes s[r]; a write to s0 is discarded. -/
def Master.ws (m : Master) (r : SReg) (x : W64) : Master :=
  if r = 0 then m else { m with s := Tab.set 0 m.s r.toNat x }
def Master.rv (m : Master) (r : VReg) : W1024 := Tab.get 0 m.v r.toNat
def Master.wv (m : Master) (r : VReg) (x : W1024) : Master := { m with v := Tab.set 0 m.v r.toNat x }
/-- m0 reads all ones. -/
def Master.rm (m : Master) (r : MReg) : W128 := if r = 0 then BitVec.allOnes 128 else Tab.get 0 m.m r.toNat
def Master.wm (m : Master) (r : MReg) (x : W128) : Master :=
  if r = 0 then m else { m with m := Tab.set 0 m.m r.toNat x }
/-- c0 reads as the null capability. -/
def Master.rc (m : Master) (r : CReg) : Cap := if r = 0 then Cap.null else Tab.get Cap.null m.c r.toNat
def Master.wc (m : Master) (r : CReg) (x : Cap) : Master :=
  if r = 0 then m else { m with c := Tab.set Cap.null m.c r.toNat x }
def Master.rq (m : Master) (r : QReg) : W64 := Tab.get 0 m.q r.toNat
def Master.wq (m : Master) (r : QReg) (x : W64) : Master := { m with q := Tab.set 0 m.q r.toNat x }

/-- The bits of the byte lanes that a mask names. -/
def laneMask (mk : W128) : W1024 :=
  BitVec.ofNat 1024 ((List.range 128).foldr (fun i a => (if mk.getLsbD i then 255 else 0) + 256 * a) 0)

/-- Lands one register write of a reply. -/
def Master.land (m : Master) : RegW → Master
  | .s r v => m.ws (BitVec.ofNat 6 r) v
  | .v r x => m.wv (BitVec.ofNat 5 r) x
  | .vm r k x => m.wv (BitVec.ofNat 5 r) ((m.rv (BitVec.ofNat 5 r) &&& ~~~laneMask k) ||| (x &&& laneMask k))
  | .c r x => m.wc (BitVec.ofNat 4 r) x
  | .o x => { m with o := x }

def Master.landAll (m : Master) (ws : List RegW) : Master := ws.foldl Master.land m

end Sys2Proof.Machine
end

