-- ==== Sys2Proof/Machine/Mem.lean ====
section
/-! DEFINITION. Memory: the key of every byte, the page map, what a read sees and how a write is performed (R195-R206,
R215, R217, R235-R238, R244, R407-R409). -/

namespace Sys2Proof.Machine

abbrev Byte := BitVec 8

/-! ## Keys -/

/-- Space codes of capabilities (R346). -/
def spKey : Nat := 0
def spLs : Nat := 1
def spClu : Nat := 2
def spGlob : Nat := 3
def spCode : Nat := 4
def spPlate : Nat := 5

/-- Key of a byte of GLOB, CODE or PLATE memory of a partition. -/
def globKey (part va : Nat) : Nat := part * 2 ^ 64 + va % 2 ^ 64
def lsKey (core off : Nat) : Nat := 2 ^ 68 + core * 2 ^ 18 + off
def cluKey (cluster a : Nat) : Nat := 2 ^ 69 + cluster * 2 ^ 23 + a
/-- Key of byte `i` of the descriptor of the block that holds data key `k` (R84). -/
def bfdKey (k i : Nat) : Nat := 2 ^ 72 + 2 * (k / 64) + i
/-- Key of the hidden tag of the granule that holds data key `k` (R352). -/
def tagKey (k : Nat) : Nat := 2 * 2 ^ 72 + k / 16
/-- Key of the full/empty bit of the word at data key `k` (R301). -/
def feKey (k : Nat) : Nat := 3 * 2 ^ 72 + k / 4
/-- Key of the poison mark of the block that holds data key `k` (R436). -/
def poisonKey (k : Nat) : Nat := 4 * 2 ^ 72 + k / 64
/-- What a request carries that goes to no byte: to the page map, a proof table, a plate bank or another slot. -/
def ctlKey : Nat := 2 ^ 88
def isGlobKey (k : Nat) : Bool := k < 2 ^ 68

/-- The byte that an effective address of a space names for a master, if the address has a form of R195. -/
def physKey (s : State) (pos sp ea : Nat) : Option Nat :=
  if sp = 1 then
    if ea < 0x40000 then some (lsKey (coreOf pos) ea)
    else if 0x400000 ≤ ea && ea < 0x800000 then
      some (lsKey (clusterOf pos * 16 + (ea - 0x400000) / 0x40000) ((ea - 0x400000) % 0x40000))
    else none
  else if sp = 2 then if ea < 0x800000 then some (cluKey (clusterOf pos) ea) else none
  else if 3 ≤ sp && sp ≤ 5 then some (globKey (s.partOf pos) ea)
  else none

/-- Global bank number of a CLU key. -/
def bankOfKey (k : Nat) : Nat := (k - 2 ^ 69) / 2 ^ 19
def coreOfLsKey (k : Nat) : Nat := (k - 2 ^ 68) / 2 ^ 18

/-! ## The page map (R353) -/

def pageBytes (psz : Nat) : Nat := if psz = 0 then 2 ^ 16 else if psz = 1 then 2 ^ 21 else 2 ^ 30
/-- Table key of the page of size `psz` that would hold `va`. -/
def pageKey (part va psz : Nat) : Nat := part * 2 ^ 48 + va / pageBytes psz * (pageBytes psz / 2 ^ 16)

/-- The mapped page that holds `va`, with its key. -/
def State.pageAt (s : State) (part va : Nat) : Option (Nat × Page) :=
  [0, 1, 2].findSome? fun psz =>
    match Tab.find? s.pages (pageKey part va psz) with
    | some p => if p.psz = psz then some (pageKey part va psz, p) else none
    | none => none

def State.pageOfKey (s : State) (k : Nat) : Option (Nat × Page) := s.pageAt (k / 2 ^ 64) (k % 2 ^ 64)

/-- Address of slice `i` of a descriptor. -/
def Desc.base (d : Desc) (i : Nat) : Nat := ((d.kv.bits.extractLsb' 64 64).toNat + i * d.sstr) % 2 ^ 64

/-- First virtual address of a page from its key. -/
def pageBase (pk : Nat) : Nat := pk % 2 ^ 48 * 2 ^ 16

/-- Bytes that leases have mapped in the HBM of a die, or in the second tier (R12). -/
def State.mappedIn (s : State) (t2 : Bool) (die : Nat) : Nat :=
  (s.pages.filter fun ((_, p) : Nat × Page) => !p.ctl && p.t2 = t2 && (t2 || p.home = die)).foldl
    (fun n ((_, p) : Nat × Page) => n + pageBytes p.psz) 0

/-- Bytes free in the HBM of a die, or in the second tier (notes/assumptions/47.md). -/
def State.roomIn (s : State) (t2 : Bool) (die : Nat) : Nat := (if t2 then 2 ^ 42 else 2 ^ 36) - s.mappedIn t2 die

/-! ## Reading -/

/-- A proof and its ancestors, nearest first (R408). -/
def chainFrom (ps : Tab Proof) : Nat → Nat → List Nat
  | 0, _ => []
  | f + 1, p =>
    if p = 0 then [] else
    match Tab.find? ps p with
    | some x => p :: chainFrom ps f x.parent
    | none => []

def State.chain (s : State) (proof : Nat) : List Nat := chainFrom s.proofs 10 proof

/-- A write batch not yet applied at its home is read by its issuer, and by its die unless it is held (R237). -/
def Batch.seenBy (b : Batch) (die pos : Nat) : Bool :=
  !b.push && !b.applied && (b.pos = pos || (b.src = die && !b.hold))

/-- Newest byte at `k` among the batches under a proof (0: none) that a reader sees; later batches stand later in the list. -/
def batchByte (bs : List Batch) (die pos proof k : Nat) : Option Byte :=
  bs.foldl (fun r b => if b.seenBy die pos && b.proof = proof then (Tab.find? b.cells k) <|> r else r) none

/-- Where a die's table of the bytes that it still reads holds a byte of a version, or says that it reads none there yet. -/
def verKey (proof k : Nat) : Nat := 2 ^ 96 * (proof + 1) + k
def noVerKey (proof k : Nat) : Nat := verKey proof k + 2 ^ 95

/-- The byte of a proof's version that a die reads: the former one while a write is still to be applied there (R203, R235). -/
def dieVer (vers : Tab (Tab Byte)) (old : Tab Byte) (proof k : Nat) : Option Byte :=
  match Tab.find? old (verKey proof k) with
  | some v => some v
  | none => if (Tab.find? old (noVerKey proof k)).isSome then none else Tab.find? (Tab.get [] vers proof) k

/-- First byte at `k` along a chain of proofs, a write under way before the proof's version (R244, R408). -/
def verByte (bs : List Batch) (vers : Tab (Tab Byte)) (old : Tab Byte) (die pos k : Nat) : List Nat → Option Byte
  | [] => none
  | p :: r => batchByte bs die pos p k <|> dieVer vers old p k <|> verByte bs vers old die pos k r

/-- The committed byte as a die sees it: a halo replica, a copy not yet updated, or the home's byte (R206, R235). -/
def State.dieByte (s : State) (die k : Nat) : Byte :=
  match Tab.find? (Tab.get [] s.halo die) k with
  | some v => v
  | none =>
    match Tab.find? (Tab.get [] s.stale die) k with
    | some v => v
    | none => Tab.get 0 s.mem k

/-- The byte that a read by a master of a die under a chain of proofs returns (R237, R239, R408). -/
def State.view (s : State) (pos die : Nat) (chain : List Nat) (k : Nat) : Byte :=
  match verByte s.batches s.vers (Tab.get [] s.stale die) die pos k chain with
  | some v => v
  | none =>
    match batchByte s.batches die pos 0 k with
    | some v => v
    | none => s.dieByte die k

/-- A position that names no master. -/
def nowhere : Nat := 2 ^ 20

/-- A reader: whose access, on which die, under which proofs. -/
structure Rdr where
  pos : Nat
  die : Nat
  chain : List Nat

def State.rdr (s : State) (pos proof : Nat) : Rdr := { pos := pos, die := dieOf pos, chain := s.chain proof }
/-- A memory-side reader: no master and no die, so it reads the homes' bytes alone. -/
def Rdr.home : Rdr := { pos := 2 ^ 21, die := 2 ^ 21, chain := [] }

def State.rd8 (s : State) (r : Rdr) (k : Nat) : Byte := s.view r.pos r.die r.chain k

/-- Bytes at rising keys from `k`. -/
def State.rdBytes (s : State) (r : Rdr) (k : Nat) : Nat → List Byte
  | 0 => []
  | n + 1 => s.rd8 r k :: s.rdBytes r (k + 1) n

/-- A byte list as a number, lowest byte first (R5). -/
def leNat : List Byte → Nat
  | [] => 0
  | b :: r => b.toNat + 256 * leNat r

/-- The low `n` bytes of a number, lowest first (R5). -/
def leBytes : Nat → Nat → List Byte
  | 0, _ => []
  | n + 1, x => BitVec.ofNat 8 x :: leBytes n (x / 256)

def State.rdNat (s : State) (r : Rdr) (k n : Nat) : Nat := leNat (s.rdBytes r k n)
def State.rdTag (s : State) (r : Rdr) (k : Nat) : Bool := s.rd8 r (tagKey k) != 0
def State.rdBfd (s : State) (r : Rdr) (k : Nat) : BitVec 16 :=
  BitVec.ofNat 16 ((s.rd8 r (bfdKey k 0)).toNat + 256 * (s.rd8 r (bfdKey k 1)).toNat)
def State.rdFe (s : State) (k : Nat) : Bool := Tab.get 0 s.mem (feKey k) != 0

/-- The blocks that [k, k + n) touches, by their first keys. -/
def blocksOf (k n : Nat) : List Nat :=
  if n = 0 then [] else (List.range ((k + n - 1) / 64 - k / 64 + 1)).map fun i => (k / 64 + i) * 64

/-- First block of the range that holds an uncorrectable error (R436). A byte that a version supplies is sound. -/
def State.ueIn (s : State) (r : Rdr) (k n : Nat) : Option Nat :=
  (blocksOf k n).find? fun b => s.rd8 r (poisonKey b) != 0

/-! ## Writing -/

/-- The canonical form of memory: keys rise strictly, and no entry is what an unlisted byte reads as. -/
def Mem.wf (m : Mem) : Bool := Tab.wf 0 m

def setCells (m : Tab Byte) (cs : List Host.Cell) : Tab Byte := cs.foldl (fun m c => Tab.set 0 m c.1 c.2) m
def putCells (m : Tab Byte) (cs : List Host.Cell) : Tab Byte := cs.foldl (fun m c => Tab.put m c.1 c.2) m

/-- Bytes at rising keys as cells. -/
def bytesAt (k : Nat) : List Byte → List Host.Cell
  | [] => []
  | b :: r => (k, b) :: bytesAt (k + 1) r

/-- The granule tags that a data write of [k, k + n) clears (R217, R352). -/
def tagClears (k n : Nat) : List Host.Cell :=
  if n = 0 then [] else (List.range ((k + n - 1) / 16 - k / 16 + 1)).map fun i => (2 * 2 ^ 72 + (k / 16 + i), 0)

/-- The poison marks cleared by one write that covers whole blocks (R436). -/
def poisonClears (k n : Nat) : List Host.Cell :=
  (blocksOf k n).filterMap fun b => if k ≤ b && b + 64 ≤ k + n then some (poisonKey b, 0) else none

/-- The cells of a data write (R217). -/
def dataCells (k : Nat) (bs : List Byte) : List Host.Cell :=
  bytesAt k bs ++ tagClears k bs.length ++ poisonClears k bs.length

def bfdCells (k : Nat) (f : BitVec 16) : List Host.Cell :=
  [(bfdKey k 0, f.extractLsb' 0 8), (bfdKey k 1, f.extractLsb' 8 8)]

/-- Block of a cell of any plane. -/
def blockOfCell (k : Nat) : Nat :=
  if k < 2 ^ 72 then k / 64
  else if k < 2 * 2 ^ 72 then (k - 2 ^ 72) / 2
  else if k < 3 * 2 ^ 72 then (k - 2 * 2 ^ 72) / 4
  else if k < 4 * 2 ^ 72 then (k - 3 * 2 ^ 72) / 16
  else k - 4 * 2 ^ 72

/-- A version of the block exists for the proof: some byte of it is tagged (R407). -/
def hasVersion (t : Tab Byte) (block : Nat) : Bool :=
  (List.range 64).any fun i => (Tab.find? t (block * 64 + i)).isSome

/-- Versions that a proof holds, counted by block. -/
def versionCount (t : Tab Byte) : Nat :=
  ((t.filter fun c => c.1 < 2 ^ 72).foldl (fun (n, last) c =>
    if last = some (c.1 / 64) then (n, last) else (n + 1, some (c.1 / 64))) (0, none)).1

/-- Tagged writes of one proof, block by block in ascending address under the budget (R409). Answers the versions, the
use and whether a block was discarded. -/
def tagBlocks (budget : Nat) (cells : List Host.Cell) (t : Tab Byte) (use : Nat) : List Nat → Tab Byte × Nat × Bool
  | [] => (t, use, false)
  | b :: r =>
    let mine := cells.filter fun c => blockOfCell c.1 = b
    if hasVersion t b then tagBlocks budget cells (putCells t mine) use r
    else if use + 64 ≤ budget then tagBlocks budget cells (putCells t mine) (use + 64) r
    else let (t', u', _) := tagBlocks budget cells t use r; (t', u', true)

/-- A die holds a copy of the line of a cell. -/
def State.copied (s : State) (d k : Nat) : Bool := (Tab.get [] s.copies (blockOfCell k)).contains d

/-- The dies other than `d` that hold a copy of a line that the cells are on. -/
def State.copyDies (s : State) (d : Nat) (cells : List Host.Cell) : List Nat :=
  (((cells.map fun c => blockOfCell c.1).eraseDups.flatMap fun l => Tab.get [] s.copies l).eraseDups).filter (· != d)

/-- Keeps, for each die in `ds`, the bytes of the lines that it has a copy of, which it still reads while a write waits to be applied
there. -/
def keepStale (s : State) (ds : List Nat) (cells : List Host.Cell) : Tab (Tab Byte) :=
  ds.foldl (fun st d =>
    let t := Tab.get [] st d
    Tab.set [] st d ((cells.filter fun c => s.copied d c.1).foldl (fun t c =>
      match Tab.find? t c.1 with
      | some _ => t
      | none => Tab.put t c.1 (Tab.get 0 s.mem c.1)) t)) s.stale

/-- The same for the versions of a proof, which a tagged write is about to change. -/
def keepVers (s : State) (ds : List Nat) (proof : Nat) (cells : List Host.Cell) : Tab (Tab Byte) :=
  ds.foldl (fun st d =>
    let t := Tab.get [] st d
    Tab.set [] st d ((cells.filter fun c => s.copied d c.1).foldl (fun t c =>
      if (Tab.find? t (verKey proof c.1)).isSome || (Tab.find? t (noVerKey proof c.1)).isSome then t
      else match Tab.find? (Tab.get [] s.vers proof) c.1 with
        | some v => Tab.put t (verKey proof c.1) v
        | none => Tab.put t (noVerKey proof c.1) 0) t)) s.stale

/-- Applies cells at the home: memory takes them, and dies with a copy keep their bytes until they apply them too
(R203, R235). -/
def State.applyHome (s : State) (ds : List Nat) (cells : List Host.Cell) : State :=
  { s with stale := keepStale s ds cells, mem := setCells s.mem cells }

/-- Adds 1 to the writes that a die made to a page in the window (R204). -/
def State.countWrite (s : State) (die pk : Nat) : State :=
  { s with wcount := Tab.set 0 s.wcount (pk * 32 + die) (Tab.get 0 s.wcount (pk * 32 + die) + 1) }

/-- A batch is still to be applied somewhere: at its home, or on a die with a copy. -/
def Batch.late (b : Batch) : Bool := !b.push && (!b.applied || !b.todo.isEmpty)

/-- A write still to be applied somewhere that a task may have read somewhere: a push is one once a die has applied it. -/
def Batch.begun (b : Batch) : Bool := b.late || (b.push && b.applied)

/-- How a store stands to the releases before it (R216). -/
structure Ord where
  /-- batches that must reach their homes first -/
  after : List Nat := []
  /-- not performed even in the writer's die until then -/
  hold : Bool := false

/-- Sends a batch toward the home of a line. Batches are applied in the order of sending, but for the held ones of other masters,
which nobody has seen; that meets every order that R235 and R238 ask of a vector clock (notes/assumptions/16.md). -/
def State.send (s : State) (pos home req : Nat) (o : Ord) (cells : List Host.Cell) (push : Bool := false)
    (todo : List Nat := []) (proof : Nat := 0) : State :=
  let k := ((cells.head?).map Prod.fst).getD 0
  let chan := k / 64 % 16
  let src := dieOf pos
  let prev := (s.batches.filter fun b => b.begun && !(b.hold && !b.applied && b.pos != pos)).map (·.id)
  let b : Batch :=
    { id := s.nextReq, src := src, pos := pos, lslot := s.party pos, home := home, chan := chan, cells := cells, proof := proof
      after := o.after ++ prev, hold := o.hold, applied := false, todo := todo, req := req, push := push }
  { s with batches := s.batches ++ [b], nextReq := s.nextReq + 1 }.noteSent pos (s.party pos)

/-- Writes still under way that a master may have observed: its own, those that its die sees, those that are applied at
their homes, and pushes that a die has applied. -/
def State.observed (s : State) (pos : Nat) : List Nat :=
  (s.batches.filter fun b => b.begun && (b.pos = pos || b.applied || (b.src = dieOf pos && !b.hold))).map (·.id)

/-- A write applied at its home goes on to the dies with a copy (R203). -/
def State.toCopies (s : State) (pos home req : Nat) (o : Ord) (cells : List Host.Cell) (ds : List Nat) (proof : Nat := 0) : State :=
  if ds.isEmpty then s
  else
    let t := s.send pos home req o cells false ds proof
    { t with batches := t.batches.map fun b => if b.id = s.nextReq then { b with applied := true } else b }

/-- A store to committed memory (R197, R203): performed at once when its home is the writer's die, no release holds it and no
batch is still under way; otherwise sent in a batch. Nobody reads a memory-side page (`ms`) before its unit performs the write
(R248). Answers whether a batch went out. -/
def State.storeImm (s : State) (pos home req : Nat) (ms : Bool) (o : Ord) (cells : List Host.Cell) : State × Bool :=
  if home = dieOf pos && !o.hold && !s.batches.any Batch.begun then
    let ds := s.copyDies home cells
    ((s.applyHome ds cells).toCopies pos home req o cells ds, false)
  else ((s.send pos home req { o with hold := o.hold || ms } cells), true)

/-- A store to a transactional page under a proof (R407, R409). -/
def State.storeTagged (s : State) (lslot proof : Nat) (cells : List Host.Cell) : State × Bool :=
  let budget := ((s.launch? lslot).map (·.budget)).getD 0
  let use := ((s.launch? lslot).map (·.use)).getD 0
  let blocks := ((cells.filter fun c => c.1 < 2 ^ 72).map fun c => c.1 / 64).eraseDups
  let (t, u, ovf) := tagBlocks budget cells (Tab.get [] s.vers proof) use blocks
  (({ s with vers := Tab.set [] s.vers proof t }).updLaunch lslot fun l => { l with use := u }, ovf)

/-- The same at the home, where the dies `ds` with a copy still read the former versions (R203). -/
def State.applyTagged (s : State) (ds : List Nat) (lslot proof : Nat) (cells : List Host.Cell) : State × Bool :=
  ({ s with stale := keepVers s ds proof cells } : State).storeTagged lslot proof cells

/-! ## Tokens (R201) -/

/-- The number under which a master's L1 stands: its core's, or a supervisor core's position; and the L1's die. -/
def l1Of (pos : Nat) : Nat := if isSvcPos pos then pos else coreOf pos
def dieOfL1 (n : Nat) : Nat := if isSvcPos n then dieOf n else n / 256

/-- A core asks for a line of its L1. -/
def Core.filling (c : Core) (line : Nat) : Bool := c.fills.any fun ((l, _, _) : Nat × Bool × Nat) => l = line

/-- A persistent request of the core for the line has been answered, and the tokens are held for its task (R281). -/
def Core.holds (c : Core) (cyc line : Nat) : Bool := c.pers.any fun x => x.line = line && x.got && cyc < x.at' + 256

/-- Tokens of a line that the L1 caches of a die other than `core`'s hold for persistent requests. -/
def State.tokensHeld (s : State) (die line core : Nat) : Nat :=
  ((s.cores.filter fun ((n, c) : Nat × Core) => dieOfL1 n = die && n != core && c.holds s.cyc line).map
    fun ((_, c) : Nat × Core) => Tab.get 0 c.l1 line).sum

/-- The L1 numbered `core` can obtain the tokens it needs of a line: one to read, and to write all of them (R201, R281). -/
def State.canTake (s : State) (core line : Nat) (write : Bool) : Bool :=
  let held := s.tokensHeld (dieOfL1 core) line core
  if write then held = 0 else held < 256

/-- A die's L1 caches and cache banks give up their tokens of a line, and the line with them. -/
def State.collect (s : State) (die line : Nat) : State :=
  { s with cores := s.cores.map fun ((n, c) : Nat × Core) => (n, if dieOfL1 n = die then { c with l1 := Tab.del c.l1 line } else c)
           banks := s.banks.map fun ((n, b) : Nat × Bank) => (n, if n / 256 = die then { b with lines := Tab.del b.lines line } else b) }

/-- Tokens of a line that a die's L1 caches and cache banks hold; the line's agent on the die holds the others. -/
def State.tokensOut (s : State) (die line : Nat) : Nat :=
  ((s.cores.filter fun ((n, _) : Nat × Core) => dieOfL1 n = die).map fun ((_, c) : Nat × Core) => Tab.get 0 c.l1 line).sum +
  ((s.banks.filter fun ((n, _) : Nat × Bank) => n / 256 = die).map fun ((_, b) : Nat × Bank) => Tab.get 0 b.lines line).sum

/-- A core holds every token of a line: what it needs to write it. -/
def State.takeAll (s : State) (core line : Nat) : State :=
  (s.collect (dieOfL1 core) line).updCore core fun c => { c with l1 := Tab.put c.l1 line 256 }

/-- A core holds one token of a line more: from the line's agent, or else from another holder, which loses the line with its
last one. Tokens that are held for a persistent request stay. -/
def State.takeOne (s : State) (core line : Nat) : State :=
  if Tab.get 0 (s.core core).l1 line != 0 then s
  else
    let s1 :=
      if s.tokensOut (dieOfL1 core) line < 256 then s
      else match List.find? (fun ((n, c) : Nat × Core) => dieOfL1 n = dieOfL1 core && Tab.get 0 c.l1 line != 0 && !c.holds s.cyc line) s.cores with
        | some (n, _) => s.updCore n fun c => { c with l1 := Tab.set 0 c.l1 line (Tab.get 0 c.l1 line - 1) }
        | none =>
          match List.find? (fun ((n, b) : Nat × Bank) => n / 256 = dieOfL1 core && Tab.get 0 b.lines line != 0) s.banks with
          | some (n, b) => s.setBank n { b with lines := Tab.set 0 b.lines line (Tab.get 0 b.lines line - 1) }
          | none => s
    s1.updCore core fun c => { c with l1 := Tab.put c.l1 line 1 }

/-- The writer's core collects every token of the lines that it writes, unless `no`: a memory-side page's lines are never cached
(R300), and a store that waits collects them later. -/
def State.ownLines (s : State) (pos : Nat) (no : Bool) (cells : List Host.Cell) : State :=
  if no then s
  else (((cells.filter fun (c : Host.Cell) => isGlobKey c.1).map fun (c : Host.Cell) => c.1 / 64).eraseDups).foldl
    (fun s l => s.takeAll (l1Of pos) l) s

/-- What became of a store. -/
inductive Stored where
  | performed | sent | ovf
  deriving DecidableEq, Repr

/-- Performs a store by a master of cells whose first data key is `k` (R197): tagged on a transactional page under a
proof, at once in LS and CLU, by home in committed memory; an SVC's store to a transactional page is untagged. `dead`: a job
whose proof was cancelled writes no transactional page (R414). A release that waits is sent as a held batch, and collects its
tokens when it is performed. A tagged write to a line homed on another die goes there in a batch (R203); it shows on every other
die once its home has applied it, so it follows every write under way that its task may have observed (R238). -/
def State.store (s : State) (pos proof : Nat) (dead : Bool) (req : Nat) (o : Ord) (k : Nat) (cells : List Host.Cell) :
    State × Stored :=
  if isGlobKey k then
    match s.pageOfKey k with
    | none => (s, .performed)
    | some (pk, p) =>
      if dead && !p.imm then (s, .performed)
      else if p.imm || proof = 0 then
        let (s1, b) := ((s.countWrite (dieOf pos) pk).ownLines pos (p.ms || o.hold) cells).storeImm pos p.home req p.ms o cells
        (s1, if b then .sent else .performed)
      else
        let s1 := (s.countWrite (dieOf pos) pk).ownLines pos o.hold cells
        let seen := s1.observed pos
        if o.hold || p.home != dieOf pos || !seen.isEmpty then (s1.send pos p.home req { o with after := o.after ++ seen } cells false [] proof, .sent)
        else
          let ds := s1.copyDies p.home cells
          let (s2, ovf) := s1.applyTagged ds (s.ms pos).lslot proof cells
          (s2.toCopies pos p.home 0 o cells ds proof, if ovf then .ovf else .performed)
  else if o.hold then (s.send pos (dieOf pos) req o cells, .sent)
  else ({ s with mem := setCells s.mem cells }, .performed)

end Sys2Proof.Machine
end

