-- ==== Sys2Proof/Machine/Capab.lean ====
section
/-! DEFINITION. Capabilities: fields, bounds, representability, and the checks of every access in the order of R150 and
R212 (R346-R354, R357). -/

namespace Sys2Proof.Machine

def Cap.cursor (c : Cap) : W64 := c.bits.extractLsb' 64 64
def Cap.perms (c : Cap) : BitVec 16 := c.bits.extractLsb' 48 16
def Cap.space (c : Cap) : Nat := (c.bits.extractLsb' 44 4).toNat
def Cap.sealT (c : Cap) : Nat := (c.bits.extractLsb' 40 4).toNat
def Cap.scl (c : Cap) : Nat := (c.bits.extractLsb' 34 6).toNat
def Cap.bres (c : Cap) : Nat := (c.bits.extractLsb' 16 18).toNat
def Cap.glen (c : Cap) : Nat := (c.bits.extractLsb' 2 14).toNat

/-- A capability from its fields (R346). -/
def Cap.make (cursor : W64) (perms : BitVec 16) (space st scl bres glen : Nat) (tag : Bool) : Cap :=
  { bits := cursor ++ perms ++ BitVec.ofNat 4 space ++ BitVec.ofNat 4 st ++ BitVec.ofNat 6 scl ++ BitVec.ofNat 18 bres ++
      BitVec.ofNat 14 glen ++ 0#2, tag := tag }

def Cap.withCursor (c : Cap) (x : W64) : Cap := { c with bits := x ++ c.bits.extractLsb' 0 64 }
def Cap.withPerms (c : Cap) (p : BitVec 16) : Cap :=
  { c with bits := c.bits.extractLsb' 64 64 ++ p ++ c.bits.extractLsb' 0 48 }
def Cap.withSeal (c : Cap) (t : Nat) : Cap :=
  { c with bits := c.bits.extractLsb' 44 84 ++ BitVec.ofNat 4 t ++ c.bits.extractLsb' 0 40 }

/-- What every tagged capability is (R346): no reserved SPACE, SEAL, SCL, permission or bit. -/
def Cap.valid (c : Cap) : Bool :=
  c.space ≤ 5 && c.sealT != 15 && !(51 ≤ c.scl && c.scl ≤ 62) && c.perms.toNat / 2 ^ 11 = 0 && c.bits.toNat % 4 = 0

/-- Granule of the base (R349). -/
def Cap.gb (c : Cap) : Nat :=
  let M : Nat := 2 ^ (64 - c.scl)
  let gc : Nat := c.cursor.toNat / 2 ^ c.scl
  let d : Nat := (gc + 2 ^ 18 - c.bres) % 2 ^ 18
  let g : Int := if d < 3 * 2 ^ 16 then (gc : Int) - (d : Int) else (gc : Int) - (d : Int) + 2 ^ 18
  Int.toNat (Int.emod g (Int.ofNat M))

/-- [base, top) of a capability (R349). -/
def Cap.base (c : Cap) : Nat := if c.scl ≥ 51 then 0 else c.gb * 2 ^ c.scl
def Cap.top (c : Cap) : Nat :=
  if c.scl = 63 then 2 ^ 64 else if c.scl ≥ 51 then 0 else Nat.min (c.gb * 2 ^ c.scl + c.glen * 2 ^ c.scl) (2 ^ 64)

/-- The cursor `x` lies in the reach of the capability (R349): it decodes to the same base granule. -/
def Cap.representable (c : Cap) (x : W64) : Bool :=
  if c.scl = 63 then true
  else if c.scl ≥ 51 then false
  else
    let M := 2 ^ (64 - c.scl)
    (x.toNat / 2 ^ c.scl + M + 2 ^ 16 - c.gb) % M < 2 ^ 18

/-- Changes the cursor; an unrepresentable one clears the tag (R350). -/
def Cap.move (c : Cap) (x : W64) : Cap :=
  let r := c.withCursor x
  if c.tag && c.representable x then r else { r with tag := false }

/-! ## Permissions (R347) -/

def pLoad : Nat := 0
def pStore : Nat := 1
def pExec : Nat := 2
def pLdcap : Nat := 3
def pStcap : Nat := 4
def pSeal : Nat := 5
def pUnseal : Nat := 6
def pSync : Nat := 7
def pAtomic : Nat := 8
def pPlateRead : Nat := 10
def Cap.has (c : Cap) (ps : List Nat) : Bool := ps.all fun p => c.perms.getLsbD p

/-! ## Faults -/

def cIllegal : Nat := 0x01
def cCaptag : Nat := 0x02
def cCapbound : Nat := 0x03
def cCapperm : Nat := 0x04
def cLease : Nat := 0x05
def cAlign : Nat := 0x06
def cSpace : Nat := 0x07
def cFmt : Nat := 0x08
def cWaitlim : Nat := 0x09
def cEng : Nat := 0x0A
def cUe : Nat := 0x0B
def cTrap : Nat := 0x0C
def cBkpt : Nat := 0x0D
def cPlate : Nat := 0x0E
def cSvn : Nat := 0x0F
def cStorage : Nat := 0x10

/-- The causes that doom the launch (R418, R435). -/
def Flt.dooms (f : Flt) : Bool := [cLease, cEng, cUe, cPlate, cSvn].contains f.cause

/-- A failing capability check: its number, operand, capability and address (R435). -/
def capFlt (cause check operand : Nat) (c : Cap) (addr : Nat) : Flt :=
  { cause := cause, d0 := BitVec.ofNat 64 (check * 16 + operand * 2), d1 := c.cursor, d2 := BitVec.ofNat 64 addr }

/-- The spaces that an access admits (R196). -/
structure Spaces where
  own : Bool := false
  remote : Bool := false
  clu : Bool := false
  fifo : Bool := false
  /-- GLOB transactional pages, IMM pages, memory-side IMM pages -/
  tx : Bool := false
  imm : Bool := false
  ms : Bool := false
  code : Bool := false
  plate : Bool := false

def spLoad : Spaces := { own := true, remote := true, clu := true, tx := true, imm := true, ms := true, code := true }
def spStore : Spaces := { own := true, remote := true, clu := true, tx := true, imm := true, ms := true }
def spGather : Spaces := { spLoad with remote := false }
def spScatter : Spaces := { spStore with remote := false }
def spCopySrc : Spaces := { spLoad with plate := true }
def spSync : Spaces := { own := true, remote := true, clu := true, ms := true }
def spQueue : Spaces := { own := true, fifo := true }
def spFifo : Spaces := { fifo := true }
def spGlobAny : Spaces := { tx := true, imm := true, ms := true }
def spImm : Spaces := { imm := true, ms := true }

/-- What an instruction asks of one capability (R150, R212). -/
structure Acc where
  cap : Cap
  /-- operand index in the fault packet -/
  opn : Nat := 0
  perms : List Nat
  sp : Spaces
  write : Bool := false
  /-- it may not touch a halo tile of another die's (R205, R316) -/
  tile : Bool := write
  /-- it is held by a job's read range too (R208) -/
  excl : Bool := write
  ea : Nat
  len : Nat
  align : Nat := 1
  /-- the alignment rule of R215: within one block -/
  block : Bool := false

/-- The 64 KiB pages of an extent, by first address. -/
def chunksOf (ea len : Nat) : List Nat :=
  if len = 0 then [] else (List.range ((ea + len - 1) / 65536 - ea / 65536 + 1)).map fun i => (ea / 65536 + i) * 65536

/-- The allocation holds [off, off + len). -/
def Alloc.holds (a : Alloc) (off len : Nat) : Bool := a.base ≤ off && off + len ≤ a.base + a.size
/-- One LS allocation of the launch on the core holds [off, off + len) (R195). -/
def State.inAlloc (s : State) (core lslot off len : Nat) : Bool :=
  (s.core core).allocs.any fun a => a.lslot = lslot && a.holds off len

/-- An LS extent, own or remote form, as (core, offset). -/
def lsPlace (pos ea : Nat) : Option (Nat × Nat) :=
  if ea < 0x40000 then some (coreOf pos, ea)
  else if 0x400000 ≤ ea && ea < 0x800000 then
    some (clusterOf pos * 16 + (ea - 0x400000) / 0x40000, (ea - 0x400000) % 0x40000)
  else none

/-- Step 3 for pages: the first page whose attributes the space may not name, or that a write may not write (R353). -/
def State.pageFlt (s : State) (pos : Nat) (a : Acc) : Option Flt :=
  let part := s.partOf pos
  let sp := a.cap.space
  (chunksOf a.ea a.len).findSome? fun va =>
    match s.pageAt part (va % 2 ^ 64) with
    | none => none
    | some (pk, p) =>
      let kind :=
        if sp = 3 then !p.x && !p.pl && (if p.ms then a.sp.ms else if p.imm then a.sp.imm else a.sp.tx)
        else if sp = 4 then p.x && a.sp.code else p.pl && a.sp.plate
      if !kind then some (capFlt cSpace 3 a.opn a.cap (pageBase pk))
      else if a.write && !p.w then some (capFlt cCapperm 3 a.opn a.cap (pageBase pk))
      else none

/-- A store reaches a halo tile from a die that does not own it (R205). -/
def State.haloForeign (s : State) (pos : Nat) (ea len : Nat) : Bool :=
  (s.regions (s.partOf pos)).any fun h =>
    (List.range h.own.length).any fun i =>
      h.own.getD i 0 != dieOf pos && ea < h.lo + (i + 1) * h.ts && h.lo + i * h.ts < ea + len

/-- The cluster banks that a CLU extent touches. -/
def State.banksIn (s : State) (pos ea len : Nat) : List Bank :=
  (List.range ((ea + (len - 1)) / 2 ^ 19 - ea / 2 ^ 19 + 1)).map fun i => s.bank (clusterOf pos * 16 + ea / 2 ^ 19 + i)

/-- Step 3 of R150 and R212 (R195, R196, R351, R353). An empty extent names no page. -/
def State.spaceFlt (s : State) (pos : Nat) (a : Acc) : Option Flt :=
  let sp := a.cap.space
  let bad := some (capFlt cSpace 3 a.opn a.cap a.ea)
  let svc := (s.ms pos).kind = .svc
  if sp = 1 then
    if svc then bad else
    match lsPlace pos a.ea with
    | none => bad
    | some (core, off) =>
      if core = coreOf pos then
        if !a.sp.own || !(a.ea < 0x40000 || a.sp.remote) || !s.inAlloc core (s.ms pos).lslot off a.len then bad else none
      else if !a.sp.remote || !s.inAlloc core (s.ms pos).lslot off a.len then bad else none
  else if sp = 2 then
    if svc || 0x800000 < a.ea + a.len || 0x800000 ≤ a.ea then bad else
    let ok := fun (b : Bank) => (!b.sw.isEmpty && (a.sp.clu || a.sp.fifo)) || (a.sp.clu && b.mode = 1) || (a.sp.fifo && b.mode = 2)
    if (s.banksIn pos a.ea a.len).all ok then none else bad
  else if sp = 3 || sp = 4 || sp = 5 then
    if (sp = 3 && !(a.sp.tx || a.sp.imm || a.sp.ms)) || (sp = 4 && !a.sp.code) || (sp = 5 && !a.sp.plate) then bad else
    match s.pageFlt pos a with
    | some f => some f
    | none => if a.tile && sp = 3 && s.haloForeign pos a.ea a.len then bad else none
  else bad

/-- The base of the page that a check at `va` names: that of the mapped page, or of the 64 KiB page where none is mapped (R212, R435). -/
def State.faultPage (s : State) (part va : Nat) : Nat :=
  match s.pageAt part va with
  | some (pk, _) => pageBase pk
  | none => va / 65536 * 65536

/-- Step 6: the first 64 KiB page of the extent outside the launch's lease, or unmapped for an SVC (R354, R357). -/
def State.leaseFlt (s : State) (pos : Nat) (a : Acc) : Option Flt :=
  let sp := a.cap.space
  if !(sp = 3 || sp = 4 || sp = 5) then none else
  let part := s.partOf pos
  let m := s.ms pos
  let lease := ((s.launch? m.lslot).map (·.lease)).getD 0
  (chunksOf a.ea a.len).findSome? fun va =>
    let ok := (s.pageAt part (va % 2 ^ 64)).isSome && (m.kind = .svc ||
      s.ranges.any fun (k, r) => k / 4096 = part && !r.rev && r.lease = lease && r.base ≤ va % 2 ^ 64 && va % 2 ^ 64 < r.base + r.len)
    if ok then none else some (capFlt cLease 6 a.opn a.cap (s.faultPage part (va % 2 ^ 64)))

/-- Steps 4 and 5: alignment, then bounds. -/
def Acc.alignFlt (a : Acc) : Option Flt :=
  if a.ea % a.align != 0 || (a.block && a.ea % 64 + a.len > 64) then some (capFlt cAlign 4 a.opn a.cap a.ea) else none
def Acc.boundFlt (a : Acc) : Option Flt :=
  if a.len != 0 && !(a.cap.base ≤ a.ea && a.ea + a.len ≤ a.cap.top) then some (capFlt cCapbound 5 a.opn a.cap a.ea) else none

/-- Steps 1 and 2: tag, then seal and permission. -/
def Acc.permFlt (a : Acc) : Option Flt :=
  if !a.cap.tag then some (capFlt cCaptag 1 a.opn a.cap a.ea)
  else if a.cap.sealT != 0 || !a.cap.has a.perms then some (capFlt cCapperm 2 a.opn a.cap a.ea)
  else none

/-- The handler reaches its own core's LS alone (R210). -/
def State.handlerFlt (s : State) (pos : Nat) (a : Acc) : Option Flt :=
  if (s.ms pos).kind = .handler && !(a.cap.space = 1 && (lsPlace pos a.ea).map Prod.fst = some (coreOf pos)) then
    some (capFlt cSpace 3 a.opn a.cap a.ea)
  else none

/-- The checks of R212 in their order. -/
def State.check (s : State) (pos : Nat) (a : Acc) : Option Flt :=
  a.permFlt <|> s.handlerFlt pos a <|> s.spaceFlt pos a <|> a.alignFlt <|> a.boundFlt <|> s.leaseFlt pos a

end Sys2Proof.Machine
end

