-- ==== Sys2Proof/Machine/Ops.lean ====
section
/-! DEFINITION. The operations that instructions share: freezing with a fault packet, completing an instruction and its
switch marker, the not-ready modes, parking and waking, request slots, and the proof check (R29-R32, R79, R274-R283,
R338, R415, R432-R435). -/

namespace Sys2Proof

/-- Words of a kind M instruction without tensor block. -/
def Hd.words (h : Hd) : Nat := if h.ext then 3 else 1
def Pl.words (h : Pl) : Nat := if h.ext then 3 else 1

end Sys2Proof

namespace Sys2Proof.Machine

/-- The outcome of a step of this machine. -/
abbrev Out := Host.Outcome State Fault Refusal

/-! ## Outcome codes (R276) -/

def oRdy : BitVec 4 := 0x0
def oMiss : BitVec 4 := 0x1
def oBusy : BitVec 4 := 0x2
def oFull : BitVec 4 := 0x3
def oEmpty : BitVec 4 := 0x4
def oBar : BitVec 4 := 0x5
def oEng : BitVec 4 := 0x6
def oEarly : BitVec 4 := 0x7
def oErr : BitVec 4 := 0x8
def oCancelled : BitVec 4 := 0x9
def oOvf : BitVec 4 := 0xA
def oFalse : BitVec 4 := 0xB

/-! ## Parking and waking (R282, R283) -/

/-- PARKED: a task that a SAVE's edge has taken out of its slot is SAVED (R29). -/
def Master.isParked (m : Master) : Bool := m.st = .parked && m.saving.isNone

/-- The count of R31. It stands from the edge of a SAVE on, at which the task is SAVED. -/
def Master.waited (cyc : Nat) (m : Master) : Nat := m.wait + if m.saving.isSome then 0 else cyc - m.since

/-- The count that is kept when a master stops issuing: a parked one's with the time of its park (R31, R438). -/
def Master.stood (cyc : Nat) (m : Master) : Nat := if m.st = .parked then m.waited cyc else m.wait

/-- A parked master becomes READY; its wait count is kept until it completes an instruction. -/
def Master.unpark (cyc : Nat) (m : Master) : Master :=
  { m with st := .ready, park := .none, wait := if m.park = .marker then 0 else m.waited cyc, woke := cyc }

/-- The object that a park waits on: whether a waiter record is held is no part of it. -/
def Park.object : Park → Park
  | .fe k c _ => .fe k c true
  | p => p

/-- A wait on the way to an instruction's point of effect: the task keeps its place among the waiters of the object that it waited
on before, should it meet that again (R282, R302). -/
def Park.passing : Park → Bool
  | .reply | .release | .window _ => true
  | _ => false

/-- Parks on an object; a re-park on it keeps its place. -/
def Master.parkOn (m : Master) (cyc place : Nat) (p : Park) (o : BitVec 4) (a : W64) : Master :=
  { m with st := .parked, park := p, place := if p.passing || (m.place != 0 && m.was = p.object) then m.place else place
           was := if p.passing then m.was else p.object, since := cyc, parkO := o, parkA := a, resv := none }

def State.parkM (s : State) (pos : Nat) (p : Park) (o : BitVec 4) (a : W64) : State :=
  { s.updM pos fun m => m.parkOn s.cyc s.nextPlace p o a with nextPlace := s.nextPlace + 1 }

/-- Wakes every parked master that `f` selects. -/
def State.wakeAll (s : State) (f : Nat → Master → Bool) : State :=
  { s with masters := s.masters.map fun (k, m) => (k, if m.isParked && f k m then m.unpark s.cyc else m) }

/-- The longest-parked master that `f` selects. -/
def longest (ms : Tab Master) (f : Nat → Master → Bool) : Option Nat :=
  (ms.foldl (fun (r : Option (Nat × Nat)) (k, m) =>
    if m.isParked && f k m then
      match r with
      | some (_, pl) => if m.place < pl then some (k, m.place) else r
      | none => some (k, m.place)
    else r) none).map Prod.fst

def State.wakeOne (s : State) (f : Nat → Master → Bool) : State :=
  match longest s.masters f with
  | some k => s.updM k (Master.unpark s.cyc)
  | none => s

/-! ## Freezing (R32, R432-R435) -/

/-- Dooms a running launch (R417, R418). -/
def State.doom (s : State) (lslot : Nat) : State :=
  s.updLaunch lslot fun l => if l.st = .running then { l with st := .doomed } else l

/-- Dooms the launch of a master; a supervisor core has none (R354). -/
def State.doomBy (s : State) (pos : Nat) : State := if isSvcPos pos then s else s.doom (s.ms pos).lslot

/-- The round that the master's core is in: its die has entered the new round, or not yet (R22, R331). -/
def State.roundOf (s : State) (pos : Nat) : W64 :=
  BitVec.ofNat 64 (if s.round.opened && s.round.entered.contains (dieOf pos) then s.round.num + 1 else s.round.num)

/-- The packet of a master (R434), with the round that its core is in. -/
def State.packet (s : State) (pos eng : Nat) (f : Flt) (pc : W64) : Packet :=
  let m := s.ms pos
  let svc := isSvcPos pos
  { pos := some pos, type := 0, eng := eng, cause := f.cause, pc := pc, d0 := f.d0, d1 := f.d1, d2 := f.d2, d3 := f.d3
    proof := if svc then 0 else m.proof, lnch := if svc then 0 else m.lnch, round := (s.roundOf pos).toNat, die := dieOf pos
    clu := if svc then 0 else clusterOf pos % 16
    core := if svc then (pos - svcBase) % 4 else coreOf pos % 16, slot := if svc then 0 else slotOf pos, svc := svc
    first := ((s.reqs.filter fun r => r.pos = pos && r.k != .resolve).map (·.id)) ++
      ((s.scans.filter fun x => x.pos = pos && x.acc && x.img.isSome).map (·.id))
    jobs := ((m.vxe ++ m.mxe ++ m.cpe ++ m.att).filter fun j => !j.held).map (·.ord) }

/-- Queues a packet for the fault ring of a die (R433). -/
def State.queuePacket (s : State) (die : Nat) (p : Packet) : State := s.updDie die fun d => { d with pkts := d.pkts ++ [p] }

/-- An uncorrectable error, detected on behalf of a master: a TYPE 1 packet that names it (R436). -/
def State.logUe (s : State) (pos eng site : Nat) (d2 d3 : W64) : State :=
  s.queuePacket (dieOf pos)
    { s.packet pos eng { cause := cUe, d1 := BitVec.ofNat 64 site, d2 := d2, d3 := d3 } 0 with type := 1, pos := none }

/-- An error met with no task behind it (R436). -/
def State.logUeDie (s : State) (die lnch site : Nat) (d2 d3 : W64) : State :=
  s.queuePacket die
    { pos := none, type := 1, eng := 0, cause := cUe, pc := 0, d0 := 0, d1 := BitVec.ofNat 64 site, d2 := d2, d3 := d3
      proof := 0, lnch := lnch, round := s.round.num, die := die, clu := 0, core := 0, slot := 0, svc := false }

/-- A fault for an error in state that an engine holds is also logged (R436); no block is named. -/
def State.logEng (s : State) (pos eng : Nat) (f : Flt) : State := if f.cause = cEng then s.logUe pos eng 0 0 0 else s

/-- TAKING A FAULT. The master becomes FROZEN with its PC as given, its packet waits for its posted results, and the
launch is doomed if the cause dooms it; nothing else changes. Its wait count is kept and starts at 0 upon RESUME (R283). `eng` is the
engine of a job's fault, `pc` the packet's PC, `next` the master's. -/
def State.freeze (s : State) (pos eng : Nat) (f : Flt) (pc next : W64) : State :=
  let s := s.logEng pos eng f
  let p := s.packet pos eng f pc
  let s1 := s.updM pos fun m =>
    { m with st := .frozen, park := .none, pc := next, tries := 0, wait := m.stood s.cyc, place := 0, resv := none, yield := [], flt := true }
  let s2 := s1.queuePacket (dieOf pos) p
  if f.dooms then s2.doomBy pos else s2

/-- An issued instruction faults: it has no effect and the PC stays (R79). -/
def State.fault (f : Flt) (s : State) : State := s.freeze s.cur 0 f s.me.pc s.me.pc

/-- The word at a code address, as memory holds it. -/
def State.codeWord (s : State) (part : Nat) (pc : W64) : W32 :=
  BitVec.ofNat 32 (s.rdNat Rdr.home (globKey part pc.toNat) 4)

/-- The unit of a level (1 core, 2 cluster, 3 die) that a master belongs to; a supervisor core stands for itself below the
die. -/
def unitAt (level pos : Nat) : Nat :=
  if level = 3 then dieOf pos else if isSvcPos pos then pos else if level = 2 then clusterOf pos else coreOf pos

/-- The core of a master may still hold the former word at cycle `t`. -/
def Patched.heldBy (p : Patched) (pos t : Nat) : Bool :=
  !(p.drops.any fun ((l, i) : Nat × Nat) => unitAt l pos = i) && Config.holdsWord p.id (unitAt 1 pos) t

/-- The word that a fetch by the master at `pos` in cycle `t` returns: memory's, or a former one that its core still holds
(R389). -/
def State.fetchWord (s : State) (pos t : Nat) (pc : W64) : W32 :=
  let part := s.partOf pos
  match s.patched.find? fun p => p.part = part && p.va = pc.toNat && p.heldBy pos t with
  | some p => p.old
  | none => s.codeWord part pc

/-- ILLEGAL with the step of R79 that failed (R435). -/
def illegal (step : Nat) (s : State) : State :=
  s.fault { cause := cIllegal, d0 := (s.fetchWord s.cur s.cyc s.me.pc).setWidth 64, d1 := BitVec.ofNat 64 step }

/-- Who may issue: R77, R13, R20, R210. -/
inductive Grp where
  /-- any slot at either privilege (R103) -/
  | any
  /-- LD, ST, LDC, STC and the full/empty instructions: a handler without .R -/
  | access
  /-- tasks and supervisors, not handlers -/
  | noHandler
  /-- engine instructions: tasks alone -/
  | engine
  /-- supervisors alone -/
  | sup
  /-- HRET -/
  | handler
  /-- tasks alone, not engine instructions (R422) -/
  | task
  deriving DecidableEq, Repr

/-- Step 2's checks of who issues: the group, .R in a handler, and a handler's 65th instruction. -/
def Master.mayIssue (m : Master) (g : Grp) (nr : BitVec 2) : Bool :=
  match m.kind, g with
  | .handler, .any => m.hcount ≤ 64
  | .handler, .access => m.hcount ≤ 64 && nr != 3
  | .handler, .handler => m.hcount ≤ 64
  | .handler, _ => false
  | .svc, .engine => false
  | .svc, .task => false
  | _, .sup => m.kind = .svc
  | _, .handler => false
  | _, _ => true

/-- Runs an instruction if its master may issue it, else ILLEGAL at step 2. -/
def State.gate (s : State) (g : Grp) (nr : BitVec 2) (k : State → State) : Out :=
  .next (if s.me.mayIssue g nr then k s else illegal 2 s)

/-! ## Completion and the switch marker (R274) -/

/-- Jobs whose return a marker awaits: those that still have a register or o to write (R126, R157, R184). -/
def JobK.marks : JobK → Bool
  | .vxe .. => true
  | .tile (.qpos _) _ _ _ _ => true
  | .atm .. | .kvapp .. | .kvdesc .. => true
  | _ => false

/-- A posted result of the master is outstanding. The wait after a division is no such result (R102). -/
def State.outstanding (s : State) (pos : Nat) : Bool :=
  let m := s.ms pos
  (s.reqs.any fun r => r.pos = pos && r.mark) ||
  (m.vxe ++ m.mxe ++ m.att).any fun j => j.k.marks

/-- An instruction has completed: the PC stands at `pc`, and the counts of reissues and of waiting end (R275, R283). -/
def Master.complete (m : Master) (pc : W64) : Master := { m with pc := pc, tries := 0, wait := 0, place := 0, resv := none }

/-- An instruction completes; with P the task parks while a result is outstanding, and keeps the marked instruction's address
(R283). -/
def State.advance (s : State) (p : Bool) (pc : W64) : State :=
  let s1 := s.upd fun m => m.complete pc
  if p && s1.outstanding s1.cur then s1.parkM s1.cur .marker 0xF s.me.pc else s1

def Master.next (m : Master) (words : Nat) : W64 := m.pc + BitVec.ofNat 64 (4 * words)

/-- Completes with RDY in the try modes and .R, and leaves o with NR = 0b00 (R275). -/
def State.done (s : State) (h : Hd) (words : Nat) : State :=
  (if h.nr = 0 then s else s.upd fun m => { m with o := oRdy }).advance h.p (s.me.next words)

/-- Completes with a final outcome in every mode. -/
def State.final (s : State) (h : Hd) (words : Nat) (o : BitVec 4) : State :=
  (s.upd fun m => { m with o := o }).advance h.p (s.me.next words)

/-- A not-ready condition with its outcome and object (R275). A handler never parks (R303). -/
def State.notReady (s : State) (h : Hd) (words : Nat) (o : BitVec 4) (p : Park) (a : W64) : State :=
  let m := s.me
  if h.nr = 2 then (s.upd fun m => { m with o := o }).advance h.p (m.pc + 4 * h.tgt.signExtend 64)
  else if h.nr = 1 || m.kind = .handler then (s.upd fun m => { m with o := o }).advance h.p (m.next words)
  else if h.nr = 3 && m.tries < m.rlim.toNat then s.upd fun m => { m with tries := m.tries + 1 }
  else s.parkM s.cur p o a

/-! ## Request slots (R278-R280) -/

/-- The core whose request slots a master uses; a supervisor core has its own. -/
def slotPool (pos : Nat) : Nat := if isSvcPos pos then pos else coreOf pos

/-- The bank of a destination, for the quota of 16. Which second-tier channel serves a page is not specified: the model has one
channel for each home die (notes/assumptions/15.md). -/
def State.bankOf (s : State) (k : Nat) : Nat :=
  if isGlobKey k then
    match s.pageOfKey k with
    | some (_, p) =>
      if p.ms then 300000 + p.home else if p.t2 then 400000 + p.home else 200000 + p.home * 64 + k / 64 % 64
    | none => 0
  else if k < 2 ^ 69 then 100000 + coreOfLsKey k
  else 1 + bankOfKey k

/-- Return bound of R280 in cycles. -/
def State.returnBound (s : State) (pos k : Nat) : Nat :=
  if isGlobKey k then
    match s.pageOfKey k with
    | some (_, p) => if p.t2 then 131072 else if p.ms || p.home != dieOf pos then 65536 else 16384
    | none => 65536
  else if k = ctlKey then 65536
  else if k < 2 ^ 69 then if coreOfLsKey k = coreOf pos then 16 else 4096
  else 256

/-- Does the access take a request slot: not on the core's own LS, not from a handler. -/
def State.needsSlot (s : State) (pos k : Nat) : Bool :=
  !((s.ms pos).kind = .handler) && !(2 ^ 68 ≤ k && k < 2 ^ 69 && coreOfLsKey k = coreOf pos && !isSvcPos pos)

def State.slotsUsed (s : State) (pool : Nat) : Nat :=
  (s.reqs.filter fun r => r.slot && slotPool r.pos = pool).length +
  (s.masters.filter fun (k, m) => m.resv.isSome && slotPool k = pool).length

def State.bankUsed (s : State) (pool bank : Nat) : Nat :=
  (s.reqs.filter fun r => r.slot && r.bank = bank && slotPool r.pos = pool).length +
  (s.masters.filter fun (k, m) => m.resv = some bank && slotPool k = pool).length

/-- FULL: no free slot, or the bank at its quota; a reserved slot is the master's own. -/
def State.slotFull (s : State) (pos k : Nat) : Bool :=
  let resv := (s.ms pos).resv
  s.needsSlot pos k &&
  ((resv.isNone && s.slotsUsed (slotPool pos) ≥ 48) ||
   (resv != some (s.bankOf k) && s.bankUsed (slotPool pos) (s.bankOf k) ≥ 16))

/-- What travels as a message that R333 counts: an instruction performed at another unit. A store's batch counts for it. -/
def ReqK.counted : ReqK → Bool
  | .land .. | .ack => false
  | _ => true

/-- Sends a request; its number is the state's `nextReq` before. -/
def State.request (s : State) (pos key : Nat) (slot mark : Bool) (k : ReqK) (after : List Nat) : State :=
  let lslot := s.party pos
  let r : Req :=
    { id := s.nextReq, pos := pos, pc := (s.ms pos).pc, slot := slot, key := key, bank := s.bankOf key, mark := mark, k := k
      due := s.cyc + s.returnBound pos key, lslot := lslot, after := after, drop := false, proof := (s.ms pos).proof }
  let s1 := { s with reqs := s.reqs ++ [r], nextReq := s.nextReq + 1 }.updM pos fun m => { m with resv := none }
  if k.counted then s1.noteSent pos lslot else s1

def State.req? (s : State) (id : Nat) : Option Req := s.reqs.find? fun r => r.id = id

/-- The bank toward which a parked master waits for a slot. -/
def Master.slotBank (m : Master) : Option Nat := match m.park with | .slot b => some b | _ => none

/-- A slot of a pool has freed: the longest-parked task that can use it gets it reserved and wakes (R278). A bank at its quota
counts reservations, so a task that waits for the quota wakes by a slot freed toward that bank alone. -/
def State.slotFreed (s : State) (pool : Nat) : State :=
  if s.slotsUsed pool ≥ 48 then s else
  match longest s.masters fun k m => slotPool k = pool && m.slotBank.any fun b => s.bankUsed pool b < 16 with
  | some k => s.updM k fun m => { m.unpark s.cyc with resv := m.slotBank }
  | none => s

/-- Gives free slots to the tasks that wait for one, as a reservation that its task left unused frees one too. -/
def State.grantSlots (s : State) : State :=
  ((s.masters.filter fun ((_, m) : Nat × Master) => m.isParked && m.slotBank.isSome).map Prod.fst).foldl
    (fun s k => s.slotFreed (slotPool k)) s

/-- Jobs and posts that a FENCE waits for: those that write memory (R251). -/
def Master.writing (m : Master) : Bool :=
  !m.posts.isEmpty || (m.mxe ++ m.cpe ++ m.att).any fun j =>
    !j.wr.isEmpty || (match j.k with | .kvapp .. | .kvdesc .. => true | _ => false)

/-- The saved task is of the group of `m` on a core: saved to stay there, or with its gang's groups away, whose allocation has
been placed there again. -/
def Save.mateOf (r : Save) (core : Nat) (m : Master) : Bool :=
  r.m.lslot = m.lslot &&
  if r.pinned then r.core = core && r.m.lsbase = m.lsbase else r.m.gangid = m.gangid && r.m.grpid = m.grpid

/-- RETIREMENT (R35, R338): the slot and its tiles are free, and the group's LS allocation with its last task; a RESUME that
lacked them is tried again. -/
def State.retire (s : State) (pos : Nat) : State :=
  let m := s.ms pos
  let core := coreOf pos
  let s1 := s.setM pos Master.empty
  let last := !(s1.masters.any fun ((k, x) : Nat × Master) =>
      coreOf k = core && x.kind = .task && x.lslot = m.lslot && x.lsbase = m.lsbase) &&
    !(s1.saves.any fun ((_, r) : Nat × Save) => r.mateOf core m)
  (s1.updCore core fun c =>
    { c with tiles := c.tiles.filter (fun ((_, o) : Nat × Nat) => o != pos + 1)
             allocs := if last then c.allocs.filter fun a => !(a.lslot = m.lslot && a.base = m.lsbase) else c.allocs }).wakeAll
    fun _ m => m.park = .resume

/-- A task that has issued EXIT retires once its results have landed and its jobs and posts are complete. A fault of one of its
jobs freezes it before that (notes/assumptions/79.md). -/
def State.retireIf (s : State) (pos : Nat) : State :=
  let m := s.ms pos
  if m.exiting && m.st != .frozen && m.div.isNone && (m.vxe ++ m.mxe ++ m.cpe ++ m.att).isEmpty && m.posts.isEmpty && !(s.reqs.any fun r => r.pos = pos) then
    s.retire pos
  else s

/-- RETURN FROM A FAULT. A FROZEN master issues again at its PC as it stands (R29, R446), or goes on with its EXIT; held jobs
continue. -/
def State.thaw (s : State) (pos : Nat) : State :=
  let free := fun (js : List Job) => js.map fun j => { j with held := false }
  (s.updM pos fun m =>
    { m with st := if m.exiting then .parked else .ready, wait := 0, place := 0, tries := 0, flt := false, woke := s.cyc
             vxe := free m.vxe, mxe := free m.mxe, cpe := free m.cpe, att := free m.att }).retireIf pos

/-- An accepted access of a task that another unit is still to perform. A message for a handler, a bank's switch, a report and a
halo declaration are not accesses to memory. -/
def Req.pending (r : Req) : Bool :=
  match r.k with
  | .unit i .. => (match i with | .amsg _ | .bankmode _ | .imprd _ | .halo _ => false | _ => true)
  | _ => false

/-- An access, or a message to another core, of a task that is still to be performed or served (R216, R251). -/
def Req.unserved (r : Req) : Bool :=
  r.pending || (match r.k with
    | .unit (.amsg _) k _ _ _ _ _ => coreOfLsKey k != coreOf r.pos
    | _ => false)

/-- The write is still to be performed somewhere: at its home, on a die with a copy, or a push on a replica's die. -/
def Batch.open' (b : Batch) : Bool := b.late || b.push

/-- A scope that reaches past the die. -/
def devScope (scope : BitVec 3) : Bool := scope = 0 || scope = 4 || scope = 5

/-- What a release at a scope waits for, by number (R216, R238): the task's own earlier accesses. Within a die a write is
performed when its die sees it; at .DEV and .POD when its home, every die with a copy and every replica have applied it. A
release that goes in a batch follows what its task has observed of other tasks' writes by the order of the batches
(notes/assumptions/16.md); one that shows on every die at once also waits for `State.observed`. -/
def State.earlier (s : State) (pos : Nat) (scope : BitVec 3) : List Nat :=
  let dev := devScope scope
  ((s.batches.filter fun b => b.pos = pos && b.open' && (dev || (b.hold && !b.push))).map (·.id)) ++
  ((s.reqs.filter fun r => r.pos = pos && r.unserved).map (·.id))

/-- What a write that every die sees at once follows: of a release the task's earlier accesses, and in any case the writes under
way that the task may have observed (R238, R241). -/
def State.shownAfter (s : State) (pos : Nat) (rel : Bool) (scope : BitVec 3) : List Nat :=
  (if rel then s.earlier pos scope else []) ++ s.observed pos

/-- What a job waits for, by number (R207): the task's earlier accesses that are not yet performed in its die, and its pushes. -/
def State.behind (s : State) (pos : Nat) : List Nat :=
  ((s.batches.filter fun b => b.pos = pos && b.open' && (b.hold || b.push)).map (·.id)) ++
  ((s.reqs.filter fun r => r.pos = pos && r.pending).map (·.id))

/-- One of the numbered accesses is still to be performed. -/
def State.waiting (s : State) (ids : List Nat) : Bool :=
  ids.any fun i => (s.batches.any fun b => b.id = i && b.open') || (s.reqs.any fun r => r.id = i && r.unserved)

/-- A FENCE is over (R251): results have returned, jobs that write are done, probes have echoed, and no earlier access of the
task waits to be performed at the scope. -/
def State.fenceOver (s : State) (pos : Nat) (scope : BitVec 3) : Bool :=
  !s.outstanding pos && !(s.ms pos).writing && (s.ms pos).probes = 0 && (s.earlier pos scope).isEmpty

/-- A marker's wait ends when nothing is outstanding (R282), a FENCE's also when its jobs are done and its probes have
echoed (R251); a hold is tried again (R299). -/
def State.markerWake (s : State) (pos : Nat) : State :=
  let m := s.ms pos
  if m.exiting then s.retireIf pos
  else if !m.isParked then s
  else match m.park with
  | .release => s.updM pos (Master.unpark s.cyc)
  | .marker => if s.outstanding pos then s else s.updM pos fun m => { m.unpark s.cyc with place := 0 }
  | .fence sc => if s.fenceOver pos sc then s.updM pos (Master.unpark s.cyc) else s
  | _ => s

/-- Holds the instruction at issue, with its task parked as at a switch marker, until what it must follow has been performed
(R299; notes/assumptions/76.md). -/
def State.hold (s : State) : State := s.parkM s.cur .release 0xF 0

/-- Runs `k` as the master at a position. -/
def State.onBehalf (s : State) (pos : Nat) (k : State → State) : State := { k { s with cur := pos } with cur := s.cur }

/-- A request ends: it leaves the list, its slot frees, and its task's marker is examined. -/
def State.reqEnd (s : State) (r : Req) : State :=
  let s1 := { s with reqs := s.reqs.filter fun x => x.id != r.id }
  let s2 := if r.k.counted then s1.noteRecv r.pos r.lslot else s1
  let s3 := if r.slot then s2.slotFreed (slotPool r.pos) else s2
  s3.markerWake r.pos

/-! ## Retirement and the proof check (R338, R415) -/

/-- EXIT: the slot frees once results have landed and jobs have completed. -/
def State.exitTask (s : State) : State :=
  (s.upd fun m => { m with exiting := true, st := .parked, park := .none, place := 0 }).retireIf s.cur

/-- An orphan's checking instruction (R415): o := CANCELLED, and the task continues at ORPHV or ends quietly. -/
def State.orphaned1 (s : State) (np : Nat) : State :=
  let m := s.me
  if m.orphv = 0 then (s.upd fun m => { m with o := oCancelled }).exitTask
  else s.upd fun m =>
    { m with o := oCancelled, pc := m.orphv, proof := np, orphv := 0, orphan := none, tries := 0, wait := 0, place := 0
             resv := none }

/-- Makes the proof check before `k`. -/
def State.proofCheck (s : State) (k : State → State) : State :=
  match s.me.orphan with
  | some np => s.orphaned1 np
  | none => k s

/-! ## What waits for a write (R216, R251) -/

/-- A write has been applied: holds and fences are tried again. -/
def State.wakeHolds (s : State) : State :=
  (s.masters.filter fun ((_, m) : Nat × Master) => match m.park with | .release | .fence _ => true | _ => false).foldl
    (fun s ((k, _) : Nat × Master) => s.markerWake k) s

/-! ## What a write wakes (R282, R288, R302) -/

/-- Waiters on the words of the written keys: WAITGE and WAITEQ that hold a record. PARK is re-read by its own step. -/
def State.wakeWords (s : State) (keys : List Nat) : State :=
  s.wakeAll fun _ m => match m.park with
    | .fe k 2 true => keys.any fun j => j / 4 = k / 4
    | _ => false

/-- A full/empty bit has become full or empty (R302): every LDPK waiter, then the longest-parked LDSY waiter; or the
longest-parked STSY waiter. -/
def State.wakeFe (s : State) (key : Nat) (full : Bool) : State :=
  if full then
    (s.wakeAll fun _ m => match m.park with | .fe j 3 true => j / 4 = key / 4 | _ => false).wakeOne
      fun _ m => match m.park with | .fe j 0 true => j / 4 = key / 4 | _ => false
  else s.wakeOne fun _ m => match m.park with | .fe j 1 true => j / 4 = key / 4 | _ => false

end Sys2Proof.Machine
end

