-- ==== Sys2Proof/Machine/Operands.lean ====
section
/-! DEFINITION. Operand forms: the second value of a scalar instruction, constants, branch offsets, memory operands and
the register-or-constant fields (R45, R61-R63, R70, R72, R105, R110, R112, R361). -/

namespace Sys2Proof.Machine

/-- The second value b of ADD to SLTU (R105). -/
def Src.val (m : Master) : Src → W64
  | .reg r => m.rs r
  | .imm v => v.signExtend 64
  | .lit v => v

def Src.words : Src → Nat
  | .reg _ => 1
  | .imm _ => 3
  | .lit _ => 5

/-- LI's constant (R112). -/
def LiK.val : LiK → W64
  | .base v => v.signExtend 64
  | .imm v => v.signExtend 64
  | .lit v => v

def LiK.words : LiK → Nat
  | .base _ => 1
  | .imm _ => 3
  | .lit _ => 5

/-- A branch offset in words, signed (R72). -/
def Off.val {n : Nat} : Off n → W64
  | .base o => o.signExtend 64
  | .ext o => o.signExtend 64

def Off.words {n : Nat} : Off n → Nat
  | .base _ => 1
  | .ext _ => 3

/-- The code of TRAP and BKPT, zero-extended (R120). -/
def Off.code {n : Nat} : Off n → W64
  | .base o => o.setWidth 64
  | .ext o => o.setWidth 64

/-- pos and len of BFX and BFI (R110). -/
def BfCtl.pos (m : Master) : BfCtl → Nat
  | .reg sc => ((m.rs sc).extractLsb' 0 6).toNat
  | .const p _ => p.toNat
def BfCtl.len (m : Master) : BfCtl → Nat
  | .reg sc => ((m.rs sc).extractLsb' 8 6).toNat + 1
  | .const _ l => l.toNat + 1
def BfCtl.words : BfCtl → Nat
  | .reg _ => 1
  | .const _ _ => 3

/-- b of CADD, m of CRESTR (R361). -/
def CSrc.signed {n : Nat} (m : Master) : CSrc n → W64
  | .reg r => m.rs r
  | .imm v => v.signExtend 64
def CSrc.mask {n : Nat} (m : Master) : CSrc n → BitVec 16
  | .reg r => (m.rs r).setWidth 16
  | .imm v => v.setWidth 16
def CSrc.words {n : Nat} : CSrc n → Nat
  | .reg _ => 1
  | .imm _ => 3

/-- cursor(cap) + s[idx] * 2^scale + disp, modulo 2^64 (R45). -/
def Master.ea (m : Master) (x : MemOp) : W64 :=
  (m.rc x.cap).cursor + m.rs x.idx * BitVec.ofNat 64 (2 ^ x.scale.toNat) + x.disp.signExtend 64

/-- Scope codes 0b000 and 0b100 are the device (R242). -/
def scopeDev (s : BitVec 3) : Bool := s = 0 || s = 4 || s = 5

/-- Does an ORD code acquire (0b01, 0b11) or release (0b10, 0b11)? (R65) -/
def ordAcq (o : BitVec 2) : Bool := o = 1 || o = 3
def ordRel (o : BitVec 2) : Bool := o = 2 || o = 3

/-- The element type of an integer vector instruction, with its default (R63, R65). -/
def etDef (d : Nat) (et : BitVec 4) : Nat := if et = 0 then d else et.toNat

end Sys2Proof.Machine
end

