-- ==== Sys2Proof/Machine/Flags.lean ====
section
/-! DEFINITION. The status that instructions leave beside their results: the outcome register, TBMASK's destination bits
and ERRST (R25, R26, R217, R276). -/

namespace Sys2Proof.Machine

def Master.setO (m : Master) (o : BitVec 4) : Master := { m with o := o }

/-- ERRST bits (R26). -/
def errRed : Nat := 0
def errCpy : Nat := 1
def errAbu : Nat := 2
def errOvf : Nat := 3
def Master.setErr (m : Master) (b : Nat) : Master := { m with errst := m.errst ||| BitVec.ofNat 4 (2 ^ b) }

/-- TBMASK bits beyond CLB (R25). -/
def tbDie (n : Nat) : Nat := 16 + n
def tbRls : Nat := 48
def tbTier2 : Nat := 49
def tbMsa : Nat := 50

/-- The home that a die's HLT gives for a page, else the home directory's (R204, R355). -/
def State.hltHome (s : State) (die pk : Nat) (p : Page) : Nat := (Tab.find? s.hlt (pk * 32 + die)).getD p.home

/-- The TBMASK bit of a write to data key `k` (R217); none for the own LS. -/
def State.tbBit (s : State) (pos k : Nat) : Option Nat :=
  if isGlobKey k then
    match s.pageOfKey k with
    | some (pk, p) => if p.t2 then some tbTier2 else some (tbDie (s.hltHome (dieOf pos) pk p))
    | none => none
  else if k < 2 ^ 69 then if coreOfLsKey k = coreOf pos then none else some tbRls
  else some (bankOfKey k % 16)

def Master.setTb (m : Master) (b : Option Nat) : Master :=
  match b with
  | some n => { m with tbmask := m.tbmask ||| BitVec.ofNat 64 (2 ^ n) }
  | none => m

/-- The write's TBMASK bit is set at issue. -/
def State.touch (s : State) (pos k : Nat) : State := s.updM pos fun m => m.setTb (s.tbBit pos k)

/-- The same for an atomic, a reduction or a full/empty write, which the memory-side unit performs (R25, R311). -/
def State.touchUnit (s : State) (pos k : Nat) : State :=
  if isGlobKey k && ((s.pageOfKey k).any fun x => x.2.ms) then s.updM pos fun m => m.setTb (some tbMsa) else s.touch pos k

/-- OVF: the outcome, ERRST.OVF, and the launch is doomed (R214). -/
def State.overflow (s : State) (pos : Nat) : State :=
  (s.updM pos fun m => (m.setO oOvf).setErr errOvf).doomBy pos

end Sys2Proof.Machine
end

