-- ==== Sys2Proof/WellFormed.lean ====
section
/-! DEFINITION. Which instructions the encoding admits: the field values that R61-R78 and the entries permit. An
instruction outside it has no word; a word outside it is illegal (R78). -/

namespace Sys2Proof

/-- ET codes (R65). -/
def etB : Nat := 1
def etH : Nat := 2
def etW : Nat := 3
def etD : Nat := 4
def etE4 : Nat := 5
def etE5 : Nat := 6
def etHF : Nat := 7
def etBF : Nat := 8
def etF : Nat := 9
def etDS : Nat := 10

/-- .B .H .W .D and the default (R129). -/
def intEts : List Nat := [0, 1, 2, 3, 4]
/-- .HF .BF .F and the default (R130). -/
def fpEts : List Nat := [0, 7, 8, 9]

/-- TGT is used only with NR = 0b10, which needs the long form (R64, R78). -/
def Hd.ok (h : Hd) : Bool := (h.nr != 2 || h.ext) && (h.nr == 2 || h.tgt == 0)

/-- A head whose entry has no outcome table carries NR 0. -/
def Hd.okNr (h : Hd) (nrs : List Nat) : Bool := h.ok && nrs.contains h.nr.toNat

/-- A base word has no displacement (R63). -/
def MemOp.ok (ext : Bool) (m : MemOp) : Bool := ext || m.disp == 0

/-- ORD among the entry's codes; SCOPE only with an ORD code (R78, R216). -/
def ordOk (ords : List Nat) (ext : Bool) (ord : BitVec 2) (scope : BitVec 3) : Bool :=
  (ext || (ord == 0 && scope == 0)) && ords.contains ord.toNat && scope.toNat < 6 && (ord != 0 || scope == 0)

/-- An element type of the entry; only the default in a base word. -/
def etOk (ets : List Nat) (ext : Bool) (et : BitVec 4) : Bool := ets.contains et.toNat && (ext || et == 0)

/-- A field that only the long form holds. -/
def longOnly (ext : Bool) (zero : Bool) : Bool := ext || zero

def Off.ok {n : Nat} (_ : Off n) : Bool := true

def V3.ok (ets : List Nat) (rm : Bool) (x : V3) : Bool :=
  x.h.ok && etOk ets x.h.ext x.et && (rm || x.rm == 0) && longOnly x.h.ext (x.rm == 0 && x.msk == 0)

def V2.ok (ets : List Nat) (rm : Bool) (x : V2) : Bool :=
  x.h.ok && etOk ets x.h.ext x.et && (rm || x.rm == 0) && longOnly x.h.ext (x.rm == 0 && x.msk == 0)

def V4.ok (x : V4) : Bool :=
  x.h.ok && etOk fpEts x.h.ext x.et && longOnly x.h.ext (x.rm == 0 && x.msk == 0 && x.vc == 0)

/-- The condition codes of VCMP (R132). -/
def vcmpConds : List Nat := [0, 1, 2, 3, 4, 5, 10, 11, 12, 13]
/-- The condition codes of VFCMP (R132). -/
def vfcmpConds : List Nat := [0, 1, 2, 3, 4, 5, 6, 7]

def VCmpA.ok (ets conds : List Nat) (x : VCmpA) : Bool :=
  x.h.ok && etOk ets x.h.ext x.et && conds.contains x.cond.toNat && longOnly x.h.ext (x.msk == 0 && x.cond == 0)

/-- Bits of an element of a type code (R122). -/
def etWidth : Nat → Nat
  | 1 | 5 | 6 | 10 => 8
  | 2 | 7 | 8 => 16
  | 3 | 9 => 32
  | 4 => 64
  | _ => 0

def etIsInt (et : Nat) : Bool := 1 ≤ et && et ≤ 4

/-- The combinations that R134 accepts. -/
def VCvtA.ok (x : VCvtA) : Bool :=
  let d := x.et.toNat
  let c := x.src.toNat
  let wd := etWidth d
  let ws := etWidth c
  x.h.ok && x.h.ext && 1 ≤ d && d ≤ 9 && 1 ≤ c && c ≤ 10 && (etIsInt d || !x.ud) && (etIsInt c || !x.us) &&
  !(d == c && x.ud == x.us) && x.part.toNat < Nat.max ws wd / Nat.min ws wd

/-- The combinations that R135 accepts. -/
def VDsxA.ok (x : VDsxA) : Bool :=
  x.h.ok && x.h.ext && [7, 8, 9].contains x.et.toNat &&
  x.part.toNat < etWidth x.et.toNat / (if x.n4 then 4 else 8)

/-- RM only with a floating type and add (R136). -/
def VRedA.ok (x : VRedA) : Bool :=
  x.h.ok && etOk [0, 1, 2, 3, 4, 7, 8, 9] x.h.ext x.et && x.op != 3 &&
  (x.rm == 0 || (x.et.toNat ≥ 7 && x.op == 0)) && longOnly x.h.ext (x.rm == 0 && x.msk == 0 && x.op == 0)

/-- A register-or-constant field of the tensor block (R70). -/
def tpField (reg : Bool) (v lo hi : Nat) : Bool := if reg then v < 64 else lo ≤ v && v ≤ hi

/-- The tensor block's constants lie within R49 and R70. -/
def TP.ok (t : TP) : Bool :=
  t.acap != 0 && t.bcap != 0 &&
  (if t.sas then t.sa.toNat < 64 else t.sa.toNat % 64 == 0) &&
  (if t.sbs then t.sb.toNat < 64 else t.sb.toNat % 64 == 0) &&
  tpField t.ms t.m.toNat 1 32 && tpField t.ns t.n.toNat 1 32 &&
  (if t.ks then t.k.toNat < 64 else 1 ≤ t.k.toNat && t.k.toNat ≤ 1024) &&
  (match t.mcm.toNat with
    | 0 => t.mc == 0
    | 1 => t.mc.toNat < 16
    | 2 => true
    | _ => false) &&
  (t.qe || t.q == 0)

def Mma.ok (x : Mma) : Bool := x.h.ok && x.h.ext && x.tp.ok

/-- What R164 adds for MMAS. -/
def Mma.okS (x : Mma) : Bool :=
  x.ok && x.tp.acap == x.tp.bcap && !x.tp.ta && !x.tp.tb && !x.tp.qe && x.tp.mcm == 0

/-- Is the tile instruction's ET .F, .W or the default (R167)? -/
def zEts : List Nat := [0, 3, 9]

def ZCvtA.ok (x : ZCvtA) : Bool :=
  x.h.ok && etOk zEts x.h.ext x.et && (!x.ov || x.et != 3) &&
  longOnly x.h.ext (x.rm == 0 && !x.ov && x.scale == 0)

def MemS.ok (ords : List Nat) (x : MemS) : Bool :=
  x.h.ok && ordOk ords x.h.ext x.ord x.scope && x.mem.ok x.h.ext

/-- LDV: RM and OV only on a converting load (R219). -/
def MemV.okL (x : MemV) : Bool :=
  x.h.ok && etOk [0, 1, 2, 3, 4, 7, 8, 9] x.h.ext x.et && ordOk [0, 1] x.h.ext x.ord x.scope && x.mem.ok x.h.ext &&
  (x.et.toNat ≥ 7 || (x.rm == 0 && !x.ov)) && longOnly x.h.ext (x.msk == 0)

def MemV.okS (x : MemV) : Bool :=
  x.h.ok && etOk intEts x.h.ext x.et && ordOk [0, 2] x.h.ext x.ord x.scope && x.mem.ok x.h.ext &&
  x.rm == 0 && !x.ov && longOnly x.h.ext (x.msk == 0)

def MemG.ok (x : MemG) : Bool :=
  x.h.ok && etOk intEts x.h.ext x.et && x.mem.ok x.h.ext && longOnly x.h.ext (x.msk == 0 && x.vi == 0)

/-- The span or scope of a barrier instruction: .CORE and .POD are refused (R307). -/
def spanOk (scope : BitVec 3) : Bool := [0, 2, 3, 4].contains scope.toNat

def BarA.ok (ord : Nat) (x : BarA) : Bool :=
  x.h.ok && (x.ord == 0 || x.ord.toNat == ord) && spanOk x.scope &&
  longOnly x.h.ext (x.ord == 0 && x.scope == 0 && x.tag == 0)

def AmoA.ok (x : AmoA) : Bool :=
  x.h.ok && x.h.ext && [3, 4].contains x.et.toNat && ordOk [0, 1, 2, 3] x.h.ext x.ord x.scope

def RedA.ok (ets : List Nat) (x : RedA) : Bool := x.h.ok && x.h.ext && ets.contains x.et.toNat

/-- The instruction has an encoding. The other units' steps have none and are all well formed. -/
def Instr.wf : Instr → Bool
  | .add _ | .sub _ | .mul _ | .mulh _ | .mulhu _ | .div _ | .divu _ | .rem _ | .remu _ | .and _ | .or _ | .xor _
  | .andn _ | .shl _ | .shr _ | .sra _ | .rot _ | .min _ | .max _ | .minu _ | .maxu _ | .seq _ | .sne _ | .slt _
  | .sltu _ | .sel _ | .addi _ | .li _ | .clz _ | .ctz _ | .popc _ | .mov _ | .sxt _ | .zxt _ | .bfx _ | .bfi _
  | .br _ | .call _ | .bz _ | .bnz _ | .beq _ | .bne _ | .blt _ | .bge _ | .bltu _ | .bgeu _ | .bnr _ | .brdy _
  | .calli _ | .jmpi _ | .ret _ | .nop _ | .trap _ | .bkpt _ | .rdcyc _ => true
  | .boc x => x.code.toNat ≤ 11
  | .mfs x | .mts x => x.num.toNat ≤ 0x14
  | .vadd x | .vsub x | .vmul x | .vmulh x | .vmin x | .vmax x | .vand x | .vor x | .vxor x | .vshl x | .vshr x
  | .vsra x | .vadds x | .vsubs x | .vsel x | .vperm x => x.ok intEts false
  | .vfadd x | .vfsub x | .vfmul x => x.ok fpEts true
  | .vfmin x | .vfmax x => x.ok fpEts false
  | .vabs x | .vmov x => x.ok intEts false
  | .vrcp x | .vrsq x | .vlg2 x => x.ok fpEts true
  | .vex2 x => x.ok fpEts true && (x.rm == 0 || x.et == 7 || x.et == 8)
  | .vfma x => x.ok
  | .vcmp x => x.ok intEts vcmpConds
  | .vfcmp x => x.ok fpEts vfcmpConds
  | .vcvt x => x.ok
  | .vdsx x => x.ok
  | .vred x => x.ok
  | .vbcast x => x.h.ok && etOk intEts x.h.ext x.et && longOnly x.h.ext (x.msk == 0)
  | .vins x => x.h.ok && etOk intEts x.h.ext x.et
  | .vext x => x.h.ok && etOk intEts x.h.ext x.et
  | .vslide x => x.h.ok && etOk intEts x.h.ext x.et && longOnly x.h.ext (x.msk == 0)
  | .mand x | .mor x | .mxor x => x.h.ok
  | .mnot x => x.h.ok
  | .mpop x | .mfirst x => x.h.ok && etOk intEts x.h.ext x.et
  | .mma x => x.ok
  | .mmas x => x.okS
  | .mmaBgs x => x.h.ext && x.h.tgt == 0
  | .zzero x => x.h.ok && etOk zEts x.h.ext x.et
  | .zld x | .zst x => x.h.ok && x.mem.ok x.h.ext
  | .zcvt x => x.ok
  | .qset x => x.h.ok && x.mem.ok x.h.ext && longOnly x.h.ext (x.sc == 0)
  | .qpos x => x.h.ok
  | .atq x => x.h.ok && x.mem.ok x.h.ext && longOnly x.h.ext (x.cQ == 0)
  | .atc x | .atm x | .halopush x => x.h.ok && x.mem.ok x.h.ext
  | .kvapp x => x.h.ok && x.mem.ok x.h.ext && longOnly x.h.ext (x.cS == 0)
  | .kvdesc x => x.h.ok && x.mem.ok x.h.ext && longOnly x.h.ext (x.cS == 0)
  | .ldB x | .ldH x | .ldW x | .ldD x => x.ok [0, 1]
  | .stB x | .stH x | .stW x | .stD x => x.ok [0, 2]
  | .ldv x => x.okL
  | .stv x => x.okS
  | .ldg x | .sts x => x.ok
  | .ldc x => x.h.ok && ordOk [0, 1] x.h.ext x.ord x.scope && x.mem.ok x.h.ext
  | .stc x => x.h.ok && ordOk [0, 2] x.h.ext x.ord x.scope && x.mem.ok x.h.ext
  | .pref x => x.mem.ok x.h.ext
  | .cpy x | .cpyt x => x.h.ok && longOnly x.h.ext (x.disp == 0 && x.sn == 0)
  | .cpyw x => x.h.ok
  | .amsg x => x.h.ok && x.mem.ok x.h.ext && longOnly x.h.ext (x.cH == 0)
  | .hret _ => true
  | .bankmode x => x.h.ok && x.mem.ok x.h.ext && x.mode != 3
  | .halo x => x.h.ok
  | .fence x => x.scope.toNat < 6 && longOnly x.ext (x.ord == 0 && x.scope == 0)
  | .engwait x => x.h.ok && longOnly x.h.ext (x.mask == 0)
  | .geto x => !x.h.ext
  | .yield _ | .engst _ => true
  | .park x => x.mem.ok x.h.ext && x.scope == 0
  | .icsync x => x.mem.ok x.h.ext && x.scope.toNat ≤ 4 && longOnly x.h.ext (x.scope == 0)
  | .qput x | .qget x | .qpeek x | .qcnt x | .lnch x | .lease x => x.h.ok && x.mem.ok x.h.ext
  | .ldsy x | .ldpk x | .feget x | .waiteq x => x.ok [0, 1]
  | .stsy x => x.ok [0, 2]
  | .feset x => x.h.ok && ordOk [0, 2] x.h.ext x.ord x.scope && x.mem.ok x.h.ext
  | .waitge x => x.h.ok && ordOk [0, 1] x.h.ext x.ord x.scope && x.mem.ok x.h.ext && longOnly x.h.ext (x.sb == 0)
  | .bara x => x.ok 2
  | .bart x => x.ok 1
  | .barc x => x.ok 0
  | .amoAdd x | .amoSub x | .amoMin x | .amoMax x | .amoMinu x | .amoMaxu x | .amoAnd x | .amoOr x | .amoXor x
  | .amoSwp x | .amocas x => x.ok
  | .redAdd x | .redMin x | .redMax x | .redAnd x | .redOr x | .redXor x => x.ok [3, 4]
  | .redFadd x => x.ok [9]
  | .redw x => x.h.ok && x.h.ext
  | .cbput x | .cbget x => x.h.ok && x.mem.ok x.h.ext
  | .cbfree x => x.h.ok && x.h.ext
  | .gang x => x.h.ok
  | .spawn x => x.h.ok && longOnly x.h.ext (x.stage == 0)
  | .sqget x => x.h.ok
  | .exit _ | .setprio _ => true
  | .govcfg x => x.h.okNr [0, 1]
  | .dlcfg x => x.h.okNr [0, 1]
  | .csetb _ | .cadd _ | .csub _ | .crestr _ | .cseal _ | .cunseal _ | .cgetb _ | .cgetl _ | .cgetp _ | .ctag _
  | .cclr _ | .cmov _ => true
  | .lrev x | .xinv x => x.h.ok
  | .imprd x => x.h.ok && x.h.ext
  | .plate x => x.h.okNr [0, 1]
  | .prnew x => x.h.ok
  | .prset x | .prpass x | .prcan x => x.h.ok
  | .prst _ => true
  | .prorv x => longOnly x.h.ext (x.imm == 0)
  | .preempt x | .resume x => x.h.ok
  | .freeze _ => true
  | .vxeExecute | .mxeKstep | .mmasSlice | .mxeTileJob | .atqExecute | .abuRequestAccept
  | .abuSliceScan | .abuRecordLand | .atmExecute | .kvappExecute | .kvappPublish
  | .kvdescExecute | .killedKvappComplete | .cpeChunk | .bankSwitchComplete | .haloPushApply
  | .activeMessageServe | .handlerStart | .amsgReply | .fenceProbeEcho | .parkReread
  | .fifoPerform | .syncRemotePerform | .barrierGenAdvance | .amoPerform | .redPerform
  | .submissionDoorbell .. | .dispatchTakeRecord | .gangDispatch .. | .stageItemTake | .stallReport
  | .roundStart | .roundMarkerArrival | .roundEdgeApply | .endSweep | .deadlockExamine
  | .imprdReportWrite | .plateCloseRequest | .plateCloseFinish | .checkpointDurable
  | .checkpointFailure | .preemptComplete | .windowWrite .. | .postedResultReturn
  | .waitlimExpiry | .recordlessReissue | .divideResultWrite | .persistentTokenRelease
  | .writeBatchApply | .writebackApply | .homeCountWindow | .homeMove .. | .requestForward ..
  | .pageTierMigrate | .hltMissFill .. | .faultPacketWrite | .writebackCopyDone
  | .writebackFlashDone .. | .mapExecutable .. | .fuseRaise .. | .translationRequest ..
  | .translationRecordReceive .. | .translationTimeout .. | .codePatch .. | .partitionChange .. | .powerOn
  | .dieBringup .. | .hbmTrainingComplete .. | .powerLoss | .powerCapSet | .islandClockSet ..
  | .powerWindow | .abucfgWrite .. | .registerWrite .. | .unassignedOpcode .. | .fetchFault ..
  | .lineFill | .proofTableReply | .collectorPerform | .leaseComplete .. | .lrevComplete
  | .xinvComplete | .icsyncComplete | .plateComplete | .haloComplete | .uncorrectableError ..
  | .hostMemoryWrite .. | .podAccess .. | .portTraining .. | .spdmRequest .. => true

end Sys2Proof
end

