-- ==== Sys2Proof/Machine/Numfmt.lean ====
section
/-! DEFINITION. Number formats, rounding, conversion and EXP2A (spec/04: R80-R101). A value is an exact dyadic number,
an infinity or NaN; every result is formed exactly and rounded once. -/

namespace Sys2Proof.Machine

/-- An exact value: (-1)^neg * m * 2^e when finite. -/
inductive Num where
  | nan
  | inf (neg : Bool)
  | fin (neg : Bool) (m : Nat) (e : Int)
  deriving DecidableEq, Repr

namespace Num

def isNan : Num → Bool
  | nan => true
  | _ => false
def isInf : Num → Bool
  | inf _ => true
  | _ => false
def isZero : Num → Bool
  | fin _ 0 _ => true
  | _ => false
def sign : Num → Bool
  | nan => false
  | inf n => n
  | fin n _ _ => n

def one : Num := .fin false 1 0

/-- The integer `x`, exactly. -/
def ofInt (x : Int) : Num := .fin (decide (x < 0)) x.natAbs 0

/-- x * 2^k, exactly (R94). -/
def scale (k : Int) : Num → Num
  | fin n m e => .fin n m (e + k)
  | x => x

def negate : Num → Num
  | nan => .nan
  | inf n => .inf !n
  | fin n m e => .fin (!n) m e

def sgn (n : Bool) (m : Nat) : Int := if n then -(m : Int) else (m : Int)

/-- The numerators of two finite values at their lesser exponent, which is the third. -/
def align (n₁ : Bool) (m₁ : Nat) (e₁ : Int) (n₂ : Bool) (m₂ : Nat) (e₂ : Int) : Int × Int × Int :=
  let e := if e₁ ≤ e₂ then e₁ else e₂
  (sgn n₁ (m₁ * 2 ^ (e₁ - e).toNat), sgn n₂ (m₂ * 2 ^ (e₂ - e).toNat), e)

/-- The exact sum; the sign of an exact zero sum is + but under .RDN (R82). -/
def add (rm : Nat) : Num → Num → Num
  | nan, _ => .nan
  | _, nan => .nan
  | inf a, inf b => if a = b then .inf a else .nan
  | inf a, _ => .inf a
  | _, inf b => .inf b
  | fin a 0 _, fin b 0 _ => .fin (if a = b then a else rm == 3) 0 0
  | fin a m e, fin b n f =>
    let (x, y, g) := align a m e b n f
    if x + y = 0 then .fin (rm == 3) 0 0 else .fin (decide (x + y < 0)) (x + y).natAbs g

/-- The exact product; 0 * inf is invalid (R130). -/
def mul : Num → Num → Num
  | nan, _ => .nan
  | _, nan => .nan
  | inf a, inf b => .inf (a != b)
  | inf a, fin b m _ => if m = 0 then .nan else .inf (a != b)
  | fin a m _, inf b => if m = 0 then .nan else .inf (a != b)
  | fin a m e, fin b n f => .fin (a != b) (m * n) (e + f)

/-- Numeric order of values that are not NaN; -0 equals +0. -/
def lt : Num → Num → Bool
  | nan, _ => false
  | _, nan => false
  | inf a, inf b => a && !b
  | inf a, _ => a
  | _, inf b => !b
  | fin a m e, fin b n f => let (x, y, _) := align a m e b n f; decide (x < y)

def eq : Num → Num → Bool
  | nan, _ => false
  | _, nan => false
  | x, y => !lt x y && !lt y x

end Num

/-! ## Rounding (R95, R96) -/

/-- m / 2^d rounded to an integer by a mode of R95, for a value of sign `neg`. -/
def shiftRound (rm : Nat) (neg : Bool) (m d : Nat) : Nat :=
  let q := m / 2 ^ d
  let r := m % 2 ^ d
  if r = 0 then q else
  match rm with
  | 0 => if 2 * r > 2 ^ d then q + 1 else if 2 * r = 2 ^ d then q + q % 2 else q
  | 1 => q
  | 2 => if neg then q else q + 1
  | _ => if neg then q + 1 else q

/-- m * 2^e rounded to a multiple of 2^q, in units of 2^q. -/
def roundAt (rm : Nat) (neg : Bool) (m : Nat) (e q : Int) : Nat :=
  if q ≤ e then m * 2 ^ (e - q).toNat else shiftRound rm neg m (q - e).toNat

/-- A floating format: mantissa and exponent widths, bias, and whether it is E4M3 (R91). -/
structure Ff where
  t : Nat
  w : Nat
  bias : Int
  e4 : Bool
  deriving DecidableEq, Repr

def ffE4 : Ff := { t := 3, w := 4, bias := 7, e4 := true }
def ffE5 : Ff := { t := 2, w := 5, bias := 15, e4 := false }
def ffHF : Ff := { t := 10, w := 5, bias := 15, e4 := false }
def ffBF : Ff := { t := 7, w := 8, bias := 127, e4 := false }
def ffF : Ff := { t := 23, w := 8, bias := 127, e4 := false }

def Ff.signBit (f : Ff) : Nat := 2 ^ (f.t + f.w)
/-- Code of +inf; for E4M3 one past the largest finite code is NaN. -/
def Ff.infCode (f : Ff) : Nat := (2 ^ f.w - 1) * 2 ^ f.t
def Ff.maxCode (f : Ff) : Nat := if f.e4 then 0x7E else f.infCode - 1
/-- The canonical NaN (R81, R91). -/
def Ff.nan (f : Ff) : Nat := if f.e4 then 0x7F else f.infCode + 2 ^ (f.t - 1)
def Ff.withSign (f : Ff) (neg : Bool) (c : Nat) : Nat := if neg then f.signBit + c else c

/-- The value of an encoding (R91). -/
def Ff.num (f : Ff) (c : Nat) : Num :=
  let neg := c / f.signBit % 2 = 1
  let e := c / 2 ^ f.t % 2 ^ f.w
  let m := c % 2 ^ f.t
  if f.e4 then
    if e = 15 && m = 7 then .nan
    else if e = 0 then .fin neg m (1 - f.bias - f.t) else .fin neg (2 ^ f.t + m) (e - f.bias - f.t)
  else if e = 2 ^ f.w - 1 then if m = 0 then .inf neg else .nan
  else if e = 0 then .fin neg m (1 - f.bias - f.t) else .fin neg (2 ^ f.t + m) (e - f.bias - f.t)

/-- The result of a finite value beyond the format's range (R97). -/
def Ff.overflow (f : Ff) (rm : Nat) (ns neg : Bool) : Nat :=
  f.withSign neg <|
  if !ns || f.e4 then f.maxCode
  else match rm with
  | 0 => f.infCode
  | 1 => f.maxCode
  | 2 => if neg then f.maxCode else f.infCode
  | _ => if neg then f.infCode else f.maxCode

/-- Rounds a value once to the format (R95-R97). -/
def Ff.round (f : Ff) (rm : Nat) (ns : Bool) : Num → Nat
  | .nan => f.nan
  | .inf neg => if ns then (if f.e4 then f.nan else f.withSign neg f.infCode) else f.withSign neg f.maxCode
  | .fin neg m e =>
    if m = 0 then f.withSign neg 0
    else
      let emin : Int := 1 - f.bias - f.t
      let top : Int := e + (Nat.log2 m : Int) - f.t
      let q := if top ≤ emin then emin else top
      let c := (q - emin).toNat * 2 ^ f.t + roundAt rm neg m e q
      if c > f.maxCode then f.overflow rm ns neg else f.withSign neg c

/-- A value rounded to a format and read back. -/
def Ff.fit (f : Ff) (rm : Nat) (x : Num) : Num := f.num (f.round rm true x)

/-! ## Integers (R98) -/

/-- Rounds to an integer and saturates to [lo, hi]; NaN gives 0. -/
def roundInt (rm : Nat) (lo hi : Int) : Num → Int
  | .nan => 0
  | .inf neg => if neg then lo else hi
  | .fin neg m e =>
    let x := Num.sgn neg (roundAt rm neg m e 0)
    if x < lo then lo else if x > hi then hi else x

/-- Two's complement. -/
def toI (w c : Nat) : Int := if c < 2 ^ (w - 1) then (c : Int) else (c : Int) - 2 ^ w
def ofI (w : Nat) (x : Int) : Nat := (x % (2 ^ w : Nat)).toNat
/-- Clamps to the signed range of w bits (R129). -/
def satI (w : Nat) (x : Int) : Int :=
  if x < -(2 ^ (w - 1) : Nat) then -(2 ^ (w - 1) : Nat) else if x ≥ (2 ^ (w - 1) : Nat) then (2 ^ (w - 1) : Nat) - 1 else x
/-- Saturation to INT32 (R148). -/
def sat32 (x : Int) : Int := satI 32 x

/-! ## Dual-shift formats (R92, R93, R99) -/

/-- A term in units of 2^-6: sign bit and code. -/
def dsTerm (s e : Nat) : Int := if e = 7 then 0 else Num.sgn (s = 1) (2 ^ (6 - e))
/-- A DS8 element in units of 2^-6. -/
def ds8Units (c : Nat) : Int := dsTerm (c / 128 % 2) (c / 16 % 8) + dsTerm (c / 8 % 2) (c % 8)
def ds4Units (c : Nat) : Int := dsTerm (c / 8 % 2) (c % 8)

/-- A value in units of 2^-6; it has no -0. -/
def dsNum (u : Int) : Num := .fin (decide (u < 0)) u.natAbs (-6)

/-- Terms of code 0 to 6 in a DS8 encoding. -/
def ds8Terms (c : Nat) : Nat := (if c / 16 % 8 = 7 then 0 else 1) + (if c % 8 = 7 then 0 else 1)

/-- The canonical DS8 encoding of a value: fewest terms, then the least byte. -/
def ds8Code (u : Int) : Nat :=
  let cs := (List.range 256).filter fun c => ds8Units c = u
  ([0, 1, 2].findSome? fun n => cs.find? fun c => ds8Terms c = n).getD 0x77

/-- The DS4 encoding of a value; zero is 0x7. -/
def ds4Code (u : Int) : Nat := if u = 0 then 7 else ((List.range 16).find? fun c => ds4Units c = u).getD 7

/-- Rounds a value among `vals` (units of 2^-6), with ties of .RNE toward the smaller magnitude, and saturates to the
bounds +-top. -/
def dsRound (rm : Nat) (vals : List Int) (top : Int) : Num → Int
  | .nan => 0
  | .inf neg => if neg then -top else top
  | .fin neg m e =>
    let x : Num := .fin neg m e
    let v := fun (u : Int) => dsNum u
    if Num.lt x (v (-top)) then -top
    else if Num.lt (v top) x then top
    else
      let lo := vals.foldl (fun a u => if !Num.lt x (v u) && u > a then u else a) (-top)
      let hi := vals.foldl (fun a u => if !Num.lt (v u) x && u < a then u else a) top
      if lo = hi then lo else
      match rm with
      | 0 =>
        let d1 := Num.add 0 x (Num.negate (v lo))
        let d2 := Num.add 0 (v hi) (Num.negate x)
        if Num.lt d1 d2 then lo else if Num.lt d2 d1 then hi else if lo.natAbs ≤ hi.natAbs then lo else hi
      | 1 => if lo ≥ 0 then lo else hi
      | 2 => hi
      | _ => lo

def ds8Round (rm : Nat) (x : Num) : Nat := ds8Code (dsRound rm ((List.range 256).map ds8Units) 128 x)
def ds4Round (rm : Nat) (x : Num) : Nat := ds4Code (dsRound rm ((List.range 16).map ds4Units) 64 x)

/-! ## Block formats (R88, R89, R94) -/

def fmtRaw : Nat := 0
def fmtF : Nat := 8
/-- Bits of an element; 0 where the code is RAW or reserved. -/
def fmtBits : Nat → Nat
  | 1 | 2 | 4 | 5 | 9 => 8
  | 3 | 10 => 4
  | 6 | 7 => 16
  | 8 => 32
  | _ => 0

/-- The value of an encoding of a format, under a block scale (R94). -/
def fmtNum (fmt c : Nat) (sc : Int) : Num :=
  Num.scale sc <|
  match fmt with
  | 1 => .ofInt (toI 8 c)
  | 2 => .ofInt c
  | 3 => .ofInt (toI 4 c)
  | 4 => ffE4.num c
  | 5 => ffE5.num c
  | 6 => ffHF.num c
  | 7 => ffBF.num c
  | 8 => ffF.num c
  | 9 => dsNum (ds8Units c)
  | _ => dsNum (ds4Units c)

def bfdFmt (b : BitVec 16) : Nat := (b.extractLsb' 8 8).toNat
def bfdScale (b : BitVec 16) : Int := (b.extractLsb' 0 8).toInt

/-- Element `i` of a run of bytes. -/
def fmtElem (fmt : Nat) (bs : List Byte) (i : Nat) : Nat :=
  let b := fun (j : Nat) => (bs.getD j 0).toNat
  match fmtBits fmt with
  | 8 => b i
  | 16 => b (2 * i) + 256 * b (2 * i + 1)
  | 32 => leNat ((bs.drop (4 * i)).take 4)
  | _ => b (i / 2) / 16 ^ (i % 2) % 16

/-! ## Lane types (R122) -/

/-- The floating format of an ET code. -/
def etFf : Nat → Ff
  | 5 => ffE4
  | 6 => ffE5
  | 7 => ffHF
  | 8 => ffBF
  | _ => ffF

/-- The value of a lane of type `et`; an integer is unsigned when `u`. -/
def etNum (et : Nat) (u : Bool) (c : Nat) : Num :=
  if etIsInt et then .ofInt (if u then (c : Int) else toI (etWidth et) c)
  else if et = 10 then dsNum (ds8Units c)
  else (etFf et).num c

/-- Converts a value into a lane of type `et` (R97, R98). -/
def etRound (et : Nat) (u : Bool) (rm : Nat) (ns : Bool) (x : Num) : Nat :=
  if etIsInt et then
    let w := etWidth et
    if u then ofI w (roundInt rm 0 (2 ^ w - 1) x)
    else ofI w (roundInt rm (-(2 ^ (w - 1) : Nat)) ((2 ^ (w - 1) : Nat) - 1) x)
  else if et = 10 then ds8Round rm x
  else (etFf et).round rm ns x

/-! ## EXP2A (R100, R101) -/

def exp2T : List Nat :=
  [0x3F800000, 0x3F8164D2, 0x3F82CD87, 0x3F843A29, 0x3F85AAC3, 0x3F871F62, 0x3F88980F, 0x3F8A14D5,
   0x3F8B95C2, 0x3F8D1ADF, 0x3F8EA43A, 0x3F9031DC, 0x3F91C3D3, 0x3F935A2B, 0x3F94F4F0, 0x3F96942D,
   0x3F9837F0, 0x3F99E046, 0x3F9B8D3A, 0x3F9D3EDA, 0x3F9EF532, 0x3FA0B051, 0x3FA27043, 0x3FA43516,
   0x3FA5FED7, 0x3FA7CD94, 0x3FA9A15B, 0x3FAB7A3A, 0x3FAD583F, 0x3FAF3B79, 0x3FB123F6, 0x3FB311C4,
   0x3FB504F3, 0x3FB6FD92, 0x3FB8FBAF, 0x3FBAFF5B, 0x3FBD08A4, 0x3FBF179A, 0x3FC12C4D, 0x3FC346CD,
   0x3FC5672A, 0x3FC78D75, 0x3FC9B9BE, 0x3FCBEC15, 0x3FCE248C, 0x3FD06334, 0x3FD2A81E, 0x3FD4F35B,
   0x3FD744FD, 0x3FD99D16, 0x3FDBFBB8, 0x3FDE60F5, 0x3FE0CCDF, 0x3FE33F89, 0x3FE5B907, 0x3FE8396A,
   0x3FEAC0C7, 0x3FED4F30, 0x3FEFE4BA, 0x3FF28177, 0x3FF5257D, 0x3FF7D0DF, 0x3FFA83B3, 0x3FFD3E0C]

def exp2C1 : Nat := 0x3F317218
def exp2C2 : Nat := 0x3E75FDF0

/-- EXP2A over FP32 patterns. -/
def exp2a (c : Nat) : Nat :=
  match ffF.num c with
  | .nan => ffF.nan
  | .inf neg => if neg then 0 else ffF.infCode
  | .fin neg m e =>
    -- x in units of 2^-149
    let x : Int := Num.sgn neg (m * 2 ^ (e + 149).toNat)
    let u : Int := (2 ^ 149 : Nat)
    if x ≤ -150 * u then 0
    else if x ≥ 128 * u then ffF.infCode
    else
      let n := x / u
      let f := (x % u).toNat
      let i := f / 2 ^ 143
      let r : Num := .fin false (f % 2 ^ 143) (-149)
      let t := ffF.fit 0 (Num.add 0 (Num.mul r (ffF.num exp2C2)) (ffF.num exp2C1))
      let p := ffF.fit 0 (Num.add 0 (Num.mul r t) Num.one)
      ffF.round 0 true (Num.scale n (Num.mul (ffF.num (exp2T.getD i 0)) p))

/-! ## Reciprocal, root and logarithm (R131) -/

/-- 1/x rounded once: a quotient with a sticky bit below it. -/
def recip (f : Ff) (rm : Nat) : Num → Nat
  | .nan => f.nan
  | .inf neg => f.withSign neg 0
  | .fin neg m e =>
    if m = 0 then f.withSign neg f.infCode
    else
      let k := 2 * (Nat.log2 m) + 64
      let q := 2 ^ k / m
      f.round rm true (.fin neg (2 * q + if 2 ^ k % m = 0 then 0 else 1) (-(k : Int) - 1 - e))

/-- Integer square root by bits from 2^(n-1) down. -/
def isqrtFrom (x : Nat) : Nat → Nat → Nat
  | 0, r => r
  | n + 1, r => if (r + 2 ^ n) * (r + 2 ^ n) ≤ x then isqrtFrom x n (r + 2 ^ n) else isqrtFrom x n r

/-- 1/sqrt(x) rounded once. -/
def rsqrt (f : Ff) (rm : Nat) : Num → Nat
  | .nan => f.nan
  | .inf neg => if neg then f.nan else 0
  | .fin neg m e =>
    if m = 0 then f.withSign neg f.infCode
    else if neg then f.nan
    else
      let odd := e % 2 = 1
      let m' := if odd then 2 * m else m
      let e' := if odd then e - 1 else e
      let k := Nat.log2 m' + 64
      let x := 2 ^ (2 * k) / m'
      let r := isqrtFrom x (k + 1) 0
      f.round rm true (.fin false (2 * r + if r * r * m' = 2 ^ (2 * k) then 0 else 1) (-(k : Int) - 1 - e' / 2))

/-- The first `n` bits of log2(y / 2^p) for y / 2^p in [1, 2), by repeated squaring. -/
def log2Bits (p y : Nat) : Nat → Nat
  | 0 => 0
  | n + 1 =>
    let z := y * y / 2 ^ p
    if z ≥ 2 ^ (p + 1) then 2 ^ n + log2Bits p (z / 2) n else log2Bits p z n

/-- log2(x) rounded once. A power of two is exact; any other logarithm is irrational, so 100 bits of its fraction and
a sticky bit decide the rounding (notes/assumptions/13.md). -/
def lg2 (f : Ff) (rm : Nat) : Num → Nat
  | .nan => f.nan
  | .inf neg => if neg then f.nan else f.infCode
  | .fin neg m e =>
    if m = 0 then f.withSign true f.infCode
    else if neg then f.nan
    else
      let l := Nat.log2 m
      let n : Int := e + l
      if m = 2 ^ l then f.round rm true (.fin (decide (n < 0)) n.natAbs 0)
      else
        let v : Int := n * (2 ^ 100 : Nat) + log2Bits 256 (m * 2 ^ (256 - l)) 100
        if v ≥ 0 then f.round rm true (.fin false (2 * v.toNat + 1) (-101))
        else f.round rm true (.fin true (2 * (-v - 1).toNat + 1) (-101))

end Sys2Proof.Machine
end

