-- ==== Sys2Proof/Machine/Access.lean ====
section
/-! DEFINITION. What the access instructions share: footprint overlap, the outcomes of R213 in their order, control pages
and supervisor windows, and how a load's result and a store's bytes travel (R205-R209, R212-R217, R438, R439, R455). -/

namespace Sys2Proof.Machine

/-! ## Footprints (R207, R208) -/

/-- The own LS in its remote form is the own LS. -/
def canonEa (pos sp ea : Nat) : Nat :=
  if sp = 1 && 0x400000 ≤ ea && ea < 0x800000 && clusterOf pos * 16 + (ea - 0x400000) / 0x40000 = coreOf pos then
    (ea - 0x400000) % 0x40000
  else ea

def Fp.meets (f : Fp) (sp lo hi : Nat) : Bool := f.sp = sp && f.lo < hi && lo < f.hi

/-- GLOB, CODE and PLATE name one address space. -/
def spClass (sp : Nat) : Nat := if sp = 4 || sp = 5 then 3 else sp

/-- A footprint of an access. -/
def mkFp (pos sp ea len : Nat) : List Fp :=
  if len = 0 then [] else [{ sp := spClass sp, lo := canonEa pos sp ea, hi := canonEa pos sp ea + len }]

/-- The 64-byte blocks of a job's range (R207). -/
def mkFpBlk (pos sp ea len : Nat) (opn : Nat := 0) (cur : W64 := 0) : List Fp :=
  (mkFp pos sp ea len).map fun f => { f with lo := f.lo / 64 * 64, hi := (f.hi + 63) / 64 * 64, opn := opn, cur := cur }

/-- Jobs of the task that are accepted and not complete. -/
def Master.jobs (m : Master) : List Job := m.mxe ++ m.cpe ++ m.att

/-- The write range of a post that waits for records, in the 64-byte blocks of its acceptance (R183, R207). -/
def Post.fp (p : Post) : Fp := { sp := 1, lo := p.ea.toNat / 64 * 64, hi := (p.lim + 63) / 64 * 64 }
def Master.postFps (m : Master) : List Fp := m.posts.map Post.fp

/-- The access meets an in-flight job's range (R208). -/
def Master.overlaps (m : Master) (pos sp ea len : Nat) (write : Bool) : Bool :=
  (mkFp pos sp ea len).any fun f =>
    (m.jobs.any fun j => j.wr.any (Fp.meets · f.sp f.lo f.hi) || (write && j.rd.any (Fp.meets · f.sp f.lo f.hi))) ||
    m.postFps.any (Fp.meets · f.sp f.lo f.hi)

/-- A switch of a bank that the extent touches is in progress (R200). -/
def State.switching (s : State) (pos sp ea len : Nat) : Bool :=
  sp = 2 && (s.banksIn pos ea len).any fun b => !b.sw.isEmpty

/-- The lines of GLOB extents. -/
def linesOf (ext : List (Nat × Nat)) : List Nat :=
  ((ext.filter fun e => isGlobKey e.1).flatMap fun (k, n) => (blocksOf k n).map (· / 64)).eraseDups

/-- The lines of the extents whose tokens another core of the die holds for a persistent request that has been answered, so that
the write cannot collect them yet (R202, R281). -/
def State.claimed (s : State) (pos : Nat) (ext : List (Nat × Nat)) : List Nat :=
  (linesOf ext).filter fun l => !s.canTake (l1Of pos) l true

/-! ## The shared outcomes (R213) -/

/-- The key names the issuing core's own LS. -/
def ownLs (pos k : Nat) : Bool := 2 ^ 68 ≤ k && k < 2 ^ 69 && coreOfLsKey k = coreOf pos
def isLs (k : Nat) : Bool := 2 ^ 68 ≤ k && k < 2 ^ 69
def isClu (k : Nat) : Bool := 2 ^ 69 ≤ k && k < 2 ^ 72
def remoteLs (pos k : Nat) : Bool := isLs k && coreOfLsKey k != coreOf pos

/-- An instruction that acts as an acquire when it is performed (R241, R304). -/
def isAcquire : Instr → Bool
  | .ldB x | .ldH x | .ldW x | .ldD x | .ldsy x | .ldpk x | .feget x | .waiteq x => ordAcq x.ord
  | .ldv x => ordAcq x.ord
  | .ldc x => ordAcq x.ord
  | .waitge x => ordAcq x.ord
  | .amoAdd x | .amoSub x | .amoMin x | .amoMax x | .amoMinu x | .amoMaxu x | .amoAnd x | .amoOr x | .amoXor x | .amoSwp x
  | .amocas x => ordAcq x.ord
  | _ => false

/-- Atomics and reductions, which are posted. -/
def isAtomic : Instr → Bool
  | .amoAdd _ | .amoSub _ | .amoMin _ | .amoMax _ | .amoMinu _ | .amoMaxu _ | .amoAnd _ | .amoOr _ | .amoXor _ | .amoSwp _
  | .amocas _ | .redAdd _ | .redMin _ | .redMax _ | .redAnd _ | .redOr _ | .redXor _ | .redFadd _ => true
  | _ => false

/-- The memory-side unit of a location, by the home of its page (R248). -/
def State.msUnit (s : State) (k : Nat) : Option Nat :=
  if isGlobKey k then (s.pageOfKey k).bind fun x => if x.2.ms then some x.2.home else none else none

/-- Operations at a memory-side unit travel on one channel from their task (R247). -/
def State.sameUnit (s : State) (j k : Nat) : Bool := (s.msUnit j).isSome && s.msUnit j = s.msUnit k

/-- What a load that waits to be performed in its own die reads, as (key, bytes); none for every other request. -/
def Req.own (r : Req) : Option (List (Nat × Nat)) :=
  match r.k with
  | .unit i k _ _ _ _ _ => (match i with
    | .ldB _ | .ldH _ | .ldW _ | .ldD _ | .ldv _ | .ldc _ | .ldg _ => if remoteLs r.pos k then none else some r.ext
    | _ => none)
  | _ => none

/-- A store to control pages that waits to be performed. -/
def Req.toCtl (r : Req) : Bool :=
  match r.k with
  | .unit i k _ _ _ _ _ => (match i with | .stB _ | .stH _ | .stW _ | .stD _ | .stv _ | .stc _ => isGlobKey k | _ => false)
  | _ => false

/-- Requests of the task that are not performed and that an access of [key, key + len) must follow: acquires (R234, case 3), and
accesses of common bytes (case 1), of the same doublewords, or at the same memory-side unit (R247). Messages to one LS keep their order
by R209. -/
def State.reqsAhead (s : State) (pos key len : Nat) : List Nat :=
  (s.reqs.filter fun r => r.pos = pos && (match r.k with
    | .unit i k _ _ _ _ _ => (r.mark && isAcquire i) ||
        (isAtomic i && (s.sameUnit k key || (!isLs k && k / 8 * 8 < key + len && key < k / 8 * 8 + 8))) ||
        ((r.own.isSome || r.toCtl) && r.ext.any fun e => s.sameUnit e.1 key || (e.1 < key + len && key < e.1 + e.2))
    | _ => false)).map (·.id)

/-- Writes of the task that its die has not performed yet and that an access must follow: those that `f` selects by their cells. -/
def State.heldAhead (s : State) (pos : Nat) (f : Nat → Bool) : List Nat :=
  (s.batches.filter fun b => b.pos = pos && b.hold && !b.applied && b.cells.any fun (c : Host.Cell) => f c.1).map (·.id)

/-- What a write or an operation at a unit follows of its task's accesses: requests, and held writes of the same bytes (R234, case 1) or
to the same memory-side unit (R247). -/
def State.unitAhead (s : State) (pos key len : Nat) : List Nat :=
  s.reqsAhead pos key len ++ s.heldAhead pos fun k => (key ≤ k && k < key + len) || s.sameUnit k key

/-- What a load follows: requests, and at a memory-side unit the task's writes to it. Elsewhere it reads the task's own held writes (R237), as
a release holds back no later access (R216). -/
def State.loadAhead (s : State) (pos : Nat) (ext : List (Nat × Nat)) : List Nat :=
  (ext.flatMap fun e => s.reqsAhead pos e.1 e.2 ++ s.heldAhead pos (s.sameUnit · e.1)).eraseDups

/-! ## Supervisor windows: where they stand (R438) -/

/-- WINBASE of a die and SAVEBASE (notes/assumptions/12.md). -/
def winBase (die : Nat) : Nat := 0xFFFFE00000000000 + die * 2 ^ 27
def saveBase : Nat := 0xFFFFD00000000000
def ctlBase : Nat := 0xFFFFF00000000000

/-- The master that a window of a die shows: index 16 * (16 * cluster + core) + slot, or 4,096 + n. -/
def winPos (die idx : Nat) : Option Nat :=
  if idx < 4096 then some (die * 4096 + idx) else if idx < 4100 then some (svcBase + die * 4 + (idx - 4096)) else none

/-- The master of the window at a window address. -/
def winOf (va : Nat) : Option Nat := winPos ((va - winBase 0) / 2 ^ 27) ((va - winBase 0) % 2 ^ 27 / 16384)

/-- The master's posted results have landed and its accepted jobs are complete, but for those that its fault holds; started
scans have landed (R32, R158). -/
def State.settled (s : State) (pos : Nat) : Bool :=
  let m := s.ms pos
  m.div.isNone && !(s.reqs.any fun r => r.pos = pos && r.k != .resolve) && (m.vxe ++ m.mxe ++ m.cpe ++ m.att).all (·.held) &&
  !(s.scans.any fun x => x.pos = pos && x.acc && x.img.isSome)

/-- A frozen master whose results have not all landed. -/
def State.unsettled (s : State) (p : Nat) : Bool := (s.ms p).st = .frozen && (s.ms p).kind != .empty && !s.settled p

/-- The bytes belong to the window of a frozen master that is not settled: what they hold is served once it is (R439). STATE is
served at any time. -/
def State.windowWaits (s : State) (key len : Nat) : Bool :=
  let va := key % 2 ^ 64
  isGlobKey key && winBase 0 ≤ va && va < winBase 32 && !(0x3B0 ≤ va % 16384 && va % 16384 + len ≤ 0x3B8) &&
  (winOf va).any s.unsettled

/-- Parks an access until the window's master has settled. -/
def State.awaitWindow (s : State) (key : Nat) : State :=
  s.parkM s.cur (.window ((winOf (key % 2 ^ 64)).getD 0)) 0xF (BitVec.ofNat 64 (key % 2 ^ 64))

/-- Wakes the masters of a die that wait for a line's tokens to move (R282). -/
def State.wakeBusy (s : State) (die : Nat) : State := s.wakeAll fun k m => dieOf k = die && m.park = .busy

/-- Starts a transient request for each of the lines that the core does not ask for already. -/
def State.askLines (s : State) (write : Bool) (lines : List Nat) : State :=
  lines.foldl (fun s l =>
    if (s.core (l1Of s.cur)).filling l then s
    else s.updCore (l1Of s.cur) fun x => { x with fills := x.fills ++ [(l, write, s.cyc + s.returnBound s.cur (l * 64))] }) s

/-- The failed attempts of a task on the lines of one access call for persistent requests: eight on one of them, or so many on all of
them together that an access over many lines still succeeds within 64 (R202, R281; notes/assumptions/98.md). -/
def Master.persists (m : Master) (lines : List Nat) : Bool :=
  let n := lines.map fun l => Tab.get 0 m.att8 l
  (n.any fun c => 8 ≤ c) || 48 ≤ n.sum

/-- A failed attempt of the issuing task on the lines `all` of one access, for want of `miss` (R202, R281): tokens that were held for it
are so no longer; an attempt that starts a request is counted; and persistent requests are issued, in one cycle for all of the access's
lines, so that their tokens arrive together. -/
def State.attempt (s : State) (write : Bool) (all miss : List Nat) : State :=
  let core := l1Of s.cur
  let mine := fun (x : Pers) => x.pos = s.cur && all.contains x.line
  let s0 :=
    if (s.core core).pers.any fun x => mine x && x.got then
      (s.updCore core fun c => { c with pers := c.pers.filter fun x => !(mine x && x.got) }).wakeBusy (dieOf s.cur)
    else s
  let new := miss.filter fun l => !(s.core core).filling l
  let s1 := (s0.upd fun m => { m with att8 := new.foldl (fun t l => Tab.set 0 t l (Tab.get 0 t l + 1)) m.att8 }).askLines write new
  if new.isEmpty || !s1.me.persists all then s1
  else
    (s1.askLines write all).updCore core fun c =>
      { c with pers := (c.pers.filter fun x => !mine x) ++ all.map fun l => { line := l, pos := s.cur, at' := s.cyc, got := false } }

/-- BUSY from token transfer: the attempt on the lines `all` asks for those that it lacks (R213, R281). -/
def State.transferBusy (s : State) (h : Hd) (words : Nat) (write : Bool) (all miss : List Nat) (a : W64) : State :=
  (s.attempt write all miss).notReady h words oBusy .busy a

/-- Checks, proof check, FULL and BUSY in their order, then `k` at the byte's key. An access waits for a window's master to settle
(R439). -/
def State.access (s : State) (h : Hd) (words : Nat) (a : Acc) (k : State → Nat → State) : State :=
  match s.check s.cur a with
  | some f => s.fault f
  | none => s.proofCheck fun s =>
    match physKey s s.cur a.cap.space a.ea with
    | none => s.fault (capFlt cSpace 3 a.opn a.cap a.ea)
    | some key =>
      if s.windowWaits key a.len then s.awaitWindow key
      else if s.slotFull s.cur key then s.notReady h words oFull (.slot (s.bankOf key)) (BitVec.ofNat 64 a.ea)
      else if s.switching s.cur a.cap.space a.ea a.len || s.me.overlaps s.cur a.cap.space a.ea a.len a.excl then
        s.notReady h words oBusy .busy (BitVec.ofNat 64 a.ea)
      else k s key

/-- The same for an instruction whose point of effect is its issue: it first waits for the task's accesses that it must follow (R299). -/
def State.accessHeld (s : State) (h : Hd) (words : Nat) (a : Acc) (k : State → Nat → State) : State :=
  s.access h words a fun s key => if !(s.unitAhead s.cur key a.len).isEmpty then s.hold else k s key

/-! ## Control pages (R438, R439, R455, R456) -/

/-- ENGST's word (R289). -/
def Master.engst (m : Master) : W64 :=
  let k := Nat.min (m.cAcc - m.cDone - m.cFail) 255
  let posts := m.posts.length + (m.att.filter fun j => match j.k with | .atq .. => true | _ => false).length
  BitVec.ofNat 64 (m.vxe.length + m.mxe.length * 4 + m.cpe.length * 16 + m.att.length * 64 +
    (if m.cRep then 256 else 0) + Nat.min posts 4 * 512 + k * 65536)

def tileOf (core phys : Nat) : Nat := (core * 16 + phys) * 1024

/-- The 8 bytes at offset `off` (a multiple of 8) of the window of a master, or of a save record (R438). -/
def winWord (s : State) (m : Master) (core st : Nat) (save : Option Save) (off : Nat) : W64 :=
  let big := fun (x : Nat) (i : Nat) => BitVec.ofNat 64 (x / 2 ^ (64 * i))
  if off < 0x200 then m.rs (BitVec.ofNat 6 (off / 8))
  else if off < 0x300 then big (m.rc (BitVec.ofNat 4 ((off - 0x200) / 16))).bits.toNat ((off / 8) % 2)
  else if off < 0x380 then big (m.rm (BitVec.ofNat 3 ((off - 0x300) / 16))).toNat ((off / 8) % 2)
  else if off < 0x3A0 then m.rq (BitVec.ofNat 2 ((off - 0x380) / 8))
  else if off = 0x3A0 then m.pc
  else if off = 0x3A8 then m.o.setWidth 64
  else if off = 0x3B0 then BitVec.ofNat 64 st
  else if off = 0x3B8 then BitVec.ofNat 64 m.wait
  else if off = 0x3C0 then m.orphv
  else if off = 0x3C8 then m.wlim.setWidth 64
  else if off = 0x3D0 then m.rlim.setWidth 64
  else if off = 0x3D8 then m.errst.setWidth 64
  else if off = 0x3E0 then BitVec.ofNat 64 m.proof
  else if off = 0x3E8 then m.engst
  else if off < 0x400 then 0
  else if off < 0x1400 then big (m.rv (BitVec.ofNat 5 ((off - 0x400) / 128))).toNat ((off / 8) % 16)
  else if off = 0x1400 then BitVec.ofNat 64 m.zsel
  else if off = 0x1408 then
    if m.zsel ≥ m.zcount then 0 else
    match save with
    | some r => if r.ztags.getD m.zsel false then 1 else 0
    | none => if s.ztag.contains (core * 16 + m.zbase + m.zsel) then 1 else 0
  else if 0x2000 ≤ off && off < 0x3000 && m.zsel < m.zcount then
    let e := (off - 0x2000) / 4
    let at' := fun (i : Nat) => match save with
      | some r => Tab.get 0 r.tiles (m.zsel * 1024 + i)
      | none => Tab.get 0 s.tiles (tileOf core (m.zbase + m.zsel) + i)
    at' (e + 1) ++ at' e
  else 0

/-- STATE as the window gives it (R438). -/
def Master.stateCode (m : Master) : Nat :=
  match m.kind, m.st with
  | .empty, _ => 4
  | _, .ready => 0
  | _, .parked => 1
  | _, .frozen => 2

/-- Where the task of a save record stands until its results and jobs have ended (R441). -/
def State.savingAt (s : State) (key : Nat) : Option Nat :=
  (List.find? (fun ((k, _) : Nat × Master) => k / 2 ^ 24 = key + 1) s.masters).map Prod.fst

/-- The doubleword of a window, a save record or an identity record; none for other control bytes, which memory holds. -/
def State.ctlWord (s : State) (part va : Nat) : Option W64 :=
  if winBase 0 ≤ va && va < winBase 32 then
    let die := (va - winBase 0) / 2 ^ 27
    match winPos die ((va - winBase die) / 16384) with
    | none => some 0
    | some pos =>
      let m := s.ms pos
      let off := va % 16384 / 8 * 8
      if off = 0x3B0 then some (BitVec.ofNat 64 m.stateCode)
      else if m.kind != .empty && m.st = .frozen then some (winWord s m (coreOf pos) m.stateCode none off)
      else some 0
  else if saveBase ≤ va && va < saveBase + 2 ^ 30 then
    let key := part * 16384 + (va - saveBase) / 65536
    let off := va % 65536 / 8 * 8
    match Tab.find? s.saves key, s.savingAt key with
    | some r, _ => if off < 16384 then some (winWord s r.m r.core 3 (some r) off) else some 0
    | none, some pos => if off < 16384 then some (winWord s (s.ms pos) (coreOf pos) 3 none off) else some 0
    | none, none => some 0
  else if ctlBase ≤ va then
    let die := (va - ctlBase) / 0x200000
    let off := (va - ctlBase) % 0x200000 / 8 * 8
    if die < 32 then
      let d := s.die die
      if off = 0x0 then some Config.devid
      else if off = 0x8 then some 0x0003000000000000
      else if off = 0x10 then some 0x1F
      else if off = 0x18 then
        let mask := ((List.range 32).filter fun n => s.rot.layout[n]? = some part).foldl (fun a n => a + 2 ^ n) 0
        some (BitVec.ofNat 64 (part + s.rot.layout.eraseDups.length * 256 + mask * 65536 + (if d.full then 2 ^ 48 else 0)))
      else if off = 0x100 then some (BitVec.ofNat 64 d.share)
      else if off = 0x108 then some (BitVec.ofNat 64 (winBase die))
      else if off = 0x110 then some (if s.rot.die = die then 1 else 0)
      else if off = 0x1000 then some (BitVec.ofNat 64 d.eSram)
      else if off = 0x1008 then some (BitVec.ofNat 64 d.eHbm)
      else if off = 0x1010 then some (BitVec.ofNat 64 d.eTier2)
      else if off = 0x1018 then some (BitVec.ofNat 64 d.eLink)
      else none
    else if die = 32 then
      if off = 0 then some (BitVec.ofNat 64 saveBase)
      else if 0x40 ≤ off && off < 0x440 then
        let q := Tab.get SubQ.empty (s.part part).sq ((off - 0x40) / 64)
        match off % 64 / 8 with
        | 0 => some (BitVec.ofNat 64 (q.puts + q.gets * 2 ^ 32))
        | 1 => some (BitVec.ofNat 64 (q.cputs + q.log2cap * 2 ^ 32))
        | 2 => some q.ring
        | 3 => some q.cring
        | _ => some 0
      else none
    else none
  else none

/-- A page of control registers or windows, which the root of trust maps (R438, R455). -/
def State.isCtl (s : State) (key : Nat) : Bool :=
  isGlobKey key && saveBase ≤ key % 2 ^ 64 && ((s.pageOfKey key).map fun x => x.2.ctl).getD false

/-- The byte of a control page or window, else what memory shows. -/
def State.loadByte (s : State) (r : Rdr) (k : Nat) : Byte :=
  if s.isCtl k then
    match s.ctlWord (k / 2 ^ 64) (k % 2 ^ 64) with
    | some w => w.extractLsb' (8 * (k % 8)) 8
    | none => s.rd8 r k
  else s.rd8 r k

def State.loadBytes (s : State) (r : Rdr) (k : Nat) : Nat → List Byte
  | 0 => []
  | n + 1 => s.loadByte r k :: s.loadBytes r (k + 1) n

/-- The hidden tag of a granule; in a window, that of the c register shown (R438). -/
def State.loadTag (s : State) (r : Rdr) (k : Nat) : Bool :=
  let va := k % 2 ^ 64
  let shown := fun (m : Master) (off : Nat) =>
    0x200 ≤ off && off < 0x300 && (m.rc (BitVec.ofNat 4 ((off - 0x200) / 16))).tag
  if !s.isCtl k then s.rdTag r k
  else if winBase 0 ≤ va && va < winBase 32 then
    let die := (va - winBase 0) / 2 ^ 27
    match winPos die ((va - winBase die) / 16384) with
    | some pos => (s.ms pos).kind != .empty && (s.ms pos).st = .frozen && shown (s.ms pos) (va % 16384)
    | none => false
  else if saveBase ≤ va && va < saveBase + 2 ^ 30 then
    let key := k / 2 ^ 64 * 16384 + (va - saveBase) / 65536
    match Tab.find? s.saves key, s.savingAt key with
    | some x, _ => shown x.m (va % 65536)
    | none, some pos => shown (s.ms pos) (va % 65536)
    | none, none => false
  else s.rdTag r k

/-- A granule that keeps a tag on a control page: an entry of the pod export table. The registers and the fault ring keep none,
as they hold no capability (R351). -/
def ctlTagged (va : Nat) : Bool :=
  ctlBase ≤ va && (va - ctlBase) / 0x200000 = 32 && 0x1000 ≤ (va - ctlBase) % 0x200000 && (va - ctlBase) % 0x200000 < 0x1400

/-- STC sets the tag of the c register that a window or save record shows (R438). -/
def Master.winTag (m : Master) (off : Nat) (t : Bool) : Master :=
  if 0x200 ≤ off && off < 0x300 then
    let r := BitVec.ofNat 4 ((off - 0x200) / 16)
    m.wc r { m.rc r with tag := t }
  else m

def State.storeTag (s : State) (part va : Nat) (t : Bool) : State :=
  if winBase 0 ≤ va && va < winBase 32 then
    let die := (va - winBase 0) / 2 ^ 27
    match winPos die ((va - winBase die) / 16384) with
    | some pos =>
      if (s.ms pos).kind != .empty && (s.ms pos).st = .frozen then s.updM pos fun m => m.winTag (va % 16384) t else s
    | none => s
  else if saveBase ≤ va && va < saveBase + 2 ^ 30 then
    let key := part * 16384 + (va - saveBase) / 65536
    match Tab.find? s.saves key, s.savingAt key with
    | some x, _ => { s with saves := Tab.put s.saves key { x with m := x.m.winTag (va % 65536) t } }
    | none, some pos => s.updM pos fun m => m.winTag (va % 65536) t
    | none, none => s
  else if ctlTagged va then { s with mem := Tab.set 0 s.mem (tagKey (globKey part va)) (if t then 1 else 0) }
  else s

/-- Puts a doubleword into a window's registers (R438). -/
def Master.winSet (m : Master) (off : Nat) (x : W64) : Master :=
  let half := fun (old i : Nat) => old - old / 2 ^ (64 * i) % 2 ^ 64 * 2 ^ (64 * i) + x.toNat * 2 ^ (64 * i)
  if off < 0x200 then m.ws (BitVec.ofNat 6 (off / 8)) x
  else if off < 0x300 then
    let r := BitVec.ofNat 4 ((off - 0x200) / 16)
    m.wc r { bits := BitVec.ofNat 128 (half (m.rc r).bits.toNat ((off / 8) % 2)), tag := false }
  else if off < 0x380 then
    let r := BitVec.ofNat 3 ((off - 0x300) / 16)
    m.wm r (BitVec.ofNat 128 (half (m.rm r).toNat ((off / 8) % 2)))
  else if off < 0x3A0 then m.wq (BitVec.ofNat 2 ((off - 0x380) / 8)) (x &&& 0x000FFFFFFFFFFFFF)
  else if off = 0x3A0 then { m with pc := x &&& ~~~(3 : W64) }
  else if off = 0x3A8 then { m with o := x.setWidth 4 }
  else if off = 0x3C0 then { m with orphv := x &&& ~~~(3 : W64) }
  else if off = 0x3C8 then { m with wlim := if (x.setWidth 32).toNat < 256 then 256 else x.setWidth 32 }
  else if off = 0x3D0 then { m with rlim := x.setWidth 8 }
  else if off = 0x3D8 then { m with errst := m.errst &&& ~~~(x.setWidth 4) }
  else if 0x400 ≤ off && off < 0x1400 then
    let r := BitVec.ofNat 5 ((off - 0x400) / 128)
    m.wv r (BitVec.ofNat 1024 (half (m.rv r).toNat ((off / 8) % 16)))
  else if off = 0x1400 then { m with zsel := x.toNat % 8 }
  else m

/-- Writes a doubleword of the window image of the master at `pos`. -/
def State.winPut (s : State) (pos off : Nat) (x : W64) : State :=
  let m := s.ms pos
  if off = 0x1408 && m.zsel < m.zcount then
    let t := coreOf pos * 16 + m.zbase + m.zsel
    { s with ztag := if x.getLsbD 0 then (t :: s.ztag.filter (· != t)) else s.ztag.filter (· != t) }
  else if 0x2000 ≤ off && off < 0x3000 then
    if m.zsel < m.zcount then
      let k := tileOf (coreOf pos) (m.zbase + m.zsel) + (off - 0x2000) / 4
      { s with tiles := Tab.set 0 (Tab.set 0 s.tiles k (x.setWidth 32)) (k + 1) (x.extractLsb' 32 32) }
    else s
  else s.setM pos (m.winSet off x)

/-- Writes a doubleword of a FROZEN master's window; ignored at other times (R439). -/
def State.winWrite (s : State) (pos off : Nat) (x : W64) : State :=
  if (s.ms pos).kind = .empty || (s.ms pos).st != .frozen then s else s.winPut pos off x

/-- Writes a doubleword of a save record (R441); STATE, WAIT, PROOF and QST are ignored. -/
def State.saveWrite (s : State) (key off : Nat) (x : W64) : State :=
  match Tab.find? s.saves key, s.savingAt key with
  | none, none => s
  | none, some pos => s.winPut pos off x
  | some r, _ =>
    let r' : Save :=
      if off = 0x1408 then
        if r.m.zsel < r.m.zcount then { r with ztags := r.ztags.set r.m.zsel (x.getLsbD 0) } else r
      else if 0x2000 ≤ off && off < 0x3000 then
        if r.m.zsel < r.m.zcount then
          let k := r.m.zsel * 1024 + (off - 0x2000) / 4
          { r with tiles := Tab.set 0 (Tab.set 0 r.tiles k (x.setWidth 32)) (k + 1) (x.extractLsb' 32 32) }
        else r
      else { r with m := r.m.winSet off x }
    { s with saves := Tab.put s.saves key r' }

def State.setSq (s : State) (part q : Nat) (x : SubQ) : State :=
  s.updPart part fun p => { p with sq := Tab.set SubQ.empty p.sq q x }

/-- A submission queue's PUTS (R457): lowering it, or more than CAP above GETS, disables the queue with a TYPE 1 packet, and PUTS stays as it
was (DESIGN CHOICE, notes/assumptions/77.md). While
LOG2CAP is 0 there is no CAP to exceed, and the register takes what is written (notes/assumptions/77.md). -/
def State.doorbell (s : State) (part q : Nat) (puts : Nat) : State :=
  let p := s.part part
  let sq := Tab.get SubQ.empty p.sq q
  let cap := 2 ^ sq.log2cap
  let up := (puts + 2 ^ 32 - sq.gets) % 2 ^ 32
  let was := (sq.puts + 2 ^ 32 - sq.gets) % 2 ^ 32
  let die := p.dies.headD 0
  if sq.log2cap = 0 then s.setSq part q { sq with puts := puts }
  else if up < was || up > cap then
    (s.setSq part q { sq with log2cap := 0 }).queuePacket die
      { pos := none, type := 1, eng := 0, cause := cStorage, pc := 0, d0 := 0, d1 := 0, d2 := 0, d3 := 0, proof := 0, lnch := 0
        round := s.round.num, die := die, clu := 0, core := 0, slot := 0, svc := false }
  else s.setSq part q { sq with puts := puts }

def clamp (lo hi x : Nat) : Nat := if x < lo then lo else if x > hi then hi else x

/-- A write of a control-block register, by doubleword, of which `low` says whether a byte of the lower word is written (R7, R179,
R432, R434, R455, R457): RO bits are ignored, and of a fault
ring GETS alone is written by software. A LOG2CAP that R457 does not name (1 to 3, or above 16) is stored as 0, which disables
the queue (notes/assumptions/77.md). -/
def State.regWrite (s : State) (part va : Nat) (low : Bool) (x : W64) : State :=
  if winBase 0 ≤ va && va < winBase 32 then
    let die := (va - winBase 0) / 2 ^ 27
    match winPos die ((va - winBase die) / 16384) with
    | some pos => s.winWrite pos (va % 16384 / 8 * 8) x
    | none => s
  else if saveBase ≤ va && va < saveBase + 2 ^ 30 then
    if va % 65536 < 16384 then s.saveWrite (part * 16384 + (va - saveBase) / 65536) (va % 65536 / 8 * 8) x else s
  else if ctlBase ≤ va then
    let die := (va - ctlBase) / 0x200000
    let off := (va - ctlBase) % 0x200000 / 8 * 8
    if die < 32 then
      if off = 0x100 then s.updDie die fun d => { d with share := clamp 10 90 (x.toNat % 128) }
      else if off = 0x10000 then
        let k := globKey part (ctlBase + die * 0x200000 + off + 4)
        { s with mem := setCells s.mem (dataCells k (leBytes 4 (x.toNat / 2 ^ 32))) }
      else s
    else if die = 32 then
      if 0x40 ≤ off && off < 0x440 then
        let q := (off - 0x40) / 64
        let p := s.part part
        let sq := Tab.get SubQ.empty p.sq q
        match off % 64 / 8 with
        | 0 => if low then s.doorbell part q (x.toNat % 2 ^ 32) else s
        | 1 => s.setSq part q
            { sq with log2cap := if 4 ≤ x.toNat / 2 ^ 32 % 65536 && x.toNat / 2 ^ 32 % 65536 ≤ 16 then x.toNat / 2 ^ 32 % 65536 else 0 }
        | 2 => s.setSq part q { sq with ring := x }
        | 3 => s.setSq part q { sq with cring := x }
        | _ => s
      else if 0x1000 ≤ off && off < 0x1400 then
        { s with mem := setCells s.mem (dataCells (globKey part (ctlBase + 0x4000000 + off)) (leBytes 8 x.toNat)) }
      else s
    else s
  else s

/-- A doubleword of a window or save record in which a 1 clears a bit: ERRST (R7, R438). -/
def isW1c (va : Nat) : Bool :=
  (winBase 0 ≤ va && va < winBase 32 && va % 16384 / 8 * 8 = 0x3D8) ||
  (saveBase ≤ va && va < saveBase + 2 ^ 30 && va % 65536 / 8 * 8 = 0x3D8)

/-- A store of cells to control pages: each doubleword takes the bytes that the store covers; the others stay, and clear nothing
where a 1 clears. -/
def State.ctlStore (s : State) (cells : List Host.Cell) : State :=
  ((cells.map fun c => c.1 / 8).eraseDups).foldl (fun s w =>
    let va := w * 8 % 2 ^ 64
    let at' := fun (a : Nat) => ((cells.find? fun (c : Host.Cell) => c.1 = a).map Prod.snd).getD
      (if isW1c va then 0 else s.loadByte Rdr.home a)
    s.regWrite (w * 8 / 2 ^ 64) va (cells.any fun (c : Host.Cell) => c.1 / 4 = w * 2)
      (BitVec.ofNat 64 (leNat ((List.range 8).map fun i => at' (w * 8 + i))))) s

/-! ## Loads and stores on their way -/

/-- Load instructions in a try mode or .R. -/
def isTry : Instr → Bool
  | .ldB x | .ldH x | .ldW x | .ldD x => x.h.nr != 0
  | .ldv x => x.h.nr != 0
  | .ldc x => x.h.nr != 0
  | _ => false

/-- Width in bytes of an access element type, with .B as the default (R219). -/
def etBytes (d : Nat) (et : BitVec 4) : Nat := etWidth (etDef d et) / 8

/-- A converting LDV (R219). -/
def isConv : Instr → Bool
  | .ldv x => 7 ≤ x.et.toNat
  | _ => false

/-- Bytes that a converting LDV reads: n elements of the memory format. -/
def convLen (et : BitVec 4) (fmt : Nat) : Nat := 1024 / etWidth et.toNat * fmtBits fmt / 8

def fmtOk (f : Nat) : Bool := 1 ≤ f && f ≤ 10

/-- Bytes of an access instruction, but for a converting LDV. -/
def accessLen : Instr → Nat
  | .ldB _ | .stB _ => 1
  | .ldH _ | .stH _ => 2
  | .ldW _ | .stW _ => 4
  | .ldD _ | .stD _ => 8
  | .ldc _ | .stc _ => 16
  | _ => 128

/-- Bytes that a load reads, with the descriptor of its first block. -/
def loadLen (i : Instr) (bfd : BitVec 16) : Nat :=
  match i with
  | .ldv x => if isConv i then (if fmtOk (bfdFmt bfd) then convLen x.et (bfdFmt bfd) else 64) else 128
  | _ => accessLen i

/-- The lines of the extents that are not valid in the L1 of the issuing core (R213). -/
def State.absent (s : State) (ext : List (Nat × Nat)) : List Nat :=
  (linesOf ext).filter fun l => Tab.get 0 (s.core (l1Of s.cur)).l1 l = 0

/-- The task makes its next attempt on lines that it uses: its attempts end, and tokens held for it are released (R281). -/
def State.linesUsed (s : State) (ext : List (Nat × Nat)) : State :=
  (linesOf ext).foldl (fun s l =>
    let mine := fun (x : Pers) => x.line = l && x.pos = s.cur
    let s1 := (s.upd fun m => { m with att8 := Tab.set 0 m.att8 l 0 })
    if (s1.core (l1Of s.cur)).pers.any mine then
      (s1.updCore (l1Of s.cur) fun c => { c with pers := c.pers.filter fun x => !mine x }).wakeBusy (dieOf s.cur)
    else s1) s

/-- Values that the task has read or is reading from a remote LS in a try mode are no longer kept for it (R213). `f` selects by
address and length. -/
def State.unkeep (s : State) (f : Nat → Nat → Bool) : State :=
  let s1 := s.upd fun m => match m.kept with
    | some v => if f v.ea.toNat v.img.bytes.length then { m with kept := none } else m
    | none => m
  { s1 with reqs := s1.reqs.map fun r => match r.k with
      | .unit i k opd _ _ _ _ => if r.pos = s.cur && isTry i && f opd.ea.toNat (loadLen i (s.rdBfd Rdr.home k)) then { r with drop := true } else r
      | _ => r }

/-- A kept value is dropped when the task reads or writes any of its bytes (R213). -/
def State.dropKept (s : State) (sp : Nat) (ea : W64) (n : Nat) : State :=
  if sp = 1 then s.unkeep fun a len => a < ea.toNat + n && ea.toNat < a + len else s

/-- An acquire or a FENCE drops every kept value. -/
def State.dropKeptAll (s : State) : State := s.unkeep fun _ _ => true

/-- Another remote load that returns MISS drops the values of the others. -/
def State.dropOthers (s : State) (i : Instr) (key : Nat) : State :=
  let s1 := s.upd fun m => { m with kept := none }
  { s1 with reqs := s1.reqs.map fun r => match r.k with
      | .unit j k _ _ _ _ _ => if r.pos = s.cur && isTry j && !(j = i && k = key) then { r with drop := true } else r
      | _ => r }

/-- Lands a load that has read its bytes, at issue: UE by R214; another fault as R219 has it, after the instruction. -/
def State.loaded (s : State) (h : Hd) (words : Nat) (ws : List RegW) (flt : Option Flt) : State :=
  let m := s.me
  match flt with
  | none => (s.upd fun m => m.landAll ws).done h words
  | some f =>
    if f.cause = cUe then
      let s1 := (s.logUe s.cur 0 0 f.d2 0).upd fun m => m.landAll ws
      if h.nr = 0 then s1.freeze s.cur 0 f m.pc m.pc else (s1.doomBy s.cur).final h words oErr
    else s.freeze s.cur 0 f m.pc (m.next words)

/-- The latest request accesses extents, as (key, length). -/
def State.reaches (s : State) (ext : List (Nat × Nat)) : State :=
  { s with reqs := s.reqs.dropLast ++ s.reqs.getLast?.toList.map fun r => { r with ext := ext } }

/-- Line `line` lands in the L1 numbered `core` (R201): for reading with one token, for writing with all. Its die has a copy if
the line is homed elsewhere. -/
def State.lineLand (s : State) (core line : Nat) (write : Bool) : State :=
  let die := dieOfL1 core
  let home := ((s.pageOfKey (line * 64)).map fun x => x.2.home).getD die
  let s1 := if write then s.takeAll core line else s.takeOne core line
  let ds := Tab.get [] s1.copies line
  if home = die || ds.contains die then s1 else { s1 with copies := Tab.put s1.copies line (ds ++ [die]) }

/-- Delivers a load of extents, as (key, length) (R213, R214): at once on the own LS or when its lines are at hand in a try mode.
With the tokens of a line that it lacks in transfer it is BUSY. A try mode gives MISS for lines of cached memory that are absent, and a
fill is started; otherwise the load is posted, and reads a line that was absent with the token that it brings (R201). A line that no L1
caches, of a CLU bank or a memory-side page, is never absent (notes/assumptions/22.md). A load that must follow other accesses of its task (`after`) has the same outcome and is
posted as the request `k`, which reads once they have been performed (R216). -/
def State.deliver (s : State) (h : Hd) (words : Nat) (ext : List (Nat × Nat)) (ws : List RegW) (flt : Option Flt) (k : ReqK)
    (after : List Nat) : State :=
  let key := ((ext.head?).map Prod.fst).getD 0
  let post := fun (s : State) (k : ReqK) => ((s.request s.cur key (s.needsSlot s.cur key) true k after).reaches ext).done h words
  let land := fun (s : State) => if after.isEmpty then s.loaded h words ws flt else post s k
  let cached := ext.all fun (k, _) => isGlobKey k && (s.msUnit k).isNone
  if ext.all fun (k, _) => ownLs s.cur k then land s
  else
    let miss := if cached then s.absent ext else []
    let busy := miss.filter fun l => !s.canTake (l1Of s.cur) l false
    let ea := BitVec.ofNat 64 (key % 2 ^ 64)
    if !busy.isEmpty then s.transferBusy h words false (linesOf ext) miss ea
    else if h.nr != 0 && cached then
      match miss with
      | l :: _ => (s.attempt false (linesOf ext) miss).notReady h words oMiss (.line l) ea
      | [] => land (s.linesUsed ext)
    else
    let s1 := if cached then (miss.foldl (fun s l => s.lineLand (l1Of s.cur) l false) s).linesUsed ext else s
    post s1 (if after.isEmpty then .land ws flt (h.nr != 0) else k)

/-- Completes a store (R213, R214): RDY, or OVF when a block was discarded. -/
def State.stored (s : State) (h : Hd) (words : Nat) (r : Stored) : State :=
  match r with
  | .ovf => let s1 := s.overflow s.cur; s1.advance h.p (s1.me.next words)
  | _ => s.done h words

/-- Performs a store of pieces, each the cells that begin at a data key, and wakes the words' waiters. The operation holds one
request slot, but for one on the own LS, until every piece is acknowledged; a tagged piece that is still to be performed may write
o then. `after`: what a release waits for. -/
def State.putStore (s : State) (after : List Nat) (pieces : List (Nat × List Host.Cell)) : State × Stored :=
  let id := s.nextReq
  let slotKey := (pieces.map Prod.fst).find? fun k => s.needsSlot s.cur k
  let o : Ord := { after := after, hold := !after.isEmpty }
  let s1 := match slotKey with
    | some k => s.request s.cur k true false .ack []
    | none => s
  let req := if slotKey.isSome then id else 0
  let (s2, r) := pieces.foldl (fun ((s, r) : State × Stored) ((k, cs) : Nat × List Host.Cell) =>
    let (a, r1) := s.store s.cur s.me.proof false req o k cs
    let b := a.touch s.cur k
    (b.wakeWords ((cs.filter fun c => c.1 < 2 ^ 72).map Prod.fst), if r = .ovf || r1 = .ovf then .ovf else r1)) (s1, .performed)
  let late := s2.batches.any fun b => b.req = req && req != 0 && b.proof != 0
  ((if late then { s2 with reqs := s2.reqs.map fun q => if q.id = req then { q with mark := true } else q } else s2).linesUsed
    (((pieces.flatMap Prod.snd).filter fun (c : Host.Cell) => isGlobKey c.1).map fun (c : Host.Cell) => (c.1, 1)), r)

/-! ## Halo tiles (R205, R206) -/

def Halo.tiles (h : Halo) : Nat := h.own.length
/-- Blocks of a tile's low and high strips, by virtual address. -/
def Halo.low (h : Halo) (i : Nat) : List Nat := (List.range h.hw).map fun b => h.lo + i * h.ts + 64 * b
def Halo.high (h : Halo) (i : Nat) : List Nat := (List.range h.hw).map fun b => h.lo + (i + 1) * h.ts - 64 * (h.hw - b)
def Halo.owner (h : Halo) (i : Nat) : Nat := h.own.getD i 0

/-- (die, blocks) of the replicas of tile `i` (R205). -/
def Halo.replicas (h : Halo) (i : Nat) : List (Nat × List Nat) :=
  ((if 0 < i then [(h.owner (i - 1), h.low i)] else []) ++
   (if i + 1 < h.tiles then [(h.owner (i + 1), h.high i)] else [])).filter fun (d, _) => d != h.owner i

/-- The region and tile that hold an address. -/
def State.haloTile (s : State) (part va : Nat) : Option (Halo × Nat) :=
  ((s.regions part).find? fun h => h.lo ≤ va && va < h.hi).map fun h => (h, (va - h.lo) / h.ts)

/-- A push of a tile: strips to be taken at the home once the task's earlier accesses are performed, with the bytes of the store
that pushes (`own`), then to each replica die in push order (R206). -/
def State.pushTile (s : State) (pos req : Nat) (h : Halo) (i : Nat) (own : List Host.Cell) : State :=
  let part := s.partOf pos
  let base := globKey part (h.lo + i * h.ts)
  let todo := ((h.replicas i).map Prod.fst).eraseDups
  let b : Batch :=
    { id := s.nextReq, src := dieOf pos, pos := pos, lslot := s.party pos, home := h.owner i, chan := base, cells := own, proof := 0
      after := s.shownAfter pos true 0, hold := false, applied := false, todo := todo, req := req, push := true }
  if todo.isEmpty then s
  else { s.updM pos fun m => todo.foldl (fun m d => m.setTb (some (tbDie d))) m with
         batches := s.batches ++ [b], nextReq := s.nextReq + 1 }.noteSent pos (s.party pos)

/-- A store with .REL to tiles by a task of their owner's die also pushes them (R206). The store is the push's release, so it is
performed after the pushes, which carry its bytes; answers their numbers. -/
def State.relPush (s : State) (cells : List Host.Cell) : State × List Nat :=
  let tiles := (((cells.filter fun (c : Host.Cell) => isGlobKey c.1).map fun (c : Host.Cell) => c.1).filterMap fun k =>
    (s.haloTile (k / 2 ^ 64) (k % 2 ^ 64))).eraseDups
  tiles.foldl (fun ((s, ids) : State × List Nat) ((h, i) : Halo × Nat) =>
    if h.owner i = dieOf s.cur && !(h.replicas i).isEmpty then (s.pushTile s.cur 0 h i cells, ids ++ [s.nextReq]) else (s, ids)) (s, [])

/-- What a store of cells with an ORD code follows: with .REL the task's earlier accesses and the pushes that it makes. -/
def State.release (s : State) (ord : BitVec 2) (scope : BitVec 3) (cells : List Host.Cell) : State × List Nat :=
  if !ordRel ord then (s, [])
  else
    let (s1, ids) := s.relPush cells
    (s1, s.earlier s.cur scope ++ ids)

end Sys2Proof.Machine
end

