-- ==== Sys2Proof/Machine/Memory.lean ====
section
/-! DEFINITION. Loads and stores of scalars, vectors and capabilities, prefetch, and the built-in access handler
(R209, R213-R222). -/

namespace Sys2Proof.Machine

/-! ## Vector bytes -/

/-- Element `j` of width `w` bytes is active (R124). -/
def active (mk : W128) (w j : Nat) : Bool := mk.getLsbD (j * w)

/-- Byte lane `i` of a v register. -/
def vByte (v : W1024) (i : Nat) : Byte := v.extractLsb' (8 * i) 8
def vBytes (v : W1024) : List Byte := (List.range 128).map (vByte v)
def vOfBytes (bs : List Byte) : W1024 := BitVec.ofNat 1024 (leNat bs)

/-- The byte lanes of the active elements of width `w` bytes. -/
def activeLanes (mk : W128) (w : Nat) : W128 :=
  BitVec.ofNat 128 ((List.range 128).foldr (fun i a => (if active mk w (i / w) then 1 else 0) + 2 * a) 0)

/-- The runs of active bytes as (first byte, bytes): neighbouring active elements are one run, and one write (R436). -/
def activeRuns (mk : W128) (w : Nat) : List (Nat × Nat) :=
  (List.range (128 / w)).foldr (fun j rs =>
    if !active mk w j then rs
    else match rs with
    | (o, n) :: r => if o = j * w + w then (j * w, n + w) :: r else (j * w, w) :: rs
    | [] => [(j * w, w)]) []

/-! ## What the access instructions read and write -/

/-- Reads `n` bytes at `key`. -/
def State.loadImg (s : State) (r : Rdr) (key n : Nat) : Img :=
  { bytes := s.loadBytes r key n, tag := s.loadTag r key, fmts := (blocksOf key n).map fun b => s.rdBfd r b
    bad := (blocksOf key n).filter fun b => s.rd8 r (poisonKey b) != 0 }

/-- The read of a load at `key`. -/
def State.readFor (s : State) (r : Rdr) (i : Instr) (key : Nat) : Img := s.loadImg r key (loadLen i (s.rdBfd r key))

/-- The lanes of a converting LDV, from the bytes and descriptors read. -/
def convLanes (x : MemV) (img : Img) : W1024 :=
  let w := etWidth x.et.toNat
  BitVec.ofNat 1024 ((List.range (1024 / w)).foldr (fun j a =>
    let f := bfdFmt (img.fmts.headD 0)
    let blk := j * fmtBits f / 512
    etRound x.et.toNat false x.rm.toNat x.ov (fmtNum f (fmtElem f img.bytes j) (bfdScale (img.fmts.getD blk 0))) + 2 ^ w * a) 0)

/-- The address of the block at key `b`, in the form of the effective address `ea` that stands for `key`. -/
def blockEa (ea : W64) (key b : Nat) : W64 := BitVec.ofInt 64 ((ea.toNat : Int) + (b : Int) - (key : Int))

/-- Errors met by a read that raises no fault for them are logged, block by block, on behalf of the reader (R436): `n` bytes at `key`,
which the effective address `ea` names, read for engine `eng`. -/
def State.noteUe (s : State) (r : Rdr) (eng : Nat) (ea : W64) (key n : Nat) : State :=
  ((blocksOf key n).filter fun b => s.rd8 r (poisonKey b) != 0).foldl (fun s b => s.logUe r.pos eng 0 (blockEa ea key b) 0) s

/-- The FMT fault of a converting LDV: a block whose format is no format, or differs from the first's (R90, R219). -/
def convFmt (ea : W64) (img : Img) : Option Flt :=
  let f := bfdFmt (img.fmts.headD 0)
  ((List.range img.fmts.length).find? fun i => !fmtOk f || bfdFmt (img.fmts.getD i 0) != f).map fun i =>
    { cause := cFmt, d0 := (img.fmts.getD i 0).setWidth 64, d2 := ea + BitVec.ofNat 64 (i * 64) }

/-- A load's register writes from what it read under the mask `mk` of its issue, and its fault: zeros with an uncorrectable
error, nothing with another. A converting LDV checks the rest of its extent (`rest`) once its first block is read (R219). -/
def loadRegs (mk : W128) (i : Instr) (ea : W64) (key : Nat) (rest : Option Flt) (img : Img) : List RegW × Option Flt :=
  let scalar := fun (x : MemS) =>
    match img.bad with
    | [] => ([RegW.s x.sr.toNat (BitVec.ofNat 64 (leNat img.bytes))], none)
    | b :: _ => ([RegW.s x.sr.toNat 0], some { cause := cUe, d2 := blockEa ea key b })
  match i with
  | .ldB x => scalar x
  | .ldH x => scalar x
  | .ldW x => scalar x
  | .ldD x => scalar x
  | .ldv x =>
    let conv := isConv i
    let w := if conv then etWidth x.et.toNat / 8 else etBytes 1 x.et
    let lanes := activeLanes mk w
    let read := if conv then [(0, img.bytes.length)] else activeRuns mk w
    let ue := fun (b : Nat) => ([RegW.vm x.v.toNat lanes 0], some { cause := cUe, d2 := blockEa ea key b : Flt })
    let bad := img.bad.filter fun b => read.any fun (o, n) => key + o < b + 64 && b < key + o + n
    if conv then
      if bad.contains key then ue key
      else
        match if fmtOk (bfdFmt (img.fmts.headD 0)) then rest else none with
        | some f => ([], some f)
        | none =>
          match bad, convFmt ea img with
          | b :: _, _ => ue b
          | [], some f => ([], some f)
          | [], none => ([RegW.vm x.v.toNat lanes (convLanes x img)], none)
    else match bad with
      | b :: _ => ue b
      | [] => ([RegW.vm x.v.toNat lanes (vOfBytes img.bytes)], none)
  | .ldc x =>
    match img.bad with
    | [] => ([RegW.c x.c.toNat { bits := BitVec.ofNat 128 (leNat img.bytes), tag := img.tag }], none)
    | b :: _ => ([RegW.c x.c.toNat Cap.null], some { cause := cUe, d2 := blockEa ea key b })
  | _ => ([], none)

/-- The mask that a load or store takes at issue. -/
def maskOf (m : Master) : Instr → W128
  | .ldv x | .stv x => m.rm x.msk
  | _ => 0

/-- The check of a converting LDV's whole extent, once its format is known (R219). -/
def State.restFlt (s : State) (pos : Nat) (i : Instr) (c : Cap) (ea : W64) (len : Nat) : Option Flt :=
  if isConv i then s.check pos { cap := c, perms := [pLoad], sp := spLoad, ea := ea.toNat, len := len } else none

/-- A store's cells at `key`, from the sampled register. -/
def storeCells (i : Instr) (mk : W128) (a : W64) (v : W1024) (c : Cap) (key : Nat) : List Host.Cell :=
  match i with
  | .stB _ => dataCells key (leBytes 1 a.toNat)
  | .stH _ => dataCells key (leBytes 2 a.toNat)
  | .stW _ => dataCells key (leBytes 4 a.toNat)
  | .stD _ => dataCells key (leBytes 8 a.toNat)
  | .stv x => (activeRuns mk (etBytes 1 x.et)).flatMap fun (o, n) =>
      dataCells (key + o) ((List.range n).map fun j => vByte v (o + j))
  | .stc _ => bytesAt key (leBytes 16 c.bits.toNat) ++ [(tagKey key, if c.tag then 1 else 0)]
  | _ => []

/-- The 64 KiB pieces of a store, each with its first data key. -/
def splitCells (cells : List Host.Cell) : List (Nat × List Host.Cell) :=
  let ps := ((cells.filter fun c => c.1 < 2 ^ 72).map fun c => c.1 / 65536).eraseDups
  ps.map fun p =>
    let mine := cells.filter fun c => blockOfCell c.1 / 1024 = p
    (((mine.head?).map Prod.fst).getD (p * 65536), mine)

/-! ## LD, LDV, LDC -/

/-- A load as a request, performed later or elsewhere. -/
def laterLoad (m : Master) (i : Instr) (c : Cap) (ea : W64) (key : Nat) : ReqK :=
  .unit i key { sp := c.space, ea := ea } c ((maskOf m i).extractLsb' 0 64) ((maskOf m i).extractLsb' 64 64) 0

/-- The same load is already on its way for the task, and its value will be kept. -/
def State.loading (s : State) (i : Instr) (key : Nat) : Bool :=
  s.reqs.any fun r => r.pos = s.cur && !r.drop && (match r.k with | .unit j k _ _ _ _ _ => j = i && k = key | _ => false)

/-- A load of a remote LS (R209, R213): a kept value of the same address and size answers; otherwise an active message is
sent, and in a try mode the answer is MISS. -/
def State.loadRemote (s : State) (i : Instr) (h : Hd) (c : Cap) (ea : W64) (key : Nat) (after : List Nat) : State :=
  let mk := maskOf s.me i
  let k := laterLoad s.me i c ea key
  let send := fun (s : State) =>
    let s1 := if isAcquire i then s.dropKeptAll else s.dropKept 1 ea (loadLen i (s.rdBfd (s.rdr s.cur s.me.proof) key))
    if h.nr = 0 then (s1.request s.cur key true true k after).done h h.words
    else
      let s0 := s.dropOthers i key
      let s1 := if s0.loading i key then s0 else s0.request s.cur key true false k after
      s1.notReady h h.words oMiss (.line (key / 64)) ea
  match s.me.kept with
  | some kv =>
    if kv.ea = ea && kv.img.bytes.length = loadLen i (kv.img.fmts.headD 0) then
      let (ws, flt) := loadRegs mk i ea key (s.restFlt s.cur i c ea kv.img.bytes.length) kv.img
      (if isAcquire i then s.dropKeptAll else s.upd fun m => { m with kept := none }).loaded h h.words ws flt
    else send s
  | none => send s

/-- A load from memory at one address (R213, R218, R219, R221). -/
def load (g : Grp) (i : Instr) (h : Hd) (ord : BitVec 2) (mem : MemOp) (perms : List Nat) (len align : Nat) (block : Bool)
    (s : State) : Out :=
  s.gate g h.nr fun s =>
    let m := s.me
    let ea := m.ea mem
    let c := m.rc mem.cap
    s.access h h.words { cap := c, perms := perms, sp := spLoad, ea := ea.toNat, len := len, align := align, block := block }
      fun s key =>
        let acq := fun (s : State) => if ordAcq ord then s.dropKeptAll else s
        if remoteLs s.cur key then s.loadRemote i h c ea key (s.reqsAhead s.cur key len)
        else
          let r := s.rdr s.cur s.me.proof
          let img := s.readFor r i key
          let n := img.bytes.length
          if n > len && (s.switching s.cur c.space ea.toNat n || s.me.overlaps s.cur c.space ea.toNat n false) then s.notReady h h.words oBusy .busy ea
          else
            let (ws, flt) := loadRegs (maskOf m i) i ea key (s.restFlt s.cur i c ea n) img
            (acq (s.dropKept c.space ea n)).deliver h h.words [(key, n)] ws flt (laterLoad m i c ea key) (s.loadAhead s.cur [(key, n)])

def execLdB (x : MemS) (s : State) : Out := load .access (.ldB x) x.h x.ord x.mem [pLoad] 1 1 true s
def execLdH (x : MemS) (s : State) : Out := load .access (.ldH x) x.h x.ord x.mem [pLoad] 2 1 true s
def execLdW (x : MemS) (s : State) : Out := load .access (.ldW x) x.h x.ord x.mem [pLoad] 4 1 true s
def execLdD (x : MemS) (s : State) : Out := load .access (.ldD x) x.h x.ord x.mem [pLoad] 8 1 true s
def execLdv (x : MemV) (s : State) : Out :=
  if isConv (.ldv x) then load .noHandler (.ldv x) x.h x.ord x.mem [pLoad] 64 64 false s
  else load .noHandler (.ldv x) x.h x.ord x.mem [pLoad] 128 1 false s
def execLdc (x : MemC) (s : State) : Out := load .access (.ldc x) x.h x.ord x.mem [pLoad, pLdcap] 16 16 false s

/-! ## ST, STV, STC -/

/-- The cells of a store from what its request carries. -/
def sentCells (i : Instr) (key : Nat) (x y : W64) (v : W1024) : List Host.Cell :=
  storeCells i (y ++ x) x v { bits := v.extractLsb' 0 128, tag := v.getLsbD 128 } key

/-- Performs a store to control pages: the registers take the data, and STC sets the tag of the register that a window shows. -/
def State.ctlPut (s : State) (i : Instr) (key : Nat) (x y : W64) (v : W1024) : State :=
  let s1 := s.ctlStore ((sentCells i key x y v).filter fun c => key ≤ c.1 && c.1 < key + accessLen i)
  match i with
  | .stc _ => s1.storeTag (key / 2 ^ 64) (key % 2 ^ 64) (v.getLsbD 128)
  | _ => s1

/-- A store to one address (R213, R216-R219, R221). -/
def storeI (g : Grp) (i : Instr) (h : Hd) (ord : BitVec 2) (scope : BitVec 3) (mem : MemOp) (perms : List Nat) (len align : Nat)
    (block : Bool) (mk : Master → W128) (ra : Master → W64) (rv : Master → W1024) (rc : Master → Cap) (s : State) : Out :=
  s.gate g h.nr fun s =>
    let m := s.me
    let ea := m.ea mem
    let a : Acc :=
      { cap := m.rc mem.cap, perms := perms, sp := spStore, write := true, ea := ea.toNat, len := len, align := align, block := block }
    s.access h h.words a fun s key =>
      let claimed := s.claimed s.cur [(key, len)]
      if !claimed.isEmpty then s.transferBusy h h.words true (linesOf [(key, len)]) claimed ea else
      let s1 := s.dropKept a.cap.space ea len
      let ahead := s1.unitAhead s1.cur key len
      let v : W1024 := match i with
        | .stv _ => rv m
        | .stc _ => BitVec.ofNat 1024 ((rc m).bits.toNat + if (rc m).tag then 2 ^ 128 else 0)
        | _ => 0
      let (x, y) : W64 × W64 := match i with
        | .stv _ => ((mk m).extractLsb' 0 64, (mk m).extractLsb' 64 64)
        | _ => (ra m, 0)
      let later : ReqK := .unit i key { sp := a.cap.space, ea := ea } (m.rc mem.cap) x y v
      if remoteLs s.cur key then
        ((s1.touch s.cur key).request s.cur key true false later
          ((if ordRel ord then s1.earlier s1.cur scope else []) ++ ahead)).done h h.words
      else if s1.isCtl key then
        let after := s1.shownAfter s1.cur (ordRel ord) scope ++ ahead
        if !after.isEmpty then
          (((s1.touch s.cur key).request s.cur key (s.needsSlot s.cur key) false later after).reaches [(key, len)]).done h h.words
        else ((s1.touch s.cur key).ctlPut i key x y v).done h h.words
      else
        let cells := storeCells i (mk m) (ra m) (rv m) (rc m) key
        let (s2, after) := s1.release ord scope cells
        let (s3, r) := s2.putStore (after ++ ahead) (splitCells cells)
        s3.stored h h.words r

def storeS (i : Instr) (n : Nat) (x : MemS) (s : State) : Out :=
  storeI .access i x.h x.ord x.scope x.mem [pStore] n 1 true (fun _ => 0) (fun m => m.rs x.sr) (fun _ => 0) (fun _ => Cap.null) s

def execStB (x : MemS) (s : State) : Out := storeS (.stB x) 1 x s
def execStH (x : MemS) (s : State) : Out := storeS (.stH x) 2 x s
def execStW (x : MemS) (s : State) : Out := storeS (.stW x) 4 x s
def execStD (x : MemS) (s : State) : Out := storeS (.stD x) 8 x s
def execStv (x : MemV) (s : State) : Out :=
  storeI .noHandler (.stv x) x.h x.ord x.scope x.mem [pStore] 128 1 false (fun m => m.rm x.msk) (fun _ => 0) (fun m => m.rv x.v)
    (fun _ => Cap.null) s
def execStc (x : MemC) (s : State) : Out :=
  storeI .access (.stc x) x.h x.ord x.scope x.mem [pStore, pStcap] 16 16 false (fun _ => 0) (fun _ => 0) (fun _ => 0)
    (fun m => m.rc x.c) s

/-! ## LDG and STS (R220) -/

/-- Elements that a gather or scatter acts on: c = min(n, 32). -/
def gatherCount (w : Nat) : Nat := Nat.min (128 / w) 32

/-- Address of element `j`: address + u(vi.W[j]), modulo 2^64. -/
def gatherEa (ea : W64) (vi : W1024) (j : Nat) : W64 := ea + (vi.extractLsb' (32 * j) 32).setWidth 64

/-- Every element's check, in ascending j (R212, R220). -/
def gatherFlt (s : State) (c : Cap) (write : Bool) (ea : W64) (vi : W1024) (w : Nat) : Option Flt :=
  (List.range (gatherCount w)).findSome? fun j =>
    s.check s.cur { cap := c, perms := [if write then pStore else pLoad], sp := if write then spScatter else spGather
                    write := write, ea := (gatherEa ea vi j).toNat, len := w, block := true }

/-- The active elements of a gather or scatter, each with the key of its first byte. -/
def State.gatherActs (s : State) (pos : Nat) (x : MemG) (mk : W128) (sp : Nat) (ea : W64) (vi : W1024) : List (Nat × Nat) :=
  let w := etBytes 3 x.et
  ((List.range (gatherCount w)).filter fun j => active mk w j).map fun j => (j, (physKey s pos sp (gatherEa ea vi j).toNat).getD 0)

/-- The shared flow of LDG and STS: checks of every element, then R213, then `k` with the active elements and their keys. -/
def gather (x : MemG) (write : Bool) (k : State → List (Nat × Nat) → State) (s : State) : Out :=
  s.gate .noHandler x.h.nr fun s =>
    let m := s.me
    let ea := m.ea x.mem
    let w := etBytes 3 x.et
    let c := m.rc x.mem.cap
    let vi := m.rv x.vi
    match gatherFlt s c write ea vi w with
    | some f => s.fault f
    | none => s.proofCheck fun s =>
      let acts := s.gatherActs s.cur x (m.rm x.msk) c.space ea vi
      let ext := acts.map fun (_, key) => (key, w)
      if write && acts.any (fun (_, key) => s.isCtl key && !(s.observed s.cur ++ s.unitAhead s.cur key w).isEmpty) then s.hold
      else match acts.find? fun (_, key) => s.windowWaits key w with
      | some (_, key) => s.awaitWindow key
      | none =>
      match acts.find? fun (_, key) => s.slotFull s.cur key with
      | some (_, key) => s.notReady x.h x.h.words oFull (.slot (s.bankOf key)) ea
      | none =>
        if acts.any fun (j, _) => s.switching s.cur c.space (gatherEa ea vi j).toNat w ||
            m.overlaps s.cur c.space (gatherEa ea vi j).toNat w write then
          s.notReady x.h x.h.words oBusy .busy ea
        else if write && !(s.claimed s.cur ext).isEmpty then s.transferBusy x.h x.h.words true (linesOf ext) (s.claimed s.cur ext) ea
        else k (acts.foldl (fun s (j, _) => s.dropKept c.space (gatherEa ea vi j) w) s) acts

/-- The lanes of a gathered register: element `j` holds the bytes that `f` gives for its key. -/
def gatherLanes (acts : List (Nat × Nat)) (w : Nat) (f : Nat → List Byte) : W1024 :=
  vOfBytes (acts.foldl (fun bs (j, key) => bs.take (j * w) ++ f key ++ bs.drop (j * w + w)) (List.replicate 128 0))

/-- What LDG writes from memory: the active lanes, zeros with an uncorrectable error (R214, R220). -/
def State.gatherRegs (s : State) (r : Rdr) (x : MemG) (ea : W64) (vi : W1024) (acts : List (Nat × Nat)) : List RegW × Option Flt :=
  let w := etBytes 3 x.et
  let lanes := BitVec.ofNat 128 ((List.range 128).foldr (fun i a => (if acts.any fun e => e.1 = i / w then 1 else 0) + 2 * a) 0)
  match acts.findSome? fun (j, key) => (s.ueIn r key w).map fun b => blockEa (gatherEa ea vi j) key b with
  | none => ([RegW.vm x.v.toNat lanes (gatherLanes acts w fun key => s.loadBytes r key w)], none)
  | some a => ([RegW.vm x.v.toNat lanes 0], some { cause := cUe, d2 := a })

/-- LDG is one posted operation, as STS is (notes/assumptions/78.md). -/
def execLdg (x : MemG) (s : State) : Out :=
  gather x false (fun s acts =>
    let m := s.me
    let c := m.rc x.mem.cap
    let ext := acts.map fun (_, key) => (key, etBytes 3 x.et)
    let (ws, flt) := s.gatherRegs (s.rdr s.cur m.proof) x (m.ea x.mem) (m.rv x.vi) acts
    let k : ReqK := .unit (.ldg x) (((acts.head?).map Prod.snd).getD 0) { sp := c.space, ea := m.ea x.mem } c
      ((m.rm x.msk).extractLsb' 0 64) ((m.rm x.msk).extractLsb' 64 64) (m.rv x.vi)
    s.deliver x.h x.h.words ext ws flt k (s.loadAhead s.cur ext)) s

def execSts (x : MemG) (s : State) : Out :=
  gather x true (fun s acts =>
    let m := s.me
    let w := etBytes 3 x.et
    let bytes := fun (j : Nat) => (List.range w).map fun i => vByte (m.rv x.v) (j * w + i)
    let (regs, rest) := acts.partition fun (_, key) => s.isCtl key
    let s0 := regs.foldl (fun s ((j, key) : Nat × Nat) => (s.touch s.cur key).ctlStore (bytesAt key (bytes j))) s
    let (s1, r) := s0.putStore ((rest.flatMap fun (_, key) => s.unitAhead s.cur key w).eraseDups) (rest.map fun (j, key) => (key, dataCells key (bytes j)))
    s1.stored x.h x.h.words r) s

/-! ## PREF (R222) -/

/-- Fetches the GLOB line into the L1; with any check failing, another space, a line that is never cached, or no free slot, it
does nothing. -/
def execPref (x : PrefA) (s : State) : Out :=
  s.gate .noHandler 0 fun s =>
    let m := s.me
    let ea := m.ea x.mem
    let a : Acc := { cap := m.rc x.mem.cap, perms := [pLoad], sp := spLoad, ea := ea.toNat, len := 1 }
    let key := (physKey s s.cur a.cap.space ea.toNat).getD 0
    let idle := (s.check s.cur a).isSome || !(a.cap.space = 3 || a.cap.space = 4) || (s.msUnit key).isSome || s.isCtl key ||
      s.slotFull s.cur key || !s.canTake (l1Of s.cur) (key / 64) x.write
    (if idle then s else s.lineLand (l1Of s.cur) (key / 64) x.write).advance x.h.p (m.next x.h.words)

/-! ## The built-in access handler (R209) -/

/-- Load and store instructions, which the built-in handler serves. -/
def isAccess : Instr → Bool
  | .ldB _ | .ldH _ | .ldW _ | .ldD _ | .ldv _ | .ldc _ | .stB _ | .stH _ | .stW _ | .stD _ | .stv _ | .stc _ => true
  | _ => false

/-- Instructions on a full/empty word or a generation word (R298). -/
def isWordI : Instr → Bool
  | .ldsy _ | .stsy _ | .ldpk _ | .feset _ | .feget _ | .waitge _ | .waiteq _ => true
  | _ => false

def isAmsg : Instr → Bool
  | .amsg _ => true
  | _ => false

/-- A request that travels to another core as an active message (R209, R298). -/
def Req.message (r : Req) : Option Nat :=
  match r.k with
  | .unit i k _ _ _ _ _ => if isLs k && r.own.isNone && (isAccess i || isAtomic i || isWordI i || isAmsg i) then some (coreOfLsKey k) else none
  | _ => none

/-- The key of a request performed at another core's LS, a bank or a memory-side unit. -/
def Req.unitKey (r : Req) : Option Nat := match r.k with | .unit _ k _ _ _ _ _ => some k | _ => none

/-- A message may be served: its release waits for nothing, and no earlier message of its task to that core is unserved. -/
def State.msgReady (s : State) (r : Req) : Bool :=
  !s.waiting r.after &&
  !(s.reqs.any fun q => q.id < r.id && q.pos = r.pos && q.message.isSome && q.message = r.message)

/-- Slot 15 of a core may use an issue cycle: it takes at most every second one (R28). -/
def State.turn15 (s : State) (core : Nat) : Bool := (s.core core).next ≤ s.cyc && (s.core core).hnd ≤ s.cyc
def State.useTurn15 (s : State) (core : Nat) : State := s.updCore core fun c => { c with next := s.cyc + 1, hnd := s.cyc + 2 }

/-- Tasks parked on a line wake when it arrives (R282). -/
def State.wakeLine (s : State) (core line : Nat) : State :=
  s.wakeAll fun k m => l1Of k = core && m.park = .line line

/-- The reply of a posted operation (R214, R219, R280): its registers land and its slot frees. An uncorrectable error is logged;
in a try mode it is the outcome ERR, and the launch is doomed. Another fault, or one with NR = 0b00, freezes the task where it
stands. -/
def State.returned (s : State) (r : Req) (ws : List RegW) (flt : Option Flt) (try' : Bool := false) : State :=
  let s1 := (s.updM r.pos fun m => m.landAll ws).reqEnd r
  match flt with
  | none => s1
  | some f =>
    let s2 := if f.cause = cUe then s1.logUe r.pos 0 0 f.d2 0 else s1
    if try' && f.cause = cUe then (s2.updM r.pos fun m => { m with o := oErr }).doomBy r.pos
    else s2.freeze r.pos 0 f r.pc (s2.ms r.pos).pc

/-- Performs a load that has waited for other accesses of its task: it reads what its die shows then (R216, R234). -/
def State.performLoad (s : State) (r : Req) : State :=
  match r.k with
  | .unit i key opd c a b v =>
    let rd : Rdr := { s.rdr r.pos r.proof with pos := Rdr.home.pos }
    match i with
    | .ldg x =>
      let (ws, flt) := s.gatherRegs rd x opd.ea v (s.gatherActs r.pos x (b ++ a) opd.sp opd.ea v)
      s.returned r ws flt (x.h.nr != 0)
    | _ =>
      let img := s.readFor rd i key
      let (ws, flt) := loadRegs (b ++ a) i opd.ea key (s.restFlt r.pos i c opd.ea img.bytes.length) img
      s.returned r ws flt (isTry i)
  | _ => s

/-- The messages that stand in a core's 16 places, in arrival order; further ones wait in the network (R209). -/
def State.places (s : State) (core : Nat) : List Req :=
  (s.reqs.filter fun r => r.message = some core && s.msgReady r).take 16

/-- The message that slot 15 of a core serves next, while no handler of a program's own stands there. -/
def State.nextMsg (s : State) (core : Nat) : Option Req :=
  if (s.ms (core * 16 + 15)).kind = .handler then none else (s.places core).head?

/-- Slot 15 of core `cur` serves its first access message within one of its issues (R209, R211): a load's result lands, or is
kept for the task in a try mode; a store is performed. -/
def execActiveMessageServe (s : State) : Out :=
  .next <|
  match s.nextMsg s.cur with
  | none => s
  | some r =>
    match r.k with
    | .unit i key opd c a b v =>
      if !isAccess i || !s.turn15 s.cur then s else
      let s := s.useTurn15 s.cur
      let rd := s.rdr r.pos 0
      let mk : W128 := b ++ a
      match i with
      | .stB _ | .stH _ | .stW _ | .stD _ | .stv _ | .stc _ =>
        let cells := sentCells i key a b v
        let s1 : State := { s with mem := setCells s.mem cells }
        (s1.wakeWords ((cells.filter fun (x : Host.Cell) => x.1 < 2 ^ 72).map Prod.fst)).reqEnd r
      | _ =>
        let img := s.readFor rd i key
        if isTry i then
          ((s.updM r.pos fun m => if r.drop then m else { m with kept := some { ea := opd.ea, img := img } }).reqEnd r).wakeLine
            (l1Of r.pos) (key / 64)
        else
          let (ws, flt) := loadRegs mk i opd.ea key (s.restFlt r.pos i c opd.ea img.bytes.length) img
          s.returned r ws flt
    | _ => s

end Sys2Proof.Machine
end

