-- ==== Sys2Proof/Machine/Engine.lean ====
section
/-! DEFINITION. What the engines share: the two-entry queues and their outcome, acceptance order, a job's release of its
entry, and the fault of a job (R125, R155-R158, R183, R207, R432-R436). -/

namespace Sys2Proof.Machine

/-- Engine numbers of a fault packet (R435): 0 VXE, 1 MXE, 2 CPE, 3 the attention queue. -/
def Master.queue (m : Master) (e : Nat) : List Job :=
  if e = 0 then m.vxe else if e = 1 then m.mxe else if e = 2 then m.cpe else m.att

def Master.setQueue (m : Master) (e : Nat) (q : List Job) : Master :=
  if e = 0 then { m with vxe := q } else if e = 1 then { m with mxe := q }
  else if e = 2 then { m with cpe := q } else { m with att := q }

/-- Places a job in a queue of the issuing task, next in the core's acceptance order (R207). An attention job reads and writes at the
homes, so it also follows every write under way that the task may have observed, its own plain stores among them (R234, R238,
R246). -/
def State.enqueue (s : State) (e : Nat) (k : JobK) (rd wr : List Fp) : State :=
  let core := coreOf s.cur
  let j : Job :=
    { k := k, pc := s.me.pc, ord := (s.core core).ord, proof := s.me.proof, acc := s.me.proof, dead := false, unit := 0, held := false, bad := false
      rd := rd, wr := wr, seen := [], res := none, kd := none, after := s.behind s.cur ++ if e = 3 then s.observed s.cur else [], at' := s.cyc }
  (s.upd fun m => m.setQueue e (m.queue e ++ [j])).updCore core fun c => { c with ord := c.ord + 1 }

/-- The task's queue is full (R125). -/
def State.engFull (s : State) (e : Nat) : Bool := (s.me.queue e).length ≥ 2

/-- Acceptance into a queue, or ENG (R125). -/
def State.accept (s : State) (h : Hd) (words e : Nat) (k : JobK) (rd wr : List Fp) : State :=
  if s.engFull e then s.notReady h words oEng (.engine e) 0
  else (s.enqueue e k rd wr).done h words

/-- The job at the head of a queue. -/
def State.headJob (s : State) (pos e : Nat) : Option Job := ((s.ms pos).queue e).head?

/-- The MXE has served a task: the next one's turn follows (R156). -/
def State.mxeTook (s : State) (pos e : Nat) : State :=
  if e = 1 then s.updCore (coreOf pos) fun c => { c with mxr := (slotOf pos + 1) % 16 } else s

/-- Replaces the head job, which has taken a step. -/
def State.setHead (s : State) (pos e : Nat) (j : Job) : State :=
  (s.updM pos fun m => m.setQueue e (match m.queue e with | [] => [] | _ :: r => j :: r)).mxeTook pos e

/-- The task's copies still outstanding (R226). -/
def Master.copiesOut (m : Master) : Nat := m.cAcc - m.cDone - m.cFail

/-- ENGWAIT's condition (R253): every queue that the mask names is empty; 1 VXE, 2 MXE, 4 CPE, 8 attention. -/
def Master.engIdle (m : Master) (mask : Nat) : Bool :=
  (mask % 2 = 0 || m.vxe.isEmpty) && (mask / 2 % 2 = 0 || m.mxe.isEmpty) && (mask / 4 % 2 = 0 || m.cpe.isEmpty) &&
  (mask / 8 % 2 = 0 || (m.att.isEmpty && m.posts.isEmpty))

/-- What a master parks on engines for: a queue, blocks that a job holds, copies, or ENGWAIT's queues. -/
def Master.onEngine (m : Master) (e : Nat) : Bool :=
  match m.park with
  | .engine n => n = e
  | .busy => true
  | .copies k => m.copiesOut ≤ k
  | .engwait mask => m.engIdle mask
  | _ => false

/-- Wakes the task's own park on an engine or its footprints (R125, R208). -/
def State.engineWake (s : State) (pos e : Nat) : State :=
  s.wakeAll fun k m => k = pos && m.onEngine e

/-- A job is complete: its entry frees, and the next job comes to the head. -/
def State.popJob (s : State) (pos e : Nat) : State :=
  let q := fun (m : Master) => match (m.queue e).tail with | [] => [] | j :: r => { j with at' := s.cyc } :: r
  (((s.updM pos fun m => m.setQueue e (q m)).mxeTook pos e).engineWake pos e).markerWake pos

/-- The ranges of a job meet some footprints so that one of the two writes. -/
def Job.meets (j : Job) (rd wr : List Fp) : Bool :=
  (wr.any fun f => (j.rd ++ j.wr).any (Fp.meets · f.sp f.lo f.hi)) || (rd.any fun f => j.wr.any (Fp.meets · f.sp f.lo f.hi))

/-- Every job of the core that was accepted earlier and shares blocks is complete, and so is every earlier post whose result area
the job meets (R183, R207). -/
def State.jobFree (s : State) (pos : Nat) (j : Job) : Bool :=
  !(s.masters.any fun (k, m) => coreOf k = coreOf pos && !isSvcPos k &&
    ((m.jobs.any fun i => i.ord < j.ord && j.meets i.rd i.wr) ||
     m.posts.any fun p => p.ord < j.ord && j.meets [] [p.fp]))

/-- A bank that some ranges touch is switching (R200). -/
def State.fpBusy (s : State) (pos : Nat) (fs : List Fp) : Bool := fs.any fun f => s.switching pos f.sp f.lo (f.hi - f.lo)

/-- A bank that the job's ranges touch is switching, or a core holds the tokens of a line that it writes (R200, R281). -/
def State.jobBusy (s : State) (pos : Nat) (j : Job) : Bool :=
  s.fpBusy pos (j.rd ++ j.wr) ||
  j.wr.any fun f => f.sp = 3 && !(s.claimed pos [(globKey (s.partOf pos) f.lo, f.hi - f.lo)]).isEmpty

/-- A job of the queue has a register still to write. -/
def Master.owes (m : Master) (e : Nat) : Bool := (m.queue e).any fun j => j.k.marks && !j.held

/-- The queue's jobs go on: no SAVE's edge has stopped them, or they are the attention queue's, which run to their ends (R184), or they
owe a frozen task's registers, which are written before its fault packet is sent (R32, R127). -/
def Master.mayRun (m : Master) (e : Nat) : Bool := m.saving.isNone || e = 3 || (m.st = .frozen && m.owes e)

/-- The head job of a queue may take its next step, but for its engine's turn: not held, free of earlier accesses and jobs, and
its task not being saved; the attention queue's jobs run to their ends then (R184). -/
def State.jobCan (s : State) (pos e : Nat) : Option Job :=
  match s.headJob pos e with
  | some j =>
    if !j.held && (s.ms pos).mayRun e && !s.waiting j.after && !s.jobBusy pos j && s.jobFree pos j then some j else none
  | none => none

/-- The job is an MMAS that has begun: the MXE executes it whole before it turns to another task (R156), unless a fault or a SAVE
stops it. -/
def Master.merging (m : Master) : Bool :=
  m.saving.isNone && (m.mxe.head?).any fun j => (match j.k with | .mmas .. => true | _ => false) && j.unit != 0 && !j.held

/-- The MXE serves the tasks whose heads are ready in rotation, one K-step or one whole other job at a time (R156); a begun MMAS whose
next slice is not ready holds no other task's head back. Tasks that a SAVE has taken out of their slots come last. -/
def State.mxeTurn (s : State) (pos : Nat) : Bool :=
  let core := coreOf pos
  if s.masters.any fun ((k, m) : Nat × Master) => coreOf k = core && m.merging && (s.jobCan k 1).isSome then (s.ms pos).merging
  else
    (((List.range 16).map fun i => core * 16 + ((s.core core).mxr + i) % 16) ++
      ((s.masters.filter fun ((k, m) : Nat × Master) => coreOf k = core && m.saving.isSome).map Prod.fst)).find?
        (fun p => (s.jobCan p 1).isSome) = some pos

/-- The head job of a queue takes its next step now. -/
def State.jobReady (s : State) (pos e : Nat) : Option Job := if e = 1 && !s.mxeTurn pos then none else s.jobCan pos e

/-- A job's fault (R158, R186): the job and the later jobs of its queue are held, the task freezes with its PC where it
stands, and the packet names the job's instruction. -/
def State.jobFault (s : State) (pos e : Nat) (j : Job) (f : Flt) : State :=
  let s1 := s.updM pos fun m => m.setQueue e ((m.queue e).map fun x => { x with held := true })
  s1.freeze pos e f j.pc (s1.ms pos).pc

/-- A queued command in error: ENG, naming the engine and the entry (R435). -/
def engFlt (e entry : Nat) : Flt := { cause := cEng, d0 := BitVec.ofNat 64 (e + 16 * entry) }

/-- UE of a job: logged, and the job is held (R158, R436). -/
def State.jobUe (s : State) (pos e : Nat) (j : Job) (block units : Nat) : State :=
  let a : W64 := BitVec.ofNat 64 (block % 2 ^ 64)
  (s.logUe pos e 0 a 0).jobFault pos e j { cause := cUe, d2 := a, d3 := BitVec.ofNat 64 units }

/-- The reader that a job is (R160). -/
def State.jobRdr (s : State) (pos : Nat) (j : Job) : Rdr := s.rdr pos j.proof

/-- A job's store: under the proof of its acceptance; OVF sets ERRST and dooms the launch (R160, R214). -/
def State.jobPut (s : State) (pos : Nat) (j : Job) (key : Nat) (cells : List Host.Cell) : State :=
  let (s1, r) := s.store pos j.proof j.dead 0 {} key cells
  let s2 := if r = .ovf then (s1.updM pos fun m => m.setErr errOvf).doomBy pos else s1
  s2.wakeWords ((cells.filter fun (c : Host.Cell) => c.1 < 2 ^ 72).map Prod.fst)

/-- The same for cells of several pages. -/
def State.jobStore (s : State) (pos : Nat) (j : Job) (cells : List Host.Cell) : State :=
  (splitCells cells).foldl (fun s ((k, cs) : Nat × List Host.Cell) => s.jobPut pos j k cs) s

end Sys2Proof.Machine
end

