-- ==== Sys2Proof/Machine/Impress.lean ====
section
/-! DEFINITION. Plate reads by engine jobs: the checks at issue, the kernel slot bound at acceptance, and the impressions
of a completed unit (R161, R224, R395-R397). -/

namespace Sys2Proof.Machine

/-- Bytes of [ea, ea + len) that a plate covers. -/
def Plate.cover (p : Plate) (part ea len : Nat) : Nat :=
  if p.part = part then Nat.min p.top (ea + len) - Nat.max p.base ea else 0

/-- Plates with bytes in an extent, by id, in state `st`. -/
def State.platesIn (s : State) (part ea len st : Nat) : List (Nat × Plate) :=
  s.plates.filter fun ((_, p) : Nat × Plate) => p.st = st && p.cover part ea len > 0

def plateFlt (id ea : Nat) : Flt :=
  { cause := cPlate, d0 := BitVec.ofNat 64 id, d2 := BitVec.ofNat 64 (ea / 64 * 64) }

/-- The lowest slot that holds a hash, else the lowest empty one (R395). -/
def Plate.slotFor (p : Plate) (hash : BitVec 384) : Option Nat :=
  match List.find? (fun ((_, x) : Nat × PSlot) => x.hash = hash) p.slots with
  | some (i, _) => some i
  | none => (List.range 64).find? fun i => (Tab.find? p.slots i).isNone

def State.hashOf (s : State) (lslot : Nat) : BitVec 384 := ((s.launch? lslot).map (·.hash)).getD 0

/-- The PLATE fault of a read at issue (R397): the first block outside every OPEN plate, or in a plate with no kernel slot. -/
def State.plateIssue (s : State) (pos : Nat) (c : Cap) (ea len : Nat) : Option Flt :=
  if c.space != 5 then none else
  let part := s.partOf pos
  let lslot := (s.ms pos).lslot
  (chunksOf ea len).findSome? fun va =>
    let lo := Nat.max va ea
    match (s.platesIn part lo 1 1).head? with
    | none => some (plateFlt (((s.platesIn part lo 1 2).map Prod.fst).headD 0xFFFF) lo)
    | some (id, p) =>
      if ((s.launch? lslot).bind fun l => Tab.find? l.bound id).isNone && (p.slotFor (s.hashOf lslot)).isNone then some (plateFlt id lo)
      else none

/-- Binds the launch's slot of every plate that an accepted job reads (R395). -/
def State.plateBind (s : State) (pos : Nat) (c : Cap) (ea len : Nat) : State :=
  if c.space != 5 || len = 0 then s else
  let lslot := (s.ms pos).lslot
  (s.platesIn (s.partOf pos) ea len 1).foldl (fun s ((id, p) : Nat × Plate) =>
    if ((s.launch? lslot).bind fun l => Tab.find? l.bound id).isSome then s else
    match p.slotFor (s.hashOf lslot) with
    | none => s
    | some i =>
      let fresh : PSlot :=
        { hash := s.hashOf lslot, struck := 0, spoiled := 0, carryS := 0, carryP := 0, sat := false, ckS := 0, ckP := 0 }
      let p' := if (Tab.find? p.slots i).isSome then p else { p with slots := Tab.put p.slots i fresh }
      (s.setPlate id p').updLaunch lslot fun l => { l with bound := Tab.put l.bound id i }) s

/-- Counts one impression of the block at virtual address `va` of an OPEN plate for a launch (R395, R396). -/
def State.strike (s : State) (part lslot va : Nat) : State :=
  match List.find? (fun ((_, p) : Nat × Plate) => p.st = 1 && p.cover part va 64 > 0) s.plates with
  | none => s
  | some (id, _) =>
    s.updLaunch lslot fun l =>
      match Tab.find? l.bound id with
      | some i => { l with pend := Tab.set 0 l.pend (id * 64 + i) (Tab.get 0 l.pend (id * 64 + i) + 1) }
      | none => l

/-- Impressions of a unit that read these plate blocks (virtual addresses): those that the job has not counted yet. -/
def State.countBlocks (s : State) (pos : Nat) (j : Job) (vas : List Nat) : State × Job :=
  let new := (vas.filter fun v => !j.seen.contains v).eraseDups
  (new.foldl (fun s v => s.strike (s.partOf pos) (s.ms pos).lslot v) s, { j with seen := j.seen ++ new })

end Sys2Proof.Machine
end

