-- ==== Sys2Proof/Machine/Matrix.lean ====
section
/-! DEFINITION. The matrix engine (spec/07: R140-R170): tiles, skip streams, K-steps, merges and tile jobs. -/

namespace Sys2Proof.Machine

/-! ## Tiles (R140) -/

/-- Physical tile of a task's tile name. -/
def Master.phys (m : Master) (z : Nat) : Nat := m.zbase + z

def State.tile (s : State) (core phys e : Nat) : W32 := Tab.get 0 s.tiles (tileOf core phys + e)
def State.setTile (s : State) (core phys e : Nat) (x : W32) : State :=
  { s with tiles := Tab.set 0 s.tiles (tileOf core phys + e) x }
def State.isInt (s : State) (core phys : Nat) : Bool := s.ztag.contains (core * 16 + phys)
def State.setZtag (s : State) (core phys : Nat) (int : Bool) : State :=
  let t := core * 16 + phys
  { s with ztag := if int then t :: s.ztag.filter (· != t) else s.ztag.filter (· != t) }

/-- Writes all elements; an error that the tile held is gone. -/
def State.fillTile (s : State) (core phys : Nat) (f : Nat → W32) : State :=
  (List.range 1024).foldl (fun s e => s.setTile core phys e (f e))
    { s with zbad := s.zbad.filter (· != core * 16 + phys) }

/-! ## The sum of a K-step (R146) -/

/-- Floor of log2 of a nonzero finite value. -/
def Num.log2 : Num → Int
  | .fin _ m e => e + Nat.log2 m
  | _ => 0

/-- A term truncated toward 0 to a multiple of 2^u, in units of 2^u. -/
def Num.truncAt (u : Int) : Num → Int
  | .fin neg m e => Num.sgn neg (if u ≤ e then m * 2 ^ (e - u).toNat else m / 2 ^ (u - e).toNat)
  | _ => 0

/-- The new element from the old one (absent for an ABU) and the exact products; none leaves it unchanged. -/
def stepSum (z : Option Nat) (ps : List Num) : Option Nat :=
  let zn := z.map ffF.num
  let all := zn.toList ++ ps
  if ps.all Num.isZero then none
  else if all.any Num.isNan || (all.any (· == .inf true) && all.any (· == .inf false)) then some ffF.nan
  else if all.any Num.isInf then some (ffF.withSign (all.any (· == .inf true)) ffF.infCode)
  else
    let nz := all.filter fun t => !t.isZero
    let emax := nz.foldl (fun a t => if t.log2 > a then t.log2 else a) ((nz.map Num.log2).headD 0)
    let u := emax - 60
    let x := (nz.map (Num.truncAt u)).sum
    some (if x = 0 then 0 else ffF.round 0 true (.fin (decide (x < 0)) x.natAbs u))

/-- One step's update of an INT32 element (R148). -/
def stepInt (z : W32) (ps : List Int) : W32 := BitVec.ofInt 32 (sat32 (z.toInt + ps.sum))

/-! ## Operand elements (R142, R143) -/

/-- An operand of a job: base, stride, transposition, rows; `sz` is its element size in nibbles. -/
structure Mop where
  o : Opd
  st : Nat
  tr : Bool
  rows : Nat

/-- Nibble offset, from the base, of element (row r, index k). -/
def Mop.nib (x : Mop) (sz r k : Nat) : Nat :=
  if x.tr then 2 * (k * x.st) + r * sz else 2 * (r * x.st) + k * sz

/-- Block addresses that the elements of step `t` lie in, in row order. -/
def Mop.blocks (x : Mop) (sz ke t : Nat) : List Nat :=
  let run := fun (n0 n1 : Nat) => blocksOf (x.o.ea.toNat + n0 / 2) ((n1 + 1) / 2 - n0 / 2)
  ((if x.tr then (List.range ke).flatMap fun i =>
      run (x.nib sz 0 (t * ke + i)) (x.nib sz 0 (t * ke + i) + x.rows * sz)
    else (List.range x.rows).flatMap fun r => run (x.nib sz r (t * ke)) (x.nib sz r (t * ke) + ke * sz))).eraseDups

/-- Key of an address of an operand. -/
def Mop.key (s : State) (pos : Nat) (x : Mop) (a : Nat) : Nat := (physKey s pos x.o.sp (a % 2 ^ 64)).getD 0

def State.blockBfd (s : State) (r : Rdr) (pos : Nat) (x : Mop) (a : Nat) : BitVec 16 := s.rdBfd r (x.key s pos a)

/-- Nibbles of an element of a format that the MXE accepts; 0 for the others (R144). -/
def mxeNibs (fmt : Nat) : Nat := if fmt = 8 then 0 else fmtBits fmt / 4

/-- Value of element (r, k) under its block's scale. -/
def State.mopElem (s : State) (rd : Rdr) (pos : Nat) (x : Mop) (fmt sz r k : Nat) : Num :=
  let n := 2 * x.o.ea.toNat + x.nib sz r k
  let a := n / 2
  let key := x.key s pos a
  let c := if sz = 1 then (s.rd8 rd key).toNat / 16 ^ (n % 2) % 16
    else if sz = 2 then (s.rd8 rd key).toNat
    else (s.rd8 rd key).toNat + 256 * (s.rd8 rd (x.key s pos (a + 1))).toNat
  fmtNum fmt c (bfdScale (s.rdBfd rd key))

/-- The element sizes of both operands that a step may have, wider first. -/
def sizePairs : List (Nat × Nat) := [(4, 4), (4, 2), (2, 4), (4, 1), (1, 4), (2, 2), (2, 1), (1, 2), (1, 1)]

/-- K_e of a pair of sizes in nibbles. -/
def kOf (a b : Nat) : Nat := 256 / Nat.max a b

/-- All blocks hold the first one's format, of the given size. -/
def State.sameFmt (s : State) (rd : Rdr) (pos : Nat) (x : Mop) (sz : Nat) (bs : List Nat) : Bool :=
  let f := bfdFmt (s.blockBfd rd pos x (bs.headD 0))
  mxeNibs f = sz && bs.all fun b => bfdFmt (s.blockBfd rd pos x b) = f

/-- The sizes of step `t`: the first pair whose blocks carry formats of those sizes (notes/assumptions/14.md). -/
def State.stepSizes (s : State) (rd : Rdr) (pos : Nat) (a b : Mop) (t : Nat) : Option (Nat × Nat) :=
  sizePairs.find? fun (p, q) =>
    let ke := kOf p q
    s.sameFmt rd pos a p (a.blocks p ke t) && s.sameFmt rd pos b q (b.blocks q ke t)

/-- The first of an operand's blocks in a step whose format is not accepted or differs from the first one's. -/
def State.opBad (s : State) (rd : Rdr) (pos : Nat) (x : Mop) (bs : List Nat) : Option (Mop × Nat) :=
  let f := bfdFmt (s.blockBfd rd pos x (bs.headD 0))
  (bs.find? fun c => mxeNibs f = 0 || bfdFmt (s.blockBfd rd pos x c) != f).map fun c => (x, c)

/-- The operand's first block in a step has the given element size, or a format that is not accepted. -/
def State.opFits (s : State) (rd : Rdr) (pos : Nat) (x : Mop) (sz : Nat) (bs : List Nat) : Bool :=
  let n := mxeNibs (bfdFmt (s.blockBfd rd pos x (bs.headD 0)))
  n = sz || n = 0

/-- The block that a rejected step reports: under the first pair of sizes that both operands' first blocks have, the first that is
rejected, A's before B's in row order (notes/assumptions/14.md). -/
def State.stepBad (s : State) (rd : Rdr) (pos : Nat) (a b : Mop) (t : Nat) : Mop × Nat :=
  (sizePairs.findSome? fun ((p, q) : Nat × Nat) =>
    let ba := a.blocks p (kOf p q) t
    let bb := b.blocks q (kOf p q) t
    if s.opFits rd pos a p ba && s.opFits rd pos b q bb then s.opBad rd pos a ba <|> s.opBad rd pos b bb else none).getD
    (a, (a.blocks 4 (kOf 4 4) t).headD 0)

/-! ## Skip streams (R153, R154) -/

def qAddr (q : W64) : Nat := q.toNat % 2 ^ 18
def qEnd (q : W64) : Nat := q.toNat / 2 ^ 18 % 2 ^ 18
def qRem (q : W64) : Nat := q.toNat / 2 ^ 36 % 2 ^ 15
def qKind (q : W64) : Bool := q.getLsbD 51
def qMake (addr en rem : Nat) (kind : Bool) : W64 :=
  BitVec.ofNat 64 (addr + en * 2 ^ 18 + rem * 2 ^ 36 + if kind then 2 ^ 51 else 0)

/-- Passes zero-length runs and loads the next run; an entry that `bad` names stops the walk at it. -/
def qLoad (rd16 : Nat → Nat) (bad : Nat → Bool) : Nat → W64 → Except Nat W64
  | 0, q => .ok q
  | f + 1, q =>
    if qRem q = 0 && qAddr q != qEnd q && qAddr q % 2 = qEnd q % 2 then
      if bad (qAddr q) then .error (qAddr q)
      else
        let e := rd16 (qAddr q)
        qLoad rd16 bad f (qMake ((qAddr q + 2) % 2 ^ 18) (qEnd q) (e % 2 ^ 15) (e / 2 ^ 15 = 1))
    else .ok q

/-- One walk: the register after it and whether the step is performed, or the entry in error. -/
def qWalk (rd16 : Nat → Nat) (bad : Nat → Bool) (q : W64) : Except Nat (W64 × Bool) :=
  match qLoad rd16 bad 131073 q with
  | .error e => .error e
  | .ok q1 =>
    if qRem q1 = 0 then .ok (q1, true)
    else .ok (qMake (qAddr q1) (qEnd q1) (qRem q1 - 1) (qKind q1), qKind q1)

/-! ## Issue (R149-R151, R155) -/

/-- A field of the tensor block: its constant, or the low bits of its register (R70). -/
def tpVal (m : Master) {n : Nat} (reg : Bool) (v : BitVec n) : Nat :=
  if reg then (m.rs (v.setWidth 6)).toNat % 2 ^ n else v.toNat

def tpStride (m : Master) (reg : Bool) (v : BitVec 20) : Nat := tpVal m reg v
/-- K's register number stands in the low six bits of the field. -/
def tpK (m : Master) (t : TP) : Nat := tpVal m t.ks t.k

/-- Extent of an operand (R150). -/
def opExtent (rows k st : Nat) (tr : Bool) : Nat :=
  if rows = 0 || k = 0 then 0
  else if tr then
    Nat.max ((64 * k - 1) * st + 2 * rows) (Nat.max ((128 * k - 1) * st + rows) ((256 * k - 1) * st + (rows + 1) / 2))
  else (rows - 1) * st + 128 * k

/-- Spaces of an MXE operand. -/
def spMxe : Spaces := { own := true, clu := true, tx := true, imm := true, ms := true, plate := true }

/-- The checks of R150 for one operand; `mc` is the source core of R151. A write to PLATE fails at permission (R167). -/
def State.mxeFlt (s : State) (pos opn : Nat) (c : Cap) (ea : W64) (len : Nat) (write : Bool) (mc : Option Nat) : Option Flt :=
  let perm := if write then pStore else if c.space = 5 then pPlateRead else pLoad
  let a : Acc := { cap := c, opn := opn, perms := [perm], sp := spMxe, write := write, ea := ea.toNat, len := len, align := 64 }
  let space := match mc with
    | none => s.spaceFlt pos a
    | some k =>
      if c.space = 1 && ea.toNat < 0x40000 && s.inAlloc (clusterOf pos * 16 + k) (s.ms pos).lslot ea.toNat len then none
      else some (capFlt cSpace 3 opn c ea.toNat)
  let plate := if write && c.space = 5 then some (capFlt cCapperm 2 opn c ea.toNat) else none
  a.permFlt <|> plate <|> space <|> a.alignFlt <|> a.boundFlt <|> s.leaseFlt pos a <|> s.plateIssue pos c ea.toNat len

/-- A tile name beyond the task's tiles (R18). -/
def Master.noTile (m : Master) (z : ZReg) : Bool := m.zcount ≤ z.toNat

/-- The remote form of an offset in core `k`'s LS, or the address itself. A fault packet names a failing block of a multicast operand B in this
form, although its base is in the own-LS form (DESIGN CHOICE, notes/assumptions/104.md). -/
def mcEa (mc : Option Nat) (ea : W64) : W64 :=
  match mc with
  | some k => BitVec.ofNat 64 (0x400000 + 0x40000 * k + ea.toNat)
  | none => ea

/-- The proof check of an engine instruction, its queue, a switch of a bank that it touches, and its acceptance; a plate that it
reads gets its slot bound. -/
def State.mxeAccept (s : State) (h : Hd) (words : Nat) (k : JobK) (rd wr : List Fp) (bind : State → State) : State :=
  s.proofCheck fun s =>
    if s.engFull 1 then s.notReady h words oEng (.engine 1) 0
    else if s.fpBusy s.cur (rd ++ wr) then s.notReady h words oBusy .busy 0
    else ((bind s).enqueue 1 k rd wr).done h words

/-- Accepts an MMA with given bases and parameters. A PLATE fault of A comes before the checks of B (DESIGN CHOICE,
notes/assumptions/106.md). -/
def State.mmaIssue (s : State) (h : Hd) (words z : Nat) (ca cb : Cap) (ea eb : W64) (sa sb m n k : Nat) (ta tb : Bool)
    (mc : Option Nat) (q : Option Nat) (bgs : Bool) : State :=
  let zero := m = 0 || n = 0 || k = 0
  let la := if zero then 0 else opExtent m k sa ta
  let lb := if zero then 0 else opExtent n k sb tb
  match (s.mxeFlt s.cur 0 ca ea la false none) <|> (s.mxeFlt s.cur 1 cb eb lb false mc) with
  | some f => s.fault f
  | none =>
    let oa : Opd := { sp := ca.space, ea := ea }
    let ob : Opd := { sp := cb.space, ea := mcEa mc eb }
    s.mxeAccept h words
      (.mma z oa ob sa sb m n (if zero then 0 else k) ta tb (if mc.isSome then 1 else 0) (mc.getD 0) q bgs)
      (mkFpBlk s.cur oa.sp oa.ea.toNat la 0 ca.cursor ++ mkFpBlk s.cur ob.sp ob.ea.toNat lb 1 cb.cursor) []
      fun s => (s.plateBind s.cur ca ea.toNat la).plateBind s.cur cb eb.toNat lb

/-- The checks of substituted values (R149), in the order of its table (notes/assumptions/83.md): sizes, then strides, each with the
operand and capability that it belongs to, then the source core. -/
def tpCheck (m : Master) (t : TP) (strides : List (Nat × Nat × Cap)) (k : State → State) (s : State) : State :=
  if tpVal m t.ms t.m > 32 || tpVal m t.ns t.n > 32 || tpK m t > 1024 then illegal 6 s
  else match strides.find? fun (st, _, _) => st % 64 != 0 with
  | some (_, opn, c) => s.fault (capFlt cAlign 4 opn c c.cursor.toNat)
  | none => if t.mcm = 2 && (m.rs t.mc).toNat % 64 ≥ 16 then illegal 6 s else k s

/-- The source core of operand B (R151). -/
def tpCore (m : Master) (t : TP) : Option Nat :=
  if t.mcm = 0 then none else if t.mcm = 1 then some (t.mc.toNat % 16) else some ((m.rs t.mc).toNat % 16)

/-- MMA (R163). -/
def execMma (x : Mma) (s : State) : Out :=
  s.gate .engine x.h.nr fun s =>
    let m := s.me
    let t := x.tp
    if m.noTile x.zd then illegal 5 s
    else
      s |> tpCheck m t [(tpStride m t.sas t.sa, 0, m.rc t.acap), (tpStride m t.sbs t.sb, 1, m.rc t.bcap)] fun s =>
      s.mmaIssue x.h 7 x.zd.toNat (m.rc t.acap) (m.rc t.bcap) (m.rc t.acap).cursor (m.rc t.bcap).cursor
        (tpStride m t.sas t.sa) (tpStride m t.sbs t.sb) (tpVal m t.ms t.m) (tpVal m t.ns t.n) (tpK m t) t.ta t.tb
        (tpCore m t) (if t.qe then some t.q.toNat else none) false

/-- MMAS (R164). -/
def execMmas (x : Mma) (s : State) : Out :=
  s.gate .engine x.h.nr fun s =>
    let r := s.me
    let t := x.tp
    let c := r.rc t.acap
    let sa := tpStride r t.sas t.sa
    let sb := tpStride r t.sbs t.sb
    if r.noTile x.zd then illegal 5 s
    else
      s |> tpCheck r t [(sa, 0, c), (sb, 0, c)] fun s =>
      let m := tpVal r t.ms t.m
      let n := tpVal r t.ns t.n
      let k := tpK r t
      let zero := m = 0 || n = 0 || k = 0
      let len := if zero then 0 else (k - 1) * sb + (m - 1) * sa + 4 * n
      match s.mxeFlt s.cur 0 c c.cursor len false none with
      | some f => s.fault f
      | none =>
        let o : Opd := { sp := c.space, ea := c.cursor }
        s.mxeAccept x.h 7 (.mmas x.zd.toNat o sb m n (if zero then 0 else k) sa)
          (mkFpBlk s.cur o.sp o.ea.toNat len 0 c.cursor) [] fun s => s.plateBind s.cur c c.cursor.toNat len

/-! ## MMA.BGS and its record (R165, R166) -/

/-- The shape record at LS offset 0 of the core. R443 names no report to the program for an error in it, so it is logged and the bytes
are taken as they stand (notes/assumptions/93.md). -/
def State.shapeRecord (s : State) : BitVec 512 :=
  BitVec.ofNat 512 (s.rdNat (s.rdr s.cur 0) (lsKey (coreOf s.cur) 0) 64)

/-- Reserved bits 0, version 1, fields within their limits, offsets and increments multiples of 64. -/
def shapeOk (r : BitVec 512) : Bool :=
  let f := fun (lo n : Nat) => (r.extractLsb' lo n).toNat
  f 448 64 = 0 && f 180 12 = 0 && f 148 12 = 0 && f 75 5 = 0 && f 62 2 = 0 && f 54 2 = 0 && f 42 6 = 0 &&
  f 0 32 = 1 && 1 ≤ f 32 4 && 1 ≤ f 36 4 && 1 ≤ f 48 6 && f 48 6 ≤ 32 && 1 ≤ f 56 6 && f 56 6 ≤ 32 &&
  1 ≤ f 64 11 && f 64 11 ≤ 1024 && 1 ≤ f 80 16 && 1 ≤ f 96 16 && 1 ≤ f 112 16 && f 128 20 % 64 = 0 && f 160 20 % 64 = 0 &&
  f 192 64 % 64 = 0 && f 256 64 % 64 = 0 && f 320 32 % 64 = 0 && f 352 32 % 64 = 0 && f 384 32 % 64 = 0 && f 416 32 % 64 = 0

def execMmaBgs (x : MmaBgs) (s : State) : Out :=
  s.gate .engine x.h.nr fun s =>
    let m := s.me
    let r := s.shapeRecord
    let s := s.noteUe (s.rdr s.cur 0) 0 0 (lsKey (coreOf s.cur) 0) 64
    let f := fun (lo n : Nat) => (r.extractLsb' lo n).toNat
    if m.noTile x.zd || !((s.launch? m.lslot).map (·.compat)).getD false then illegal 5 s
    else if !shapeOk r then illegal 6 s
    else
      let rank := m.slice
      let pm := f 80 16
      let pn := f 96 16
      let rm := rank % pm
      let rn := rank / pm % pn
      let rk := rank / (pm * pn)
      let ca := m.rc (BitVec.ofNat 4 (f 32 4))
      let cb := m.rc (BitVec.ofNat 4 (f 36 4))
      let ea := ca.cursor + BitVec.ofNat 64 (f 192 64 + rm * f 320 32 + rk * f 384 32)
      let eb := cb.cursor + BitVec.ofNat 64 (f 256 64 + rn * f 352 32 + rk * f 416 32)
      if rk ≥ f 112 16 then
        s.mxeAccept x.h x.h.words (.mma x.zd.toNat { sp := 1, ea := 0 } { sp := 1, ea := 0 } 0 0 0 0 0 false false 0 0 none true)
          [] [] fun s => s
      else
        s.mmaIssue x.h x.h.words x.zd.toNat ca cb ea eb (f 128 20) (f 160 20) (f 48 6) (f 56 6) (f 64 11)
          (r.getLsbD 40) (r.getLsbD 41) none none true

/-! ## Tile instructions (R167-R169) -/

def noMem : Opd := { sp := 0, ea := 0 }

/-- ZZERO and ZCVT make no proof check (R155). -/
def execZzero (x : ZZeroA) (s : State) : Out :=
  s.gate .engine x.h.nr fun s =>
    if s.me.noTile x.zd then illegal 5 s
    else s.accept x.h x.h.words 1 (.tile (.zzero x) x.zd.toNat 0 noMem 0) [] []

def execZcvt (x : ZCvtA) (s : State) : Out :=
  s.gate .engine x.h.nr fun s =>
    if s.me.noTile x.zd || s.me.noTile x.za then illegal 5 s
    else s.accept x.h x.h.words 1 (.tile (.zcvt x) x.zd.toNat x.za.toNat noMem 0) [] []

/-- ZLD and ZST: one tile image. -/
def tileMem (x : ZMem) (i : Instr) (write : Bool) (s : State) : Out :=
  s.gate .engine x.h.nr fun s =>
    let m := s.me
    let c := m.rc x.mem.cap
    let ea := m.ea x.mem
    if m.noTile x.z then illegal 5 s
    else match s.mxeFlt s.cur 0 c ea 4096 write none with
    | some f => s.fault f
    | none =>
      let fp := mkFpBlk s.cur c.space ea.toNat 4096 0 c.cursor
      s.mxeAccept x.h x.h.words (.tile i x.z.toNat x.z.toNat { sp := c.space, ea := ea } 0) (if write then [] else fp)
        (if write then fp else []) fun s =>
          if write then
            let key := fun (a : Nat) => (physKey s s.cur c.space (ea.toNat + a)).getD 0
            (s.touch s.cur (key 0)).touch s.cur (key 4095)
          else s.plateBind s.cur c ea.toNat 4096

def execZld (x : ZMem) (s : State) : Out := tileMem x (.zld x) false s
def execZst (x : ZMem) (s : State) : Out := tileMem x (.zst x) true s

/-- QSET (R169). -/
def execQset (x : QSetA) (s : State) : Out :=
  s.gate .engine x.h.nr fun s =>
    let m := s.me
    let c := m.rc x.mem.cap
    let ea := m.ea x.mem
    let sc := m.rs x.sc
    let len := 2 * (sc.toNat % 2 ^ 18)
    let a : Acc := { cap := c, perms := [pLoad], sp := { own := true }, ea := ea.toNat, len := len, align := 2 }
    let space := if c.space = 1 && ea.toNat < 0x40000 then s.spaceFlt s.cur a else some (capFlt cSpace 3 0 c ea.toNat)
    let big := if sc.toNat ≥ 2 ^ 18 then some (capFlt cCapbound 5 0 c ea.toNat) else none
    match a.permFlt <|> space <|> a.alignFlt <|> big <|> a.boundFlt with
    | some f => s.fault f
    | none => s.mxeAccept x.h x.h.words (.tile (.qset x) x.qd.toNat 0 { sp := 1, ea := ea } sc) [] [] fun s => s

def execQpos (x : QPosA) (s : State) : Out :=
  s.gate .engine x.h.nr fun s => s.accept x.h x.h.words 1 (.tile (.qpos x) x.qa.toNat 0 noMem 0) [] []

/-! ## Steps of the engine (R156, R158, R161) -/

/-- State in error that a job would read next (R170, R435): the queue entry, a tile, or a q register. -/
def State.mxeBad (s : State) (pos : Nat) (j : Job) (tiles qs : List Nat) : Option Flt :=
  let m := s.ms pos
  if j.bad then some (engFlt 1 0)
  else match tiles.find? fun z => s.zbad.contains (coreOf pos * 16 + m.phys z) with
  | some z => some (engFlt 1 (m.phys z))
  | none => (qs.find? fun q => m.qbad.contains q).map (engFlt 1)

/-- The operands of an MMA job. -/
def mopsOf : JobK → Mop × Mop
  | .mma _ a b sa sb m n _ ta tb _ _ _ _ => ({ o := a, st := sa, tr := ta, rows := m }, { o := b, st := sb, tr := tb, rows := n })
  | _ => ({ o := noMem, st := 0, tr := false, rows := 0 }, { o := noMem, st := 0, tr := false, rows := 0 })

/-- Plate blocks among an operand's blocks, by virtual address. -/
def plateVas (x : Mop) (bs : List Nat) : List Nat := if x.o.sp = 5 then bs else []

/-- A performed step: its blocks are checked, then the tile is updated (R146, R148). Every block is taken as one read at the
instant of the step (R152). Of several causes, the sizes and formats of the step come first, then an uncorrectable error, then a
block that an INT32 tile rejects, and a tile in error before all of them (notes/assumptions/83.md); of several blocks with one cause the first is named, A's before B's in
row order (notes/assumptions/14.md). -/
def State.kstep (s : State) (pos : Nat) (j : Job) (z : Nat) (a b : Mop) (m n : Nat) : State :=
  let rd := s.jobRdr pos j
  let core := coreOf pos
  let t := (s.ms pos).phys z
  let fmtFlt := fun (x : Mop) (blk : Nat) =>
    s.jobFault pos 1 j { cause := cFmt, d0 := (s.blockBfd rd pos x blk).setWidth 64, d2 := BitVec.ofNat 64 blk, d3 := BitVec.ofNat 64 j.unit }
  match s.stepSizes rd pos a b j.unit with
  | none => let (x, blk) := s.stepBad rd pos a b j.unit; fmtFlt x blk
  | some (p, q) =>
    let ke := kOf p q
    let ba := a.blocks p ke j.unit
    let bb := b.blocks q ke j.unit
    match (ba.find? fun c => s.rd8 rd (poisonKey (a.key s pos c)) != 0) <|> (bb.find? fun c => s.rd8 rd (poisonKey (b.key s pos c)) != 0) with
    | some c => s.jobUe pos 1 j c j.unit
    | none =>
      let fa := bfdFmt (s.blockBfd rd pos a (ba.headD 0))
      let fb := bfdFmt (s.blockBfd rd pos b (bb.headD 0))
      let int := s.isInt core t
      let okInt := fun (x : Mop) (c : Nat) => let d := s.blockBfd rd pos x c; 1 ≤ bfdFmt d && bfdFmt d ≤ 3 && bfdScale d = 0
      match if int then (((ba.find? fun c => !okInt a c).map fun c => (a, c)) <|> ((bb.find? fun c => !okInt b c).map fun c => (b, c))) else none with
      | some (x, c) => fmtFlt x c
      | none =>
        let ks := (List.range ke).map (j.unit * ke + ·)
        let va := fun (i : Nat) => ks.map fun k => s.mopElem rd pos a fa p i k
        let vb := fun (i : Nat) => ks.map fun k => s.mopElem rd pos b fb q i k
        let prods := fun (i l : Nat) => List.zipWith Num.mul (va i) (vb l)
        let s1 := (List.range m).foldl (fun s' i => (List.range n).foldl (fun s' l =>
          let e := 32 * i + l
          let old := s'.tile core t e
          if int then s'.setTile core t e (stepInt old ((prods i l).map (Num.truncAt 0)))
          else match stepSum (some old.toNat) (prods i l) with
          | some x => s'.setTile core t e (BitVec.ofNat 32 x)
          | none => s') s') s
        let (s2, j2) := s1.countBlocks pos j (plateVas a ba ++ plateVas b bb)
        s2.setHead pos 1 { j2 with unit := j.unit + 1 }

/-- Bytes of the 16-bit skip-stream entry at LS offset `off` of a core; a second byte past the last is the first
(notes/assumptions/84.md). -/
def State.ls16 (s : State) (r : Rdr) (core off : Nat) : Nat :=
  (s.rd8 r (lsKey core off)).toNat + 256 * (s.rd8 r (lsKey core ((off + 1) % 2 ^ 18))).toNat

/-- MXE_KSTEP: one K-step of the job at the head of task `cur`'s MXE queue, walked through its skip stream. A queued command or tile in
error is met before the step's blocks (DESIGN CHOICE, notes/assumptions/83.md). -/
def execMxeKstep (s : State) : Out :=
  .next <|
  match s.jobReady s.cur 1 with
  | none => s
  | some j =>
    match j.k with
    | .mma z _ _ _ _ m n k _ _ _ _ q _ =>
      let pos := s.cur
      let fin := fun (s : State) =>
        match s.headJob s.cur 1 with
        | some j' => if !j'.held && j'.unit ≥ k && j'.ord = j.ord then s.popJob s.cur 1 else s
        | none => s
      -- the step reads the tile only when it is performed
      let step := fun (s : State) =>
        match s.mxeBad pos j [z] [] with
        | some f => s.jobFault pos 1 j f
        | none => let (a, b) := mopsOf j.k; s.kstep pos j z a b m n
      let over' := j.unit ≥ k
      match s.mxeBad pos j [] (if over' then [] else q.toList) with
      | some f => s.jobFault pos 1 j f
      | none =>
        if over' then s.popJob pos 1 else
        match q with
        | none => fin (step s)
        | some qn =>
          let r := s.rdr pos j.proof
          let old := s.me.rq (BitVec.ofNat 2 qn)
          let core := coreOf pos
          let bad := fun (off : Nat) => s.rd8 r (poisonKey (lsKey core off)) != 0
          match qWalk (s.ls16 r core) (fun off => bad off || bad ((off + 1) % 2 ^ 18)) old with
          | .error off => s.jobUe pos 1 j ((if bad off then off else (off + 1) % 2 ^ 18) / 64 * 64) j.unit
          | .ok (q', perform) =>
            let walked := fun (s : State) => s.upd fun m => m.wq (BitVec.ofNat 2 qn) q'
            if perform then
              let s1 := step s
              -- a step that faults has no effect, its walk included
              if (s1.headJob pos 1).any fun x => x.held then s1 else fin (walked s1)
            else fin (walked (s.setHead pos 1 { j with unit := j.unit + 1 }))
    | _ => s

/-- MMAS_SLICE: one slice image merged into the tile (R164). A queued command or tile in error is met before the slice's blocks (DESIGN CHOICE,
notes/assumptions/83.md). -/
def execMmasSlice (s : State) : Out :=
  .next <|
  match s.jobReady s.cur 1 with
  | none => s
  | some j =>
    match j.k with
    | .mmas z o sb m n k sa =>
      match s.mxeBad s.cur j (if j.unit ≥ k then [] else [z]) [] with
      | some f => s.jobFault s.cur 1 j f
      | none =>
        if j.unit ≥ k then s.popJob s.cur 1 else
        let rd := s.jobRdr s.cur j
        let core := coreOf s.cur
        let t := s.me.phys z
        let base := o.ea.toNat + j.unit * sb
        let key := fun (a : Nat) => (physKey s s.cur o.sp (a % 2 ^ 64)).getD 0
        let blks := ((List.range m).flatMap fun i => blocksOf (base + i * sa) (4 * n)).eraseDups
        match blks.find? fun b => s.rd8 rd (poisonKey (key b)) != 0 with
        | some b => s.jobUe s.cur 1 j b j.unit
        | none =>
          let int := s.isInt core t
          let s1 := (List.range m).foldl (fun s' i => (List.range n).foldl (fun s' l =>
            let e := 32 * i + l
            let old := s'.tile core t e
            let p : W32 := BitVec.ofNat 32 (s.rdNat rd (key (base + i * sa + 4 * l)) 4)
            if int then s'.setTile core t e (stepInt old [p.toInt])
            else match stepSum (some old.toNat) [ffF.num p.toNat] with
            | some x => s'.setTile core t e (BitVec.ofNat 32 x)
            | none => s') s') s
          let (s2, j2) := s1.countBlocks s.cur j (if o.sp = 5 then blks else [])
          let s3 := s2.setHead s.cur 1 { j2 with unit := j.unit + 1 }
          if j.unit + 1 ≥ k then s3.popJob s.cur 1 else s3
    | _ => s

/-- One element of ZCVT (R168). -/
def zcvtElem (x : ZCvtA) (int toInt : Bool) (v : W32) : W32 :=
  let sc : Int := x.scale.toInt
  let n := Num.scale sc (if int then .ofInt v.toInt else ffF.num v.toNat)
  if toInt then BitVec.ofInt 32 (roundInt x.rm.toNat (-2 ^ 31) (2 ^ 31 - 1) n)
  else BitVec.ofNat 32 (ffF.round x.rm.toNat x.ov n)

/-- MXE_TILE_JOB: ZZERO, ZLD, ZST, ZCVT, QSET or QPOS at the head of task `cur`'s MXE queue. -/
def execMxeTileJob (s : State) : Out :=
  .next <|
  match s.jobReady s.cur 1 with
  | none => s
  | some j =>
    let pos := s.cur
    let core := coreOf pos
    match j.k with
    | .tile i z za mem x =>
      let t := s.me.phys z
      let ta := s.me.phys za
      let reads : List Nat × List Nat := match i with
        | .zst _ | .zcvt _ => ([za], [])
        | .qpos _ => ([], [z])
        | _ => ([], [])
      match s.mxeBad pos j reads.1 reads.2 with
      | some f => s.jobFault pos 1 j f
      | none =>
        match i with
        | .zzero y => ((s.fillTile core t fun _ => 0).setZtag core t (y.et = 3)).popJob pos 1
        | .zcvt y =>
          let int := s.isInt core ta
          ((s.fillTile core t fun e => zcvtElem y int (y.et = 3) (s.tile core ta e)).setZtag core t (y.et = 3)).popJob pos 1
        | .zld _ =>
          let rd := s.jobRdr pos j
          let key := fun (a : Nat) => (physKey s pos mem.sp ((mem.ea.toNat + a) % 2 ^ 64)).getD 0
          let blks := (List.range 64).map fun b => mem.ea.toNat + 64 * b
          match blks.find? fun b => s.rd8 rd (poisonKey (key (b - mem.ea.toNat))) != 0 with
          | some b => s.jobUe pos 1 j b 0
          | none =>
            let s1 := s.fillTile core t fun e => BitVec.ofNat 32 (s.rdNat rd (key (4 * e)) 4)
            ((s1.countBlocks pos j (if mem.sp = 5 then blks else [])).1).popJob pos 1
        | .zst _ =>
          let int := s.isInt core ta
          let key := (physKey s pos mem.sp mem.ea.toNat).getD 0
          let bytes := (List.range 1024).flatMap fun e => leBytes 4 (s.tile core ta e).toNat
          let fmt : BitVec 16 := if int then 0 else 0x0800
          let cells := dataCells key bytes ++ (List.range 64).flatMap fun b => bfdCells (key + 64 * b) fmt
          (s.jobStore pos j cells).popJob pos 1
        | .qset _ =>
          (s.upd fun m => { m with qbad := m.qbad.filter (· != z) }.wq (BitVec.ofNat 2 z) (qMake (mem.ea.toNat % 2 ^ 18) ((mem.ea.toNat + 2 * x.toNat) % 2 ^ 18) 0 false)).popJob pos 1
        | .qpos y => (s.upd fun m => m.ws y.sd (m.rq (BitVec.ofNat 2 z))).popJob pos 1
        | _ => s
    | _ => s

end Sys2Proof.Machine
end

