-- ==== Sys2Proof/Decode.lean ====
section
/-! DEFINITION. From words to instructions and back (R59-R72, R74-R79). A word outside the map is rejected with the
step of R79 at which the core rejects it. The encoder stands after the decoder and is written from the same tables. -/

namespace Sys2Proof

/-- The fields of a first word (R60). -/
structure FW where
  f : BitVec 2
  c : BitVec 6
  b : BitVec 6
  a : BitVec 6
  op : BitVec 7
  nr : BitVec 2
  p : Bool
  len : BitVec 2
  deriving DecidableEq, Repr

def FW.ofWord (w : W32) : FW :=
  { f := w.extractLsb' 30 2, c := w.extractLsb' 24 6, b := w.extractLsb' 18 6, a := w.extractLsb' 12 6
    op := w.extractLsb' 5 7, nr := w.extractLsb' 3 2, p := w.getLsbD 2, len := w.extractLsb' 0 2 }

def FW.toWord (x : FW) : W32 :=
  x.f ++ x.c ++ x.b ++ x.a ++ x.op ++ x.nr ++ (if x.p then 1#1 else 0#1) ++ x.len

/-- Words of the instruction (R59). -/
def FW.words (x : FW) : Nat := 1 + 2 * x.len.toNat

/-- The fields of words 2 and 3 of a kind M instruction (R64, R65, R67); all zero in a base word (R63). -/
structure XW where
  tgt : BitVec 20
  et : BitVec 4
  ord : BitVec 2
  scope : BitVec 3
  rm : BitVec 2
  ov : Bool
  d2 : BitVec 6
  msk : MReg
  rsv : BitVec 3
  imm : BitVec 20
  deriving DecidableEq, Repr

def XW.zero : XW :=
  { tgt := 0, et := 0, ord := 0, scope := 0, rm := 0, ov := false, d2 := 0, msk := 0, rsv := 0, imm := 0 }

def XW.ofWords (w2 w3 : W32) : XW :=
  { tgt := w2.extractLsb' 12 20, et := w2.extractLsb' 8 4, ord := w2.extractLsb' 6 2, scope := w2.extractLsb' 3 3
    rm := w2.extractLsb' 1 2, ov := w2.getLsbD 0
    d2 := w3.extractLsb' 26 6, msk := w3.extractLsb' 23 3, rsv := w3.extractLsb' 20 3, imm := w3.extractLsb' 0 20 }

def XW.word2 (x : XW) : W32 := x.tgt ++ x.et ++ x.ord ++ x.scope ++ x.rm ++ (if x.ov then 1#1 else 0#1)
def XW.word3 (x : XW) : W32 := x.d2 ++ x.msk ++ x.rsv ++ x.imm

/-- The tensor block of words 4 to 7 (R69). -/
def TP.ofWords (t0 t1 t2 t3 : W32) : TP :=
  { acap := t0.extractLsb' 28 4, bcap := t0.extractLsb' 24 4, sas := t0.getLsbD 20, sa := t0.extractLsb' 0 20
    sbs := t1.getLsbD 20, sb := t1.extractLsb' 0 20
    ms := t2.getLsbD 27, m := t2.extractLsb' 21 6, ns := t2.getLsbD 20, n := t2.extractLsb' 14 6
    ks := t2.getLsbD 13, k := t2.extractLsb' 2 11, ta := t2.getLsbD 1, tb := t2.getLsbD 0
    mcm := t3.extractLsb' 12 2, mc := t3.extractLsb' 6 6, qe := t3.getLsbD 2, q := t3.extractLsb' 0 2 }

/-- The reserved bits of the tensor block are zero (R69). -/
def TP.rsvOk (t0 t1 t2 t3 : W32) : Bool :=
  t0.extractLsb' 21 3 == 0 && t1.extractLsb' 21 11 == 0 && t2.extractLsb' 28 4 == 0 &&
  t3.extractLsb' 14 18 == 0 && t3.extractLsb' 3 3 == 0

def bit1 (b : Bool) : BitVec 1 := if b then 1#1 else 0#1

def TP.toWords (t : TP) : List W32 :=
  [ t.acap ++ t.bcap ++ 0#3 ++ bit1 t.sas ++ t.sa,
    0#11 ++ bit1 t.sbs ++ t.sb,
    0#4 ++ bit1 t.ms ++ t.m ++ bit1 t.ns ++ t.n ++ bit1 t.ks ++ t.k ++ bit1 t.ta ++ bit1 t.tb,
    0#18 ++ t.mcm ++ t.mc ++ 0#3 ++ bit1 t.qe ++ t.q ]

/-- What the decoder makes of a list of words. -/
inductive Decoded where
  /-- an instruction and the words after it -/
  | ok (i : Instr) (rest : List W32)
  /-- an illegal encoding, with the step of R79 that rejects it -/
  | illegal (stage : Nat)
  /-- the list ends before the instruction does -/
  | short
  deriving DecidableEq, Repr

/-- The kinds of a 6-bit operand field that leave some bits zero (R61). -/
def okS (_ : BitVec 6) : Bool := true
def okV (x : BitVec 6) : Bool := x.toNat < 32
def okM (x : BitVec 6) : Bool := x.toNat < 8
def okC (x : BitVec 6) : Bool := x.toNat < 16
def okQ (x : BitVec 6) : Bool := x.toNat < 4
def ok0 (x : BitVec 6) : Bool := x == 0

def toV (x : BitVec 6) : VReg := x.setWidth 5
def toM (x : BitVec 6) : MReg := x.setWidth 3
def toC (x : BitVec 6) : CReg := x.setWidth 4
def toQ (x : BitVec 6) : QReg := x.setWidth 2
def of5 (x : VReg) : BitVec 6 := x.setWidth 6
def of3 (x : MReg) : BitVec 6 := x.setWidth 6
def of4 (x : CReg) : BitVec 6 := x.setWidth 6
def of2 (x : QReg) : BitVec 6 := x.setWidth 6

/-- One (OP, F) pair of the map of R74: what the first word must satisfy (step 2), who may issue it, and how the
instruction is made from the words (steps 4 and 6). -/
structure Entry where
  /-- the first word's own checks -/
  pre : FW → Bool
  /-- supervisor only -/
  sup : Bool := false
  /-- engine instruction -/
  eng : Bool := false
  /-- a handler of the program's own may issue it (R210) -/
  hnd : Bool := false
  /-- tasks alone may issue it, and it is no engine instruction (R422) -/
  tsk : Bool := false
  make : FW → List W32 → Except Nat Instr

/-! ### Making each shape -/

def hdOf (w : FW) (x : XW) : Hd := { p := w.p, nr := w.nr, ext := w.len != 0, tgt := x.tgt }
def plOf (w : FW) : Pl := { p := w.p, ext := w.len != 0 }
def memOf (w : FW) (x : XW) : MemOp :=
  { cap := w.b.extractLsb' 0 4, scale := w.b.extractLsb' 4 2, idx := w.c, disp := x.imm }

/-- What an entry permits in words 2 and 3 (R78). -/
structure Ext where
  ets : List Nat := [0]
  rm : Bool := false
  ov : Bool := false
  ords : List Nat := [0]
  /-- 0: no SCOPE; 1: only with an ORD code; 2: without one as well -/
  scope : Nat := 0
  msk : Bool := false
  d2 : BitVec 6 → Bool := ok0
  imm : BitVec 20 → Bool := fun v => v == 0
  /-- what is left to say of the fields together at step 4 -/
  more : XW → Bool := fun _ => true

def anyImm (_ : BitVec 20) : Bool := true

/-- Step 4 of R79 for a kind M instruction. -/
def Ext.ok (e : Ext) (nr : BitVec 2) (x : XW) : Bool :=
  (nr == 2 || x.tgt == 0) && e.ets.contains x.et.toNat && (e.rm || x.rm == 0) && (e.ov || !x.ov) &&
  e.ords.contains x.ord.toNat && x.scope.toNat < 6 &&
  (match e.scope with
    | 0 => x.scope == 0
    | 1 => x.ord != 0 || x.scope == 0
    | _ => true) &&
  (e.msk || x.msk == 0) && e.d2 x.d2 && x.rsv == 0 && e.imm x.imm && e.more x

/-- The words after the first of a kind M instruction without tensor block. -/
def withX (e : Ext) (k : FW → XW → Except Nat Instr) (w : FW) (ws : List W32) : Except Nat Instr :=
  match w.len.toNat, ws with
  | 0, _ => if e.ets.contains 0 then k w XW.zero else .error 2
  | 1, [w2, w3] =>
    let x := XW.ofWords w2 w3
    if e.ok w.nr x then k w x else .error 4
  | _, _ => .error 2

/-- First-word checks of a kind M entry: its lengths, its not-ready modes, and NR = 0b10 only in the long form. -/
def preM (lens nrs : List Nat) (a b c : BitVec 6 → Bool) (w : FW) : Bool :=
  lens.contains w.len.toNat && nrs.contains w.nr.toNat && (w.nr != 2 || w.len != 0) && a w.a && b w.b && c w.c

/-- First-word checks of a kind I entry. -/
def preI (lens : List Nat) (a b c : BitVec 6 → Bool) (w : FW) : Bool := preM lens [0] a b c w

def anyNr : List Nat := [0, 1, 2, 3]

/-- A kind M entry. -/
def entM (lens nrs : List Nat) (a b c : BitVec 6 → Bool) (e : Ext) (k : FW → XW → Except Nat Instr)
    (sup eng hnd : Bool := false) : Entry :=
  { pre := preM lens nrs a b c, sup := sup, eng := eng, hnd := hnd, make := withX e k }

/-- A vector entry. -/
def entV (a b c : BitVec 6 → Bool) (e : Ext) (k : FW → XW → Instr) : Entry :=
  entM [0, 1] anyNr a b c e (fun w x => .ok (k w x)) false true

def entV3 (ets : List Nat) (rm : Bool) (k : V3 → Instr) : Entry :=
  entV okV okV okV { ets := ets, rm := rm, msk := true } fun w x =>
    k { h := hdOf w x, et := x.et, rm := x.rm, msk := x.msk, vd := toV w.a, va := toV w.b, vb := toV w.c }

def entV2 (ets : List Nat) (rm : Bool) (k : V2 → Instr) (more : XW → Bool := fun _ => true) : Entry :=
  entV okV okV ok0 { ets := ets, rm := rm, msk := true, more := more } fun w x =>
    k { h := hdOf w x, et := x.et, rm := x.rm, msk := x.msk, vd := toV w.a, va := toV w.b }

/-- A kind I instruction whose long form has words 2 and 3 zero (R104). -/
def entZ (lens : List Nat) (a b c : BitVec 6 → Bool) (k : FW → Instr) : Entry :=
  { pre := preI lens a b c, hnd := true
    make := fun w ws => if ws.all (· == 0) then .ok (k w) else .error 4 }

/-- ADD ... SLTU (R105). -/
def entAlu (k : Alu → Instr) : Entry :=
  { pre := fun w => preI [0, 1, 2] okS okS okS w && (w.len == 0 || w.c == 0), hnd := true
    make := fun w ws =>
      let r := fun b => Except.ok (k { p := w.p, sd := w.a, sa := w.b, b := b })
      match w.len.toNat, ws with
      | 0, _ => r (.reg w.c)
      | 1, [w2, w3] => if w3 == 0 then r (.imm w2) else .error 4
      | 2, [w2, w3, lo, hi] => if w2 == 0 && w3 == 0 then r (.lit (hi ++ lo)) else .error 4
      | _, _ => .error 2 }

/-- A branch with `n` offset bits at the top of the base word (R72); `ok` is its own check at step 6, and `hnd` whether a
handler may issue it. -/
def entBr (n : Nat) (base : FW → BitVec n) (pre ext ok : FW → Bool) (hnd : Bool) (k : FW → Off n → Instr) : Entry :=
  { pre := fun w => preI [0, 1] okS okS okS w && pre w && (w.len == 0 || ext w), hnd := hnd
    make := fun w ws =>
      let r := fun o => if ok w then Except.ok (k w o) else .error 6
      match w.len.toNat, ws with
      | 0, _ => r (.base (base w))
      | 1, [w2, w3] => if w3 == 0 then r (.ext w2) else .error 4
      | _, _ => .error 2 }

def entBr18 (hnd : Bool) (k : Br → Instr) : Entry :=
  entBr 18 (fun w => w.c ++ w.b ++ w.a) (fun _ => true) (fun w => w.a == 0 && w.b == 0 && w.c == 0) (fun _ => true) hnd
    fun w o => k { p := w.p, off := o }

def entBz (k : Bz → Instr) : Entry :=
  entBr 12 (fun w => w.c ++ w.b) (fun _ => true) (fun w => w.b == 0 && w.c == 0) (fun _ => true) true
    fun w o => k { p := w.p, sa := w.a, off := o }

def entBcc (k : Bcc → Instr) : Entry :=
  entBr 6 (fun w => w.c) (fun _ => true) (fun w => w.c == 0) (fun _ => true) true
    fun w o => k { p := w.p, sa := w.a, sb := w.b, off := o }

def entTrap (k : Trap → Instr) : Entry :=
  entBr 12 (fun w => w.b ++ w.a) (fun w => w.c == 0) (fun w => w.a == 0 && w.b == 0) (fun _ => true) true
    fun w o => k { p := w.p, code := o }

/-- The constant form's IMM32 of BFX and BFI has no bits outside pos and len - 1 (R110). -/
def entBf (k : Bf → Instr) : Entry :=
  { pre := fun w => preI [0, 1] okS okS okS w && (w.len == 0 || w.c == 0), hnd := true
    make := fun w ws =>
      match w.len.toNat, ws with
      | 0, _ => .ok (k { p := w.p, sd := w.a, sa := w.b, ctl := .reg w.c })
      | 1, [w2, w3] =>
        if w3 == 0 && w2.extractLsb' 14 18 == 0 && w2.extractLsb' 6 2 == 0 then
          .ok (k { p := w.p, sd := w.a, sa := w.b, ctl := .const (w2.extractLsb' 0 6) (w2.extractLsb' 8 6) })
        else .error 4
      | _, _ => .error 2 }

def entSel : Entry :=
  { pre := preI [1] okS okS okS, hnd := true
    make := fun w ws =>
      match ws with
      | [w2, w3] =>
        if w2 == 0 && w3.extractLsb' 0 26 == 0 then
          .ok (.sel { p := w.p, sd := w.a, sa := w.b, sb := w.c, sc := w3.extractLsb' 26 6 })
        else .error 4
      | _ => .error 2 }

/-- ADDI: F and C hold the immediate (R74, R111). -/
def entAddi : Entry :=
  { pre := preI [0] okS okS okS, hnd := true
    make := fun w _ => .ok (.addi { p := w.p, sd := w.a, sa := w.b, imm := w.f ++ w.c }) }

/-- LI: F, C and B hold the base word's constant (R74, R112). -/
def entLi : Entry :=
  { pre := fun w => preI [0, 1, 2] okS okS okS w && (w.len == 0 || (w.f == 0 && w.b == 0 && w.c == 0)), hnd := true
    make := fun w ws =>
      match w.len.toNat, ws with
      | 0, _ => .ok (.li { p := w.p, sd := w.a, k := .base (w.f ++ w.c ++ w.b) })
      | 1, [w2, w3] => if w3 == 0 then .ok (.li { p := w.p, sd := w.a, k := .imm w2 }) else .error 4
      | 2, [w2, w3, lo, hi] =>
        if w2 == 0 && w3 == 0 then .ok (.li { p := w.p, sd := w.a, k := .lit (hi ++ lo) }) else .error 4
      | _, _ => .error 2 }

/-- A special-register number outside R22-R27 is refused at step 6 (R21). -/
def entMfs (numA : Bool) (k : Mfs → Instr) : Entry :=
  { pre := preI [0, 1] okS okS ok0, hnd := true
    make := fun w ws =>
      let num := if numA then w.a else w.b
      if !ws.all (· == 0) then .error 4
      else if num.toNat ≤ 0x14 then .ok (k { h := plOf w, sr := if numA then w.b else w.a, num := num }) else .error 6 }

/-- MMA and MMAS: seven words; step 4 takes the tensor constants, and R164's limits for MMAS. -/
def entMma (more : TP → Bool) (k : Mma → Instr) : Entry :=
  { pre := preM [3] anyNr okM ok0 ok0, eng := true
    make := fun w ws =>
      match ws with
      | [w2, w3, t0, t1, t2, t3] =>
        let x := XW.ofWords w2 w3
        let t := TP.ofWords t0 t1 t2 t3
        if (w.nr == 2 || x.tgt == 0) && w2.extractLsb' 0 12 == 0 && w3 == 0 && TP.rsvOk t0 t1 t2 t3 && t.ok && more t then
          .ok (k { h := { p := w.p, nr := w.nr, ext := true, tgt := x.tgt }, zd := toM w.a, tp := t })
        else .error 4
      | _ => .error 2 }

def entMmaBgs : Entry :=
  { pre := preM [1] anyNr okM ok0 ok0, eng := true
    make := fun w ws =>
      if ws.all (· == 0) then .ok (.mmaBgs { h := { p := w.p, nr := w.nr, ext := true, tgt := 0 }, zd := toM w.a })
      else .error 4 }

/-- A scalar access: ORD and SCOPE (R216, R304). -/
def entMemS (ords : List Nat) (hnd : Bool) (k : MemS → Instr) : Entry :=
  entM [0, 1] anyNr okS okS okS { ords := ords, scope := 1, imm := anyImm } (fun w x => .ok (k
    { h := hdOf w x, ord := x.ord, scope := x.scope, sr := w.a, mem := memOf w x })) false false hnd

def entMemC (ords : List Nat) (k : MemC → Instr) : Entry :=
  entM [0, 1] anyNr okC okS okS { ords := ords, scope := 1, imm := anyImm } (fun w x => .ok (k
    { h := hdOf w x, ord := x.ord, scope := x.scope, c := toC w.a, mem := memOf w x })) false false true

def entRMem (k : RMem → Instr) (sup : Bool := false) : Entry :=
  entM [0, 1] anyNr okS okS okS { imm := anyImm } (fun w x => .ok (k { h := hdOf w x, sr := w.a, mem := memOf w x })) sup

def entMemA (a : BitVec 6 → Bool) (eng : Bool) (k : MemA → Instr) : Entry :=
  entM [0, 1] anyNr a okS okS { imm := anyImm } (fun w x => .ok (k { h := hdOf w x, mem := memOf w x })) false eng

def entCpy (k : CpyA → Instr) : Entry :=
  entM [0, 1] anyNr okC okS okS { d2 := okS, imm := anyImm } (fun w x => .ok (k
    { h := hdOf w x, cD := w.b.extractLsb' 0 4, scale := w.b.extractLsb' 4 2, idx := w.c, cS := toC w.a
      disp := x.imm, sn := x.d2 })) false true

def entSS (nrs : List Nat) (sup eng : Bool) (k : SS → Instr) : Entry :=
  entM [0, 1] nrs okS okS ok0 {} (fun w x => .ok (k { h := hdOf w x, ra := w.a, rb := w.b })) sup eng

def entSH (lens nrs : List Nat) (sup : Bool) (k : SH → Instr) : Entry :=
  entM lens nrs okS ok0 ok0 {} (fun w x => .ok (k { h := hdOf w x, sr := w.a })) sup

def entPl (k : Pl → Instr) : Entry :=
  entM [0, 1] [0] ok0 ok0 ok0 {} (fun w _ => .ok (k (plOf w)))

/-- A barrier instruction: SCOPE without ORD is the span; IMM20[2:0] is the tag (R304, R307-R309). -/
def entBar (ords : List Nat) (k : BarA → Instr) : Entry :=
  entM [0, 1] anyNr okS ok0 ok0
    { ords := ords, scope := 2, imm := fun v => v.toNat < 8, more := fun x => spanOk x.scope } (fun w x => .ok (k
      { h := hdOf w x, ord := x.ord, scope := x.scope, sr := w.a, tag := x.imm.setWidth 3 }))

def entAmo (k : AmoA → Instr) : Entry :=
  entM [1] anyNr okS okS okS { ets := [3, 4], ords := [0, 1, 2, 3], scope := 1, d2 := okS, imm := anyImm }
    (fun w x => .ok (k { h := hdOf w x, et := x.et, ord := x.ord, scope := x.scope, sd := w.a, mem := memOf w x, sb := x.d2 }))

def entRed (ets : List Nat) (k : RedA → Instr) : Entry :=
  entM [1] anyNr okS okS okS { ets := ets, imm := anyImm }
    (fun w x => .ok (k { h := hdOf w x, et := x.et, sb := w.a, mem := memOf w x }))

def entCb (k : CbA → Instr) : Entry :=
  entM [0, 1] anyNr okV okS okS { imm := anyImm } (fun w x => .ok (k { h := hdOf w x, v := toV w.a, mem := memOf w x }))

def entSSS (k : SSS → Instr) : Entry :=
  entM [0, 1] anyNr okS okS okS {} (fun w x => .ok (k { h := hdOf w x, sd := w.a, sa := w.b, sb := w.c })) true

/-- The register-only capability instructions: base word only (R76, R360). -/
def entCap (a b c : BitVec 6 → Bool) (k : FW → Instr) : Entry :=
  entM [0] [0] a b c {} (fun w _ => .ok (k w))

/-- CADD and CRESTR: a register in C, or IMM20 in the long form, where C must be 0 at step 2 (R361). -/
def entCsrc (imm : BitVec 20 → Bool) (k : FW → XW → Instr) : Entry :=
  { pre := fun w => preM [0, 1] [0] okC okC okS w && (w.len == 0 || w.c == 0)
    make := withX { imm := imm } fun w x => .ok (k w x) }

def isV (x : BitVec 20) (h : Nat) : Bool := x.toNat < h

/-- IMM20 of VCVT (R134): reserved bits at step 4, the combination at step 6. -/
def entVcvt : Entry :=
  entM [1] anyNr okV okV ok0
    { ets := [1, 2, 3, 4, 5, 6, 7, 8, 9], rm := true, ov := true, msk := true
      imm := fun v => v.extractLsb' 10 10 == 0 && v.extractLsb' 4 1 == 0 }
    (fun w x =>
      let v : VCvtA := { h := hdOf w x, et := x.et, rm := x.rm, ov := x.ov, msk := x.msk, vd := toV w.a, va := toV w.b
                         ud := x.imm.getLsbD 9, us := x.imm.getLsbD 8, part := x.imm.extractLsb' 5 3
                         src := x.imm.extractLsb' 0 4 }
      if v.ok then .ok (.vcvt v) else .error 6) false true

/-- IMM20 of VDSX (R135). -/
def entVdsx : Entry :=
  entM [1] anyNr okV okV okS
    { ets := [7, 8, 9], rm := true, ov := true, msk := true
      imm := fun v => v.extractLsb' 11 9 == 0 && v.extractLsb' 4 1 == 0 }
    (fun w x =>
      let v : VDsxA := { h := hdOf w x, et := x.et, rm := x.rm, ov := x.ov, msk := x.msk, vd := toV w.a, va := toV w.b
                         sb := w.c, n4 := x.imm.getLsbD 10, part := x.imm.extractLsb' 5 3 }
      if v.ok && x.imm.extractLsb' 8 2 == 0 && x.imm.extractLsb' 0 4 == 10 then .ok (.vdsx v) else .error 6) false true

def entVcmp (ets conds : List Nat) (k : VCmpA → Instr) : Entry :=
  entM [0, 1] anyNr okM okV okV { ets := ets, msk := true, imm := (isV · 16) }
    (fun w x => if conds.contains x.imm.toNat then .ok (k
      { h := hdOf w x, et := x.et, msk := x.msk, md := toM w.a, va := toV w.b, vb := toV w.c, cond := x.imm.setWidth 4 })
      else .error 6) false true

def entVred : Entry :=
  entM [0, 1] anyNr okV okV ok0
    { ets := [0, 1, 2, 3, 4, 7, 8, 9], rm := true, msk := true, imm := (isV · 4)
      more := fun x => x.rm == 0 || (x.et.toNat ≥ 7 && x.imm == 0) }
    (fun w x => if x.imm == 3 then .error 6 else .ok (.vred
      { h := hdOf w x, et := x.et, rm := x.rm, msk := x.msk, vd := toV w.a, va := toV w.b, op := x.imm.setWidth 2 })) false true

def entLdv : Entry :=
  entM [0, 1] anyNr okV okS okS
    { ets := [0, 1, 2, 3, 4, 7, 8, 9], rm := true, ov := true, ords := [0, 1], scope := 1, msk := true, imm := anyImm
      more := fun x => x.et.toNat ≥ 7 || (x.rm == 0 && !x.ov) }
    (fun w x => .ok (.ldv { h := hdOf w x, et := x.et, ord := x.ord, scope := x.scope, rm := x.rm, ov := x.ov, msk := x.msk
                            v := toV w.a, mem := memOf w x }))

def entStv : Entry :=
  entM [0, 1] anyNr okV okS okS { ets := intEts, ords := [0, 2], scope := 1, msk := true, imm := anyImm }
    (fun w x => .ok (.stv { h := hdOf w x, et := x.et, ord := x.ord, scope := x.scope, rm := x.rm, ov := x.ov, msk := x.msk
                            v := toV w.a, mem := memOf w x }))

def entMemG (k : MemG → Instr) : Entry :=
  entM [0, 1] anyNr okV okS okS { ets := intEts, msk := true, d2 := okV, imm := anyImm }
    (fun w x => .ok (k { h := hdOf w x, et := x.et, msk := x.msk, v := toV w.a, vi := toV x.d2, mem := memOf w x }))

/-- The opcode map of R74, one line for each assigned (OP, F) pair. EXIT, SETPRIO, GOVCFG and DLCFG, whose syntax lists no .P, take P = 1
as any other entry does (DEDUCED, notes/assumptions/103.md). -/
def entryOf (w : FW) : Option Entry :=
  match w.op.toNat, w.f.toNat with
  | 0x01, 0 => some (entAlu .add) | 0x01, 1 => some (entAlu .sub) | 0x01, 2 => some (entAlu .mul)
  | 0x01, 3 => some (entAlu .mulh)
  | 0x02, 0 => some (entAlu .mulhu) | 0x02, 1 => some (entAlu .div) | 0x02, 2 => some (entAlu .divu)
  | 0x02, 3 => some (entAlu .rem)
  | 0x03, 0 => some (entAlu .remu) | 0x03, 1 => some (entAlu .and) | 0x03, 2 => some (entAlu .or)
  | 0x03, 3 => some (entAlu .xor)
  | 0x04, 0 => some (entAlu .andn) | 0x04, 1 => some (entAlu .shl) | 0x04, 2 => some (entAlu .shr)
  | 0x04, 3 => some (entAlu .sra)
  | 0x05, 0 => some (entAlu .rot) | 0x05, 1 => some (entAlu .min) | 0x05, 2 => some (entAlu .max)
  | 0x05, 3 => some (entAlu .minu)
  | 0x06, 0 => some (entAlu .maxu) | 0x06, 1 => some (entAlu .seq) | 0x06, 2 => some (entAlu .sne)
  | 0x06, 3 => some (entAlu .slt)
  | 0x07, 0 => some (entAlu .sltu) | 0x07, 1 => some entSel
  | 0x08, _ => some entAddi
  | 0x09, _ => some entLi
  | 0x0A, 0 => some (entZ [0, 1] okS okS ok0 fun w => .clz { h := plOf w, sd := w.a, sa := w.b })
  | 0x0A, 1 => some (entZ [0, 1] okS okS ok0 fun w => .ctz { h := plOf w, sd := w.a, sa := w.b })
  | 0x0A, 2 => some (entZ [0, 1] okS okS ok0 fun w => .popc { h := plOf w, sd := w.a, sa := w.b })
  | 0x0A, 3 => some (entZ [0, 1] okS okS ok0 fun w => .mov { h := plOf w, sd := w.a, sa := w.b })
  | 0x0B, 0 => some (entZ [0, 1] okS okS okS fun w => .sxt { h := plOf w, sd := w.a, sa := w.b, n1 := w.c })
  | 0x0B, 1 => some (entZ [0, 1] okS okS okS fun w => .zxt { h := plOf w, sd := w.a, sa := w.b, n1 := w.c })
  | 0x0B, 2 => some (entBf .bfx) | 0x0B, 3 => some (entBf .bfi)
  | 0x0C, 0 => some (entBr18 true .br) | 0x0C, 1 => some (entBr18 true .call)
  | 0x0C, 2 => some (entBz .bz) | 0x0C, 3 => some (entBz .bnz)
  | 0x0D, 0 => some (entBcc .beq) | 0x0D, 1 => some (entBcc .bne) | 0x0D, 2 => some (entBcc .blt)
  | 0x0D, 3 => some (entBcc .bge)
  | 0x0E, 0 => some (entBcc .bltu) | 0x0E, 1 => some (entBcc .bgeu)
  | 0x0E, 2 => some (entZ [0, 1] okC okS ok0 fun w => .calli { h := plOf w, cN := toC w.a, sa := w.b })
  | 0x0E, 3 => some (entZ [0, 1] okC okS ok0 fun w => .jmpi { h := plOf w, cN := toC w.a, sa := w.b })
  | 0x0F, 0 => some (entZ [0, 1] okS ok0 ok0 fun w => .ret { h := plOf w, sr := w.a })
  | 0x0F, 1 => some (entZ [0, 1] ok0 ok0 ok0 fun w => .nop (plOf w))
  | 0x0F, 2 => some (entTrap .trap) | 0x0F, 3 => some (entTrap .bkpt)
  | 0x10, 0 => some (entMfs false .mfs) | 0x10, 1 => some (entMfs true .mts)
  | 0x10, 2 => some (entZ [0, 1] okS okS ok0 fun w => .rdcyc { h := plOf w, sd := w.a, se := w.b })
  | 0x20, 0 => some (entV3 intEts false .vadd) | 0x20, 1 => some (entV3 intEts false .vsub)
  | 0x20, 2 => some (entV3 intEts false .vmul) | 0x20, 3 => some (entV3 intEts false .vmulh)
  | 0x21, 0 => some (entV3 intEts false .vmin) | 0x21, 1 => some (entV3 intEts false .vmax)
  | 0x21, 2 => some (entV2 intEts false .vabs) | 0x21, 3 => some (entV3 intEts false .vand)
  | 0x22, 0 => some (entV3 intEts false .vor) | 0x22, 1 => some (entV3 intEts false .vxor)
  | 0x22, 2 => some (entV3 intEts false .vshl) | 0x22, 3 => some (entV3 intEts false .vshr)
  | 0x23, 0 => some (entV3 intEts false .vsra) | 0x23, 1 => some (entV3 intEts false .vadds)
  | 0x23, 2 => some (entV3 intEts false .vsubs)
  | 0x24, 0 => some (entV3 fpEts true .vfadd) | 0x24, 1 => some (entV3 fpEts true .vfsub)
  | 0x24, 2 => some (entV3 fpEts true .vfmul)
  | 0x24, 3 => some (entV okV okV okV { ets := fpEts, rm := true, msk := true, d2 := okV } fun w x =>
      .vfma { h := hdOf w x, et := x.et, rm := x.rm, msk := x.msk, vd := toV w.a, va := toV w.b, vb := toV w.c, vc := toV x.d2 })
  | 0x25, 0 => some (entV3 fpEts false .vfmin) | 0x25, 1 => some (entV3 fpEts false .vfmax)
  | 0x25, 2 => some (entV2 fpEts true .vrcp) | 0x25, 3 => some (entV2 fpEts true .vrsq)
  | 0x26, 0 => some (entV2 fpEts true .vex2 fun x => x.rm == 0 || x.et == 7 || x.et == 8)
  | 0x26, 1 => some (entV2 fpEts true .vlg2)
  | 0x26, 2 => some entVcvt
  | 0x26, 3 => some (entVcmp intEts vcmpConds .vcmp)
  | 0x27, 0 => some (entVcmp fpEts vfcmpConds .vfcmp)
  | 0x27, 1 => some (entV3 intEts false .vsel)
  | 0x27, 2 => some entVred
  | 0x27, 3 => some (entV3 intEts false .vperm)
  | 0x28, 0 => some (entV okV okS ok0 { ets := intEts, msk := true } fun w x =>
      .vbcast { h := hdOf w x, et := x.et, msk := x.msk, vd := toV w.a, sa := w.b })
  | 0x28, 1 => some (entV okV okS okS { ets := intEts } fun w x =>
      .vins { h := hdOf w x, et := x.et, vd := toV w.a, sa := w.b, sb := w.c })
  | 0x28, 2 => some (entV okS okV okS { ets := intEts } fun w x =>
      .vext { h := hdOf w x, et := x.et, sd := w.a, va := toV w.b, sb := w.c })
  | 0x28, 3 => some (entV okV okV okS { ets := intEts, msk := true } fun w x =>
      .vslide { h := hdOf w x, et := x.et, msk := x.msk, vd := toV w.a, va := toV w.b, sb := w.c })
  | 0x29, 0 => some entVdsx
  | 0x29, 1 => some (entV2 intEts false .vmov)
  | 0x2A, 0 => some (entV okM okM okM {} fun w x => .mand { h := hdOf w x, md := toM w.a, ma := toM w.b, mb := toM w.c })
  | 0x2A, 1 => some (entV okM okM okM {} fun w x => .mor { h := hdOf w x, md := toM w.a, ma := toM w.b, mb := toM w.c })
  | 0x2A, 2 => some (entV okM okM okM {} fun w x => .mxor { h := hdOf w x, md := toM w.a, ma := toM w.b, mb := toM w.c })
  | 0x2A, 3 => some (entV okM okM ok0 {} fun w x => .mnot { h := hdOf w x, md := toM w.a, ma := toM w.b })
  | 0x2B, 0 => some (entV okS okM ok0 { ets := intEts } fun w x => .mpop { h := hdOf w x, et := x.et, sd := w.a, ma := toM w.b })
  | 0x2B, 1 => some (entV okS okM ok0 { ets := intEts } fun w x => .mfirst { h := hdOf w x, et := x.et, sd := w.a, ma := toM w.b })
  | 0x30, 0 => some (entMma (fun _ => true) .mma)
  | 0x30, 1 => some (entMma (fun t => t.acap == t.bcap && !t.ta && !t.tb && !t.qe && t.mcm == 0) .mmas)
  | 0x30, 2 => some entMmaBgs
  | 0x31, 0 => some (entV okM ok0 ok0 { ets := zEts } fun w x => .zzero { h := hdOf w x, et := x.et, zd := toM w.a })
  | 0x31, 1 => some (entV okM okS okS { imm := anyImm } fun w x => .zld { h := hdOf w x, z := toM w.a, mem := memOf w x })
  | 0x31, 2 => some (entV okM okS okS { imm := anyImm } fun w x => .zst { h := hdOf w x, z := toM w.a, mem := memOf w x })
  | 0x31, 3 => some (entV okM okM ok0
      { ets := zEts, rm := true, ov := true, imm := (isV · 256), more := fun x => !x.ov || x.et != 3 } fun w x =>
        .zcvt { h := hdOf w x, et := x.et, rm := x.rm, ov := x.ov, zd := toM w.a, za := toM w.b, scale := x.imm.setWidth 8 })
  | 0x32, 0 => some (entV okQ okS okS { d2 := okS, imm := anyImm } fun w x =>
      .qset { h := hdOf w x, qd := toQ w.a, mem := memOf w x, sc := x.d2 })
  | 0x32, 1 => some (entV okS okQ ok0 {} fun w x => .qpos { h := hdOf w x, sd := w.a, qa := toQ w.b })
  | 0x34, 0 => some (entV okC okS okS { d2 := okC, imm := anyImm } fun w x =>
      .atq { h := hdOf w x, mem := memOf w x, cD := toC w.a, cQ := toC x.d2 })
  | 0x34, 1 => some (entMemA ok0 true .atc)
  | 0x34, 2 => some (entMemA ok0 true .atm)
  | 0x34, 3 => some (entV okS okS okS { d2 := okC, imm := anyImm } fun w x =>
      .kvapp { h := hdOf w x, sd := w.a, mem := memOf w x, cS := toC x.d2 })
  | 0x35, 0 => some (entV okC okS okS { d2 := okC, imm := anyImm } fun w x =>
      .kvdesc { h := hdOf w x, mem := memOf w x, cK := toC w.a, cS := toC x.d2 })
  | 0x38, 0 => some (entMemS [0, 1] true .ldB) | 0x38, 1 => some (entMemS [0, 1] true .ldH)
  | 0x38, 2 => some (entMemS [0, 1] true .ldW) | 0x38, 3 => some (entMemS [0, 1] true .ldD)
  | 0x39, 0 => some (entMemS [0, 2] true .stB) | 0x39, 1 => some (entMemS [0, 2] true .stH)
  | 0x39, 2 => some (entMemS [0, 2] true .stW) | 0x39, 3 => some (entMemS [0, 2] true .stD)
  | 0x3A, 0 => some entLdv | 0x3A, 1 => some entStv
  | 0x3A, 2 => some (entMemG .ldg) | 0x3A, 3 => some (entMemG .sts)
  | 0x3B, 0 => some (entMemC [0, 1] .ldc) | 0x3B, 1 => some (entMemC [0, 2] .stc)
  | 0x3B, 2 => some (entM [0, 1] [0] okS okS okS { imm := anyImm } (fun w x =>
      if w.a.toNat < 2 then .ok (.pref { h := plOf w, write := w.a == 1, mem := memOf w x }) else .error 6))
  | 0x3C, 0 => some (entCpy .cpy) | 0x3C, 1 => some (entCpy .cpyt)
  | 0x3C, 2 => some (entSS anyNr false true .cpyw)
  | 0x3D, 0 => some (entM [0, 1] anyNr okS okS okS { d2 := okC, imm := anyImm } (fun w x => .ok (.amsg
      { h := hdOf w x, sd := w.a, mem := memOf w x, cH := toC x.d2 })))
  | 0x3D, 1 => some (entM [0, 1] [0] okS ok0 ok0 {} (fun w _ => .ok (.hret { h := plOf w, sr := w.a })) false false true)
  | 0x3D, 2 => some (entM [0, 1] anyNr okS okS okS { imm := anyImm } (fun w x =>
      if w.a.toNat < 3 then .ok (.bankmode { h := hdOf w x, mem := memOf w x, mode := w.a.setWidth 2 }) else .error 6))
  | 0x3E, 0 => some (entM [0, 1] anyNr okC okS ok0 {} (fun w x => .ok (.halo { h := hdOf w x, cN := toC w.a, sP := w.b })))
  | 0x3E, 1 => some (entMemA ok0 false .halopush)
  | 0x3F, 0 => some
    { pre := fun w => preM [0, 1] [0] ok0 ok0 ok0 w && w.p
      make := withX { ords := [0, 1, 2, 3], scope := 2 } fun w x => .ok (.fence { ext := w.len != 0, ord := x.ord, scope := x.scope }) }
  | 0x3F, 1 => some (entM [0, 1] anyNr ok0 ok0 ok0 { imm := (isV · 16) } (fun w x => .ok (.engwait
      { h := hdOf w x, mask := x.imm.setWidth 4 })))
  | 0x40, 0 => some (entBr 12 (fun w => w.c ++ w.b) (fun w => okC w.a) (fun w => w.b == 0 && w.c == 0) (fun w => w.a.toNat ≤ 11) false
      fun w o => .boc { p := w.p, code := toC w.a, off := o })
  | 0x40, 1 => some (entBr18 false .bnr) | 0x40, 2 => some (entBr18 false .brdy)
  | 0x40, 3 => some { entZ [0] okS ok0 ok0 (fun w => .geto { h := plOf w, sr := w.a }) with hnd := false }
  | 0x41, 0 => some (entPl .yield)
  | 0x41, 1 => some (entM [0, 1] [0] okS okS okS { imm := anyImm } (fun w x => .ok (.park
      { h := plOf w, scope := 0, sa := w.a, mem := memOf w x })))
  | 0x41, 2 => some (entM [0, 1] [0] okS ok0 ok0 {} (fun w _ => .ok (.engst { h := plOf w, sr := w.a })))
  | 0x42, 0 => some (entRMem .qput) | 0x42, 1 => some (entRMem .qget) | 0x42, 2 => some (entRMem .qpeek)
  | 0x42, 3 => some (entRMem .qcnt)
  | 0x44, 0 => some (entMemS [0, 1] true .ldsy) | 0x44, 1 => some (entMemS [0, 2] true .stsy)
  | 0x44, 2 => some (entMemS [0, 1] true .ldpk)
  | 0x44, 3 => some (entM [0, 1] anyNr okS okS okS { ords := [0, 2], scope := 1, imm := anyImm } (fun w x =>
      if w.a.toNat < 2 then .ok (.feset { h := hdOf w x, ord := x.ord, scope := x.scope, full := w.a == 1, mem := memOf w x })
      else .error 6) false false true)
  | 0x45, 0 => some (entMemS [0, 1] true .feget)
  | 0x45, 1 => some (entM [0, 1] anyNr okS okS okS { ords := [0, 1], scope := 1, d2 := okS, imm := anyImm } (fun w x => .ok
      (.waitge { h := hdOf w x, ord := x.ord, scope := x.scope, sa := w.a, sb := x.d2, mem := memOf w x })))
  | 0x45, 2 => some (entMemS [0, 1] false .waiteq)
  | 0x46, 0 => some (entBar [0, 2] .bara) | 0x46, 1 => some (entBar [0, 1] .bart) | 0x46, 2 => some (entBar [0] .barc)
  | 0x47, 0 => some (entAmo .amoAdd) | 0x47, 1 => some (entAmo .amoSub) | 0x47, 2 => some (entAmo .amoMin)
  | 0x47, 3 => some (entAmo .amoMax)
  | 0x48, 0 => some (entAmo .amoMinu) | 0x48, 1 => some (entAmo .amoMaxu) | 0x48, 2 => some (entAmo .amoAnd)
  | 0x48, 3 => some (entAmo .amoOr)
  | 0x49, 0 => some (entAmo .amoXor) | 0x49, 1 => some (entAmo .amoSwp) | 0x49, 2 => some (entAmo .amocas)
  | 0x4A, 0 => some (entRed [3, 4] .redAdd) | 0x4A, 1 => some (entRed [3, 4] .redMin)
  | 0x4A, 2 => some (entRed [3, 4] .redMax) | 0x4A, 3 => some (entRed [3, 4] .redAnd)
  | 0x4B, 0 => some (entRed [3, 4] .redOr) | 0x4B, 1 => some (entRed [3, 4] .redXor)
  | 0x4B, 2 => some (entRed [9] .redFadd) | 0x4B, 3 => some (entSH [1] anyNr false .redw)
  | 0x4C, 0 => some (entCb .cbput) | 0x4C, 1 => some (entCb .cbget)
  | 0x4C, 2 => some (entM [1] anyNr okS okS okS { d2 := okS, imm := anyImm } (fun w x => .ok (.cbfree
      { h := hdOf w x, sd := w.a, mem := memOf w x, sa := x.d2 })))
  | 0x50, 0 => some (entM [0, 1] anyNr okS okC okS {} (fun w x => .ok (.gang { h := hdOf w x, sd := w.a, cA := toC w.b, sa := w.c })))
  | 0x50, 1 => some (entM [0, 1] anyNr okS ok0 ok0 { imm := (isV · 16) } (fun w x => .ok (.spawn
      { h := hdOf w x, sa := w.a, stage := x.imm.setWidth 4 })))
  | 0x50, 2 => some (entSH [0, 1] anyNr false .sqget)
  | 0x50, 3 => some (entPl .exit)
  | 0x51, 0 => some (entRMem .lnch)
  | 0x51, 1 => some (entM [0, 1] [0] okS ok0 ok0 {} (fun w _ => .ok (.setprio { h := plOf w, sr := w.a })))
  | 0x51, 2 => some (entSS [0, 1] true false .govcfg)
  | 0x51, 3 => some (entSH [0, 1] [0, 1] true .dlcfg)
  | 0x54, 0 => some (entCap okC okC okS fun w => .csetb { p := w.p, cd := toC w.a, cs := toC w.b, sl := w.c })
  | 0x54, 1 => some (entCsrc anyImm fun w x =>
      .cadd { p := w.p, cd := toC w.a, cs := toC w.b, b := if w.len == 0 then .reg w.c else .imm x.imm })
  | 0x54, 2 => some (entCap okS okC okC fun w => .csub { p := w.p, sd := w.a, ca := toC w.b, cb := toC w.c })
  | 0x54, 3 => some (entCsrc (isV · 65536) fun w x =>
      .crestr { p := w.p, cd := toC w.a, cs := toC w.b, b := if w.len == 0 then .reg w.c else .imm (x.imm.setWidth 16) })
  | 0x55, 0 => some (entCap okC okC okC fun w => .cseal { p := w.p, cd := toC w.a, cs := toC w.b, ck := toC w.c })
  | 0x55, 1 => some (entCap okC okC okC fun w => .cunseal { p := w.p, cd := toC w.a, cs := toC w.b, ck := toC w.c })
  | 0x55, 2 => some (entCap okS okC ok0 fun w => .cgetb { p := w.p, sd := w.a, cs := toC w.b })
  | 0x55, 3 => some (entCap okS okC ok0 fun w => .cgetl { p := w.p, sd := w.a, cs := toC w.b })
  | 0x56, 0 => some (entCap okS okC ok0 fun w => .cgetp { p := w.p, sd := w.a, cs := toC w.b })
  | 0x56, 1 => some (entCap okS okC ok0 fun w => .ctag { p := w.p, sd := w.a, cs := toC w.b })
  | 0x56, 2 => some (entCap okC okC ok0 fun w => .cclr { p := w.p, cd := toC w.a, cs := toC w.b })
  | 0x56, 3 => some (entCap okC okC ok0 fun w => .cmov { p := w.p, cd := toC w.a, cs := toC w.b })
  | 0x57, 0 => some (entRMem .lease true)
  | 0x57, 1 => some (entSS anyNr true false .lrev) | 0x57, 2 => some (entSS anyNr true false .xinv)
  | 0x57, 3 => some (entM [0, 1] [0] okS okS okS { scope := 2, imm := anyImm, more := fun x => x.scope.toNat ≤ 4 } (fun w x => .ok
      (.icsync { h := plOf w, scope := x.scope, sa := w.a, mem := memOf w x })))
  | 0x58, 0 => some (entM [1] anyNr okC okS okS { d2 := okS, imm := anyImm } (fun w x => .ok (.imprd
      { h := hdOf w x, mem := memOf w x, cP := toC w.a, sn := x.d2 })))
  | 0x58, 1 => some (entM [0, 1] [0, 1] okC okC okS {} (fun w x => .ok (.plate
      { h := hdOf w x, cd := toC w.a, cs := toC w.b, sa := w.c })) true)
  | 0x59, 0 => some { entSS anyNr false false .prnew with tsk := true }
  | 0x59, 1 => some { entSH [0, 1] anyNr false .prset with tsk := true }
  | 0x59, 2 => some { entSH [0, 1] anyNr false .prpass with tsk := true }
  | 0x59, 3 => some { entSH [0, 1] anyNr false .prcan with tsk := true }
  | 0x5A, 0 => some (entM [0, 1] [0] okS okS ok0 {} (fun w _ => .ok (.prst { h := plOf w, sd := w.a, sa := w.b })))
  | 0x5A, 1 => some { entM [0, 1] [0] okS ok0 ok0 { imm := anyImm } (fun w x => .ok (.prorv { h := plOf w, sd := w.a, imm := x.imm })) with tsk := true }
  | 0x5C, 0 => some (entSSS .preempt) | 0x5C, 1 => some (entSSS .resume)
  | 0x5C, 2 => some (entM [0, 1] [0] okS okS ok0 {} (fun w _ => .ok (.freeze { h := plOf w, sd := w.a, sa := w.b })) true)
  | _, _ => none

/-- Reads one instruction from the front of a list of words (R79, steps 2, 4 and the static part of 6). -/
def decode : List W32 → Decoded
  | [] => .short
  | w :: ws =>
    let fw := FW.ofWord w
    match entryOf fw with
    | none => .illegal 2
    | some e =>
      if !e.pre fw then .illegal 2
      else
        let n := 2 * fw.len.toNat
        if ws.length < n then .short
        else match e.make fw (ws.take n) with
          | .ok i => .ok i (ws.drop n)
          | .error k => .illegal k

/-- Four bytes, lowest address first, as a word (R5). -/
def wordOfBytes (b0 b1 b2 b3 : BitVec 8) : W32 := b3 ++ b2 ++ b1 ++ b0

/-- A byte list as words; trailing bytes short of a word are dropped. -/
def wordsOfBytes : List (BitVec 8) → List W32
  | b0 :: b1 :: b2 :: b3 :: r => wordOfBytes b0 b1 b2 b3 :: wordsOfBytes r
  | _ => []

/-- Decoding of memory bytes, first word at the lowest address (R5). -/
def decodeBytes (bs : List (BitVec 8)) : Decoded := decode (wordsOfBytes bs)

/-! ## The encoder -/

def fwI (op f : Nat) (p : Bool) (len : Nat) (a b c : BitVec 6) : W32 :=
  FW.toWord { f := BitVec.ofNat 2 f, c := c, b := b, a := a, op := BitVec.ofNat 7 op, nr := 0, p := p, len := BitVec.ofNat 2 len }

def fwH (op f : Nat) (h : Hd) (a b c : BitVec 6) : W32 :=
  FW.toWord { f := BitVec.ofNat 2 f, c := c, b := b, a := a, op := BitVec.ofNat 7 op, nr := h.nr, p := h.p
              len := if h.ext then 1 else 0 }

/-- A kind M instruction: its first word and, in the long form, words 2 and 3. -/
def encM (op f : Nat) (h : Hd) (a b c : BitVec 6) (x : XW) : List W32 :=
  fwH op f h a b c :: (if h.ext then let x' := { x with tgt := h.tgt }; [x'.word2, x'.word3] else [])

def encMem (op f : Nat) (h : Hd) (a : BitVec 6) (m : MemOp) (x : XW) : List W32 :=
  encM op f h a (m.scale ++ m.cap) m.idx { x with imm := m.disp }

/-- A kind M instruction without not-ready modes. -/
def encP (op f : Nat) (h : Pl) (a b c : BitVec 6) (x : XW) : List W32 :=
  encM op f { p := h.p, nr := 0, ext := h.ext, tgt := 0 } a b c x

def encZ (op f : Nat) (h : Pl) (a b c : BitVec 6) : List W32 := encP op f h a b c XW.zero

def encAlu (op f : Nat) (x : Alu) : List W32 :=
  match x.b with
  | .reg sb => [fwI op f x.p 0 x.sd x.sa sb]
  | .imm v => [fwI op f x.p 1 x.sd x.sa 0, v, 0]
  | .lit v => [fwI op f x.p 2 x.sd x.sa 0, 0, 0, v.extractLsb' 0 32, v.extractLsb' 32 32]

def encBr (op f : Nat) (x : Br) : List W32 :=
  match x.off with
  | .base o => [fwI op f x.p 0 (o.extractLsb' 0 6) (o.extractLsb' 6 6) (o.extractLsb' 12 6)]
  | .ext o => [fwI op f x.p 1 0 0 0, o, 0]

def encBz (op f : Nat) (p : Bool) (a : BitVec 6) (o : Off 12) : List W32 :=
  match o with
  | .base o => [fwI op f p 0 a (o.extractLsb' 0 6) (o.extractLsb' 6 6)]
  | .ext o => [fwI op f p 1 a 0 0, o, 0]

def encBcc (op f : Nat) (x : Bcc) : List W32 :=
  match x.off with
  | .base o => [fwI op f x.p 0 x.sa x.sb o]
  | .ext o => [fwI op f x.p 1 x.sa x.sb 0, o, 0]

def encTrap (op f : Nat) (x : Trap) : List W32 :=
  match x.code with
  | .base o => [fwI op f x.p 0 (o.extractLsb' 0 6) (o.extractLsb' 6 6) 0]
  | .ext o => [fwI op f x.p 1 0 0 0, o, 0]

def encBf (op f : Nat) (x : Bf) : List W32 :=
  match x.ctl with
  | .reg sc => [fwI op f x.p 0 x.sd x.sa sc]
  | .const pos len1 => [fwI op f x.p 1 x.sd x.sa 0, 0#18 ++ len1 ++ 0#2 ++ pos, 0]

def encV3 (op f : Nat) (x : V3) : List W32 :=
  encM op f x.h (of5 x.vd) (of5 x.va) (of5 x.vb) { XW.zero with et := x.et, rm := x.rm, msk := x.msk }

def encV2 (op f : Nat) (x : V2) : List W32 :=
  encM op f x.h (of5 x.vd) (of5 x.va) 0 { XW.zero with et := x.et, rm := x.rm, msk := x.msk }

def encVCmp (op f : Nat) (x : VCmpA) : List W32 :=
  encM op f x.h (of3 x.md) (of5 x.va) (of5 x.vb) { XW.zero with et := x.et, msk := x.msk, imm := x.cond.setWidth 20 }

def encM3 (op f : Nat) (x : M3) : List W32 := encM op f x.h (of3 x.md) (of3 x.ma) (of3 x.mb) XW.zero
def encMCnt (op f : Nat) (x : MCnt) : List W32 := encM op f x.h x.sd (of3 x.ma) 0 { XW.zero with et := x.et }

def encMma (op f : Nat) (x : Mma) : List W32 :=
  FW.toWord { f := BitVec.ofNat 2 f, c := 0, b := 0, a := of3 x.zd, op := BitVec.ofNat 7 op, nr := x.h.nr, p := x.h.p, len := 3 } ::
    { XW.zero with tgt := x.h.tgt : XW }.word2 :: 0 :: x.tp.toWords

def encMemS (op f : Nat) (x : MemS) : List W32 :=
  encMem op f x.h x.sr x.mem { XW.zero with ord := x.ord, scope := x.scope }
def encMemV (op f : Nat) (x : MemV) : List W32 :=
  encMem op f x.h (of5 x.v) x.mem
    { XW.zero with et := x.et, ord := x.ord, scope := x.scope, rm := x.rm, ov := x.ov, msk := x.msk }
def encMemG (op f : Nat) (x : MemG) : List W32 :=
  encMem op f x.h (of5 x.v) x.mem { XW.zero with et := x.et, msk := x.msk, d2 := of5 x.vi }
def encMemC (op f : Nat) (x : MemC) : List W32 :=
  encMem op f x.h (of4 x.c) x.mem { XW.zero with ord := x.ord, scope := x.scope }
def encMemA (op f : Nat) (x : MemA) : List W32 := encMem op f x.h 0 x.mem XW.zero
def encCpy (op f : Nat) (x : CpyA) : List W32 :=
  encM op f x.h (of4 x.cS) (x.scale ++ x.cD) x.idx { XW.zero with d2 := x.sn, imm := x.disp }
def encSS (op f : Nat) (x : SS) : List W32 := encM op f x.h x.ra x.rb 0 XW.zero
def encSH (op f : Nat) (x : SH) : List W32 := encM op f x.h x.sr 0 0 XW.zero
def encRMem (op f : Nat) (x : RMem) : List W32 := encMem op f x.h x.sr x.mem XW.zero
def encBar (op f : Nat) (x : BarA) : List W32 :=
  encM op f x.h x.sr 0 0 { XW.zero with ord := x.ord, scope := x.scope, imm := x.tag.setWidth 20 }
def encAmo (op f : Nat) (x : AmoA) : List W32 :=
  encMem op f x.h x.sd x.mem { XW.zero with et := x.et, ord := x.ord, scope := x.scope, d2 := x.sb }
def encRed (op f : Nat) (x : RedA) : List W32 := encMem op f x.h x.sb x.mem { XW.zero with et := x.et }
def encCb (op f : Nat) (x : CbA) : List W32 := encMem op f x.h (of5 x.v) x.mem XW.zero
def encSSS (op f : Nat) (x : SSS) : List W32 := encM op f x.h x.sd x.sa x.sb XW.zero
def encCap (op f : Nat) (p : Bool) (a b c : BitVec 6) : List W32 := [fwI op f p 0 a b c]
def encPark (op f : Nat) (x : ParkA) : List W32 :=
  encMem op f { p := x.h.p, nr := 0, ext := x.h.ext, tgt := 0 } x.sa x.mem { XW.zero with scope := x.scope }

def encLi (x : Li) : List W32 :=
  match x.k with
  | .base v => [fwI 0x09 (v.extractLsb' 12 2).toNat x.p 0 x.sd (v.extractLsb' 0 6) (v.extractLsb' 6 6)]
  | .imm v => [fwI 0x09 0 x.p 1 x.sd 0 0, v, 0]
  | .lit v => [fwI 0x09 0 x.p 2 x.sd 0 0, 0, 0, v.extractLsb' 0 32, v.extractLsb' 32 32]

def encBoc (op f : Nat) (x : Boc) : List W32 := encBz op f x.p (of4 x.code) x.off

def encCsrc {n : Nat} (op f : Nat) (p : Bool) (cd cs : CReg) (b : CSrc n) : List W32 :=
  match b with
  | .reg sa => [fwI op f p 0 (of4 cd) (of4 cs) sa]
  | .imm v => [fwI op f p 1 (of4 cd) (of4 cs) 0, 0, { XW.zero with imm := v.setWidth 20 : XW }.word3]

/-- The words of a well-formed instruction, first word first; the steps of other units have none. -/
def encode : Instr → List W32
  | .add x => encAlu 0x01 0 x
  | .sub x => encAlu 0x01 1 x
  | .mul x => encAlu 0x01 2 x
  | .mulh x => encAlu 0x01 3 x
  | .mulhu x => encAlu 0x02 0 x
  | .div x => encAlu 0x02 1 x
  | .divu x => encAlu 0x02 2 x
  | .rem x => encAlu 0x02 3 x
  | .remu x => encAlu 0x03 0 x
  | .and x => encAlu 0x03 1 x
  | .or x => encAlu 0x03 2 x
  | .xor x => encAlu 0x03 3 x
  | .andn x => encAlu 0x04 0 x
  | .shl x => encAlu 0x04 1 x
  | .shr x => encAlu 0x04 2 x
  | .sra x => encAlu 0x04 3 x
  | .rot x => encAlu 0x05 0 x
  | .min x => encAlu 0x05 1 x
  | .max x => encAlu 0x05 2 x
  | .minu x => encAlu 0x05 3 x
  | .maxu x => encAlu 0x06 0 x
  | .seq x => encAlu 0x06 1 x
  | .sne x => encAlu 0x06 2 x
  | .slt x => encAlu 0x06 3 x
  | .sltu x => encAlu 0x07 0 x
  | .sel x => [fwI 0x07 1 x.p 1 x.sd x.sa x.sb, 0, x.sc ++ 0#26]
  | .addi x => [fwI 0x08 (x.imm.extractLsb' 6 2).toNat x.p 0 x.sd x.sa (x.imm.extractLsb' 0 6)]
  | .li x => encLi x
  | .clz x => encZ 0x0A 0 x.h x.sd x.sa 0
  | .ctz x => encZ 0x0A 1 x.h x.sd x.sa 0
  | .popc x => encZ 0x0A 2 x.h x.sd x.sa 0
  | .mov x => encZ 0x0A 3 x.h x.sd x.sa 0
  | .sxt x => encZ 0x0B 0 x.h x.sd x.sa x.n1
  | .zxt x => encZ 0x0B 1 x.h x.sd x.sa x.n1
  | .bfx x => encBf 0x0B 2 x
  | .bfi x => encBf 0x0B 3 x
  | .br x => encBr 0x0C 0 x
  | .call x => encBr 0x0C 1 x
  | .bz x => encBz 0x0C 2 x.p x.sa x.off
  | .bnz x => encBz 0x0C 3 x.p x.sa x.off
  | .beq x => encBcc 0x0D 0 x
  | .bne x => encBcc 0x0D 1 x
  | .blt x => encBcc 0x0D 2 x
  | .bge x => encBcc 0x0D 3 x
  | .bltu x => encBcc 0x0E 0 x
  | .bgeu x => encBcc 0x0E 1 x
  | .calli x => encZ 0x0E 2 x.h (of4 x.cN) x.sa 0
  | .jmpi x => encZ 0x0E 3 x.h (of4 x.cN) x.sa 0
  | .ret x => encZ 0x0F 0 x.h x.sr 0 0
  | .nop x => encZ 0x0F 1 x 0 0 0
  | .trap x => encTrap 0x0F 2 x
  | .bkpt x => encTrap 0x0F 3 x
  | .mfs x => encZ 0x10 0 x.h x.sr x.num 0
  | .mts x => encZ 0x10 1 x.h x.num x.sr 0
  | .rdcyc x => encZ 0x10 2 x.h x.sd x.se 0
  | .vadd x => encV3 0x20 0 x
  | .vsub x => encV3 0x20 1 x
  | .vmul x => encV3 0x20 2 x
  | .vmulh x => encV3 0x20 3 x
  | .vmin x => encV3 0x21 0 x
  | .vmax x => encV3 0x21 1 x
  | .vabs x => encV2 0x21 2 x
  | .vand x => encV3 0x21 3 x
  | .vor x => encV3 0x22 0 x
  | .vxor x => encV3 0x22 1 x
  | .vshl x => encV3 0x22 2 x
  | .vshr x => encV3 0x22 3 x
  | .vsra x => encV3 0x23 0 x
  | .vadds x => encV3 0x23 1 x
  | .vsubs x => encV3 0x23 2 x
  | .vfadd x => encV3 0x24 0 x
  | .vfsub x => encV3 0x24 1 x
  | .vfmul x => encV3 0x24 2 x
  | .vfma x => encM 0x24 3 x.h (of5 x.vd) (of5 x.va) (of5 x.vb)
      { XW.zero with et := x.et, rm := x.rm, msk := x.msk, d2 := of5 x.vc }
  | .vfmin x => encV3 0x25 0 x
  | .vfmax x => encV3 0x25 1 x
  | .vrcp x => encV2 0x25 2 x
  | .vrsq x => encV2 0x25 3 x
  | .vex2 x => encV2 0x26 0 x
  | .vlg2 x => encV2 0x26 1 x
  | .vcvt x => encM 0x26 2 x.h (of5 x.vd) (of5 x.va) 0
      { XW.zero with et := x.et, rm := x.rm, ov := x.ov, msk := x.msk,
                     imm := 0#10 ++ bit1 x.ud ++ bit1 x.us ++ x.part ++ 0#1 ++ x.src }
  | .vcmp x => encVCmp 0x26 3 x
  | .vfcmp x => encVCmp 0x27 0 x
  | .vsel x => encV3 0x27 1 x
  | .vred x => encM 0x27 2 x.h (of5 x.vd) (of5 x.va) 0 { XW.zero with et := x.et, rm := x.rm, msk := x.msk, imm := x.op.setWidth 20 }
  | .vperm x => encV3 0x27 3 x
  | .vbcast x => encM 0x28 0 x.h (of5 x.vd) x.sa 0 { XW.zero with et := x.et, msk := x.msk }
  | .vins x => encM 0x28 1 x.h (of5 x.vd) x.sa x.sb { XW.zero with et := x.et }
  | .vext x => encM 0x28 2 x.h x.sd (of5 x.va) x.sb { XW.zero with et := x.et }
  | .vslide x => encM 0x28 3 x.h (of5 x.vd) (of5 x.va) x.sb { XW.zero with et := x.et, msk := x.msk }
  | .vdsx x => encM 0x29 0 x.h (of5 x.vd) (of5 x.va) x.sb
      { XW.zero with et := x.et, rm := x.rm, ov := x.ov, msk := x.msk,
                     imm := 0#9 ++ bit1 x.n4 ++ 0#2 ++ x.part ++ 0#1 ++ 10#4 }
  | .vmov x => encV2 0x29 1 x
  | .mand x => encM3 0x2A 0 x
  | .mor x => encM3 0x2A 1 x
  | .mxor x => encM3 0x2A 2 x
  | .mnot x => encM 0x2A 3 x.h (of3 x.md) (of3 x.ma) 0 XW.zero
  | .mpop x => encMCnt 0x2B 0 x
  | .mfirst x => encMCnt 0x2B 1 x
  | .mma x => encMma 0x30 0 x
  | .mmas x => encMma 0x30 1 x
  | .mmaBgs x => encM 0x30 2 x.h (of3 x.zd) 0 0 XW.zero
  | .zzero x => encM 0x31 0 x.h (of3 x.zd) 0 0 { XW.zero with et := x.et }
  | .zld x => encMem 0x31 1 x.h (of3 x.z) x.mem XW.zero
  | .zst x => encMem 0x31 2 x.h (of3 x.z) x.mem XW.zero
  | .zcvt x => encM 0x31 3 x.h (of3 x.zd) (of3 x.za) 0
      { XW.zero with et := x.et, rm := x.rm, ov := x.ov, imm := x.scale.setWidth 20 }
  | .qset x => encMem 0x32 0 x.h (of2 x.qd) x.mem { XW.zero with d2 := x.sc }
  | .qpos x => encM 0x32 1 x.h x.sd (of2 x.qa) 0 XW.zero
  | .atq x => encMem 0x34 0 x.h (of4 x.cD) x.mem { XW.zero with d2 := of4 x.cQ }
  | .atc x => encMemA 0x34 1 x
  | .atm x => encMemA 0x34 2 x
  | .kvapp x => encMem 0x34 3 x.h x.sd x.mem { XW.zero with d2 := of4 x.cS }
  | .kvdesc x => encMem 0x35 0 x.h (of4 x.cK) x.mem { XW.zero with d2 := of4 x.cS }
  | .ldB x => encMemS 0x38 0 x
  | .ldH x => encMemS 0x38 1 x
  | .ldW x => encMemS 0x38 2 x
  | .ldD x => encMemS 0x38 3 x
  | .stB x => encMemS 0x39 0 x
  | .stH x => encMemS 0x39 1 x
  | .stW x => encMemS 0x39 2 x
  | .stD x => encMemS 0x39 3 x
  | .ldv x => encMemV 0x3A 0 x
  | .stv x => encMemV 0x3A 1 x
  | .ldg x => encMemG 0x3A 2 x
  | .sts x => encMemG 0x3A 3 x
  | .ldc x => encMemC 0x3B 0 x
  | .stc x => encMemC 0x3B 1 x
  | .pref x => encMem 0x3B 2 { p := x.h.p, nr := 0, ext := x.h.ext, tgt := 0 } (if x.write then 1 else 0) x.mem XW.zero
  | .cpy x => encCpy 0x3C 0 x
  | .cpyt x => encCpy 0x3C 1 x
  | .cpyw x => encSS 0x3C 2 x
  | .amsg x => encMem 0x3D 0 x.h x.sd x.mem { XW.zero with d2 := of4 x.cH }
  | .hret x => encZ 0x3D 1 x.h x.sr 0 0
  | .bankmode x => encMem 0x3D 2 x.h (x.mode.setWidth 6) x.mem XW.zero
  | .halo x => encM 0x3E 0 x.h (of4 x.cN) x.sP 0 XW.zero
  | .halopush x => encMemA 0x3E 1 x
  | .fence x => encP 0x3F 0 { p := true, ext := x.ext } 0 0 0 { XW.zero with ord := x.ord, scope := x.scope }
  | .engwait x => encM 0x3F 1 x.h 0 0 0 { XW.zero with imm := x.mask.setWidth 20 }
  | .boc x => encBoc 0x40 0 x
  | .bnr x => encBr 0x40 1 x
  | .brdy x => encBr 0x40 2 x
  | .geto x => encZ 0x40 3 x.h x.sr 0 0
  | .yield x => encZ 0x41 0 x 0 0 0
  | .park x => encPark 0x41 1 x
  | .engst x => encZ 0x41 2 x.h x.sr 0 0
  | .qput x => encRMem 0x42 0 x
  | .qget x => encRMem 0x42 1 x
  | .qpeek x => encRMem 0x42 2 x
  | .qcnt x => encRMem 0x42 3 x
  | .ldsy x => encMemS 0x44 0 x
  | .stsy x => encMemS 0x44 1 x
  | .ldpk x => encMemS 0x44 2 x
  | .feset x => encMem 0x44 3 x.h (if x.full then 1 else 0) x.mem { XW.zero with ord := x.ord, scope := x.scope }
  | .feget x => encMemS 0x45 0 x
  | .waitge x => encMem 0x45 1 x.h x.sa x.mem { XW.zero with ord := x.ord, scope := x.scope, d2 := x.sb }
  | .waiteq x => encMemS 0x45 2 x
  | .bara x => encBar 0x46 0 x
  | .bart x => encBar 0x46 1 x
  | .barc x => encBar 0x46 2 x
  | .amoAdd x => encAmo 0x47 0 x
  | .amoSub x => encAmo 0x47 1 x
  | .amoMin x => encAmo 0x47 2 x
  | .amoMax x => encAmo 0x47 3 x
  | .amoMinu x => encAmo 0x48 0 x
  | .amoMaxu x => encAmo 0x48 1 x
  | .amoAnd x => encAmo 0x48 2 x
  | .amoOr x => encAmo 0x48 3 x
  | .amoXor x => encAmo 0x49 0 x
  | .amoSwp x => encAmo 0x49 1 x
  | .amocas x => encAmo 0x49 2 x
  | .redAdd x => encRed 0x4A 0 x
  | .redMin x => encRed 0x4A 1 x
  | .redMax x => encRed 0x4A 2 x
  | .redAnd x => encRed 0x4A 3 x
  | .redOr x => encRed 0x4B 0 x
  | .redXor x => encRed 0x4B 1 x
  | .redFadd x => encRed 0x4B 2 x
  | .redw x => encSH 0x4B 3 x
  | .cbput x => encCb 0x4C 0 x
  | .cbget x => encCb 0x4C 1 x
  | .cbfree x => encMem 0x4C 2 x.h x.sd x.mem { XW.zero with d2 := x.sa }
  | .gang x => encM 0x50 0 x.h x.sd (of4 x.cA) x.sa XW.zero
  | .spawn x => encM 0x50 1 x.h x.sa 0 0 { XW.zero with imm := x.stage.setWidth 20 }
  | .sqget x => encSH 0x50 2 x
  | .exit x => encZ 0x50 3 x 0 0 0
  | .lnch x => encRMem 0x51 0 x
  | .setprio x => encZ 0x51 1 x.h x.sr 0 0
  | .govcfg x => encSS 0x51 2 x
  | .dlcfg x => encSH 0x51 3 x
  | .csetb x => encCap 0x54 0 x.p (of4 x.cd) (of4 x.cs) x.sl
  | .cadd x => encCsrc 0x54 1 x.p x.cd x.cs x.b
  | .csub x => encCap 0x54 2 x.p x.sd (of4 x.ca) (of4 x.cb)
  | .crestr x => encCsrc 0x54 3 x.p x.cd x.cs x.b
  | .cseal x => encCap 0x55 0 x.p (of4 x.cd) (of4 x.cs) (of4 x.ck)
  | .cunseal x => encCap 0x55 1 x.p (of4 x.cd) (of4 x.cs) (of4 x.ck)
  | .cgetb x => encCap 0x55 2 x.p x.sd (of4 x.cs) 0
  | .cgetl x => encCap 0x55 3 x.p x.sd (of4 x.cs) 0
  | .cgetp x => encCap 0x56 0 x.p x.sd (of4 x.cs) 0
  | .ctag x => encCap 0x56 1 x.p x.sd (of4 x.cs) 0
  | .cclr x => encCap 0x56 2 x.p (of4 x.cd) (of4 x.cs) 0
  | .cmov x => encCap 0x56 3 x.p (of4 x.cd) (of4 x.cs) 0
  | .lease x => encRMem 0x57 0 x
  | .lrev x => encSS 0x57 1 x
  | .xinv x => encSS 0x57 2 x
  | .icsync x => encPark 0x57 3 x
  | .imprd x => encMem 0x58 0 x.h (of4 x.cP) x.mem { XW.zero with d2 := x.sn }
  | .plate x => encM 0x58 1 x.h (of4 x.cd) (of4 x.cs) x.sa XW.zero
  | .prnew x => encSS 0x59 0 x
  | .prset x => encSH 0x59 1 x
  | .prpass x => encSH 0x59 2 x
  | .prcan x => encSH 0x59 3 x
  | .prst x => encP 0x5A 0 x.h x.sd x.sa 0 XW.zero
  | .prorv x => encP 0x5A 1 x.h x.sd 0 0 { XW.zero with imm := x.imm }
  | .preempt x => encSSS 0x5C 0 x
  | .resume x => encSSS 0x5C 1 x
  | .freeze x => encP 0x5C 2 x.h x.sd x.sa 0 XW.zero
  | .vxeExecute | .mxeKstep | .mmasSlice | .mxeTileJob | .atqExecute | .abuRequestAccept
  | .abuSliceScan | .abuRecordLand | .atmExecute | .kvappExecute | .kvappPublish
  | .kvdescExecute | .killedKvappComplete | .cpeChunk | .bankSwitchComplete | .haloPushApply
  | .activeMessageServe | .handlerStart | .amsgReply | .fenceProbeEcho | .parkReread
  | .fifoPerform | .syncRemotePerform | .barrierGenAdvance | .amoPerform | .redPerform
  | .submissionDoorbell .. | .dispatchTakeRecord | .gangDispatch .. | .stageItemTake | .stallReport
  | .roundStart | .roundMarkerArrival | .roundEdgeApply | .endSweep | .deadlockExamine
  | .imprdReportWrite | .plateCloseRequest | .plateCloseFinish | .checkpointDurable
  | .checkpointFailure | .preemptComplete | .windowWrite .. | .postedResultReturn | .waitlimExpiry
  | .recordlessReissue | .divideResultWrite | .persistentTokenRelease | .writeBatchApply
  | .writebackApply | .homeCountWindow | .homeMove .. | .requestForward .. | .pageTierMigrate
  | .hltMissFill .. | .faultPacketWrite | .writebackCopyDone | .writebackFlashDone .. | .mapExecutable ..
  | .fuseRaise .. | .translationRequest .. | .translationRecordReceive .. | .translationTimeout .. | .codePatch ..
  | .partitionChange .. | .powerOn | .dieBringup .. | .hbmTrainingComplete .. | .powerLoss | .powerCapSet
  | .islandClockSet .. | .powerWindow | .abucfgWrite .. | .registerWrite .. | .unassignedOpcode ..
  | .fetchFault .. | .lineFill | .proofTableReply | .collectorPerform | .leaseComplete ..
  | .lrevComplete | .xinvComplete | .icsyncComplete | .plateComplete | .haloComplete
  | .uncorrectableError .. | .hostMemoryWrite .. | .podAccess .. | .portTraining .. | .spdmRequest .. => []

/-- The decoder's answer on an instruction of the opcode table's own numbering: bit 0 of `w` is bit 0 of the first
word, and every bit above `nbits` is 0. The words are laid out little-endian at rising addresses (R5). -/
def decodeTableWord (nbits w : Nat) : Option Instr :=
  let v := w % 2 ^ nbits
  let byte := fun i => BitVec.ofNat 8 (v / 2 ^ (8 * i))
  match decodeBytes ((List.range 28).map byte) with
  | .ok i _ => some i
  | _ => none

end Sys2Proof
end

