-- ==== Sys2Proof/Machine/Issue.lean ====
section
/-! DEFINITION. Fetching, and which master issues next (R28, R79, R272, R273, R356, R382). -/

namespace Sys2Proof.Machine

/-- The check of one fetched word (R356, R382): the cause of its failure. -/
def State.fetchCause (s : State) (pos : Nat) (pc : W64) : Option Nat :=
  let part := s.partOf pos
  let m := s.ms pos
  let lease := ((s.launch? m.lslot).map (·.lease)).getD 0
  match s.pageAt part pc.toNat with
  | none => some cLease
  | some (_, p) =>
    if m.kind != .svc && !(s.ranges.any fun (k, r) =>
        k / 4096 = part && !r.rev && r.lease = lease && r.base ≤ pc.toNat && pc.toNat < r.base + r.len) then some cLease
    else if !p.x then some cSpace
    else if Tab.get 0 s.mem (poisonKey (globKey part pc.toNat)) != 0 then some cUe
    else if p.stale then some cSvn
    else none

/-- The fault of a failing fetch, with its detail words (R356, R435). -/
def State.fetchFlt (s : State) (pos cause : Nat) (va : W64) : Flt :=
  let pg := s.pageAt (s.partOf pos) va.toNat
  let base := (pg.map fun x => BitVec.ofNat 64 (pageBase x.1)).getD (va &&& ~~~(0xFFFF : W64))
  if cause = cLease then { cause := cause, d0 := 1 + 6 * 16, d2 := base }
  else if cause = cSpace then { cause := cause, d0 := 1 + 3 * 16, d2 := base }
  else if cause = cUe then { cause := cause, d0 := 1, d2 := va &&& ~~~(63 : W64) }
  else { cause := cause, d0 := 1, d1 := BitVec.ofNat 64 ((pg.map fun x => x.2.svn).getD 0), d2 := va }

/-- First failing fetch of `n` words from `pc`. -/
def State.fetchWords (s : State) (pos : Nat) (pc : W64) : Nat → Option (Nat × W64)
  | 0 => none
  | n + 1 =>
    match s.fetchCause pos pc with
    | some c => some (c, pc)
    | none => s.fetchWords pos (pc + 4) n

/-- Words of code as the core of the master at `pos` fetches them. -/
def State.codeWords (s : State) (pos : Nat) (pc : W64) : Nat → List W32
  | 0 => []
  | n + 1 => s.fetchWord pos s.cyc pc :: s.codeWords pos (pc + 4) n

/-- Who may issue an entry of the opcode map (R77, R210). -/
def entryGrp (e : Entry) : Grp :=
  if e.sup then .sup else if e.eng then .engine else if e.tsk then .task else if e.hnd then .access else .noHandler

/-- HRET is the one entry that only a handler may issue (R228). -/
def isHret (w : FW) : Bool := w.op = 0x3D && w.f = 1

/-- What the master at `pos` issues at its PC, checked in the order of R79: the fetched instruction, a failing fetch, or
an illegal word. -/
def State.fetch (s : State) (pos : Nat) : Instr :=
  let m := s.ms pos
  match s.fetchCause pos m.pc with
  | some c => .fetchFault c m.pc
  | none =>
    let w := s.fetchWord pos s.cyc m.pc
    let fw := FW.ofWord w
    match entryOf fw with
    | none => .unassignedOpcode w 2
    | some e =>
      if !e.pre fw || !({ m with hcount := m.hcount + 1 : Master }.mayIssue (if isHret fw then .handler else entryGrp e) fw.nr) then
        .unassignedOpcode w 2
      else
        match s.fetchWords pos (m.pc + 4) (2 * fw.len.toNat) with
        | some (c, va) => .fetchFault c va
        | none =>
          match decode (s.codeWords pos m.pc fw.words) with
          | .ok i _ => i
          | .illegal k => .unassignedOpcode w k
          | .short => .unassignedOpcode w 2

/-- A slot that may still issue: READY, and its SAVE's edge, at which it is SAVED, has not come (R29). -/
def Master.issuing (m : Master) : Bool := m.st = .ready && m.saving.isNone

/-- A READY master that nothing makes ineligible (R273). -/
def State.eligible (s : State) (m : Master) : Bool :=
  m.st = .ready && m.issued ≤ s.cyc && m.div.isNone && !m.await && m.saving.isNone &&
  m.yield.all fun p => !(s.ms p).issuing

/-- The slot that a core issues from in this cycle: round-robin from its pointer among the eligible ones (R273), slot 15 at most
every second issue cycle (R28); none once the core has issued. -/
def State.pick (s : State) (core : Nat) : Option Nat :=
  let c := s.core core
  if s.cyc < c.next then none
  else ((List.range 16).map fun i => core * 16 + (c.rr + i) % 16).find? fun p =>
    s.eligible (s.ms p) && (slotOf p != 15 || c.hnd ≤ s.cyc)

/-- The bookkeeping of an issue: the core issues no more in this cycle and its pointer passes the slot, the slot does not issue in
the next cycle (R28), yielding tasks have seen it (R286), and a handler's count rises (R210). -/
def State.issueMark (s : State) (pos : Nat) : State :=
  let s1 := if isSvcPos pos then s else s.updCore (coreOf pos) fun c =>
    { c with rr := (slotOf pos + 1) % 16, next := s.cyc + 1, hnd := if slotOf pos = 15 then s.cyc + 2 else c.hnd }
  let s2 := { s1 with masters := s1.masters.map fun ((k, m) : Nat × Master) =>
    (k, if coreOf k = coreOf pos && m.yield.contains pos then { m with yield := m.yield.filter (· != pos) } else m) }
  s2.updM pos fun (m : Master) => { m with issued := s.cyc + 2, hcount := if m.kind = .handler then m.hcount + 1 else m.hcount }

/-- What follows from the last step for a master that waits: a slot that no longer issues defers no YIELD (R286), and a window may be
read once its master has settled (R439). -/
def State.settled1 (s : State) (m : Master) : Master :=
  let m1 := if m.yield.isEmpty then m else { m with yield := m.yield.filter fun p => (s.ms p).issuing }
  match m.park with
  | .window p => if m.st = .parked && !s.unsettled p then m1.unpark s.cyc else m1
  | _ => m1

/-- What follows from the last step before the next: the masters that wait are examined, and a free request slot is given to a task
that waits for one (R278). -/
def State.settle (s : State) : State :=
  State.grantSlots { s with masters := s.masters.map fun ((k, m) : Nat × Master) => (k, s.settled1 m) }

/-- A word outside the map, or a check of R79 that failed at `stage`: ILLEGAL with the word (R78, R435). -/
def execUnassignedOpcode (w : W32) (stage : Nat) (s : State) : Out :=
  .next (s.fault { cause := cIllegal, d0 := w.setWidth 64, d1 := BitVec.ofNat 64 stage })

/-- A failing fetch: the packet's PC is the fetched address, the task's stays (R356); an uncorrectable error is also logged
(R436). -/
def execFetchFault (cause : Nat) (va : W64) (s : State) : Out :=
  let s1 := if cause = cUe then s.queuePacket (dieOf s.cur)
      { s.packet s.cur 0 { cause := cUe, d0 := 1, d2 := va &&& ~~~(63 : W64) } 0 with type := 1, pos := none }
    else s
  .next (s1.freeze s.cur 0 (s.fetchFlt s.cur cause va) va s.me.pc)

end Sys2Proof.Machine
end

