-- ==== Sys2Proof/Machine/Scalar.lean ====
section
/-! DEFINITION. Scalar, control and special-register instructions (spec/05): R102-R120. Each is immediate, writes no
outcome and runs in any slot at either privilege. -/

namespace Sys2Proof.Machine

/-- An immediate instruction with no not-ready mode: its effect, then the next instruction. -/
def State.imm (s : State) (p : Bool) (words : Nat) (f : Master → Master) : Out :=
  s.gate .any 0 fun s => (s.upd f).advance p (s.me.next words)

/-- A two-source instruction (R105). -/
def alu (f : W64 → W64 → W64) (x : Alu) (s : State) : Out :=
  s.imm x.p (Src.words x.b) fun m => m.ws x.sd (f (m.rs x.sa) (Src.val m x.b))

/-- DIV to REMU: the result lands within 20 cycles, and the task does not issue before (R102). -/
def divide (f : W64 → W64 → W64) (x : Alu) (s : State) : Out :=
  s.gate .any 0 fun s =>
    (s.upd fun m => { m with div := some (x.sd.toNat, f (m.rs x.sa) (Src.val m x.b)) }).advance x.p (s.me.next (Src.words x.b))

/-- A one-source instruction (R109). -/
def alu1 (f : W64 → W64) (x : Alu1) (s : State) : Out :=
  s.imm x.h.p x.h.words fun m => m.ws x.sd (f (m.rs x.sa))

def b2w (b : Bool) : W64 := if b then 1 else 0

/-- The low six bits of b (R106). -/
def shamt (b : W64) : Nat := (b.extractLsb' 0 6).toNat

/-- The results of R106. -/
def fMulh (a b : W64) : W64 := BitVec.ofInt 64 (a.toInt * b.toInt / 2 ^ 64)
def fMulhu (a b : W64) : W64 := BitVec.ofNat 64 (a.toNat * b.toNat / 2 ^ 64)
def fRot (a b : W64) : W64 := if shamt b = 0 then a else (a <<< shamt b) ||| (a >>> (64 - shamt b))
def fShl (a b : W64) : W64 := a <<< shamt b
def fShr (a b : W64) : W64 := a >>> shamt b
def fSra (a b : W64) : W64 := a.sshiftRight (shamt b)
def fMin (a b : W64) : W64 := if a.toInt ≤ b.toInt then a else b
def fMax (a b : W64) : W64 := if a.toInt ≤ b.toInt then b else a
def fMinu (a b : W64) : W64 := if a.toNat ≤ b.toNat then a else b
def fMaxu (a b : W64) : W64 := if a.toNat ≤ b.toNat then b else a

/-- Truncated quotient and remainder (R107). -/
def fDiv (a b : W64) : W64 :=
  if b = 0 then BitVec.allOnes 64
  else if a = BitVec.ofNat 64 (2 ^ 63) && b = BitVec.allOnes 64 then a
  else BitVec.ofInt 64 (Int.tdiv a.toInt b.toInt)
def fRem (a b : W64) : W64 :=
  if b = 0 then a
  else if a = BitVec.ofNat 64 (2 ^ 63) && b = BitVec.allOnes 64 then 0
  else BitVec.ofInt 64 (Int.tmod a.toInt b.toInt)
def fDivu (a b : W64) : W64 := if b = 0 then BitVec.allOnes 64 else BitVec.ofNat 64 (a.toNat / b.toNat)
def fRemu (a b : W64) : W64 := if b = 0 then a else BitVec.ofNat 64 (a.toNat % b.toNat)

def execAdd (x : Alu) (s : State) : Out := alu (fun a b => a + b) x s
def execSub (x : Alu) (s : State) : Out := alu (fun a b => a - b) x s
def execMul (x : Alu) (s : State) : Out := alu (fun a b => a * b) x s
def execMulh (x : Alu) (s : State) : Out := alu fMulh x s
def execMulhu (x : Alu) (s : State) : Out := alu fMulhu x s
def execDiv (x : Alu) (s : State) : Out := divide fDiv x s
def execDivu (x : Alu) (s : State) : Out := divide fDivu x s
def execRem (x : Alu) (s : State) : Out := divide fRem x s
def execRemu (x : Alu) (s : State) : Out := divide fRemu x s
def execAnd (x : Alu) (s : State) : Out := alu (fun a b => a &&& b) x s
def execOr (x : Alu) (s : State) : Out := alu (fun a b => a ||| b) x s
def execXor (x : Alu) (s : State) : Out := alu (fun a b => a ^^^ b) x s
def execAndn (x : Alu) (s : State) : Out := alu (fun a b => a &&& ~~~b) x s
def execShl (x : Alu) (s : State) : Out := alu fShl x s
def execShr (x : Alu) (s : State) : Out := alu fShr x s
def execSra (x : Alu) (s : State) : Out := alu fSra x s
def execRot (x : Alu) (s : State) : Out := alu fRot x s
def execMin (x : Alu) (s : State) : Out := alu fMin x s
def execMax (x : Alu) (s : State) : Out := alu fMax x s
def execMinu (x : Alu) (s : State) : Out := alu fMinu x s
def execMaxu (x : Alu) (s : State) : Out := alu fMaxu x s
def execSeq (x : Alu) (s : State) : Out := alu (fun a b => b2w (a = b)) x s
def execSne (x : Alu) (s : State) : Out := alu (fun a b => b2w (a ≠ b)) x s
def execSlt (x : Alu) (s : State) : Out := alu (fun a b => b2w (a.toInt < b.toInt)) x s
def execSltu (x : Alu) (s : State) : Out := alu (fun a b => b2w (a.toNat < b.toNat)) x s

/-- SEL (R108). -/
def execSel (x : Sel) (s : State) : Out :=
  s.imm x.p 3 fun m => m.ws x.sd (if m.rs x.sc ≠ 0 then m.rs x.sa else m.rs x.sb)

/-- ADDI (R111). -/
def execAddi (x : Addi) (s : State) : Out := s.imm x.p 1 fun m => m.ws x.sd (m.rs x.sa + x.imm.signExtend 64)

/-- LI (R112). -/
def execLi (x : Li) (s : State) : Out := s.imm x.p (LiK.words x.k) fun m => m.ws x.sd (LiK.val x.k)

/-- Leading zeros of the low `n` bits. -/
def clzN (a : W64) : Nat → Nat
  | 0 => 0
  | n + 1 => if a.getLsbD n then 0 else 1 + clzN a n
/-- Trailing zeros from bit 64 - n. -/
def ctzN (a : W64) : Nat → Nat
  | 0 => 0
  | n + 1 => if a.getLsbD (63 - n) then 0 else 1 + ctzN a n
def popN (a : W64) : Nat → Nat
  | 0 => 0
  | n + 1 => (if a.getLsbD n then 1 else 0) + popN a n

def execClz (x : Alu1) (s : State) : Out := alu1 (fun a => BitVec.ofNat 64 (clzN a 64)) x s
def execCtz (x : Alu1) (s : State) : Out := alu1 (fun a => BitVec.ofNat 64 (ctzN a 64)) x s
def execPopc (x : Alu1) (s : State) : Out := alu1 (fun a => BitVec.ofNat 64 (popN a 64)) x s
def execMov (x : Alu1) (s : State) : Out := alu1 (fun a => a) x s

/-- sext(a, n) and zext(a, n) for n from 1 to 64 (R9). -/
def zextN (a : W64) (n : Nat) : W64 := BitVec.ofNat 64 (a.toNat % 2 ^ n)
def sextN (a : W64) (n : Nat) : W64 := (a <<< (64 - n)).sshiftRight (64 - n)

def execSxt (x : Xt) (s : State) : Out := s.imm x.h.p x.h.words fun m => m.ws x.sd (sextN (m.rs x.sa) (x.n1.toNat + 1))
def execZxt (x : Xt) (s : State) : Out := s.imm x.h.p x.h.words fun m => m.ws x.sd (zextN (m.rs x.sa) (x.n1.toNat + 1))

/-- BFX and BFI (R110). BFI whose sd is also sa reads both as they stood before it (DESIGN CHOICE, log 95). -/
def fBfx (a : W64) (pos len : Nat) : W64 := zextN (a >>> pos) len
def fBfi (d a : W64) (pos len : Nat) : W64 :=
  let mask := BitVec.ofNat 64 ((2 ^ len - 1) * 2 ^ pos)
  (d &&& ~~~mask) ||| ((a <<< pos) &&& mask)

def execBfx (x : Bf) (s : State) : Out :=
  s.imm x.p (BfCtl.words x.ctl) fun m => m.ws x.sd (fBfx (m.rs x.sa) (BfCtl.pos m x.ctl) (BfCtl.len m x.ctl))
def execBfi (x : Bf) (s : State) : Out :=
  s.imm x.p (BfCtl.words x.ctl) fun m => m.ws x.sd (fBfi (m.rs x.sd) (m.rs x.sa) (BfCtl.pos m x.ctl) (BfCtl.len m x.ctl))

/-! ## Branches (R113-R115) -/

/-- A direct branch by the slots of a group: `taken` is read with the link register as it was. -/
def branch {n : Nat} (g : Grp) (p : Bool) (off : Off n) (taken : Master → Bool) (s : State) : Out :=
  s.gate g 0 fun s =>
    let m := s.me
    s.advance p (if taken m then m.pc + 4 * Off.val off else m.next (Off.words off))

def execBr (x : Br) (s : State) : Out := branch .any x.p x.off (fun _ => true) s
/-- CALL also writes s63 with the next instruction's address. -/
def execCall (x : Br) (s : State) : Out :=
  s.gate .any 0 fun s =>
    let m := s.me
    (s.upd fun m => m.ws 63 (m.next (Off.words x.off))).advance x.p (m.pc + 4 * Off.val x.off)
def execBz (x : Bz) (s : State) : Out := branch .any x.p x.off (fun m => m.rs x.sa = 0) s
def execBnz (x : Bz) (s : State) : Out := branch .any x.p x.off (fun m => m.rs x.sa ≠ 0) s
def execBeq (x : Bcc) (s : State) : Out := branch .any x.p x.off (fun m => m.rs x.sa = m.rs x.sb) s
def execBne (x : Bcc) (s : State) : Out := branch .any x.p x.off (fun m => m.rs x.sa ≠ m.rs x.sb) s
def execBlt (x : Bcc) (s : State) : Out := branch .any x.p x.off (fun m => (m.rs x.sa).toInt < (m.rs x.sb).toInt) s
def execBge (x : Bcc) (s : State) : Out := branch .any x.p x.off (fun m => (m.rs x.sa).toInt ≥ (m.rs x.sb).toInt) s
def execBltu (x : Bcc) (s : State) : Out := branch .any x.p x.off (fun m => (m.rs x.sa).toNat < (m.rs x.sb).toNat) s
def execBgeu (x : Bcc) (s : State) : Out := branch .any x.p x.off (fun m => (m.rs x.sa).toNat ≥ (m.rs x.sb).toNat) s

/-- Bits [1:0] taken as 0. -/
def wordAddr (a : W64) : W64 := a &&& ~~~(3 : W64)

/-- The checks of a code capability, in their order (R115). -/
def codeFlt (opn : Nat) (c : Cap) (tgt : W64) : Option Flt :=
  if !c.tag then some (capFlt cCaptag 1 opn c tgt.toNat)
  else if c.sealT != 0 || !c.has [pExec] then some (capFlt cCapperm 2 opn c tgt.toNat)
  else if c.space != 4 then some (capFlt cSpace 3 opn c tgt.toNat)
  else if tgt.toNat < c.base || tgt.toNat + 4 > c.top then some (capFlt cCapbound 5 opn c tgt.toNat)
  else none

def jumpi (link : Bool) (x : Jmpi) (s : State) : Out :=
  s.gate .any 0 fun s =>
    let m := s.me
    let tgt := wordAddr (m.rs x.sa)
    match codeFlt 0 (m.rc x.cN) tgt with
    | some f => s.fault f
    | none => (if link then s.upd fun m => m.ws 63 (m.next x.h.words) else s).advance x.h.p tgt

def execCalli (x : Jmpi) (s : State) : Out := jumpi true x s
def execJmpi (x : Jmpi) (s : State) : Out := jumpi false x s
def execRet (x : S1) (s : State) : Out := s.gate .any 0 fun s => s.advance x.h.p (wordAddr (s.me.rs x.sr))
def execNop (x : Pl) (s : State) : Out := s.imm x.p x.words fun m => m

/-! ## Special registers (R21-R27, R117, R118) -/

/-- CYC: cycles since the master's die joined (R22, R119). -/
def State.cycOf (s : State) (pos : Nat) : W64 := BitVec.ofNat 64 (s.cyc - (s.die (dieOf pos)).born)

/-- Special register `n` as MFS reads it; a handler reads 0 but for CYC and ROUND (R210), also
where its own MTS has stored a value (DEDUCED, notes/assumptions/102.md). -/
def State.special (s : State) (pos n : Nat) : W64 :=
  let m := s.ms pos
  let v : Nat → W64 := BitVec.ofNat 64
  if n = 0x0C then s.cycOf pos
  else if n = 0x12 then s.roundOf pos
  else if m.kind = .handler then 0
  else match n with
    | 0x00 => v m.taskid
    | 0x01 => m.coord
    | 0x02 => v m.grpid
    | 0x03 => v m.gangid
    | 0x04 => v m.lnch
    | 0x05 => v m.stage
    | 0x06 => v m.proof
    | 0x07 => m.orphv
    | 0x08 => m.wlim.setWidth 64
    | 0x09 => m.rlim.setWidth 64
    | 0x0A => v m.pend
    | 0x0B => m.tbmask
    | 0x0D => m.errst.setWidth 64
    | 0x0E => v m.lsbase
    | 0x0F => v m.lssize
    | 0x10 => v (m.zcount * 16 + m.zbase)
    | 0x11 => v m.prio
    | 0x13 => v m.slice
    | 0x14 => v m.nslice
    | _ => 0

/-- MTS of `x`: RW fields are stored, W1C bits cleared, the rest ignored (R7, R22, R26, R117). -/
def Master.writeSpecial (m : Master) (n : Nat) (x : W64) : Master :=
  match n with
  | 0x07 => { m with orphv := wordAddr x }
  | 0x08 => { m with wlim := if (x.setWidth 32).toNat < 256 then 256 else x.setWidth 32 }
  | 0x09 => { m with rlim := x.setWidth 8 }
  | 0x0D => { m with errst := m.errst &&& ~~~(x.setWidth 4) }
  | _ => m

def execMfs (x : Mfs) (s : State) : Out :=
  s.gate .any 0 fun s =>
    if x.num.toNat > 0x14 then illegal 6 s
    else (s.upd fun m => m.ws x.sr (s.special s.cur x.num.toNat)).advance x.h.p (s.me.next x.h.words)

def execMts (x : Mfs) (s : State) : Out :=
  s.gate .any 0 fun s =>
    if x.num.toNat > 0x14 then illegal 6 s
    else (s.upd fun m =>
      let m1 := m.writeSpecial x.num.toNat (m.rs x.sr)
      m1).advance x.h.p (s.me.next x.h.words)

/-- RDCYC: CYC and ROUND in one cycle; se is written after sd (R119). -/
def execRdcyc (x : Rdcyc) (s : State) : Out :=
  s.imm x.h.p x.h.words fun m => (m.ws x.sd (s.cycOf s.cur)).ws x.se (s.roundOf s.cur)

/-! ## TRAP and BKPT (R120) -/

/-- Freezes with the code as detail word 0; a TRAP's task stands at the next instruction. P has no effect of its
own here (DEDUCED, notes/assumptions/103.md). -/
def trap (cause : Nat) (skip : Bool) (x : Trap) (s : State) : Out :=
  s.gate .any 0 fun s =>
    let m := s.me
    s.freeze s.cur 0 { cause := cause, d0 := Off.code x.code } m.pc (if skip then m.next (Off.words x.code) else m.pc)

def execTrap (x : Trap) (s : State) : Out := trap cTrap true x s
def execBkpt (x : Trap) (s : State) : Out := trap cBkpt false x s

end Sys2Proof.Machine
end

