-- ==== Sys2Proof/Machine/Outcome.lean ====
section
/-! DEFINITION. Outcomes and waiting (spec/14: R274-R289): branches on o, YIELD, PARK, ENGST, and the replies, expiries and
reissues that end a wait. -/

namespace Sys2Proof.Machine

/-! ## BOC, BNR, BRDY, GETO (R284, R285) -/

/-- Codes 0x1 to 0x7. -/
def isNotReady (o : BitVec 4) : Bool := 1 ≤ o.toNat && o.toNat ≤ 7

def execBoc (x : Boc) (s : State) : Out := branch .noHandler x.p x.off (fun m => m.o = x.code) s
def execBnr (x : Br) (s : State) : Out := branch .noHandler x.p x.off (fun m => isNotReady m.o) s
def execBrdy (x : Br) (s : State) : Out := branch .noHandler x.p x.off (fun m => m.o = oRdy) s

/-- An instruction that writes registers from the issuing task's own state, at issue. -/
def taskI (h : Pl) (f : Master → Master) (s : State) : Out :=
  s.gate .noHandler 0 fun s => (s.upd f).advance h.p (s.me.next h.words)

def execGeto (x : S1) (s : State) : Out := taskI x.h (fun m => m.ws x.sr (m.o.setWidth 64)) s

/-- ENGST: the task's engine queues (R289). -/
def execEngst (x : S1) (s : State) : Out := taskI x.h (fun m => m.ws x.sr m.engst) s

/-! ## YIELD (R286) -/

/-- The other slots of the core that are eligible now. -/
def State.others (s : State) (pos : Nat) : List Nat :=
  if isSvcPos pos then []
  else ((List.range 16).map (coreOf pos * 16 + ·)).filter fun p => p != pos && s.eligible (s.ms p)

def execYield (x : Pl) (s : State) : Out := taskI x (fun m => { m with yield := s.others s.cur }) s

/-! ## Replies -/

/-- A form without outcome modes. -/
def plHd (h : Pl) : Hd := { p := h.p, nr := 0, ext := h.ext, tgt := 0 }

/-- The outcome modes of an instruction that its reply completes. -/
def unitHd : Instr → Hd
  | .park x | .icsync x => plHd x.h
  | .prst x => plHd x.h
  | .freeze x => plHd x.h
  | .qput x | .qget x | .qpeek x | .qcnt x | .lnch x | .lease x => x.h
  | .ldsy x | .stsy x | .ldpk x | .feget x | .waiteq x => x.h
  | .feset x => x.h
  | .waitge x => x.h
  | .bara x | .bart x | .barc x => x.h
  | .cbput x | .cbget x => x.h
  | .cbfree x => x.h
  | .gang x => x.h
  | .spawn x => x.h
  | .sqget x | .prset x | .prpass x | .prcan x => x.h
  | .lrev x | .xinv x | .prnew x => x.h
  | .plate x => x.h
  | .imprd x => x.h
  | .preempt x | .resume x => x.h
  | _ => { p := false, nr := 0, ext := false, tgt := 0 }

/-- Sends an instruction to the unit that performs it; the reply completes it (R299). `ready`: the task stays READY and is
ineligible, as for a FIFO bank (R293); otherwise it parks as at a switch marker. -/
def State.sendUnit (s : State) (ready : Bool) (key : Nat) (slot : Bool) (i : Instr) (opd : Opd) (c : Cap) (a b : W64) (v : W1024)
    (after : List Nat) : State :=
  let s1 := (s.request s.cur key slot false (.unit i key opd c a b v) after).upd fun m => { m with await := true }
  if ready then s1 else s1.parkM s.cur .reply 0xF 0

/-- The reply of request `r` arrives: `k`, run as the task, completes its instruction or parks it. A frozen task stays
frozen; a wait that has passed WLIM ends in WAITLIM once the instruction is complete (R283). What a killed task had sent takes its
effect at the unit alone (R440). -/
def State.reply (s : State) (r : Req) (k : State → State) : State :=
  let s1 := s.reqEnd r
  let m := s1.ms r.pos
  if r.pos = nowhere then { (s1.onBehalf nowhere k).setM nowhere Master.empty with dies := s1.dies }
  else if !m.await then s1
  else
    let late := m.park = .reply && m.waited s.cyc > m.wlim.toNat
    let s2 := s1.updM r.pos fun m => { (if m.st = .parked then m.unpark s.cyc else m) with await := false }
    let s3 := s2.onBehalf r.pos k
    if m.st = .frozen then s3.updM r.pos fun m => { m with st := .frozen, park := .none }
    else if late && (s3.ms r.pos).wait = 0 && (s3.ms r.pos).st != .frozen then
      s3.freeze r.pos 0 { cause := cWaitlim, d0 := m.wlim.setWidth 64, d1 := 0xF } r.pc (s3.ms r.pos).pc
    else s3

/-! ## PARK (R287, R288) -/

/-- The word as a plain load of the task reads it, be it a register of a control page (R288). -/
def State.parkWord (s : State) (pos key : Nat) : W32 :=
  BitVec.ofNat 32 (leNat (s.loadBytes (s.rdr pos (s.ms pos).proof) key 4))

/-- PARK's point of effect: completes when the word differs from `v`, else parks on it. It reads as a plain load does, so an
uncorrectable error raises UE, which R294 does not list (notes/assumptions/80.md). -/
def State.parkAt (s : State) (h : Pl) (ea : W64) (key : Nat) (v : W32) : State :=
  match s.ueIn (s.rdr s.cur s.me.proof) key 4 with
  | some b =>
    let a := blockEa ea key b
    (s.logUe s.cur 0 0 a 0).freeze s.cur 0 { cause := cUe, d2 := a } s.me.pc s.me.pc
  | none =>
    if s.parkWord s.cur key = v then s.parkM s.cur (.word key v h) 0xF ea
    else s.done (plHd h) h.words

def execPark (x : ParkA) (s : State) : Out :=
  s.gate .noHandler 0 fun s =>
    let m := s.me
    let ea := m.ea x.mem
    let c := m.rc x.mem.cap
    s.accessHeld (plHd x.h) x.h.words
      { cap := c, perms := [pLoad], sp := { own := true, clu := true, imm := true, ms := true }, ea := ea.toNat, len := 4, align := 4 }
      fun s key =>
        if ownLs s.cur key then s.parkAt x.h ea key ((m.rs x.sa).setWidth 32)
        else s.sendUnit false key (s.needsSlot s.cur key) (.park x) { sp := c.space, ea := ea } c (m.rs x.sa) 0 0 []

/-- PARK_REREAD: the task at `cur` wakes if its word has changed, and its PARK is then complete. An error that the re-read meets is
logged, and wakes the task to issue its PARK again, which faults (notes/assumptions/80.md). -/
def execParkReread (s : State) : Out :=
  .next <|
  match s.me.isParked, s.me.park with
  | true, .word key v h =>
    match s.ueIn (s.rdr s.cur s.me.proof) key 4 with
    | some b => (s.logUe s.cur 0 0 (blockEa s.me.parkA key b) 0).updM s.cur (Master.unpark s.cyc)
    | none => if s.parkWord s.cur key = v then s else (s.updM s.cur (Master.unpark s.cyc)).done (plHd h) h.words
  | _, _ => s

/-! ## Ends of waiting -/

/-- A push or write that a request acknowledges is still under way. -/
def State.unapplied (s : State) (id : Nat) : Bool := s.batches.any fun b => b.req = id && (!b.applied || (b.push && !b.todo.isEmpty))

/-- POSTED_RESULT_RETURN: the reply of request `cur` returns: a result lands, a store is acknowledged once its home has
applied it, a PARK's word is compared, and a load that waited for other accesses reads and lands. -/
def execPostedResultReturn (s : State) : Out :=
  .next <|
  match s.req? s.cur with
  | none => s
  | some r =>
    if s.unapplied r.id then s else
    match r.k with
    | .land ws flt try' => s.returned r ws flt try'
    | .done ws => s.returned r ws none
    | .ack => s.returned r [] none
    | .unit (.park x) key opd _ a _ _ =>
      s.reply r fun s => s.proofCheck fun s => s.parkAt x.h opd.ea key (a.setWidth 32)
    | _ => if (r.own.any fun ext => ext.all fun e => !s.windowWaits e.1 e.2) && !s.waiting r.after then s.performLoad r else s

/-- The task's wait has passed WLIM (R283). -/
def State.expired (s : State) (m : Master) : Bool :=
  m.isParked && m.park != .reply && !m.exiting && m.waited s.cyc > m.wlim.toNat

/-- The descriptor on which a KVAPP waits for LEN = p: the job has stored all its rows (R189). -/
def Job.descWait (j : Job) : Option W64 :=
  match j.k, j.res with
  | .kvapp _ _ ea _ count, some _ => if j.unit ≥ count.toNat && !j.held then some ea else none
  | _, _ => none

/-- WAITLIM_EXPIRY: the task at `cur` freezes. At a marker the packet names the marked instruction; otherwise the parked
one, which a resumption reissues. A KVAPP that waits to publish is held until RESUME, and a marker's wait for it is a park on the
descriptor (R189). -/
def execWaitlimExpiry (s : State) : Out :=
  .next <|
  let m := s.me
  if !s.expired m then s
  else
    let desc := (m.att.head?).bind Job.descWait
    let s1 := if desc.isNone then s else s.upd fun m => { m with att := m.att.map fun j => { j with held := true } }
    let mark := m.park = .marker
    s1.freeze s.cur 0
      { cause := cWaitlim, d0 := m.wlim.setWidth 64, d1 := m.parkO.setWidth 64, d2 := if mark then desc.getD 0 else m.parkA }
      (if mark then m.parkA else m.pc) m.pc

/-- RECORDLESS_REISSUE: a task parked on a word without a waiter record tries again after 1,024 cycles (R302). -/
def execRecordlessReissue (s : State) : Out :=
  .next <|
  match s.me.isParked, s.me.park with
  | true, .fe _ _ false => if s.cyc - s.me.since ≥ 1024 then s.updM s.cur (Master.unpark s.cyc) else s
  | _, _ => s

/-- DIVIDE_RESULT_WRITE: the quotient or remainder lands, and the task is eligible again (R102). -/
def execDivideResultWrite (s : State) : Out :=
  .next <|
  match s.me.div with
  | some (r, v) => (s.upd fun m => { m.ws (BitVec.ofNat 6 r) v with div := none }).markerWake s.cur
  | none => s

end Sys2Proof.Machine
end

