-- ==== Sys2Proof/Machine/Queue.lean ====
section
/-! DEFINITION. Queues and circular buffers (spec/14: R290-R293; spec/16: R314, R315). A ring is named by the key of its
header, in an LS or on a memory-side page, or by the first key of a FIFO bank. -/

namespace Sys2Proof.Machine

def bankKey (b : Nat) : Nat := 2 ^ 69 + b * 2 ^ 19

/-- Name of the ring that a key lies in. -/
def ringKey (k : Nat) : Nat := if isClu k then bankKey (bankOfKey k) else k

/-- First byte of a die's fault ring (R432). -/
def ringVa (die : Nat) : Nat := ctlBase + 0x200000 * die + 0x10000

/-- A number of memory bytes at its performing unit. -/
def State.memNat (s : State) (k n : Nat) : Nat := s.rdNat Rdr.home k n

/-! ## Headers (R290) -/

structure RHead where
  gets : Nat
  puts : Nat
  cap : Nat

def State.rhead (s : State) (k : Nat) : RHead :=
  { gets := s.memNat k 4, puts := s.memNat (k + 4) 4, cap := s.memNat (k + 8) 2 }

def RHead.count (h : RHead) : Nat := (h.puts + 2 ^ 32 - h.gets) % 2 ^ 32
def RHead.bad (h : RHead) : Bool := h.cap = 0 || h.cap > 4096 || h.count > h.cap

/-- Items in a ring, and what it can hold. -/
def State.qCount (s : State) (k : Nat) : Nat := if isClu k then (s.bank (bankOfKey k)).fill else (s.rhead k).count
def State.qCap (s : State) (k : Nat) : Nat := if isClu k then 65536 - (s.bank (bankOfKey k)).held else (s.rhead k).cap

/-- Entries that a queue or circular buffer instruction puts or takes (R291, R315). -/
def qUnits : Instr → Nat
  | .cbput _ | .cbget _ => 16
  | _ => 1

/-- A ring lacks the space, or the items, that an instruction needs. -/
def State.qUnmet (s : State) (i : Instr) (k : Nat) (full : Bool) : Bool :=
  if full then s.qCap k < s.qCount k + qUnits i else s.qCount k < qUnits i

/-- Key of the entry that the next put writes, and of the one that the next get reads. -/
def State.qPutKey (s : State) (k : Nat) : Nat :=
  if isClu k then bankKey (bankOfKey k) + 8 * (s.bank (bankOfKey k)).wpos
  else k + 64 + 8 * ((s.rhead k).puts % (s.rhead k).cap)
def State.qGetKey (s : State) (k : Nat) : Nat :=
  if isClu k then bankKey (bankOfKey k) + 8 * (s.bank (bankOfKey k)).rpos
  else k + 64 + 8 * ((s.rhead k).gets % (s.rhead k).cap)

/-- Writes memory at its performing unit and wakes the words' waiters. -/
def State.unitWrite (s : State) (k : Nat) (bs : List Byte) : State :=
  ({ s with mem := setCells s.mem (dataCells k bs) } : State).wakeWords ((List.range bs.length).map (k + ·))

/-- The longest-parked waiter of a ring (R293). -/
def State.wakeRing (s : State) (k : Nat) (full : Bool) : State := s.wakeOne fun _ m => m.park = .queue (ringKey k) full

/-- A ring records the last four groups that put to it or took from it; a supervisor core is of no group (R334). -/
def State.noteRing (s : State) (pos k : Nat) (put : Bool) : State :=
  let r := Tab.get Ring.empty s.rings (ringKey k)
  let add := fun (l : List Nat) => ((s.ms pos).gno :: l.filter (· != (s.ms pos).gno)).take 4
  if (s.ms pos).kind != .task then s
  else { s with rings := Tab.set Ring.empty s.rings (ringKey k) (if put then { r with puts := add r.puts } else { r with takes := add r.takes }) }

/-- One put by the master at `pos`, into a ring that has space. -/
def State.qPut (s : State) (pos k : Nat) (x : W64) : State :=
  let s1 := s.unitWrite (s.qPutKey k) (leBytes 8 x.toNat)
  let s2 :=
    if isClu k then
      let b := s1.bank (bankOfKey k)
      s1.setBank (bankOfKey k) { b with fill := b.fill + 1, wpos := (b.wpos + 1) % 65536 }
    else s1.unitWrite (k + 4) (leBytes 4 ((s.rhead k).puts + 1))
  (s2.wakeRing k false).noteRing pos k true

/-- The next item of a ring. -/
def State.qItem (s : State) (k : Nat) : W64 := BitVec.ofNat 64 (s.memNat (s.qGetKey k) 8)

/-- One get, from a ring that holds an item. -/
def State.qGet (s : State) (pos k : Nat) : State :=
  let s1 :=
    if isClu k then
      let b := s.bank (bankOfKey k)
      s.setBank (bankOfKey k) { b with fill := b.fill - 1, free := (b.free + 1) % 2 ^ 32, rpos := (b.rpos + 1) % 65536 }
    else s.unitWrite k (leBytes 4 ((s.rhead k).gets + 1))
  (s1.wakeRing k true).noteRing pos k false

/-! ## QPUT, QGET, QPEEK, QCNT (R291) -/

inductive QOp where
  | put | get | peek | cnt
  deriving DecidableEq, Repr

/-- An uncorrectable error in the state that an instruction meets: nothing is written, its results are 0 and o := ERR, and
data that it would return is consumed (R303). `site` is R436's. -/
def State.unitUe (s : State) (h : Hd) (words site : Nat) (block : W64) (returns : Bool) (zero : Master → Master) : State :=
  let s1 := (s.logUe s.cur 0 site block 0).upd zero
  (if returns then s1.doomBy s1.cur else s1).final h words oErr

/-- The point of effect of a queue instruction on the ring at `k`, by the master `cur` (R291, R303). -/
def State.qEffect (s : State) (op : QOp) (h : Hd) (words : Nat) (r : SReg) (x : W64) (k : Nat) (obj : W64) : State :=
  let count := s.qCount k
  let site := if isGlobKey k then 2 else 0
  let set := fun (v : W64) (m : Master) => if op = .put then m else m.ws r v
  let bad := (if isClu k then none else s.ueIn Rdr.home k 64) <|>
    (if (op = .get || op = .peek) && count != 0 then s.ueIn Rdr.home (s.qGetKey k) 8 else none)
  match bad with
  | some b => s.unitUe h words site (blockEa obj k b) (op != .put) (set 0)
  | none =>
    match op with
    | .put =>
      if count ≥ s.qCap k then s.notReady h words oFull (.queue (ringKey k) true) obj
      else (s.qPut s.cur k x).done h words
    | .get =>
      if count = 0 then s.notReady h words oEmpty (.queue (ringKey k) false) obj
      else (((s.qGet s.cur k).upd (set (s.qItem k))).dropKeptAll).done h words
    | .peek =>
      if count = 0 then s.notReady h words oEmpty (.queue (ringKey k) false) obj
      else ((s.upd (set (s.qItem k))).dropKeptAll).done h words
    | .cnt => (s.upd (set (BitVec.ofNat 64 count))).done h words

/-- The FIFO bank's capability covers the whole bank (R291, R315). -/
def wholeBank (c : Cap) (ea : W64) : Option Flt :=
  let lo := ea.toNat / 2 ^ 19 * 2 ^ 19
  if c.base ≤ lo && lo + 2 ^ 19 ≤ c.top then none else some (capFlt cCapbound 5 0 c ea.toNat)

/-- Issues a request to a FIFO bank: the task is ineligible until its reply (R293). -/
def State.fifoIssue (s : State) (i : Instr) (h : Hd) (c : Cap) (ea : W64) (perms : List Nat) (rel : Bool) (a b : W64) (v : W1024) :
    State :=
  let acc : Acc := { cap := c, perms := perms, sp := spFifo, ea := ea.toNat, len := 1 }
  match acc.permFlt <|> s.spaceFlt s.cur acc <|> wholeBank c ea with
  | some f => s.fault f
  | none => s.proofCheck fun s =>
    let key := cluKey (clusterOf s.cur) ea.toNat
    if s.slotFull s.cur key then s.notReady h h.words oFull (.slot (s.bankOf key)) ea
    else if s.switching s.cur 2 ea.toNat 1 then s.notReady h h.words oBusy .busy ea
    else
      let s1 := if rel then s.touch s.cur key else s
      s1.sendUnit true key true i { sp := 2, ea := ea } c a b v ((if rel then s.earlier s.cur 2 else []) ++ s.unitAhead s.cur key 8)

/-- A queue instruction: at issue on an LS queue, by request on a FIFO bank. -/
def queueI (op : QOp) (i : Instr) (x : RMem) (s : State) : Out :=
  s.gate .noHandler x.h.nr fun s =>
    let m := s.me
    let c := m.rc x.mem.cap
    let ea := m.ea x.mem
    let perms := if op = .cnt then [pLoad, pSync] else [pLoad, pStore, pSync]
    if c.space = 1 then
      let acc : Acc :=
        { cap := c, perms := perms, sp := { own := true }, write := op = .put || op = .get, ea := ea.toNat, len := 64, align := 64 }
      s.accessHeld x.h x.h.words acc fun s key =>
        let hd := s.rhead key
        let whole : Acc := { acc with len := 64 + 8 * hd.cap }
        if (s.ueIn Rdr.home key 64).isNone && hd.bad then illegal 6 s
        else match (if hd.bad then none else s.check s.cur whole) with
        | some f => s.fault f
        | none =>
          if !hd.bad && s.me.overlaps s.cur 1 ea.toNat whole.len acc.write then s.notReady x.h x.h.words oBusy .busy ea
          else if op = .put && !(s.earlier s.cur 1).isEmpty then s.hold
          else s.qEffect op x.h x.h.words x.sr (m.rs x.sr) key ea
    else s.fifoIssue i x.h c ea perms (op = .put) (m.rs x.sr) 0 0

def execQput (x : RMem) (s : State) : Out := queueI .put (.qput x) x s
def execQget (x : RMem) (s : State) : Out := queueI .get (.qget x) x s
def execQpeek (x : RMem) (s : State) : Out := queueI .peek (.qpeek x) x s
def execQcnt (x : RMem) (s : State) : Out := queueI .cnt (.qcnt x) x s

/-! ## CBPUT, CBGET, CBFREE (R315) -/

def execCbput (x : CbA) (s : State) : Out :=
  s.gate .noHandler x.h.nr fun s =>
    let m := s.me
    s.fifoIssue (.cbput x) x.h (m.rc x.mem.cap) (m.ea x.mem) [pLoad, pStore, pSync] true 0 0 (m.rv x.v)
def execCbget (x : CbA) (s : State) : Out :=
  s.gate .noHandler x.h.nr fun s =>
    let m := s.me
    s.fifoIssue (.cbget x) x.h (m.rc x.mem.cap) (m.ea x.mem) [pLoad, pStore, pSync] false 0 0 0
def execCbfree (x : CbfreeA) (s : State) : Out :=
  s.gate .noHandler x.h.nr fun s =>
    let m := s.me
    s.fifoIssue (.cbfree x) x.h (m.rc x.mem.cap) (m.ea x.mem) [pLoad, pStore, pSync] false (m.rs x.sa) 0 0

/-- Keys of a record's 16 entries from entry `pos` of a bank. -/
def recKeys (b pos : Nat) : List Nat := (List.range 16).map fun i => bankKey b + 8 * ((pos + i) % 65536)

/-- CBPUT's effect on bank `b`. -/
def State.cbPut (s : State) (h : Hd) (b : Nat) (obj : W64) (v : W1024) : State :=
  let bk := s.bank b
  if 65536 - bk.fill - bk.held < 16 then s.notReady h h.words oFull (.queue (bankKey b) true) obj
  else
    let s1 := ((List.range 16).zip (recKeys b bk.wpos)).foldl (fun s ((i, k) : Nat × Nat) =>
      s.unitWrite k (leBytes 8 (v.extractLsb' (64 * i) 64).toNat)) s
    let s2 := s1.setBank b { bk with fill := bk.fill + 16, wpos := (bk.wpos + 16) % 65536 }
    ((s2.wakeRing (bankKey b) false).noteRing s.cur (bankKey b) true).done h h.words

/-- CBGET's effect. -/
def State.cbGet (s : State) (h : Hd) (b : Nat) (obj : W64) (r : VReg) : State :=
  let bk := s.bank b
  if bk.fill < 16 then s.notReady h h.words oEmpty (.queue (bankKey b) false) obj
  else match (recKeys b bk.rpos).findSome? fun k => s.ueIn Rdr.home k 8 with
  | some blk => s.unitUe h h.words 0 (BitVec.ofNat 64 ((blk - 2 ^ 69) % 2 ^ 23)) true (fun m => m.wv r 0)
  | none =>
    let v := (recKeys b bk.rpos).foldr (fun k n => s.memNat k 8 + 2 ^ 64 * n) 0
    let s1 := s.setBank b { bk with fill := bk.fill - 16, held := bk.held + 16, rpos := (bk.rpos + 16) % 65536 }
    (((s1.noteRing s.cur (bankKey b) false).upd fun m => m.wv r (BitVec.ofNat 1024 v)).dropKeptAll).done h h.words

/-- Wakes up to `n` waiters. -/
def State.wakeRings (s : State) (k : Nat) (full : Bool) : Nat → State
  | 0 => s
  | n + 1 => (s.wakeRing k full).wakeRings k full n

/-- CBFREE's effect: a waiter for each record freed, as far as there are waiters. -/
def State.cbFree (s : State) (h : Hd) (b : Nat) (r : SReg) (x : W64) : State :=
  let bk := s.bank b
  let n := Nat.min x.toNat (bk.held / 16)
  let s1 := s.setBank b { bk with held := bk.held - 16 * n, free := (bk.free + 16 * n) % 2 ^ 32 }
  ((s1.wakeRings (bankKey b) true n).upd fun m => m.ws r (BitVec.ofNat 64 n)).done h h.words

/-- FIFO_PERFORM: the bank performs request `cur` and replies (R293). A bank that has left FIFO mode raises SPACE. -/
def execFifoPerform (s : State) : Out :=
  .next <|
  match s.req? s.cur with
  | none => s
  | some r =>
    match r.k with
    | .unit i key opd c a _ v =>
      let b := bankOfKey key
      if !isClu key || s.waiting r.after || !(s.bank b).sw.isEmpty then s
      else
        let run := fun (f : State → State) => s.reply r fun s => s.proofCheck fun s =>
          if (s.bank b).mode != 2 then s.fault (capFlt cSpace 3 0 c opd.ea.toNat) else f s
        match i with
        | .qput x => run fun s => s.qEffect .put x.h x.h.words x.sr a key opd.ea
        | .qget x => run fun s => s.qEffect .get x.h x.h.words x.sr a key opd.ea
        | .qpeek x => run fun s => s.qEffect .peek x.h x.h.words x.sr a key opd.ea
        | .qcnt x => run fun s => s.qEffect .cnt x.h x.h.words x.sr a key opd.ea
        | .cbput x => run fun s => s.cbPut x.h b opd.ea v
        | .cbget x => run fun s => s.cbGet x.h b opd.ea x.v
        | .cbfree x => run fun s => s.cbFree x.h b x.sd a
        | .spawn x => run fun s => s.qEffect .put x.h x.h.words 0 a key opd.ea
        | .sqget x => run fun s => s.qEffect .get x.h x.h.words x.sr a key opd.ea
        | _ => s
    | _ => s

end Sys2Proof.Machine
end

