-- ==== Sys2Proof/Machine/Vector.lean ====
section
/-! DEFINITION. The vector engine (spec/06: R122-R139). An issued instruction is accepted into the task's VXE queue;
VXE_EXECUTE performs the queue's head. -/

namespace Sys2Proof.Machine

/-! ## Lanes (R122, R124) -/

/-- Element `j` of width `w` bits. -/
def vElem (v : W1024) (w j : Nat) : Nat := v.toNat / 2 ^ (w * j) % 2 ^ w

/-- The register whose elements of width `w` are `f 0`, `f 1`, ... -/
def vGen (w : Nat) (f : Nat → Nat) : W1024 :=
  BitVec.ofNat 1024 ((List.range (1024 / w)).foldr (fun j a => f j % 2 ^ w + 2 ^ w * a) 0)

/-- Active elements from `f`, the others from `old`. -/
def vPred (mk : W128) (w : Nat) (old : W1024) (f : Nat → Nat) : W1024 :=
  vGen w fun j => if active mk (w / 8) j then f j else vElem old w j

/-- The mask with all bytes of the elements set that `f` selects. -/
def mGen (w : Nat) (f : Nat → Bool) : W128 :=
  BitVec.ofNat 128 ((List.range (1024 / w)).foldr (fun j a => (if f j then 2 ^ (w / 8) - 1 else 0) + 2 ^ (w / 8) * a) 0)

/-! ## Element-wise integer operations (R129) -/

def viAdd (w x y : Nat) : Nat := (x + y) % 2 ^ w
def viSub (w x y : Nat) : Nat := (x + 2 ^ w - y) % 2 ^ w
def viMul (w x y : Nat) : Nat := x * y % 2 ^ w
def viMulh (w x y : Nat) : Nat := ofI w (toI w x * toI w y / (2 ^ w : Nat))
def viMin (w x y : Nat) : Nat := if toI w x ≤ toI w y then x else y
def viMax (w x y : Nat) : Nat := if toI w x ≤ toI w y then y else x
def viAbs (w x : Nat) : Nat := (toI w x).natAbs % 2 ^ w
def viShl (w x k : Nat) : Nat := if k ≥ w then 0 else x * 2 ^ k % 2 ^ w
def viShr (w x k : Nat) : Nat := if k ≥ w then 0 else x / 2 ^ k
def viSra (w x k : Nat) : Nat := ofI w (toI w x / (2 ^ (Nat.min k (w - 1)) : Nat))
def viAdds (w x y : Nat) : Nat := ofI w (satI w (toI w x + toI w y))
def viSubs (w x y : Nat) : Nat := ofI w (satI w (toI w x - toI w y))

/-! ## Element-wise floating operations (R130, R131) -/

def vfAdd (f : Ff) (rm x y : Nat) : Nat := f.round rm true (Num.add rm (f.num x) (f.num y))
def vfSub (f : Ff) (rm x y : Nat) : Nat := f.round rm true (Num.add rm (f.num x) (Num.negate (f.num y)))
def vfMul (f : Ff) (rm x y : Nat) : Nat := f.round rm true (Num.mul (f.num x) (f.num y))
def vfMa (f : Ff) (rm x y z : Nat) : Nat := f.round rm true (Num.add rm (Num.mul (f.num x) (f.num y)) (f.num z))

/-- VFMIN and VFMAX: -0 counts below +0. -/
def vfMin (f : Ff) (x y : Nat) : Nat :=
  let a := f.num x
  let b := f.num y
  if a.isNan || b.isNan then f.nan
  else if Num.lt a b then x else if Num.lt b a then y else if a.sign then x else y
def vfMax (f : Ff) (x y : Nat) : Nat :=
  let a := f.num x
  let b := f.num y
  if a.isNan || b.isNan then f.nan
  else if Num.lt a b then y else if Num.lt b a then x else if a.sign then y else x

/-- VEX2: through FP32, with one more rounding for the narrower types. -/
def vfEx2 (et rm x : Nat) : Nat :=
  let f := etFf et
  if et = 9 then exp2a x
  else f.round rm true (ffF.num (exp2a (ffF.round 0 true (f.num x))))

/-! ## Comparisons (R132) -/

def viCmp (w cond x y : Nat) : Bool :=
  let a := toI w x
  let b := toI w y
  match cond with
  | 0 => x == y
  | 1 => x != y
  | 2 => a < b
  | 3 => a ≤ b
  | 4 => a > b
  | 5 => a ≥ b
  | 10 => x < y
  | 11 => x ≤ y
  | 12 => x > y
  | 13 => x ≥ y
  | _ => false

def vfCmp (f : Ff) (cond x y : Nat) : Bool :=
  let a := f.num x
  let b := f.num y
  let un := a.isNan || b.isNan
  match cond with
  | 0 => Num.eq a b
  | 1 => !Num.eq a b
  | 2 => Num.lt a b
  | 3 => !un && !Num.lt b a
  | 4 => Num.lt b a
  | 5 => !un && !Num.lt a b
  | 6 => un
  | 7 => !un
  | _ => false

/-! ## Reduction (R136) -/

def pairUp (op : Nat → Nat → Nat) : List Nat → List Nat
  | a :: b :: r => op a b :: pairUp op r
  | r => r

/-- The tree of R136 over at most 2^n elements. -/
def reduce (op : Nat → Nat → Nat) : Nat → List Nat → Nat
  | 0, l => l.headD 0
  | n + 1, l => reduce op n (pairUp op l)

def vredOp (et rm op : Nat) (x y : Nat) : Nat :=
  let w := etWidth et
  if etIsInt et then
    if op = 0 then viAdd w x y else if op = 1 then viMin w x y else viMax w x y
  else
    let f := etFf et
    if op = 0 then vfAdd f rm x y else if op = 1 then vfMin f x y else vfMax f x y

def vredId (et op : Nat) : Nat :=
  let w := etWidth et
  if etIsInt et then
    if op = 0 then 0 else if op = 1 then 2 ^ (w - 1) - 1 else 2 ^ (w - 1)
  else
    let f := etFf et
    if op = 0 then f.signBit else if op = 1 then f.infCode else f.withSign true f.infCode

/-! ## The forms -/

/-- vd[j] := f(va[j], vb[j]) for active j. -/
def Master.map3 (m : Master) (x : V3) (d : Nat) (f : Nat → Nat → Nat → Nat) : Master :=
  let et := etDef d x.et
  let w := etWidth et
  let a := m.rv x.va
  let b := m.rv x.vb
  m.wv x.vd (vPred (m.rm x.msk) w (m.rv x.vd) fun j => f et (vElem a w j) (vElem b w j))

def Master.map2 (m : Master) (x : V2) (d : Nat) (f : Nat → Nat → Nat) : Master :=
  let et := etDef d x.et
  let w := etWidth et
  let a := m.rv x.va
  m.wv x.vd (vPred (m.rm x.msk) w (m.rv x.vd) fun j => f et (vElem a w j))

def Master.int3 (m : Master) (x : V3) (f : Nat → Nat → Nat → Nat) : Master := m.map3 x 3 fun et => f (etWidth et)
def Master.fp3 (m : Master) (x : V3) (f : Ff → Nat → Nat → Nat → Nat) : Master := m.map3 x 9 fun et => f (etFf et) x.rm.toNat
def Master.fp2 (m : Master) (x : V2) (f : Ff → Nat → Num → Nat) : Master :=
  m.map2 x 9 fun et a => f (etFf et) x.rm.toNat ((etFf et).num a)

def Master.vcmp (m : Master) (x : VCmpA) (d : Nat) (f : Nat → Nat → Nat → Bool) : Master :=
  let et := etDef d x.et
  let w := etWidth et
  let a := m.rv x.va
  let b := m.rv x.vb
  m.wm x.md (mGen w fun j => active (m.rm x.msk) (w / 8) j && f et (vElem a w j) (vElem b w j))

/-- VCVT (R134). -/
def Master.vcvt (m : Master) (x : VCvtA) : Master :=
  let d := x.et.toNat
  let c := x.src.toNat
  let wd := etWidth d
  let ws := etWidth c
  let n := 1024 / Nat.max ws wd
  let p := x.part.toNat
  let a := m.rv x.va
  let cv := fun (i : Nat) => etRound d x.ud x.rm.toNat x.ov (etNum c x.us (vElem a ws i))
  m.wv x.vd (vPred (m.rm x.msk) wd (m.rv x.vd) fun j =>
    if ws ≤ wd then cv (p * n + j)
    else if p * n ≤ j && j < p * n + n then cv (j - p * n) else vElem (m.rv x.vd) wd j)

/-- VDSX (R135), with the scale sampled at acceptance. -/
def Master.vdsx (m : Master) (x : VDsxA) (sb : W64) : Master :=
  let d := x.et.toNat
  let wd := etWidth d
  let ws := if x.n4 then 4 else 8
  let n := 1024 / wd
  let a := m.rv x.va
  let sc : Int := (sb.extractLsb' 0 8).toInt
  m.wv x.vd (vPred (m.rm x.msk) wd (m.rv x.vd) fun j =>
    let c := vElem a ws (x.part.toNat * n + j)
    etRound d false x.rm.toNat x.ov (Num.scale sc (dsNum (if x.n4 then ds4Units c else ds8Units c))))

def Master.vred (m : Master) (x : VRedA) : Master :=
  let et := etDef 3 x.et
  let w := etWidth et
  let a := m.rv x.va
  let t := (List.range (1024 / w)).map fun j =>
    if active (m.rm x.msk) (w / 8) j then vElem a w j else vredId et x.op.toNat
  m.wv x.vd (BitVec.ofNat 1024 (reduce (vredOp et x.rm.toNat x.op.toNat) 7 t))

def Master.vperm (m : Master) (x : V3) : Master :=
  let w := etWidth (etDef 3 x.et)
  let a := m.rv x.va
  let b := m.rv x.vb
  m.wv x.vd (vPred (m.rm x.msk) w (m.rv x.vd) fun j =>
    if vElem b w j < 1024 / w then vElem a w (vElem b w j) else 0)

def Master.vslide (m : Master) (x : VSlA) (sb : W64) : Master :=
  let w := etWidth (etDef 3 x.et)
  let a := m.rv x.va
  m.wv x.vd (vPred (m.rm x.msk) w (m.rv x.vd) fun j =>
    let i : Int := (j : Int) + sb.toInt
    if 0 ≤ i && i < (1024 / w : Nat) then vElem a w i.toNat else 0)

def Master.vins (m : Master) (x : VInsA) (sa sb : W64) : Master :=
  let w := etWidth (etDef 3 x.et)
  if sb.toNat < 1024 / w then
    m.wv x.vd (vGen w fun j => if j = sb.toNat then sa.toNat % 2 ^ w else vElem (m.rv x.vd) w j)
  else m

def Master.vext (m : Master) (x : VExtA) (sb : W64) : Master :=
  let w := etWidth (etDef 3 x.et)
  m.ws x.sd (if sb.toNat < 1024 / w then BitVec.ofInt 64 (toI w (vElem (m.rv x.va) w sb.toNat)) else 0)

/-- Active elements of a mask, of an element type. -/
def mActive (mk : W128) (et : Nat) : List Nat := (List.range (1024 / etWidth et)).filter (active mk (etWidth et / 8))

/-- What the VXE does with a command: its results, with the s operands as sampled at acceptance (R126). -/
def Master.vxeRun (m : Master) (i : Instr) (a b : W64) : Master :=
  match i with
  | .vadd x => m.int3 x viAdd
  | .vsub x => m.int3 x viSub
  | .vmul x => m.int3 x viMul
  | .vmulh x => m.int3 x viMulh
  | .vmin x => m.int3 x viMin
  | .vmax x => m.int3 x viMax
  | .vabs x => m.map2 x 3 fun et => viAbs (etWidth et)
  | .vand x => m.int3 x fun _ p q => p &&& q
  | .vor x => m.int3 x fun _ p q => p ||| q
  | .vxor x => m.int3 x fun _ p q => p ^^^ q
  | .vshl x => m.int3 x viShl
  | .vshr x => m.int3 x viShr
  | .vsra x => m.int3 x viSra
  | .vadds x => m.int3 x viAdds
  | .vsubs x => m.int3 x viSubs
  | .vfadd x => m.fp3 x vfAdd
  | .vfsub x => m.fp3 x vfSub
  | .vfmul x => m.fp3 x vfMul
  | .vfma x =>
    let et := etDef 9 x.et
    let w := etWidth et
    m.wv x.vd (vPred (m.rm x.msk) w (m.rv x.vd) fun j =>
      vfMa (etFf et) x.rm.toNat (vElem (m.rv x.va) w j) (vElem (m.rv x.vb) w j) (vElem (m.rv x.vc) w j))
  | .vfmin x => m.map3 x 9 fun et => vfMin (etFf et)
  | .vfmax x => m.map3 x 9 fun et => vfMax (etFf et)
  | .vrcp x => m.fp2 x recip
  | .vrsq x => m.fp2 x rsqrt
  | .vex2 x => m.map2 x 9 fun et => vfEx2 et x.rm.toNat
  | .vlg2 x => m.fp2 x lg2
  | .vcvt x => m.vcvt x
  | .vcmp x => m.vcmp x 3 fun et => viCmp (etWidth et) x.cond.toNat
  | .vfcmp x => m.vcmp x 9 fun et => vfCmp (etFf et) x.cond.toNat
  | .vsel x =>
    let w := etWidth (etDef 3 x.et)
    m.wv x.vd (vGen w fun j => if active (m.rm x.msk) (w / 8) j then vElem (m.rv x.va) w j else vElem (m.rv x.vb) w j)
  | .vred x => m.vred x
  | .vperm x => m.vperm x
  | .vbcast x => m.wv x.vd (vPred (m.rm x.msk) (etWidth (etDef 3 x.et)) (m.rv x.vd) fun _ => a.toNat)
  | .vins x => m.vins x a b
  | .vext x => m.vext x b
  | .vslide x => m.vslide x b
  | .vdsx x => m.vdsx x b
  | .vmov x => m.map2 x 3 fun _ p => p
  | .mand x => m.wm x.md (m.rm x.ma &&& m.rm x.mb)
  | .mor x => m.wm x.md (m.rm x.ma ||| m.rm x.mb)
  | .mxor x => m.wm x.md (m.rm x.ma ^^^ m.rm x.mb)
  | .mnot x => m.wm x.md (~~~(m.rm x.ma))
  | .mpop x => m.ws x.sd (BitVec.ofNat 64 (mActive (m.rm x.ma) (etDef 3 x.et)).length)
  | .mfirst x =>
    let et := etDef 3 x.et
    m.ws x.sd (BitVec.ofNat 64 ((mActive (m.rm x.ma) et).headD (1024 / etWidth et)))
  | _ => m

/-! ## Issue (R125, R139) -/

/-- A VXE instruction is accepted with its s operands sampled. It makes no proof check (R415). -/
def vxe (h : Hd) (i : Instr) (a b : Master → W64) (s : State) : Out :=
  s.gate .engine h.nr fun s => s.accept h h.words 0 (.vxe i (a s.me) (b s.me)) [] []

def execVadd (x : V3) (s : State) : Out := vxe x.h (.vadd x) (fun _ => 0) (fun _ => 0) s
def execVsub (x : V3) (s : State) : Out := vxe x.h (.vsub x) (fun _ => 0) (fun _ => 0) s
def execVmul (x : V3) (s : State) : Out := vxe x.h (.vmul x) (fun _ => 0) (fun _ => 0) s
def execVmulh (x : V3) (s : State) : Out := vxe x.h (.vmulh x) (fun _ => 0) (fun _ => 0) s
def execVmin (x : V3) (s : State) : Out := vxe x.h (.vmin x) (fun _ => 0) (fun _ => 0) s
def execVmax (x : V3) (s : State) : Out := vxe x.h (.vmax x) (fun _ => 0) (fun _ => 0) s
def execVabs (x : V2) (s : State) : Out := vxe x.h (.vabs x) (fun _ => 0) (fun _ => 0) s
def execVand (x : V3) (s : State) : Out := vxe x.h (.vand x) (fun _ => 0) (fun _ => 0) s
def execVor (x : V3) (s : State) : Out := vxe x.h (.vor x) (fun _ => 0) (fun _ => 0) s
def execVxor (x : V3) (s : State) : Out := vxe x.h (.vxor x) (fun _ => 0) (fun _ => 0) s
def execVshl (x : V3) (s : State) : Out := vxe x.h (.vshl x) (fun _ => 0) (fun _ => 0) s
def execVshr (x : V3) (s : State) : Out := vxe x.h (.vshr x) (fun _ => 0) (fun _ => 0) s
def execVsra (x : V3) (s : State) : Out := vxe x.h (.vsra x) (fun _ => 0) (fun _ => 0) s
def execVadds (x : V3) (s : State) : Out := vxe x.h (.vadds x) (fun _ => 0) (fun _ => 0) s
def execVsubs (x : V3) (s : State) : Out := vxe x.h (.vsubs x) (fun _ => 0) (fun _ => 0) s
def execVfadd (x : V3) (s : State) : Out := vxe x.h (.vfadd x) (fun _ => 0) (fun _ => 0) s
def execVfsub (x : V3) (s : State) : Out := vxe x.h (.vfsub x) (fun _ => 0) (fun _ => 0) s
def execVfmul (x : V3) (s : State) : Out := vxe x.h (.vfmul x) (fun _ => 0) (fun _ => 0) s
def execVfma (x : V4) (s : State) : Out := vxe x.h (.vfma x) (fun _ => 0) (fun _ => 0) s
def execVfmin (x : V3) (s : State) : Out := vxe x.h (.vfmin x) (fun _ => 0) (fun _ => 0) s
def execVfmax (x : V3) (s : State) : Out := vxe x.h (.vfmax x) (fun _ => 0) (fun _ => 0) s
def execVrcp (x : V2) (s : State) : Out := vxe x.h (.vrcp x) (fun _ => 0) (fun _ => 0) s
def execVrsq (x : V2) (s : State) : Out := vxe x.h (.vrsq x) (fun _ => 0) (fun _ => 0) s
def execVex2 (x : V2) (s : State) : Out := vxe x.h (.vex2 x) (fun _ => 0) (fun _ => 0) s
def execVlg2 (x : V2) (s : State) : Out := vxe x.h (.vlg2 x) (fun _ => 0) (fun _ => 0) s
def execVcvt (x : VCvtA) (s : State) : Out := vxe x.h (.vcvt x) (fun _ => 0) (fun _ => 0) s
def execVcmp (x : VCmpA) (s : State) : Out := vxe x.h (.vcmp x) (fun _ => 0) (fun _ => 0) s
def execVfcmp (x : VCmpA) (s : State) : Out := vxe x.h (.vfcmp x) (fun _ => 0) (fun _ => 0) s
def execVsel (x : V3) (s : State) : Out := vxe x.h (.vsel x) (fun _ => 0) (fun _ => 0) s
def execVred (x : VRedA) (s : State) : Out := vxe x.h (.vred x) (fun _ => 0) (fun _ => 0) s
def execVperm (x : V3) (s : State) : Out := vxe x.h (.vperm x) (fun _ => 0) (fun _ => 0) s
def execVmov (x : V2) (s : State) : Out := vxe x.h (.vmov x) (fun _ => 0) (fun _ => 0) s
def execMand (x : M3) (s : State) : Out := vxe x.h (.mand x) (fun _ => 0) (fun _ => 0) s
def execMor (x : M3) (s : State) : Out := vxe x.h (.mor x) (fun _ => 0) (fun _ => 0) s
def execMxor (x : M3) (s : State) : Out := vxe x.h (.mxor x) (fun _ => 0) (fun _ => 0) s
def execMnot (x : M2) (s : State) : Out := vxe x.h (.mnot x) (fun _ => 0) (fun _ => 0) s
def execMpop (x : MCnt) (s : State) : Out := vxe x.h (.mpop x) (fun _ => 0) (fun _ => 0) s
def execMfirst (x : MCnt) (s : State) : Out := vxe x.h (.mfirst x) (fun _ => 0) (fun _ => 0) s
def execVbcast (x : VBcA) (s : State) : Out := vxe x.h (.vbcast x) (fun m => m.rs x.sa) (fun _ => 0) s
def execVins (x : VInsA) (s : State) : Out := vxe x.h (.vins x) (fun m => m.rs x.sa) (fun m => m.rs x.sb) s
def execVext (x : VExtA) (s : State) : Out := vxe x.h (.vext x) (fun _ => 0) (fun m => m.rs x.sb) s
def execVslide (x : VSlA) (s : State) : Out := vxe x.h (.vslide x) (fun _ => 0) (fun m => m.rs x.sb) s
def execVdsx (x : VDsxA) (s : State) : Out := vxe x.h (.vdsx x) (fun _ => 0) (fun m => m.rs x.sb) s

/-! ## Execution -/

/-- VXE_EXECUTE: the command at the head of task `cur`'s queue writes its results and frees its entry, or is found in
error (R126, R139). A SAVE's edge stops it, but for a task that has frozen, whose accepted instructions complete (R127). Entries are counted from the head, so the command in error is entry 0 (notes/assumptions/38.md). -/
def execVxeExecute (s : State) : Out :=
  .next <|
  match s.headJob s.cur 0 with
  | none => s
  | some j =>
    match j.k with
    | .vxe i a b =>
      if s.me.saving.isSome && s.me.st != .frozen then s
      else if j.bad then (s.freeze s.cur 0 (engFlt 0 0) j.pc s.me.pc).popJob s.cur 0
      else (s.updM s.cur fun m => m.vxeRun i a b).popJob s.cur 0
    | _ => s

end Sys2Proof.Machine
end

