-- ==== Sys2Proof/Machine/Attention.lean ====
section
/-! DEFINITION. Attention in the memory stacks (spec/08: R171-R192): descriptors, posts, slice scans, merges and appends. -/

namespace Sys2Proof.Machine

/-! ## Descriptors (R173, R174) -/

def Desc.krow (d : Desc) : Nat := d.dim * d.kew
def Desc.vrow (d : Desc) : Nat := d.dim * d.vew
def Desc.sliceSize (d : Desc) : Nat := d.cap * (d.krow + d.vrow)
/-- Bytes of a record with its accumulator (R175). -/
def Desc.rs (d : Desc) : Nat := 64 + 4 * d.dim
/-- Addresses of token t's key and value rows. -/
def Desc.keyRow (d : Desc) (t : Nat) : Nat := d.base (t / d.cap) + t % d.cap * d.krow
def Desc.valRow (d : Desc) (t : Nat) : Nat := d.base (t / d.cap) + d.cap * d.krow + t % d.cap * d.vrow
/-- Slices posted for a snapshot (R175). -/
def Desc.np (d : Desc) : Nat := Nat.min d.nsl ((d.len + d.cap - 1) / d.cap)

/-- The parameter fields of a descriptor's bits [383:256] (R173, R191). -/
def Desc.ofParams (kv : Cap) (par : BitVec 128) (res len : Nat) : Desc :=
  { kv := kv, sstr := (par.extractLsb' 0 32).toNat, nsl := (par.extractLsb' 32 16).toNat, cap := (par.extractLsb' 48 16).toNat
    kew := (par.extractLsb' 64 8).toNat, vew := (par.extractLsb' 72 8).toNat, dim := (par.extractLsb' 80 16).toNat
    sc := par.extractLsb' 96 32, res := res, len := len }

/-- Every field within its limits (R173, R174). -/
def Desc.ok (d : Desc) : Bool :=
  [64, 128, 192, 256].contains d.dim && [1, 2].contains d.kew && [1, 2].contains d.vew && 1 ≤ d.cap && d.cap ≤ 16384 &&
  1 ≤ d.nsl && d.nsl ≤ 4096 && d.sstr != 0 && d.sstr % 65536 = 0 && d.sliceSize ≤ 65536

/-- Reads a descriptor whole. -/
def State.readDesc (s : State) (r : Rdr) (key : Nat) : Desc :=
  Desc.ofParams
    { bits := BitVec.ofNat 128 (s.rdNat r (key + 48) 16), tag := s.rdTag r (key + 48) }
    (BitVec.ofNat 128 (s.rdNat r (key + 32) 16)) (s.rdNat r (key + 4) 4) (s.rdNat r key 4)

/-- The ABU that scans an ABU-placed page: its home's stack, and a unit fixed by the page (notes/assumptions/15.md). -/
def abuOf (home pk : Nat) : Nat := home * 1024 + pk % 1024

/-- Each slice's own range within the lease, and in an ABU-placed page (R186). -/
def State.sliceFlt (s : State) (pos opn : Nat) (d : Desc) : Option Flt :=
  ((List.range d.nsl).findSome? fun i =>
    s.leaseFlt pos { cap := d.kv, opn := opn, perms := [], sp := {}, ea := d.base i, len := d.sliceSize }) <|>
    (List.range d.nsl).findSome? fun i =>
      (if ((s.pageAt (s.partOf pos) (d.base i)).map fun x => x.2.abu).getD false then none
       else some (capFlt cSpace 3 opn d.kv (d.base i)))

/-- The checks of a capability over slice storage and of the fields, in the order of R186. -/
def State.descFlt (s : State) (pos opn : Nat) (d : Desc) (bad : Flt) : Option Flt :=
  let c := d.kv
  let a := c.cursor.toNat
  if !c.tag then some (capFlt cCaptag 1 opn c a)
  else if c.sealT != 0 || !c.has [pLoad] then some (capFlt cCapperm 2 opn c a)
  else if c.space != 3 then some (capFlt cSpace 3 opn c a)
  else if !d.ok then some bad
  else if a % 65536 != 0 then some (capFlt cAlign 4 opn c a)
  else if !(c.base ≤ a && a + (d.nsl - 1) * d.sstr + d.sliceSize ≤ c.top) then some (capFlt cCapbound 5 opn c a)
  else s.sliceFlt pos opn d

/-! ## Issue -/

/-- ILLEGAL of a job, with the first word of its instruction. -/
def State.illegalFlt (s : State) (pos : Nat) (pc : W64) : Flt :=
  { cause := cIllegal, d0 := (s.codeWord (s.partOf pos) pc).setWidth 64, d1 := 6 }

/-- An LS area in the own form (R195): checked for `len` bytes. -/
def State.areaFlt (s : State) (pos opn : Nat) (c : Cap) (perms : List Nat) (ea len align : Nat) (write : Bool) : Option Flt :=
  let a : Acc := { cap := c, opn := opn, perms := perms, sp := { own := true }, write := write, ea := ea, len := len, align := align }
  let space := if c.space = 1 && ea < 0x40000 then s.spaceFlt pos a else some (capFlt cSpace 3 opn c ea)
  a.permFlt <|> space <|> a.alignFlt <|> a.boundFlt

/-- A descriptor's own 64 bytes. -/
def State.descAreaFlt (s : State) (pos opn : Nat) (c : Cap) (perms : List Nat) (ea : Nat) (sp : Spaces) (write : Bool) : Option Flt :=
  let a : Acc := { cap := c, opn := opn, perms := perms, sp := sp, write := write, ea := ea, len := 64, align := 64 }
  a.permFlt <|> (if c.space = 3 then s.spaceFlt pos a else some (capFlt cSpace 3 opn c ea)) <|> a.alignFlt <|> a.boundFlt <|>
    s.leaseFlt pos a


/-- Posts accepted and not complete. -/
def Master.postCount (m : Master) : Nat :=
  m.posts.length + (m.att.filter fun j => match j.k with | .atq .. => true | _ => false).length

/-- The range from an address to the limit of its capability (R183). -/
def toLimit (pos : Nat) (c : Cap) (ea : Nat) (opn : Nat := 0) : List Fp := mkFpBlk pos c.space ea (c.top - ea) opn c.cursor

/-- The proof check, then ENG, then `busy` (R183), then acceptance, which ends with `fin`. -/
def State.attAccept (s : State) (h : Hd) (k : JobK) (rd wr : List Fp) (fin : State → State)
    (busy : State → Option (BitVec 4 × Park)) : State :=
  s.proofCheck fun s =>
    if s.engFull 3 then s.notReady h h.words oEng (.engine 3) 0
    else match busy s with
    | some (o, p) => s.notReady h h.words o p 0
    | none => fin (s.enqueue 3 k rd wr)

/-- Acceptance writes RDY in the try modes and .R (R185). -/
def taken (h : Hd) (s : State) : State := s.done h h.words

/-- ATQ (R185). It acts as an acquire (R181), so no kept value stands past it (R213). -/
def execAtq (x : AtqA) (s : State) : Out :=
  s.gate .engine x.h.nr fun s =>
    let m := s.me
    let cR := m.rc x.mem.cap
    let ea := m.ea x.mem
    let cD := m.rc x.cD
    let cQ := m.rc x.cQ
    match s.areaFlt s.cur 0 cR [pStore] ea.toNat 64 64 true <|>
        s.descAreaFlt s.cur 1 cD [pLoad, pLdcap] cD.cursor.toNat spGlobAny false <|>
        s.areaFlt s.cur 2 cQ [pLoad] cQ.cursor.toNat 64 64 false with
    | some f => s.fault f
    | none =>
      s.attAccept x.h (.atq cR cD cQ ea) (toLimit s.cur cQ cQ.cursor.toNat 2) (toLimit s.cur cR ea.toNat)
        (fun s => taken x.h s.dropKeptAll) fun s =>
        if s.me.postCount ≥ 4 then some (oFull, .posts) else none

/-- ATC (R187). An error in the counts is logged, and they are compared as they stand (notes/assumptions/93.md). -/
def execAtc (x : MemA) (s : State) : Out :=
  s.gate .engine x.h.nr fun s =>
    let m := s.me
    let c := m.rc x.mem.cap
    let ea := m.ea x.mem
    match s.areaFlt s.cur 0 c [pLoad] ea.toNat 64 64 false with
    | some f => s.fault f
    | none => s.proofCheck fun s =>
      let r := s.rdr s.cur m.proof
      let key := lsKey (coreOf s.cur) ea.toNat
      if !(s.unitAhead s.cur key 8).isEmpty then s.hold else
      let s := s.noteUe r 0 ea key 8
      if s.rdNat r key 4 = s.rdNat r (key + 4) 4 then s.done x.h x.h.words
      else s.notReady x.h x.h.words oEmpty (.area ea) ea

/-- ATM (R188). -/
def execAtm (x : MemA) (s : State) : Out :=
  s.gate .engine x.h.nr fun s =>
    let m := s.me
    let c := m.rc x.mem.cap
    let ea := m.ea x.mem
    match s.areaFlt s.cur 0 c [pLoad, pStore] ea.toNat 64 64 true with
    | some f => s.fault f
    | none =>
      let fp := toLimit s.cur c ea.toNat
      -- o is written once, at completion
      s.attAccept x.h (.atm c ea) fp fp (fun s => s.advance x.h.p (s.me.next x.h.words)) fun s =>
        let m := s.me
        let ranges := m.postFps ++ m.att.flatMap fun j => match j.k with | .atq .. => j.wr | _ => []
        if fp.any fun f => ranges.any (Fp.meets · f.sp f.lo f.hi) then some (oBusy, .busy) else none

/-- KVAPP (R189). The homes of its rows are known once it has read the descriptor; MSA is set at issue (R25). -/
def execKvapp (x : KvappA) (s : State) : Out :=
  s.gate .engine x.h.nr fun s =>
    let m := s.me
    let cD := m.rc x.mem.cap
    let ea := m.ea x.mem
    let cS := m.rc x.cS
    match s.descAreaFlt s.cur 0 cD [pLoad, pStore] ea.toNat spImm true <|>
        s.areaFlt s.cur 1 cS [pLoad] cS.cursor.toNat 0 64 false with
    | some f => s.fault f
    | none => s.attAccept x.h (.kvapp x.sd.toNat cD ea cS (m.rs x.sd)) (toLimit s.cur cS cS.cursor.toNat 1) []
        (fun s => taken x.h (s.upd fun m => m.setTb (some tbMsa))) fun _ => none

/-- KVDESC (R191): all its checks are made at issue. R443 names no report to the program for an error in the parameter image, so it
is logged and the bytes are taken as they stand (notes/assumptions/93.md). -/
def execKvdesc (x : KvdescA) (s : State) : Out :=
  s.gate .engine x.h.nr fun s =>
    let m := s.me
    let cD := m.rc x.mem.cap
    let ea := m.ea x.mem
    let cS := m.rc x.cS
    let cK := m.rc x.cK
    match s.descAreaFlt s.cur 0 cD [pStore, pStcap] ea.toNat spImm true <|>
        s.areaFlt s.cur 2 cS [pLoad] cS.cursor.toNat 16 16 false with
    | some f => s.fault f
    | none =>
      let r := s.rdr s.cur m.proof
      let image := lsKey (coreOf s.cur) cS.cursor.toNat
      if !(s.unitAhead s.cur image 16).isEmpty then s.hold else
      let par : BitVec 128 := BitVec.ofNat 128 (s.rdNat r image 16)
      let d := Desc.ofParams cK par 0 0
      match (if d.ok then none else some (s.illegalFlt s.cur m.pc)) <|> s.descFlt s.cur 1 d (s.illegalFlt s.cur m.pc) with
      | some f => s.fault f
      | none =>
        (s.noteUe r 0 cS.cursor image 16).attAccept x.h (.kvdesc ea cK par) [] []
          (fun s => taken x.h (s.touch s.cur ((physKey s s.cur 3 ea.toNat).getD 0))) fun _ => none

/-! ## ATQ_EXECUTE (R185, R186) -/

def qryFmts : List Nat := [1, 2, 4, 5, 9, 6, 7, 8]

/-- The first query block that is not of the one format, which the first block gives. -/
def State.queryBad (s : State) (r : Rdr) (key dim : Nat) : Option Nat :=
  let f := bfdFmt (s.rdBfd r key)
  if !qryFmts.contains f then some key
  else (blocksOf key (dim * fmtBits f / 8)).find? fun b => bfdFmt (s.rdBfd r b) != f

/-- The checks of R186, in their order. -/
def State.postFlt (s : State) (pos : Nat) (j : Job) (cR cQ : Cap) (ea : W64) (d : Desc) : Option Flt :=
  let r := s.jobRdr pos j
  let qk := lsKey (coreOf pos) (canonEa pos 1 cQ.cursor.toNat)
  let f := bfdFmt (s.rdBfd r qk)
  let qlen := d.dim * fmtBits f / 8
  let alen := (d.np + 1) * d.rs
  s.descFlt pos 3 d (s.illegalFlt pos j.pc) <|>
  ((s.queryBad r qk d.dim).map fun b =>
    { cause := cFmt, d0 := (s.rdBfd r b).setWidth 64, d2 := BitVec.ofNat 64 (cQ.cursor.toNat / 64 * 64 + (b - qk / 64 * 64)) }) <|>
  (if !(cQ.cursor.toNat + qlen ≤ cQ.top) then some (capFlt cCapbound 5 2 cQ cQ.cursor.toNat)
   else if !(ea.toNat + alen ≤ cR.top) then some (capFlt cCapbound 5 0 cR ea.toNat)
   else if !s.inAlloc (coreOf pos) (s.ms pos).lslot ea.toNat alen then some (capFlt cSpace 3 0 cR ea.toNat)
   else none)

/-- Bytes of a result area's header at the post (R175). -/
def headerBytes (d : Desc) : List Byte := leBytes 4 d.np ++ leBytes 4 0 ++ leBytes 4 d.len ++ leBytes 2 d.dim ++ List.replicate 50 0

/-- Writes bytes of a task's own LS, which wakes the words' waiters (R302), and descriptors of its blocks. -/
def State.putLs (s : State) (core off : Nat) (bs : List Byte) : State := s.unitWrite (lsKey core off) bs
def State.putBfd (s : State) (core off n : Nat) (f : BitVec 16) : State :=
  { s with mem := setCells s.mem ((blocksOf (lsKey core off) n).flatMap fun b => bfdCells b f) }

/-- What waits for a post to complete (R185, R187, R208): every task of the core that waits on its area, and what its own task
waits for. -/
def State.postWake (s : State) (pos : Nat) (ea : W64) : State :=
  s.wakeAll fun k m =>
    match m.park with
    | .area a => coreOf k = coreOf pos && !isSvcPos k && a = ea
    | .posts | .busy => k = pos
    | .engwait mask => k = pos && m.engIdle mask
    | _ => false

/-- ATQ_EXECUTE: the ATQ at the head of task `cur`'s attention queue reads its descriptor as an acquire, is checked, and posts. Errors
in the descriptor and the query are logged (notes/assumptions/93.md). -/
def execAtqExecute (s : State) : Out :=
  .next <|
  match s.jobReady s.cur 3 with
  | none => s
  | some j =>
    match j.k with
    | .atq cR cD cQ ea =>
      let pos := s.cur
      if j.bad then s.jobFault pos 3 j (engFlt 3 0) else
      let r := s.jobRdr pos j
      let dk := (physKey s pos cD.space cD.cursor.toNat).getD 0
      let d := s.readDesc r dk
      let s := (s.noteUe r 3 cD.cursor dk 64).dropKeptAll
      match s.postFlt pos j cR cQ ea d with
      | some f => s.jobFault pos 3 j f
      | none =>
        let core := coreOf pos
        let qk := lsKey core cQ.cursor.toNat
        let qlen := d.dim * fmtBits (bfdFmt (s.rdBfd r qk)) / 8
        let p : Post :=
          { id := s.nextReq, ea := ea, lim := cR.top, d := d, np := d.np, q := s.rdBytes r qk qlen
            qfmt := (blocksOf qk qlen).map (s.rdBfd r ·), landed := [], ord := j.ord }
        let s1 := ((s.noteUe r 3 cQ.cursor qk qlen).putLs core ea.toNat (headerBytes d)).putBfd core ea.toNat 64 0
        let scans := (List.range d.np).map fun i =>
          let abu := ((s.pageAt (s.partOf pos) (d.base i)).map fun x => abuOf x.2.home x.1).getD 0
          ({ id := s.nextReq + 1 + i, pos := pos, post := p.id, slice := i, abu := abu, acc := false, after := s.observed pos, img := none } : Scan)
        let s2 : State := { s1 with nextReq := s1.nextReq + 1 + d.np, scans := s1.scans ++ scans }
        let s2 := scans.foldl (fun s _ => s.noteSent pos (s.ms pos).lslot) s2
        let s3 := if d.np = 0 then s2 else s2.updM pos fun m => { m with posts := m.posts ++ [p] }
        (s3.popJob pos 3).postWake pos ea
    | _ => s

/-! ## The scans (R177-R180) -/

/-- Formats that a row of element width `w` may hold (R174). -/
def rowFmts (w : Nat) : List Nat := if w = 1 then [1, 2, 4, 5, 9] else [6, 7]

/-- Values of a row of memory. -/
def State.rowVals (s : State) (r : Rdr) (key dim w : Nat) : List Num :=
  (List.range dim).map fun i =>
    let k := key + i * w
    let d := s.rdBfd r k
    fmtNum (bfdFmt d) (s.rdNat r k w) (bfdScale d)

/-- Values of the query as posted. -/
def Post.vals (p : Post) : List Num :=
  let f := bfdFmt (p.qfmt.headD 0)
  (List.range p.d.dim).map fun i =>
    fmtNum f (fmtElem f p.q i) (bfdScale (p.qfmt.getD (i * fmtBits f / 512) 0))

def negInf : Nat := 0xFF800000

/-- The triple of the tokens' scores and values (R177). -/
def sliceTriple (sc : Nat) (scores : List Nat) (vals : List (List Num)) (dim : Nat) : Nat × Nat × List Nat :=
  let ss := scores.map fun d => ffF.round 0 true (Num.mul (ffF.num d) (ffF.num sc))
  let m := ss.foldl (vfMax ffF) negInf
  if m = negInf then (negInf, 0, List.replicate dim 0)
  else
    let (l, acc) := (List.zip ss vals).foldl (fun ((l, acc) : Nat × List Nat) ((x, v) : Nat × List Num) =>
      let p := exp2a (ffF.round 0 true (Num.add 0 (ffF.num x) (Num.negate (ffF.num m))))
      (ffF.round 0 true (Num.add 0 (ffF.num l) (ffF.num p)),
       List.zipWith (fun a y => ffF.round 0 true (Num.add 0 (Num.mul (ffF.num p) y) (ffF.num a))) acc v))
      (0, List.replicate dim 0)
    (m, l, acc)

/-- A record and its accumulator as bytes (R176). -/
def recordBytes (slice m l tok stat errbg errrow : Nat) (acc : List Nat) : List Byte :=
  leBytes 4 slice ++ leBytes 4 m ++ leBytes 4 l ++ leBytes 4 tok ++ leBytes 2 stat ++ leBytes 2 errbg ++ leBytes 4 errrow ++
  List.replicate 40 0 ++ acc.flatMap (leBytes 4)

/-- What ends a slice early, block by block in the order of R178: (STAT, block). -/
def State.sliceEnd (s : State) (r : Rdr) (part : Nat) (d : Desc) (ts : List Nat) : Option (Nat × Nat) :=
  let look := fun (va n w : Nat) => (blocksOf (globKey part va) n).findSome? fun b =>
    if s.rd8 r (poisonKey b) != 0 then some (1, b)
    else if !(rowFmts w).contains (bfdFmt (s.rdBfd r b)) then some (2, b) else none
  (ts.findSome? fun t => look (d.keyRow t) d.krow d.kew) <|> (ts.findSome? fun t => look (d.valRow t) d.vrow d.vew)

/-- The post of a scan, while its task holds it. -/
def State.postOf (s : State) (x : Scan) : Option Post := (s.ms x.pos).posts.find? fun p => p.id = x.post

/-- ABU_REQUEST_ACCEPT: request `cur` takes one of its ABU's 64 places, in the order its die sent them (R179). -/
def execAbuRequestAccept (s : State) : Out :=
  .next <|
  match s.scans.find? fun x => x.id = s.cur with
  | none => s
  | some x =>
    let ahead := s.scans.any fun y => !y.acc && y.abu = x.abu && dieOf y.pos = dieOf x.pos && y.id < x.id
    if x.acc || ahead || (s.scans.filter fun y => y.acc && y.abu = x.abu && y.img.isNone).length ≥ 64 then s
    else { s with scans := (s.scans.filter fun y => y.id != x.id) ++ [{ x with acc := true }] }

/-- ABU_SLICE_SCAN: the ABU of scan `cur` scans its slice when it is first in arrival order (R177, R180). It reads at the home, once
every write that its ATQ may have observed is there (R239, R241). TOK of a slice that an uncorrectable error ends is 0
(notes/assumptions/14.md). -/
def execAbuSliceScan (s : State) : Out :=
  .next <|
  match s.scans.find? fun x => x.id = s.cur with
  | none => s
  | some x =>
    let first := s.scans.find? fun y => y.acc && y.abu = x.abu && y.img.isNone
    match s.postOf x with
    | none => s
    | some p =>
      if !x.acc || x.img.isSome || first.map (·.id) != some x.id || s.waiting x.after then s
      else
        let d := p.d
        let part := s.partOf x.pos
        let r := Rdr.home
        let lo := x.slice * d.cap
        let hi := Nat.min d.len ((x.slice + 1) * d.cap)
        let ts := (List.range (hi - lo)).map (lo + ·)
        let put := fun (s : State) (bs : List Byte) =>
          ({ s with scans := s.scans.map fun y => if y.id = x.id then { y with img := some bs } else y } : State)
        let empty := List.replicate d.dim 0
        match s.sliceEnd r part d ts with
        | some (1, b) =>
          -- the row number is the implementation's (R176)
          let row := Config.freeNat s.free % 2 ^ 32
          let s1 : State := { s with free := s.free + 1 }
          put (s1.logUe x.pos 3 1 (BitVec.ofNat 64 (b % 2 ^ 64)) (BitVec.ofNat 64 (x.abu * 2 ^ 32 + row)))
            (recordBytes x.slice negInf 0 0 1 x.abu row empty)
        | some _ => put s (recordBytes x.slice negInf 0 0 2 0 0 empty)
        | none =>
          let q := p.vals
          let scores := ts.map fun t =>
            (stepSum none (List.zipWith Num.mul q (s.rowVals r (globKey part (d.keyRow t)) d.dim d.kew))).getD 0
          let vals := ts.map fun t => s.rowVals r (globKey part (d.valRow t)) d.dim d.vew
          let (m, l, acc) := sliceTriple d.sc.toNat scores vals d.dim
          put s (recordBytes x.slice m l ts.length 0 0 0 acc)

/-- ABU_RECORD_LAND: the record of scan `cur` lands in the result area, then ARR rises (R175, R176, R185). -/
def execAbuRecordLand (s : State) : Out :=
  .next <|
  match s.scans.find? fun x => x.id = s.cur with
  | none => s
  | some x =>
    match x.img, s.postOf x with
    | some bs, some p =>
      let core := coreOf x.pos
      let off := p.ea.toNat + p.d.rs + x.slice * p.d.rs
      let s1 := ((s.putLs core off bs).putBfd core off 64 0).putBfd core (off + 64) (bs.length - 64) 0x0800
      let arr := s1.rdNat Rdr.home (lsKey core (p.ea.toNat + 4)) 4 + 1
      let s2 := s1.putLs core (p.ea.toNat + 4) (leBytes 4 arr)
      let s3 := ({ s2 with scans := s2.scans.filter fun y => y.id != x.id } : State).noteRecv x.pos (s.ms x.pos).lslot
      let landed := x.slice :: p.landed
      let s4 := s3.updM x.pos fun m =>
        { m with posts := if landed.length ≥ p.np then m.posts.filter fun q => q.id != p.id
            else m.posts.map fun q => if q.id = p.id then { q with landed := landed } else q }
      if landed.length ≥ p.np then (s4.postWake x.pos p.ea).markerWake x.pos else s4
    | _, _ => s

/-! ## The merge (R182, R188) -/

/-- One record merged into (M, L, ACC). -/
def mergeRec (a : Nat × Nat × List Nat) (ms ls : Nat) (acc : List Nat) : Nat × Nat × List Nat :=
  let (m, l, ac) := a
  let r := ffF.round 0 true
  let n := ffF.num
  let mn := vfMax ffF m ms
  let ea := exp2a (r (Num.add 0 (n m) (Num.negate (n mn))))
  let eb := exp2a (r (Num.add 0 (n ms) (Num.negate (n mn))))
  let f := fun (old new : Nat) => r (Num.add 0 (Num.mul (n new) (n eb)) (n (r (Num.mul (n old) (n ea)))))
  (mn, f l ls, List.zipWith f ac acc)

/-- ATM_EXECUTE: the ATM at the head of task `cur`'s attention queue merges its records in ascending index. Errors
in the area are logged (notes/assumptions/93.md). -/
def execAtmExecute (s : State) : Out :=
  .next <|
  match s.jobReady s.cur 3 with
  | none => s
  | some j =>
    match j.k with
    | .atm cR ea =>
      let pos := s.cur
      if j.bad then s.jobFault pos 3 j (engFlt 3 0) else
      let r := s.jobRdr pos j
      let core := coreOf pos
      let key := lsKey core ea.toNat
      let np := s.rdNat r key 4
      let dim := s.rdNat r (key + 12) 2
      let rs := 64 + 4 * dim
      if !([64, 128, 192, 256].contains dim) then
        s.jobFault pos 3 j { cause := cFmt, d0 := BitVec.ofNat 64 dim, d1 := 1, d2 := ea }
      else if !(ea.toNat + (np + 1) * rs ≤ cR.top) then s.jobFault pos 3 j (capFlt cCapbound 5 0 cR ea.toNat)
      else
        let s := s.noteUe r 3 ea key ((np + 1) * rs)
        let rec' := fun (i o n : Nat) => s.rdNat r (key + rs + i * rs + o) n
        let (a, err) := (List.range np).foldl (fun ((a, err) : (Nat × Nat × List Nat) × Nat) i =>
          if rec' i 16 2 != 0 then (a, err + 1)
          else if rec' i 4 4 = negInf then (a, err)
          else (mergeRec a (rec' i 4 4) (rec' i 8 4) ((List.range dim).map fun l => rec' i (64 + 4 * l) 4), err))
          ((negInf, 0, List.replicate dim 0), 0)
        let (mm, ml, acc) := a
        let s1 := s.putLs core (ea.toNat + 16) (leBytes 4 mm ++ leBytes 4 ml ++ leBytes 4 (if err = 0 then 1 else 2) ++ leBytes 4 err)
        let s2 := s1.putLs core (ea.toNat + 64) (acc.flatMap (leBytes 4))
        let s3 := s2.updM pos fun m => if err = 0 then m.setO oRdy else (m.setO oErr).setErr errAbu
        s3.popJob pos 3
    | _ => s

/-! ## Appends (R189, R190) -/

/-- Copies a row of `len` bytes at offset `off` of the own LS with its block descriptors; a source block in error makes its copy
poisoned. Answers whether one was. -/
def State.copyRow (s : State) (pos : Nat) (j : Job) (off dst len : Nat) : State × Bool :=
  let r := s.jobRdr pos j
  let src := lsKey (coreOf pos) off
  let poison := fun (b : Nat) => s.rd8 r (poisonKey (src + 64 * b))
  let block := fun (b : Nat) =>
    bytesAt (dst + 64 * b) (s.rdBytes r (src + 64 * b) 64) ++ tagClears (dst + 64 * b) 64 ++
      (poisonKey (dst + 64 * b), poison b) :: bfdCells (dst + 64 * b) (s.rdBfd r (src + 64 * b))
  let bad := (List.range (len / 64)).filter fun b => poison b != 0
  let s1 := (s.jobStore pos j ((List.range (len / 64)).flatMap block)).touch pos dst
  (bad.foldl (fun s b => s.logUe pos 3 3 (BitVec.ofNat 64 (off + 64 * b)) 0) s1, !bad.isEmpty)

/-- A 32-bit word of a descriptor, read and written in the memory-side unit of its home. -/
def State.msWord (s : State) (key : Nat) : Nat := s.rdNat Rdr.home key 4
def State.setMsWord (s : State) (key x : Nat) : State :=
  { s with mem := setCells s.mem (dataCells key (leBytes 4 x)) }.wakeWords [key]

/-- The rows of tokens p to p + n - 1: the first that lies in another die's halo tile, where no engine may write (R205). The rows are known
only at execution, so the fault is the job's (notes/assumptions/97.md). -/
def State.rowFlt (s : State) (pos : Nat) (d : Desc) (p n : Nat) : Option Flt :=
  ((List.range n).flatMap fun i => [(d.keyRow (p + i), d.krow), (d.valRow (p + i), d.vrow)]).findSome? fun ((va, len) : Nat × Nat) =>
    if s.haloForeign pos va len then some (capFlt cSpace 3 3 d.kv va) else none

/-- KVAPP_EXECUTE: the KVAPP at the head of task `cur`'s attention queue reads its descriptor whole, is checked and reserves its tokens at
the descriptor's home, or then stores the rows of its next token. With the last of them it notes the accesses that its publication follows. -/
def execKvappExecute (s : State) : Out :=
  .next <|
  match s.jobReady s.cur 3 with
  | none => s
  | some j =>
    let pos := s.cur
    let part := s.partOf pos
    match j.k, j.res with
    | .kvapp sd cD ea cS count, none =>
      if j.bad then s.jobFault pos 3 j (engFlt 3 0) else
      let key := (physKey s pos cD.space ea.toNat).getD 0
      let d := s.readDesc (s.jobRdr pos j) key
      let s := s.noteUe (s.jobRdr pos j) 3 ea key 64
      let n := count.toNat
      match s.descFlt pos 3 d (s.illegalFlt pos j.pc) <|>
          (if cS.base ≤ cS.cursor.toNat && cS.cursor.toNat + n * (d.krow + d.vrow) ≤ cS.top then none
           else some (capFlt cCapbound 5 1 cS cS.cursor.toNat)) with
      | some f => s.jobFault pos 3 j f
      | none =>
        let p := s.msWord (key + 4)
        if n = 0 || p + n > d.nsl * d.cap then
          (s.updM pos fun m => m.ws (BitVec.ofNat 6 sd) (BitVec.allOnes 64)).popJob pos 3
        else match s.rowFlt pos d p n with
        | some f => s.jobFault pos 3 j f
        | none => (s.setMsWord (key + 4) (p + n)).setHead pos 3 { j with res := some p, kd := some d }
    | .kvapp _ cD ea cS count, some p =>
      let i := j.unit
      let n := count.toNat
      if i ≥ n then s
      else
        let d := j.kd.getD (s.readDesc (s.jobRdr pos j) ((physKey s pos cD.space ea.toNat).getD 0))
        let src := cS.cursor.toNat
        let (s1, b) := s.copyRow pos j (src + i * d.krow) (globKey part (d.keyRow (p + i))) d.krow
        let (s2, b') := s1.copyRow pos j (src + n * d.krow + i * d.vrow) (globKey part (d.valRow (p + i))) d.vrow
        let s3 := if b || b' then s2.doomBy pos else s2
        s3.setHead pos 3 { j with unit := i + 1, after := if i + 1 = n then s3.shownAfter pos true 0 else j.after }
    | _, _ => s

/-- No row store of the task is still on its way to its home. -/
def State.applied (s : State) (pos : Nat) : Bool := !(s.batches.any fun b => b.pos = pos && !b.applied)

/-- KVAPP_PUBLISH: once its rows and its task's earlier accesses are performed and earlier reservations are published, the KVAPP
adds to LEN, as a release, and returns its first token. -/
def execKvappPublish (s : State) : Out :=
  .next <|
  match s.headJob s.cur 3 with
  | none => s
  | some j =>
    match j.k, j.res with
    | .kvapp sd cD ea _ count, some p =>
      let pos := s.cur
      let key := (physKey s pos cD.space ea.toNat).getD 0
      if j.held || j.unit < count.toNat || s.waiting j.after || s.msWord key != p then s
      else
        ((s.setMsWord key (p + count.toNat)).updM pos fun m => m.ws (BitVec.ofNat 6 sd) (BitVec.ofNat 64 p)).popJob pos 3
    | _, _ => s

/-- KILLED_KVAPP_COMPLETE: the memory-side unit completes reservation `cur` of a killed launch (R190): rows not stored
become poisoned, and LEN is advanced in its turn; a LEN above p abandons it. -/
def execKilledKvappComplete (s : State) : Out :=
  .next <|
  match s.orphaned.find? fun x => x.id = s.cur with
  | none => s
  | some x =>
    let len := s.msWord x.desc
    let home := ((s.pageOfKey x.desc).map fun y => y.2.home).getD 0
    let blk := BitVec.ofNat 64 (x.desc / 64 * 64 % 2 ^ 64)
    let log := fun (s : State) => s.logUeDie home x.lnch 2 blk (BitVec.ofNat 64 (x.p * 2 ^ 32 + x.count))
    let drop := fun (s : State) => ({ s with orphaned := s.orphaned.filter fun y => y.id != x.id } : State)
    let rows := (List.range (x.count - x.rows)).flatMap fun i =>
      let t := x.p + x.rows + i
      (blocksOf (globKey x.part (x.d.keyRow t)) x.d.krow ++ blocksOf (globKey x.part (x.d.valRow t)) x.d.vrow).map fun b => (poisonKey b, (1 : Byte))
    if len < x.p || s.waiting x.after then s
    else
      let s1 : State := log { s with mem := setCells s.mem rows }
      drop (if len = x.p then s1.setMsWord x.desc (x.p + x.count) else log s1)

/-! ## KVDESC_EXECUTE (R191) -/

/-- The KVDESC at the head of task `cur`'s attention queue writes its descriptor in one access, and returns when the
write has been applied at its home (R184). -/
def execKvdescExecute (s : State) : Out :=
  .next <|
  match s.jobReady s.cur 3 with
  | none => s
  | some j =>
    match j.k with
    | .kvdesc ea cK par =>
      let pos := s.cur
      if j.bad then s.jobFault pos 3 j (engFlt 3 0)
      else if j.unit = 0 then
        let key := (physKey s pos 3 ea.toNat).getD 0
        let bytes := List.replicate 32 (0 : Byte) ++ leBytes 16 par.toNat ++ leBytes 16 cK.bits.toNat
        let cells := bytesAt key bytes ++ tagClears key 48 ++ [(tagKey (key + 48), if cK.tag then 1 else 0)] ++ poisonClears key 64 ++
          bfdCells key 0
        let s1 := (s.jobStore pos j cells).touch pos key
        if s1.applied pos then s1.popJob pos 3 else s1.setHead pos 3 { j with unit := 1 }
      else if s.applied pos then s.popJob pos 3 else s
    | _ => s

end Sys2Proof.Machine
end

