-- ==== Sys2Proof/Machine/Caps.lean ====
section
/-! DEFINITION. The capability instructions (spec/19: R360-R363). Each acts at issue, writes no outcome and touches no
memory. -/

namespace Sys2Proof.Machine

/-- A capability instruction: its checks, then its effect. -/
def capI (p : Bool) (words : Nat) (f : Master → Flt ⊕ Master) (s : State) : Out :=
  s.gate .noHandler 0 fun s =>
    match f s.me with
    | .inl x => s.fault x
    | .inr m => (s.setM s.cur m).advance p (m.next words)

/-- ceil(x / 2^e). -/
def ceilDiv2 (x e : Nat) : Nat := (x + 2 ^ e - 1) / 2 ^ e

/-- The least scale that holds [b, b + len) in 16,383 granules (R362). -/
def scaleFor (b len : Nat) : Option Nat :=
  (List.range 51).find? fun e => ceilDiv2 (b + len) e - b / 2 ^ e ≤ 16383

/-- A capability with bounds [b, b + len), rounded outward to scale `e`, and cursor at its base. -/
def Cap.bound (c : Cap) (b len e : Nat) : Cap :=
  let nb := b / 2 ^ e * 2 ^ e
  Cap.make (BitVec.ofNat 64 nb) c.perms c.space c.sealT e (nb / 2 ^ e % 2 ^ 18) (ceilDiv2 (b + len) e - b / 2 ^ e) c.tag

/-- CSETB of a source with length `len` (R362). -/
def Cap.setBounds (c : Cap) (len : Nat) : Flt ⊕ Cap :=
  let b := c.cursor.toNat
  let bound := Sum.inl (capFlt cCapbound 5 0 c 0)
  if !c.tag then .inl (capFlt cCaptag 1 0 c 0)
  else if c.sealT != 0 then .inl (capFlt cCapperm 2 0 c 0)
  else if b + len > 2 ^ 64 then bound
  else match scaleFor b len with
  | none =>
    if c.scl = 63 then .inr (Cap.make 0 c.perms c.space c.sealT 63 0 0 c.tag) else bound
  | some e =>
    if b / 2 ^ e * 2 ^ e < c.base || ceilDiv2 (b + len) e * 2 ^ e > c.top then bound
    else .inr (c.bound b len e)

def execCsetb (x : CsetbA) (s : State) : Out :=
  capI x.p 1 (fun m => (Cap.setBounds (m.rc x.cs) (m.rs x.sl).toNat).map id fun c => m.wc x.cd c) s

/-- A tagged, sealed source (R361). -/
def sealedFlt (c : Cap) : Option Flt := if c.tag && c.sealT != 0 then some (capFlt cCapperm 2 0 c 0) else none

def execCadd (x : CaddA) (s : State) : Out :=
  capI x.p (CSrc.words x.b) (fun m =>
    let c := m.rc x.cs
    match sealedFlt c with
    | some f => .inl f
    | none => .inr (m.wc x.cd (c.move (c.cursor + CSrc.signed m x.b)))) s

def execCrestr (x : CrestrA) (s : State) : Out :=
  capI x.p (CSrc.words x.b) (fun m =>
    let c := m.rc x.cs
    match sealedFlt c with
    | some f => .inl f
    | none => .inr (m.wc x.cd (c.withPerms (c.perms &&& CSrc.mask m x.b)))) s

def execCsub (x : CsubA) (s : State) : Out :=
  capI x.p 1 (fun m => .inr (m.ws x.sd ((m.rc x.ca).cursor - (m.rc x.cb).cursor))) s

/-- The checks of a key, as operand 1 (R363). -/
def keyFlt (k : Cap) (perm : Nat) : Option Flt :=
  if !k.tag then some (capFlt cCaptag 1 1 k 0)
  else if k.space != 0 then some (capFlt cSpace 3 1 k 0)
  else if k.sealT != 0 || !k.has [perm] then some (capFlt cCapperm 2 1 k 0)
  else if k.top != k.base + 1 || k.base < 1 || k.base > 14 then some (capFlt cCapbound 5 1 k 0)
  else none

/-- CSEAL and CUNSEAL: the key's checks, then the source's, which must hold seal type `from'`. -/
def sealI (x : CsealA) (perm : Nat) (from' to' : Nat → Nat) (s : State) : Out :=
  capI x.p 1 (fun m =>
    let k := m.rc x.ck
    let c := m.rc x.cs
    match keyFlt k perm with
    | some f => .inl f
    | none =>
      if !c.tag then .inl (capFlt cCaptag 1 0 c 0)
      else if c.sealT != from' k.base then .inl (capFlt cCapperm 2 0 c 0)
      else .inr (m.wc x.cd (c.withSeal (to' k.base)))) s

def execCseal (x : CsealA) (s : State) : Out := sealI x pSeal (fun _ => 0) (fun t => t) s
def execCunseal (x : CsealA) (s : State) : Out := sealI x pUnseal (fun t => t) (fun _ => 0) s

def execCgetb (x : CgetA) (s : State) : Out :=
  capI x.p 1 (fun m => .inr (m.ws x.sd (BitVec.ofNat 64 (m.rc x.cs).base))) s
def execCgetl (x : CgetA) (s : State) : Out :=
  capI x.p 1 (fun m => .inr (m.ws x.sd (BitVec.ofNat 64 (Nat.min ((m.rc x.cs).top - (m.rc x.cs).base) (2 ^ 64 - 1))))) s
/-- SEAL << 20 OR SPACE << 16 OR PERMS. -/
def execCgetp (x : CgetA) (s : State) : Out :=
  capI x.p 1 (fun m =>
    let c := m.rc x.cs
    .inr (m.ws x.sd (BitVec.ofNat 64 (c.sealT * 2 ^ 20 + c.space * 2 ^ 16 + c.perms.toNat)))) s
def execCtag (x : CgetA) (s : State) : Out :=
  capI x.p 1 (fun m => .inr (m.ws x.sd (if (m.rc x.cs).tag then 1 else 0))) s
def execCclr (x : CmovA) (s : State) : Out :=
  capI x.p 1 (fun m => .inr (m.wc x.cd { m.rc x.cs with tag := false })) s
def execCmov (x : CmovA) (s : State) : Out :=
  capI x.p 1 (fun m => .inr (m.wc x.cd (m.rc x.cs))) s

/-- A tagged capability over [lo, lo + len) with a cursor inside it. -/
def Cap.over (space : Nat) (perms : BitVec 16) (lo len cursor : Nat) : Cap :=
  let e := (scaleFor lo len).getD 50
  (Cap.bound { bits := 0, tag := true } lo len e |>.withPerms perms |> fun c =>
    Cap.make (BitVec.ofNat 64 cursor) c.perms space 0 c.scl c.bres c.glen true)

end Sys2Proof.Machine
end

