-- ==== Sys2Proof/Machine/Copy.lean ====
section
/-! DEFINITION. Copies, active messages, bank modes and halo tiles (spec/10: R199, R200, R205, R206, R209-R211,
R223-R231). -/

namespace Sys2Proof.Machine

/-! ## CPY and CPYT (R223) -/

/-- Bytes that rows of `len` bytes, `stride` apart, span. -/
def rowSpan (rows len stride : Nat) : Nat := if rows = 0 || len = 0 then 0 else (rows - 1) * stride + len

/-- The checks of a copy operand in the order of R212, with a count that is too large met at step 5 and a stride at step 4. -/
def State.cpyFlt (s : State) (a : Acc) (stride : Nat) (big : Bool) : Option Flt :=
  let a' := if big then { a with len := 2 ^ 32 } else a
  a.permFlt <|> s.spaceFlt s.cur a' <|> a.alignFlt <|>
    (if stride % 64 != 0 then some (capFlt cAlign 4 a.opn a.cap a.ea) else none) <|>
    (if big then some (capFlt cCapbound 5 a.opn a.cap a.ea) else none) <|> a.boundFlt <|> s.leaseFlt s.cur a

/-- Sets the TBMASK bits of the pages that the rows of a copy write. -/
def State.touchRows (s : State) (sp ea rows len stride : Nat) : State :=
  (((List.range rows).flatMap fun r => (chunksOf (ea + r * stride) len).map fun va => Nat.max va (ea + r * stride)).foldl
    (fun (acc : State × Nat) va =>
      if acc.2 = va / 65536 + 1 then acc
      else (match physKey acc.1 acc.1.cur sp (va % 2 ^ 64) with
        | some k => acc.1.touch acc.1.cur k
        | none => acc.1, va / 65536 + 1)) (s, 0)).1

/-- Issues a copy of `rows` rows of `len` bytes. A full queue is tested before a bank's switch (notes/assumptions/83.md), and a
PLATE fault comes after the checks of both operands (DESIGN CHOICE, notes/assumptions/106.md). -/
def copyIssue (x : CpyA) (rows len drs srs align : Nat) (big : Bool) (s : State) : State :=
  let m := s.me
  let cd := m.rc x.cD
  let cs := m.rc x.cS
  let ed := cd.cursor + m.rs x.idx * BitVec.ofNat 64 (2 ^ x.scale.toNat)
  let es := cs.cursor + x.disp.signExtend 64
  let ld := rowSpan rows len drs
  let ls := rowSpan rows len srs
  let d : Acc := { cap := cd, perms := [pStore], sp := spStore, write := true, ea := ed.toNat, len := ld, align := align }
  let c : Acc :=
    { cap := cs, opn := 1, perms := [if cs.space = 5 then pPlateRead else pLoad], sp := spCopySrc, ea := es.toNat, len := ls, align := align }
  match s.cpyFlt d drs big <|> s.cpyFlt c srs false <|> s.plateIssue s.cur cs es.toNat ls with
  | some f => s.fault f
  | none => s.proofCheck fun s =>
    if s.engFull 2 then s.notReady x.h x.h.words oEng (.engine 2) 0
    else
      let blk := ed.toNat % 64 = 0 && es.toNat % 64 = 0 && len % 64 = 0
      let od : Opd := { sp := cd.space, ea := ed }
      let os : Opd := { sp := cs.space, ea := es }
      let rd := mkFpBlk s.cur os.sp es.toNat ls 1 cs.cursor
      let wr := mkFpBlk s.cur od.sp ed.toNat ld 0 cd.cursor
      if s.fpBusy s.cur (rd ++ wr) then s.notReady x.h x.h.words oBusy .busy ed
      else
        let s1 := ((s.plateBind s.cur cs es.toNat ls).touchRows cd.space ed.toNat rows len drs).dropKept cd.space ed ld
        ((s1.enqueue 2 (.copy od os rows len drs srs blk) rd wr).upd fun m => { m with cAcc := m.cAcc + 1 }).done x.h x.h.words

/-- CPY: sN bytes. -/
def execCpy (x : CpyA) (s : State) : Out :=
  s.gate .engine x.h.nr fun s =>
    let n := (s.me.rs x.sn).toNat
    copyIssue x 1 n 0 0 1 (2 ^ 32 ≤ n) s

/-- CPYT: ROWS rows of RLEN blocks. -/
def execCpyt (x : CpyA) (s : State) : Out :=
  s.gate .engine x.h.nr fun s =>
    let p := s.me.rs x.sn
    let f := fun (lo n : Nat) => (p.extractLsb' lo n).toNat
    copyIssue x (f 12 12) (f 0 12 * 64) (f 44 20) (f 24 20) 64 false s

/-- Byte offset `o` of a copy in an operand. -/
def rowOff (len stride o : Nat) : Nat := o / len * stride + o % len

/-- The blocks that a copy still holds from byte `o` on (R208, R224), of those that it held. -/
def restFp (pos sp ea rows len stride o : Nat) (old : List Fp) : List Fp :=
  let r := o / len
  let here := r * stride + o % len
  let lo := if r + 1 < rows && (r + 1) * stride < here then (r + 1) * stride else here
  let hi := Nat.max (rowSpan rows len stride) (here + (len - o % len))
  mkFpBlk pos sp (ea + lo) (hi - lo) ((old.head?.map (·.opn)).getD 0) ((old.head?.map (·.cur)).getD 0)

/-- CPE_CHUNK: the next chunk of the copy at the head of task `cur`'s CPE queue (R224, R225). -/
def execCpeChunk (s : State) : Out :=
  .next <|
  match s.jobReady s.cur 2 with
  | none => s
  | some j =>
    match j.k with
    | .copy dst src rows len drs srs blk =>
      let pos := s.cur
      let total := rows * len
      let o0 := 4096 * j.unit
      let n := Nat.min 4096 (total - o0)
      let fin := fun (s : State) => (s.updM pos fun m => { m with cDone := m.cDone + 1 }).popJob pos 2
      if j.bad then s.jobFault pos 2 j (engFlt 2 0)
      else if total ≤ o0 then fin s
      else
        let rd := s.jobRdr pos j
        let offs := (List.range n).map (o0 + ·)
        let sva := fun (o : Nat) => src.ea.toNat + rowOff len srs o
        let skey := fun (o : Nat) => (physKey s pos src.sp (sva o % 2 ^ 64)).getD 0
        let dkey := fun (o : Nat) => (physKey s pos dst.sp ((dst.ea.toNat + rowOff len drs o) % 2 ^ 64)).getD 0
        match offs.find? fun o => (o = o0 || sva o % 64 = 0 || o % len = 0) && s.rd8 rd (poisonKey (skey o)) != 0 with
        | some o =>
          let a := BitVec.ofNat 64 (sva o / 64 * 64)
          let s1 := (s.logUe pos 2 3 a 0).updM pos fun m => { (m.setErr errCpy) with cFail := m.cFail + 1, cRep := true }
          s1.popJob pos 2
        | none =>
          let cells :=
            if blk then
              (offs.filter fun o => o % 64 = 0).flatMap fun o =>
                dataCells (dkey o) (s.rdBytes rd (skey o) 64) ++ bfdCells (dkey o) (s.rdBfd rd (skey o))
            else offs.flatMap fun o => (dkey o, s.rd8 rd (skey o)) :: tagClears (dkey o) 1
          let s1 := s.jobStore pos j cells
          let vas := if src.sp = 5 then (offs.map fun o => sva o / 64 * 64).eraseDups else []
          let (s2, j2) := s1.countBlocks pos j vas
          let next := o0 + n
          if next ≥ total then fin s2
          else
            let j3 := { j2 with unit := j.unit + 1, rd := restFp pos src.sp src.ea.toNat rows len srs next j.rd
                                wr := restFp pos dst.sp dst.ea.toNat rows len drs next j.wr }
            (s2.setHead pos 2 j3).engineWake pos 2
    | _ => s

/-! ## CPYW (R226) -/

/-- Reports a failed copy once, by ERR (R226, R253). -/
def State.reportCopies (s : State) (h : Hd) (words : Nat) : State :=
  if s.me.cRep then (s.upd fun m => { m with cRep := false }).final h words oErr else s.done h words

def execCpyw (x : SS) (s : State) : Out :=
  s.gate .engine x.h.nr fun s =>
    let m := s.me
    let k := m.copiesOut
    if k ≤ (m.rs x.rb).toNat then (s.upd fun m => m.ws x.ra (BitVec.ofNat 64 k)).reportCopies x.h x.h.words
    else s.notReady x.h x.h.words oEmpty (.copies (m.rs x.rb).toNat) 0

/-! ## AMSG and handlers (R210, R211, R227, R228) -/

def spAmsg : Spaces := { own := true, remote := true }

/-- AMSG: checks of the target and of the handler capability, then the message is sent. -/
def execAmsg (x : AmsgA) (s : State) : Out :=
  s.gate .noHandler x.h.nr fun s =>
    let m := s.me
    let c := m.rc x.mem.cap
    let ea := m.ea x.mem
    let ch := m.rc x.cH
    match s.check s.cur { cap := c, perms := [pLoad, pStore], sp := spAmsg, ea := ea.toNat, len := 1 } <|>
        codeFlt 1 ch (wordAddr ch.cursor) with
    | some f => s.fault f
    | none => s.proofCheck fun s =>
      let key := (physKey s s.cur 1 ea.toNat).getD 0
      if s.slotFull s.cur key then s.notReady x.h x.h.words oFull (.slot (s.bankOf key)) ea
      else
        ((s.touch s.cur key).request s.cur key (s.needsSlot s.cur key) true
          (.unit (.amsg x) key { sp := 1, ea := ea } ch (m.rs x.sd) 0 0) []).done x.h x.h.words

/-- HANDLER_START: slot 15 of core `cur` starts a handler of the program's own for the message that it serves next. -/
def execHandlerStart (s : State) : Out :=
  .next <|
  match s.nextMsg s.cur with
  | none => s
  | some r =>
    match r.k with
    | .unit (.amsg _) key _ ch arg _ _ =>
      let core := s.cur
      let off := key - lsKey core 0
      let t := s.ms r.pos
      match (s.core core).allocs.find? fun a => a.lslot = t.lslot && a.base ≤ off && off < a.base + a.size with
      | none => s
      | some al =>
        let h0 : Master :=
          { Master.empty with
            kind := .handler, st := .ready, pc := wordAddr ch.cursor, lslot := t.lslot, lgen := t.lgen, hreq := r.id, since := s.cyc }
        let h1 := ((h0.ws 1 (BitVec.ofNat 64 (coreOf r.pos % 16 * 16 + slotOf r.pos))).ws 2 arg).ws 3 (BitVec.ofNat 64 off)
        s.setM (core * 16 + 15) (h1.wc 1 (Cap.over 1 0x0003 al.base al.size off))
    | _ => s

/-- HRET ends the handler; the value travels back to the sender (R228). -/
def execHret (x : S1) (s : State) : Out :=
  s.gate .handler 0 fun s =>
    let m := s.me
    let v := m.rs x.sr
    let s1 : State := { s with reqs := s.reqs.map fun r =>
      if r.id = m.hreq then
        match r.k with
        | .unit (.amsg y) _ _ _ _ _ _ => { r with k := .done [RegW.s y.sd.toNat v] }
        | _ => r
      else r }
    s1.setM s.cur Master.empty

/-- AMSG_REPLY: the reply of request `cur` lands: the handler's value, or 0 and ERR when its handler has faulted or its launch was
killed (R211, R227). A handler that FREEZE stopped answers once it has been resumed. -/
def execAmsgReply (s : State) : Out :=
  .next <|
  match s.req? s.cur with
  | none => s
  | some r =>
    match r.k with
    | .done ws => s.returned r ws none
    | .unit (.amsg y) key _ _ _ _ _ =>
      let h := s.ms (coreOfLsKey key * 16 + 15)
      if h.kind = .handler && h.hreq = r.id && h.st = .frozen && h.flt then s.returned r [.s y.sd.toNat 0, .o oErr] none else s
    | _ => s

/-! ## BANKMODE (R200, R229) -/

/-- A try mode tests the request slots before another switch (notes/assumptions/83.md). -/
def execBankmode (x : BankA) (s : State) : Out :=
  s.gate .noHandler x.h.nr fun s =>
    let m := s.me
    let c := m.rc x.mem.cap
    let ea := m.ea x.mem
    let a : Acc := { cap := c, perms := [pLoad, pStore], sp := {}, ea := ea.toNat / 2 ^ 19 * 2 ^ 19, len := 2 ^ 19 }
    let space :=
      if c.space != 2 || m.kind = .svc || 0x800000 ≤ ea.toNat then some (capFlt cSpace 3 0 c ea.toNat) else none
    match a.permFlt <|> space <|> a.boundFlt with
    | some f => s.fault f
    | none =>
      let key := cluKey (clusterOf s.cur) ea.toNat
      let b := bankOfKey key
      if s.slotFull s.cur key then s.notReady x.h x.h.words oFull (.slot (s.bankOf key)) ea
      else if x.h.nr != 0 && !(s.bank b).sw.isEmpty then s.notReady x.h x.h.words oBusy .busy ea
      else if (s.bank b).sw.isEmpty && (s.bank b).mode = x.mode.toNat then s.done x.h x.h.words
      else
        let bk := s.bank b
        let id := s.nextReq
        let s1 := (s.setBank b { bk with sw := bk.sw ++ [(id, x.mode.toNat)] }).request s.cur key true true
          (.unit (.bankmode x) key { sp := 2, ea := ea } c 0 0 0) []
        ({ s1 with reqs := s1.reqs.map fun (r : Req) => if r.id = id then { r with due := s.cyc + 65536 } else r } : State).done x.h x.h.words

/-- Clears every byte of a bank, its descriptors, tags and bits. -/
def State.clearBank (s : State) (b : Nat) : State :=
  let lo := (2 ^ 69 + b * 2 ^ 19) / 64
  { s with mem := s.mem.filter fun (x : Host.Cell) => !(lo ≤ blockOfCell x.1 && blockOfCell x.1 < lo + 2 ^ 13) }

/-- An access accepted before the first switch of a bank is still to be performed there. -/
def State.bankUse (s : State) (b : Nat) : Bool :=
  (s.reqs.any fun r => match r.k with | .unit i k _ _ _ _ _ => isAtomic i && isClu k && bankOfKey k = b | _ => false) ||
  s.batches.any fun x => !x.applied && !x.push && x.cells.any fun (c : Host.Cell) => isClu c.1 && bankOfKey c.1 = b

/-- BANK_SWITCH_COMPLETE: the first switch of bank `cur` completes, once the accesses before it are performed, and with it those
behind it to the mode that the bank then holds (R200). Its waiters wake; every word is empty and 0 (R302). -/
def execBankSwitchComplete (s : State) : Out :=
  .next <|
  let b := s.cur
  let bk := s.bank b
  match bk.sw with
  | [] => s
  | (id, mode) :: rest =>
    if s.bankUse b then s else
    let same := fun (x : Nat × Nat) => x.2 = mode
    let s1 :=
      if mode = bk.mode then s.setBank b { bk with sw := rest.dropWhile same }
      else (s.clearBank b).setBank b { Bank.empty with mode := mode, sw := rest.dropWhile same }
    let s2 := s1.wakeAll fun k m =>
      clusterOf k = b / 16 && !isSvcPos k && (match m.park with
        | .busy => true
        | .queue key _ => isClu key && bankOfKey key = b
        | .fe key _ _ => isClu key && bankOfKey key = b
        | _ => false)
    (id :: (rest.takeWhile same).map Prod.fst).foldl (fun s i =>
      match s.req? i with
      | some r => s.returned r [] none
      | none => s) s2

/-! ## Halo tiles (R205, R206, R230, R231) -/

/-- Every plane of a block, as the home holds it. -/
def State.blockCells (s : State) (k : Nat) : List Host.Cell :=
  let at' := fun (x : Nat) => ((x, Tab.get 0 s.mem x) : Host.Cell)
  (List.range 64).map (fun i => at' (k + i)) ++ [at' (bfdKey k 0), at' (bfdKey k 1)] ++
  (List.range 4).map (fun i => at' (tagKey (k + 16 * i))) ++ [at' (poisonKey k)]

/-- Sets a die's replica of blocks to their home's bytes, or removes it. -/
def State.setReplica (s : State) (part die : Nat) (vas : List Nat) (on : Bool) : State :=
  let t := Tab.get [] s.halo die
  let t' := vas.foldl (fun t va =>
    (s.blockCells (globKey part va)).foldl (fun t (c : Host.Cell) => if on then Tab.put t c.1 c.2 else Tab.del t c.1) t) t
  { s with halo := Tab.set [] s.halo die t' }

/-- Establishes or removes every replica of a region. -/
def State.setHalo (s : State) (part : Nat) (h : Halo) (on : Bool) : State :=
  (List.range h.tiles).foldl (fun s i =>
    (h.replicas i).foldl (fun s ((d, vas) : Nat × List Nat) => s.setReplica part d vas on) s) s

/-- HALO: the declaration's checks; the region is declared at issue, and its replicas follow. A supervisor core declares for its
partition (DESIGN CHOICE, log 95). -/
def execHalo (x : HaloA) (s : State) : Out :=
  s.gate .noHandler x.h.nr fun s =>
    let m := s.me
    let c := m.rc x.cN
    let p := m.rs x.sP
    let ts := (p.extractLsb' 0 32).toNat
    let hw := (p.extractLsb' 32 16).toNat
    let lo := c.base
    let hi := c.top
    let part := s.partOf s.cur
    let a : Acc := { cap := c, perms := [pLoad, pStore], sp := spImm, write := true, tile := false, ea := lo, len := hi - lo }
    let holds := s.halosOf (s.party s.cur)
    let meets := (s.regions part).any fun h => h.lo < hi && lo < h.hi
    let space := if c.space = 3 then s.spaceFlt s.cur a else some (capFlt cSpace 3 0 c lo)
    if p.extractLsb' 48 16 != 0 || (ts != 0 && (ts % 65536 != 0 || hw < 1 || hw > ts / 128)) then illegal 6 s
    else match a.permFlt <|> space <|>
        (if ts != 0 && meets then some (capFlt cSpace 3 0 c lo) else none) <|>
        (if lo % 65536 != 0 || (ts != 0 && (hi - lo) % ts != 0) then some (capFlt cAlign 4 0 c lo) else none) <|>
        s.leaseFlt s.cur a with
    | some f => s.fault f
    | none =>
      let key := globKey part lo
      if (ts != 0 && holds.length ≥ 8) then s.notReady x.h x.h.words oFull .halo (BitVec.ofNat 64 lo)
      else if s.slotFull s.cur key then s.notReady x.h x.h.words oFull (.slot (s.bankOf key)) (BitVec.ofNat 64 lo)
      else
        let own := (List.range ((hi - lo) / ts)).map fun i =>
          ((s.pageAt part (lo + i * ts)).map fun y => y.2.home).getD 0
        let h : Halo := { lo := lo, hi := hi, ts := ts, hw := hw, own := own }
        let s1 := if ts = 0 then s else s.setHalos (s.party s.cur) (holds ++ [h])
        (s1.request s.cur key (s.needsSlot s.cur key) true (.unit (.halo x) key { sp := 3, ea := BitVec.ofNat 64 lo } c p 0 0) []).done
          x.h x.h.words

/-- HALO_COMPLETE: every replica of the region of request `cur` is established, or removed (R230). With TS = 0 the region is looked for
among those of the issuer's own launch (DESIGN CHOICE, log 95). -/
def execHaloComplete (s : State) : Out :=
  .next <|
  match s.req? s.cur with
  | none => s
  | some r =>
    match r.k with
    | .unit (.halo _) key _ _ p _ _ =>
      let part := key / 2 ^ 64
      let lo := key % 2 ^ 64
      match (s.halosOf r.lslot).find? fun h => h.lo = lo with
      | none => s.returned r [] none
      | some h =>
        if (p.extractLsb' 0 32) != 0 then (s.setHalo part h true).returned r [] none
        else
          let s1 := (s.setHalo part h false).setHalos r.lslot ((s.halosOf r.lslot).filter fun y => y.lo != lo)
          (s1.wakeAll fun k m => m.park = .halo && s.party k = r.lslot).returned r [] none
    | _ => s

/-- HALOPUSH (R231). -/
def execHalopush (x : MemA) (s : State) : Out :=
  s.gate .noHandler x.h.nr fun s =>
    let m := s.me
    let c := m.rc x.mem.cap
    let ea := m.ea x.mem
    let part := s.partOf s.cur
    let a : Acc := { cap := c, perms := [pStore], sp := spImm, write := true, ea := ea.toNat, len := 1 }
    let tile := s.haloTile part ea.toNat
    let space := if c.space = 3 && (tile.any fun (h, i) => h.owner i = dieOf s.cur) then s.spaceFlt s.cur a
      else some (capFlt cSpace 3 0 c ea.toNat)
    match a.permFlt <|> space <|> a.boundFlt <|> s.leaseFlt s.cur a with
    | some f => s.fault f
    | none => s.proofCheck fun s =>
      let key := globKey part ea.toNat
      if s.slotFull s.cur key then s.notReady x.h x.h.words oFull (.slot (s.bankOf key)) ea
      else match tile with
      | none => s
      | some (h, i) =>
        let dies := ((h.replicas i).map Prod.fst).eraseDups
        if dies.isEmpty then s.done x.h x.h.words
        else
          let id := s.nextReq
          ((s.request s.cur key (s.needsSlot s.cur key) true (.done []) []).pushTile s.cur id h i []).done x.h x.h.words

/-- HALO_PUSH_APPLY: push `cur` replaces die `arg`'s replica whole (R206): the strips are taken when every earlier access
of the task is performed, with the bytes of the store that pushes. The pushes of a region from one die to another travel on one
channel, in order (R247). -/
def execHaloPushApply (s : State) : Out :=
  .next <|
  match s.batches.find? fun b => b.id = s.cur with
  | none => s
  | some b =>
    let region := fun (y : Batch) => (s.haloTile (y.chan / 2 ^ 64) (y.chan % 2 ^ 64)).map fun t => t.1.lo
    let earlier := s.batches.any fun y => y.push && y.home = b.home && region y = region b && y.id < b.id && y.todo.contains s.arg
    let part := b.chan / 2 ^ 64
    if !b.push || !b.todo.contains s.arg || earlier || s.waiting b.after then s
    else match s.haloTile part (b.chan % 2 ^ 64) with
    | none => (({ s with batches := s.batches.filter fun y => y.id != b.id } : State).noteRecv b.pos b.lslot).wakeHolds
    | some (h, i) =>
      let strips := (h.replicas i).flatMap Prod.snd
      let cells := if b.applied then b.cells
        else putCells ((strips.eraseDups).foldl (fun t va => putCells t (s.blockCells (globKey part va))) [])
          (b.cells.filter fun (c : Host.Cell) => strips.any fun va => globKey part va / 64 = blockOfCell c.1)
      let mine := ((h.replicas i).filter fun (d, _) => d = s.arg).flatMap Prod.snd
      let keys := mine.map fun va => globKey part va / 64
      let t := (cells.filter fun (c : Host.Cell) => keys.contains (blockOfCell c.1)).foldl
        (fun t (c : Host.Cell) => Tab.put t c.1 c.2) (Tab.get [] s.halo s.arg)
      let todo := b.todo.filter (· != s.arg)
      let s1 : State := { s with halo := Tab.set [] s.halo s.arg t }
      if todo.isEmpty then
        let s2 := ({ s1 with batches := s1.batches.filter fun y => y.id != b.id } : State).noteRecv b.pos b.lslot
        (match s2.req? b.req with
        | some r => s2.returned r [] none
        | none => s2).wakeHolds
      else { s1 with batches := s1.batches.map fun y =>
              if y.id = b.id then { y with cells := cells, applied := true, todo := todo } else y }

end Sys2Proof.Machine
end

