-- ==== Sys2Proof/Machine/Lines.lean ====
section
/-! DEFINITION. What moves lines and pages (spec/10, spec/11, spec/14, spec/19: R198, R201-R204, R235-R238, R281, R355): fills,
tokens, write batches, homes and tiers. -/

namespace Sys2Proof.Machine

/-! ## Write batches (R203, R235, R236) -/

def State.batch? (s : State) (id : Nat) : Option Batch := s.batches.find? fun b => b.id = id

/-- Takes a finished batch out, or puts one back last: the batches that are applied stand in the order of their homes. -/
def State.putBatch (s : State) (b : Batch) : State :=
  let rest := s.batches.filter fun x => x.id != b.id
  if b.applied && b.todo.isEmpty then ({ s with batches := rest } : State).noteRecv b.pos b.lslot
  else { s with batches := rest ++ [b] }

/-- GLOB lines of a batch. -/
def Batch.lines (b : Batch) : List Nat :=
  ((b.cells.filter fun (c : Host.Cell) => isGlobKey c.1).map fun (c : Host.Cell) => c.1 / 64).eraseDups

/-- Core caches of a die that applies a batch from elsewhere give up their tokens of its lines; a store that has waited is performed
in its writer's die only now, and its core collects them (R201). -/
def State.collectFor (s : State) (b : Batch) (die : Nat) : State :=
  if b.src != die then b.lines.foldl (fun s l => s.collect die l) s
  else if b.hold && b.pos != nowhere then s.ownLines b.pos ((b.cells.head?).any fun (c : Host.Cell) => (s.msUnit c.1).isSome) b.cells
  else s

/-- The tokens that a batch's application at its home collects: there, and in the writer's die for a store that has waited. -/
def State.collectAt (s : State) (b : Batch) : State :=
  let s1 := s.collectFor b b.home
  if b.src = b.home then s1 else s1.collectFor b b.src

/-- The tokens of the batch's lines on a die are held for no persistent request (R281). -/
def State.tokensFree (s : State) (b : Batch) (die : Nat) : Bool :=
  (b.src = die && !b.hold) || b.lines.all fun l => s.tokensHeld die l (l1Of b.pos) = 0

/-- A die shows a byte of the batch from now on: it reads no former byte there any more. -/
def Batch.shown (b : Batch) (t : Tab Byte) (c : Host.Cell) : Tab Byte :=
  if b.proof = 0 then Tab.del t c.1 else Tab.del (Tab.del t (verKey b.proof c.1)) (noVerKey b.proof c.1)

/-- The byte that a die shows by the batch while a later one is still to come there. -/
def Batch.keep (b : Batch) (t : Tab Byte) (c : Host.Cell) : Tab Byte :=
  if b.proof = 0 then Tab.put t c.1 c.2 else Tab.put (Tab.del t (noVerKey b.proof c.1)) (verKey b.proof c.1) c.2

/-- Applies a batch at its home: a tagged write becomes a version of its proof, another write goes to memory, and the dies with a
copy keep their bytes until they apply it too. The writer's own die has applied it and shows it from now on (R235, R237). A
block that exceeds the shadow budget is discarded now: o := OVF where an instruction stored it, ERRST.OVF, and the launch is
doomed (R214). -/
def State.applyBatch (s : State) (b : Batch) : State :=
  let k := ((b.cells.head?).map Prod.fst).getD 0
  let words := (b.cells.filter fun (c : Host.Cell) => c.1 < 2 ^ 72).map Prod.fst
  let ds := (s.copyDies b.home b.cells).filter (· != b.src)
  let s0 := s.collectAt b
  let s1 : State := { s0 with stale := Tab.set [] s0.stale b.src (b.cells.foldl b.shown (Tab.get [] s0.stale b.src)) }
  let s2 :=
    if b.proof != 0 then
      let (t, ovf) := s1.applyTagged ds b.lslot b.proof b.cells
      let t1 := if ovf then (t.updM b.pos fun m => { m.setErr errOvf with o := if b.req = 0 then m.o else oOvf }).doom b.lslot else t
      t1.putBatch { b with applied := true, todo := ds }
    else if isGlobKey k then (s1.applyHome ds b.cells).putBatch { b with applied := true, todo := ds }
    else ({ s with mem := setCells s.mem b.cells } : State).putBatch { b with applied := true, todo := [] }
  (s2.wakeWords words).wakeHolds

/-- A die with a copy applies a batch: each byte shows this write, or, if a later one is still to come there, keeps it until
then (R235). -/
def State.applyCopy (s : State) (b : Batch) (die : Nat) : State :=
  let later := (s.batches.dropWhile fun x => x.id != b.id).tail.filter fun x => x.applied && x.todo.contains die
  let t := b.cells.foldl (fun t (c : Host.Cell) =>
    if later.any fun x => x.proof = b.proof && (Tab.find? x.cells c.1).isSome then b.keep t c else b.shown t c) (Tab.get [] s.stale die)
  let todo := b.todo.filter (· != die)
  let s1 : State := { s.collectFor b die with stale := Tab.set [] s.stale die t }
  ((if todo.isEmpty then s1.putBatch { b with todo := [] }
    else { s1 with batches := s1.batches.map fun x => if x.id = b.id then { x with todo := todo } else x }).wakeWords
      ((b.cells.filter fun (c : Host.Cell) => c.1 < 2 ^ 72).map Prod.fst)).wakeHolds

/-- An earlier applied batch with a common byte still waits on the die. -/
def State.copyBehind (s : State) (b : Batch) (die : Nat) : Bool :=
  (s.batches.takeWhile fun x => x.id != b.id).any fun x =>
    x.applied && !x.push && x.todo.contains die && x.cells.any fun (c : Host.Cell) => (Tab.find? b.cells c.1).isSome

/-- A batch may be applied on a die now. -/
def State.canApply (s : State) (b : Batch) (die : Nat) : Bool :=
  !b.push && s.tokensFree b die &&
  if b.applied then b.todo.contains die && !s.copyBehind b die else die = b.home && !s.waiting b.after && s.tokensFree b b.src

/-- WRITE_BATCH_APPLY: die `arg` applies batch `cur` after its predecessors. -/
def execWriteBatchApply (s : State) : Out :=
  .next <|
  match s.batch? s.cur with
  | none => s
  | some b =>
    if !s.canApply b s.arg then s else if b.applied then s.applyCopy b s.arg else s.applyBatch b

/-- WRITEBACK_APPLY: the dirty bytes of batch `cur` are applied at the home as one masked write (R236). -/
def execWritebackApply (s : State) : Out :=
  .next <|
  match s.batch? s.cur with
  | none => s
  | some b => if b.applied || !s.canApply b b.home then s else s.applyBatch b

/-! ## Fills and tokens (R201, R202, R281, R282) -/

/-- The oldest persistent request of an L1 for a line whose tokens have not come (R202). -/
def Core.oldest (c : Core) (line : Nat) : Option Pers :=
  c.pers.foldl (fun r x => if x.line != line || x.got then r else match r with
    | some y => if x.at' < y.at' then some x else r
    | none => some x) none

/-- A persistent request of another core of the die for the line is older: by cycle of issue, then by core (R202). -/
def State.outranked (s : State) (core line : Nat) : Bool :=
  s.cores.any fun ((n, c) : Nat × Core) => n != core && dieOfL1 n = dieOfL1 core && c.filling line &&
    match c.oldest line, (s.core core).oldest line with
    | some a, some b => a.at' < b.at' || (a.at' = b.at' && n < core)
    | some _, none => true
    | none, _ => false

/-- The lines that land with a line: those that the oldest persistent request for it was issued with (R281). -/
def Core.landing (c : Core) (line : Nat) : List Nat :=
  match c.oldest line with
  | some e => (c.pers.filter fun x => x.pos = e.pos && x.at' = e.at' && !x.got).map (·.line)
  | none => [line]

/-- The L1 asks for the line to write it. -/
def Core.asksAll (c : Core) (line : Nat) : Bool := c.fills.any fun ((l, w, _) : Nat × Bool × Nat) => l = line && w

/-- A line lands in an L1. A cache bank of the cluster keeps the line too while the line's agent has a token left. The line's waiters
wake. -/
def State.fillLine (s : State) (core line : Nat) (write : Bool) : State :=
  let s2 := s.lineLand core line write
  let bank := core / 16 * 16 + line % 16
  let s3 :=
    if isSvcPos core || (s2.bank bank).mode != 0 || !(s2.bank bank).sw.isEmpty || s2.tokensOut (core / 256) line ≥ 256 ||
        Tab.get 0 (s2.bank bank).lines line != 0 then s2
    else s2.setBank bank { s2.bank bank with lines := Tab.put (s2.bank bank).lines line 1 }
  (s3.wakeLine core line).wakeBusy (dieOfL1 core)

/-- LINE_FILL: line `arg` lands in the L1 numbered `cur`, with a token of it, or with all for a write (R201), and with it those that its
persistent request was issued with. Holders surrender their tokens to the oldest persistent request first (R202); tokens that one gains
are held from now. -/
def execLineFill (s : State) : Out :=
  .next <|
  let core := s.cur
  let c := s.core core
  let lines := c.landing s.arg
  if !c.filling s.arg || lines.any (fun l => s.outranked core l || !s.canTake core l (c.asksAll l)) then s
  else
    let first := c.oldest s.arg
    let pers := c.pers.map fun x =>
      if lines.contains x.line && !x.got && first.any (fun e => x.pos = e.pos && x.at' = e.at') then { x with at' := s.cyc, got := true } else x
    let s1 := s.updCore core fun c =>
      { c with pers := pers
               fills := c.fills.filter fun ((l, _, _) : Nat × Bool × Nat) => !lines.contains l || pers.any fun x => x.line = l && !x.got }
    lines.foldl (fun s l => s.fillLine core l (c.asksAll l)) s1

/-- PERSISTENT_TOKEN_RELEASE: tokens of line `arg` held on core `cur` for 256 cycles are released, and the line with them. -/
def execPersistentTokenRelease (s : State) : Out :=
  .next <|
  let over' := fun (x : Pers) => x.line = s.arg && x.got && x.at' + 256 ≤ s.cyc
  if !((s.core s.cur).pers.any over') then s
  else
    let s1 := s.updCore s.cur fun c => { c with pers := c.pers.filter fun x => !over' x }
    (if (s1.core s.cur).holds s.cyc s.arg then s1
      else s1.updCore s.cur fun c => { c with l1 := Tab.del c.l1 s.arg }).wakeBusy (dieOfL1 s.cur)

/-! ## Homes (R204, R355) -/

/-- Declared halo regions keep their pages where they are. -/
def State.inHalo (s : State) (part pk : Nat) (p : Page) : Bool :=
  (s.regions part).any fun h =>
    h.lo < pageBase pk + pageBytes p.psz && pageBase pk < h.hi

/-- The page may change its home. -/
def State.movable (s : State) (part pk : Nat) (p : Page) : Bool := !p.hpin && !p.abu && !p.ms && !p.ctl && !s.inHalo part pk p

/-- HOME_COUNT_WINDOW: at a window's end the home of page `arg` of partition `cur` decides: a die that made more than half
of the writes becomes the home by a step of its own, and the counts start again. -/
def execHomeCountWindow (s : State) : Out :=
  .next <|
  let pk := pageKey s.cur (s.arg * 65536) 0
  let at' := fun (d : Nat) => Tab.get 0 s.wcount (pk * 32 + d)
  let total := ((List.range 32).map at').sum
  let s1 : State := { s with wcount := (List.range 32).foldl (fun t d => Tab.del t (pk * 32 + d)) s.wcount }
  match Tab.find? s.pages pk with
  | none => s1
  | some p =>
    match (List.range 32).find? fun d => d != p.home && 2 * at' d > total with
    | some d =>
      if s.movable s.cur pk p then { s1 with agenda := s1.agenda ++ [{ i := .homeMove s.cur s.arg d, cur := s.cur, arg := s.arg }] }
      else s1
    | none => s1

/-- HOME_MOVE: once every accepted batch is applied, the page with all its state stands at its new home, which for a page in HBM is a
die whose stack holds pages and has room (R453); batches not yet
accepted, and dies whose HLT names the old home, are forwarded. -/
def execHomeMove (part page die : Nat) (s : State) : Out :=
  .next <|
  let pk := pageKey part (page * 65536) 0
  match Tab.find? s.pages pk with
  | none => s
  | some p =>
    if !s.movable part pk p || die = p.home || !(s.die die).joined || (s.die die).part != part ||
        (!p.t2 && (!(s.die die).full || s.roomIn false die < pageBytes p.psz)) then s
    else
      let fwd := (List.range 32).filter fun d => (Tab.find? s.hlt (pk * 32 + d)).any (· != die)
      let mine := fun (b : Batch) => !b.applied && !b.push && b.cells.any fun (c : Host.Cell) =>
        isGlobKey c.1 && ((s.pageOfKey c.1).map Prod.fst) = some pk
      { s with pages := Tab.put s.pages pk { p with home := die, fwd := fwd }
               batches := s.batches.map fun b => if mine b then { b with home := die } else b }

/-- REQUEST_FORWARD: the old home forwards a request of `die`, and the reply corrects that die's HLT. -/
def execRequestForward (die part page : Nat) (s : State) : Out :=
  .next <|
  let pk := pageKey part (page * 65536) 0
  match Tab.find? s.pages pk with
  | none => s
  | some p =>
    if p.fwd.contains die then
      { s with hlt := Tab.put s.hlt (pk * 32 + die) p.home, pages := Tab.put s.pages pk { p with fwd := p.fwd.filter (· != die) } }
    else s

/-- HLT_MISS_FILL: a miss is filled from the home directory; nothing is cached for an unmapped page. -/
def execHltMissFill (die part page : Nat) (s : State) : Out :=
  .next <|
  let pk := pageKey part (page * 65536) 0
  match Tab.find? s.pages pk with
  | none => s
  | some p =>
    if (Tab.find? s.hlt (pk * 32 + die)).isSome then s
    else { s with hlt := Tab.put s.hlt (pk * 32 + die) p.home, tcache := if s.tcache.contains pk then s.tcache else pk :: s.tcache }

/-- PAGE_TIER_MIGRATE: page `arg` of partition `cur` moves to the other tier with all its state (R198); only pages mapped
with TIER 2 migrate, and to HBM only in full service (R453). -/
def execPageTierMigrate (s : State) : Out :=
  .next <|
  let pk := pageKey s.cur (s.arg * 65536) 0
  match Tab.find? s.pages pk with
  | none => s
  | some p =>
    if p.tier = 2 && !p.ms && (!p.t2 || (s.part s.cur).full) && pageBytes p.psz ≤ s.roomIn (!p.t2) p.home then
      { s with pages := Tab.put s.pages pk { p with t2 := !p.t2 } }
    else s

end Sys2Proof.Machine
end

