-- ==== Sys2Proof/Machine/Sync.lean ====
section
/-! DEFINITION. Synchronisation at memory (spec/16: R298-R313, R316): full/empty words, generation waits, barriers, atomics
and reductions. -/

namespace Sys2Proof.Machine

/-! ## Performing units and waiter records (R298, R302) -/

/-- The unit that performs a location: a core, a bank or a die's memory-side unit. -/
def State.unitOf (s : State) (k : Nat) : Nat :=
  if isLs k then coreOfLsKey k
  else if isClu k then 2 ^ 20 + bankOfKey k
  else 2 ^ 21 + ((s.pageOfKey k).map fun x => x.2.home).getD 0

/-- Waiter records of a unit. -/
def recordsOf (k : Nat) : Nat := if isLs k then 64 else if isClu k then 32 else 4096

/-- A waiter record is free at the unit of `k`. -/
def State.recordFree (s : State) (k : Nat) : Bool :=
  (s.masters.filter fun ((_, m) : Nat × Master) =>
    m.isParked && (match m.park with | .fe j _ true => s.unitOf j = s.unitOf k | _ => false)).length < recordsOf k

/-- The die whose unit performs a location. -/
def State.dieOfKey (s : State) (k : Nat) : Nat :=
  if isLs k then coreOfLsKey k / 256 else if isClu k then bankOfKey k / 256 else ((s.pageOfKey k).map fun x => x.2.home).getD 0

/-- The site of an uncorrectable error at a unit (R436). -/
def siteOf (k : Nat) : Nat := if isGlobKey k then 2 else 0

/-- Parks or answers on a word's condition: 0 LDSY, 1 STSY, 2 a generation wait, 3 LDPK. -/
def State.wordWait (s : State) (h : Hd) (o : BitVec 4) (c k : Nat) (obj : W64) : State :=
  s.notReady h h.words o (.fe k c (s.recordFree k)) obj

/-- Sets a word's full/empty bit, without waking anyone. -/
def State.setFe (s : State) (k : Nat) (full : Bool) : State :=
  { s with mem := Tab.set 0 s.mem (feKey k) (if full then 1 else 0) }

/-- Earlier writes of the task to the block that are still to reach its home: the unit performs them first (R234). -/
def State.sameLine (s : State) (pos key : Nat) : List Nat :=
  (s.batches.filter fun b => b.pos = pos && !b.applied && b.cells.any fun (c : Host.Cell) => blockOfCell c.1 = key / 64).map (·.id)

/-- What an operation at another unit follows: the task's earlier accesses of its block, at its unit, and its acquires; at a
memory-side unit, whose writes every die sees at once, also the writes under way that it may have observed (R238, R247), among
them its own to any block of that unit. -/
def State.unitAfter (s : State) (pos key n : Nat) : List Nat :=
  s.sameLine pos key ++ s.unitAhead pos key n ++ if isGlobKey key then s.observed pos else []

/-! ## LDSY, STSY, LDPK, FESET, FEGET, WAITGE, WAITEQ (R305, R306) -/

/-- WAITGE's word `w` has not come from `b` as far as `a` (R306). -/
def early (w a b : Nat) : Bool :=
  (w + 2 ^ 32 - b % 2 ^ 32) % 2 ^ 32 < (a % 2 ^ 32 + 2 ^ 32 - b % 2 ^ 32) % 2 ^ 32

/-- The effect of an instruction on the word at `k`, run as the master `cur`; `a` and `b` are the sampled registers. -/
def State.wordEffect (s : State) (i : Instr) (k : Nat) (a b : W64) (obj : W64) : State :=
  let w := s.memNat k 4
  let full := s.rdFe k
  let acq := fun (ord : BitVec 2) (s : State) => if ordAcq ord then s.dropKeptAll else s
  let data : W64 := BitVec.ofNat 64 w
  match s.ueIn Rdr.home k 4 with
  | some blk =>
    match i with
    | .ldsy x | .ldpk x | .feget x => s.unitUe x.h x.h.words (siteOf k) (blockEa obj k blk) true fun m => m.ws x.sr 0
    | _ => s.unitUe (unitHd i) (unitHd i).words (siteOf k) (blockEa obj k blk) false id
  | none =>
    match i with
    | .ldsy x =>
      if !full then s.wordWait x.h oEmpty 0 k obj
      else
        let s1 : State := { s.setFe k false with mem := setCells (s.setFe k false).mem (tagClears k 4) }
        (acq x.ord (((s1.wakeWords [k]).wakeFe k false).upd fun m => m.ws x.sr data)).done x.h x.h.words
    | .stsy x =>
      if full then s.wordWait x.h oFull 1 k obj
      else (((s.unitWrite k (leBytes 4 a.toNat)).setFe k true).wakeFe k true).done x.h x.h.words
    | .ldpk x =>
      if !full then s.wordWait x.h oEmpty 3 k obj
      else (acq x.ord (s.upd fun m => m.ws x.sr data)).done x.h x.h.words
    | .feset x =>
      let s1 := (s.setFe k x.full).wakeWords [k]
      (if x.full = full then s1 else s1.wakeFe k x.full).done x.h x.h.words
    | .feget x =>
      (acq x.ord (s.upd fun m => m.ws x.sr ((if full then 0x100000000 else 0) + data))).done x.h x.h.words
    | .waitge x =>
      if early w a.toNat b.toNat then s.wordWait x.h oEarly 2 k obj else (acq x.ord s).done x.h x.h.words
    | .waiteq x =>
      if w = a.toNat % 2 ^ 32 then (acq x.ord s).done x.h x.h.words else s.wordWait x.h oEarly 2 k obj
    | _ => s

/-- A generation wait at the PC of `m` does not find its word at `k` far enough. -/
def State.genUnmet (s : State) (i : Instr) (m : Master) (k : Nat) : Bool :=
  let w := s.memNat k 4
  match i with
  | .waitge x => early w (m.rs x.sa).toNat (m.rs x.sb).toNat
  | .waiteq x => w != (m.rs x.sr).toNat % 2 ^ 32
  | _ => false

/-- The flow of these instructions: checks and shared outcomes at issue; the effect at issue on the own LS, at the
performing unit elsewhere (R299, R303). -/
def wordI (g : Grp) (i : Instr) (h : Hd) (ord : BitVec 2) (scope : BitVec 3) (mem : MemOp) (write touch excl : Bool)
    (ra rb : Master → W64) (s : State) : Out :=
  s.gate g h.nr fun s =>
    let m := s.me
    let c := m.rc mem.cap
    let ea := m.ea mem
    let acc : Acc :=
      { cap := c, perms := if write then [pLoad, pStore, pSync] else [pLoad, pSync], sp := spSync, write := write, tile := true, excl := excl
        ea := ea.toNat, len := 4, align := 4 }
    s.access h h.words acc fun s key =>
      let rel := if ordRel ord then s.earlier s.cur scope else []
      let s0 := if touch then s.dropKept c.space ea 4 else s
      if ownLs s.cur key then
        if !(rel ++ s.unitAhead s.cur key 4).isEmpty then s.hold else s0.wordEffect i key (ra m) (rb m) ea
      else
        let s1 := if touch then s0.touchUnit s.cur key else s
        s1.sendUnit false key (s.needsSlot s.cur key) i { sp := c.space, ea := ea } c (ra m) (rb m) 0 (rel ++ s.unitAfter s.cur key 4)

def execLdsy (x : MemS) (s : State) : Out :=
  wordI .access (.ldsy x) x.h x.ord x.scope x.mem false true true (fun _ => 0) (fun _ => 0) s
def execStsy (x : MemS) (s : State) : Out :=
  wordI .access (.stsy x) x.h x.ord x.scope x.mem true true true (fun m => m.rs x.sr) (fun _ => 0) s
def execLdpk (x : MemS) (s : State) : Out :=
  wordI .access (.ldpk x) x.h x.ord x.scope x.mem false false true (fun _ => 0) (fun _ => 0) s
def execFeset (x : FesetA) (s : State) : Out :=
  wordI .access (.feset x) x.h x.ord x.scope x.mem true true true (fun _ => 0) (fun _ => 0) s
def execFeget (x : MemS) (s : State) : Out :=
  wordI .access (.feget x) x.h x.ord x.scope x.mem false false true (fun _ => 0) (fun _ => 0) s
def execWaitge (x : WaitgeA) (s : State) : Out :=
  wordI .noHandler (.waitge x) x.h x.ord x.scope x.mem false false false (fun m => m.rs x.sa) (fun m => m.rs x.sb) s
def execWaiteq (x : MemS) (s : State) : Out :=
  wordI .noHandler (.waiteq x) x.h x.ord x.scope x.mem false false false (fun m => m.rs x.sr) (fun _ => 0) s

/-! ## Barriers (R307-R310) -/

/-- The span of a barrier instruction: 2 cluster, 3 die, 4 device; none for the others (R307, R308). -/
def spanOf (scope : BitVec 3) : Option Nat :=
  if scope = 0 || scope = 4 then some 4 else if scope = 2 then some 2 else if scope = 3 then some 3 else none

/-- The instance of a tag at a span, seen from a master. The supervisor cores, which stand in no cluster, have at span .CLU one
pseudo-cluster for each partition, past the last cluster, which meets no other span's instance (DESIGN CHOICE, log 81). -/
def State.barInst (s : State) (pos span tag : Nat) : Nat :=
  if span = 2 then (if isSvcPos pos then 512 + s.partOf pos else clusterOf pos) * 8 + tag
  else if span = 3 then 8192 + dieOf pos * 8 + tag
  else 16384 + s.partOf pos * 8 + tag

/-- Dies of an instance. -/
def State.barDies (s : State) (inst : Nat) : List Nat :=
  if inst < 8192 then [inst / 8 / 16] else if inst < 16384 then [(inst - 8192) / 8] else (s.part ((inst - 16384) / 8)).dies

/-- Two instances of one tag overlap: they share a core. -/
def State.barMeets (s : State) (a b : Nat) : Bool :=
  a % 8 = b % 8 && a != b && !(a < 8192 && b < 8192) && (s.barDies a).any (s.barDies b).contains

/-- The tag is held at a span that overlaps the instance's. -/
def State.barTaken (s : State) (inst : Nat) : Bool :=
  s.bars.any fun ((k, b) : Nat × Bar) => b.owner.isSome && s.barMeets inst k

/-- Cycles from the last arrival until GEN is visible. -/
def barLatency (inst : Nat) : Nat := if inst < 8192 then 8 else if inst < 16384 then 24 else 160

/-- Wakes the waiters of an instance, and those that wait to claim its tag at an overlapping span (R308). -/
def State.wakeBar (s : State) (inst : Nat) : State :=
  s.wakeAll fun _ m => match m.park with
    | .bar k => k = inst || s.barMeets inst k
    | _ => false

/-- The issuer's launch holds the tag; a supervisor core holds it for itself (notes/assumptions/81.md). -/
def State.barHeld (s : State) (pos inst : Nat) : Bool := (s.bar inst).owner = some (s.party pos)

/-- The barrier root's request, which takes no request slot and is answered within 320 cycles. -/
def State.sendBar (s : State) (i : Instr) (inst : Nat) (a : W64) (mark : Bool) (after : List Nat) : State :=
  let m := s.me
  let r : Req :=
    { id := s.nextReq, pos := s.cur, pc := m.pc, slot := false, key := 2 ^ 80 + inst, bank := 0, mark := mark
      k := .unit i (2 ^ 80 + inst) { sp := 0, ea := 0 } Cap.null a 0 0, due := s.cyc + 320, lslot := s.party s.cur, after := after
      drop := false }
  { s with reqs := s.reqs ++ [r], nextReq := s.nextReq + 1 }.noteSent s.cur r.lslot

/-- BARC: performed at the instance's root. -/
def execBarc (x : BarA) (s : State) : Out :=
  s.gate .noHandler x.h.nr fun s =>
    match spanOf x.scope with
    | none => illegal 4 s
    | some sp =>
      let s1 := s.sendBar (.barc x) (s.barInst s.cur sp x.tag.toNat) (s.me.rs x.sr) false []
      (s1.upd fun m => { m with await := true }).parkM s.cur .reply 0xF 0

/-- BARA: the arrival is registered at the root, after the task's earlier accesses with .REL; one that other dies see, also after
the writes under way that the task may have observed (R238, R241). -/
def execBara (x : BarA) (s : State) : Out :=
  s.gate .noHandler x.h.nr fun s =>
    match spanOf x.scope with
    | none => illegal 4 s
    | some sp =>
      let inst := s.barInst s.cur sp x.tag.toNat
      if !s.barHeld s.cur inst then illegal 6 s
      else (s.sendBar (.bara x) inst 0 true
        ((if ordRel x.ord then s.earlier s.cur x.scope else []) ++ if sp = 4 then s.observed s.cur else [])).done x.h x.h.words

/-- BART: GEN as the issuing core sees it. -/
def execBart (x : BarA) (s : State) : Out :=
  s.gate .noHandler x.h.nr fun s =>
    match spanOf x.scope with
    | none => illegal 4 s
    | some sp =>
      let inst := s.barInst s.cur sp x.tag.toNat
      if !s.barHeld s.cur inst then illegal 6 s
      else if !(s.unitAhead s.cur (2 ^ 80 + inst) 0).isEmpty then s.hold
      else if (s.bar inst).gen != (s.me.rs x.sr).toNat % 2 ^ 32 then
        (if ordAcq x.ord then s.dropKeptAll else s).done x.h x.h.words
      else s.notReady x.h x.h.words oBar (.bar inst) (BitVec.ofNat 64 x.tag.toNat)

/-- BARC's named condition at the root: the tag is held by another launch, with arrivals, or at an overlapping span (R308). -/
def State.barRefuses (s : State) (pos inst : Nat) : Bool :=
  match (s.bar inst).owner with
  | none => s.barTaken inst
  | some l => l != s.party pos || (s.bar inst).arr > 0

/-- BARC's effect at the root (R308). -/
def State.barClaim (s : State) (x : BarA) (inst : Nat) (a : W64) : State :=
  let b := s.bar inst
  let n := a.toNat
  if n ≥ 2 ^ 24 then illegal 6 s
  else if s.barRefuses s.cur inst then s.notReady x.h x.h.words oFull (.bar inst) (BitVec.ofNat 64 x.tag.toNat)
  else match b.owner with
  | none =>
    if n = 0 then s.done x.h x.h.words
    else ((s.setBar inst { b with owner := some (s.party s.cur), count := n, arr := 0 }).wakeBar inst).done x.h x.h.words
  | some _ =>
    ((s.setBar inst (if n = 0 then { b with owner := none, count := 0 } else { b with count := n })).wakeBar inst).done x.h x.h.words

/-- An arrival registers (R307, R309); answers the ticket. One in flight across a release of its tag counts in the tag's state as
it finds it (notes/assumptions/82.md). -/
def State.barArrive (s : State) (inst : Nat) : State × Nat :=
  let b := s.bar inst
  let g := (b.gen + b.closed.length) % 2 ^ 32
  let b' := if b.arr + 1 ≥ b.count then { b with arr := 0, closed := b.closed ++ [s.cyc] } else { b with arr := b.arr + 1 }
  ((s.setBar inst b').wakeBar inst, g)

/-- BARRIER_GEN_ADVANCE: GEN of instance `cur` advances past a closed generation on every core of the instance, when its span's
latency has passed (R307). -/
def execBarrierGenAdvance (s : State) : Out :=
  .next <|
  let b := s.bar s.cur
  match b.closed with
  | [] => s
  | t :: rest =>
    if s.cyc < t + barLatency s.cur then s
    else (s.setBar s.cur { b with closed := rest, gen := (b.gen + 1) % 2 ^ 32 }).wakeBar s.cur

/-- A launch's tags are released at its end (R307, R316). -/
def State.dropBars (s : State) (lslot : Nat) : State :=
  s.bars.foldl (fun s ((k, b) : Nat × Bar) =>
    if b.owner = some lslot then (s.setBar k { b with owner := none, count := 0, arr := 0 }).wakeBar k else s) s

/-- A barrier instruction of the master at `pos` meets its named condition: BART's generation has not ended, or BARC's claim is
refused (R308, R310). -/
def State.barUnmet (s : State) (i : Instr) (pos : Nat) : Bool :=
  let inst := fun (x : BarA) => (spanOf x.scope).map fun sp => s.barInst pos sp x.tag.toNat
  match i with
  | .bart x => (inst x).any fun k => s.barHeld pos k && (s.bar k).gen = ((s.ms pos).rs x.sr).toNat % 2 ^ 32
  | .barc x => (inst x).any (s.barRefuses pos)
  | _ => false

/-! ## AMO, AMOCAS (R311) -/

/-- The value an atomic writes; none when AMOCAS's compare fails. `a` is sd and `b` sb as read at issue. -/
def amoF (i : Instr) (w old a b : Nat) : Option Nat :=
  match i with
  | .amoAdd _ | .redAdd _ => some (viAdd w old b)
  | .amoSub _ => some (viSub w old b)
  | .amoMin _ | .redMin _ => some (viMin w old b)
  | .amoMax _ | .redMax _ => some (viMax w old b)
  | .amoMinu _ => some (Nat.min old b)
  | .amoMaxu _ => some (Nat.max old b)
  | .amoAnd _ | .redAnd _ => some (old &&& b)
  | .amoOr _ | .redOr _ => some (old ||| b)
  | .amoXor _ | .redXor _ => some (old ^^^ b)
  | .amoSwp _ => some b
  | .amocas _ => if old = a then some b else none
  | .redFadd _ => some (vfAdd ffF 0 old b)
  | _ => none

/-- Performs an atomic of `n` bytes on the datum at `k`: the old value and whether the compare failed. -/
def State.amoStep (s : State) (i : Instr) (n k : Nat) (a b : W64) : State × Nat × Bool :=
  let w := 8 * n
  let old := s.memNat k n
  match amoF i w old (a.toNat % 2 ^ w) (b.toNat % 2 ^ w) with
  | some v => (s.unitWrite k (leBytes n v), old, false)
  | none => (s, old, true)

/-- Logs an error that a unit met, on behalf of a task, or of none once the task has been killed (R436). -/
def State.logAt (s : State) (pos : Nat) (ea : W64) (k blk : Nat) : State :=
  if pos = nowhere then s.logUeDie (s.dieOfKey k) 0 (siteOf k) (blockEa ea k blk) 0 else s.logUe pos 0 (siteOf k) (blockEa ea k blk) 0

/-- An atomic's register writes, for the task at `pos` (R311, R303): on an uncorrectable error sd := 0, o := ERR, and the
launch is doomed. -/
def State.amoAt (s : State) (pos : Nat) (i : Instr) (sd : SReg) (n : Nat) (ea : W64) (k : Nat) (a b : W64) : State × List RegW :=
  match s.ueIn Rdr.home k n with
  | some blk => ((s.logAt pos ea k blk).doomBy pos, [.s sd.toNat 0, .o oErr])
  | none =>
    let (s1, old, failed) := s.amoStep i n k a b
    (s1, .s sd.toNat (BitVec.ofNat 64 old) :: if failed then [.o oFalse] else [])

/-- Bytes of an atomic's element type. -/
def amoBytes (et : BitVec 4) : Nat := if et = 4 then 8 else 4

/-- The checks and shared outcomes of AMO and RED, before `k` at the datum's key. On the own LS the datum is updated at issue, and so
after the task's accesses that it must follow. -/
def State.amoIssue (s : State) (h : Hd) (mem : MemOp) (perms : List Nat) (n : Nat) (k : State → Nat → Opd → State) : State :=
  let m := s.me
  let c := m.rc mem.cap
  let ea := m.ea mem
  let a : Acc := { cap := c, perms := perms, sp := spSync, write := true, ea := ea.toNat, len := n, align := n }
  match s.check s.cur a with
  | some f => s.fault f
  | none => s.proofCheck fun s =>
    match physKey s s.cur c.space ea.toNat with
    | none => s.fault (capFlt cSpace 3 0 c ea.toNat)
    | some key =>
      if ownLs s.cur key && !(s.unitAhead s.cur key n).isEmpty then s.hold
      else if s.slotFull s.cur key then s.notReady h h.words oFull (.slot (s.bankOf key)) ea
      else if s.switching s.cur c.space ea.toNat n || m.overlaps s.cur c.space ea.toNat n true then
        s.notReady h h.words oBusy .busy ea
      else k s key { sp := c.space, ea := ea }

def amoI (i : Instr) (x : AmoA) (s : State) : Out :=
  s.gate .noHandler x.h.nr fun s =>
    let n := amoBytes x.et
    s.amoIssue x.h x.mem [pLoad, pStore, pAtomic] n fun s key opd =>
      let m := s.me
      let rel := if ordRel x.ord then s.earlier s.cur x.scope else []
      let acq := fun (s : State) => if ordAcq x.ord then s.dropKeptAll else s
      let s0 := s.dropKept opd.sp opd.ea n
      if ownLs s.cur key then
        if !rel.isEmpty then s.hold
        else
          let (s1, ws) := s0.amoAt s.cur i x.sd n opd.ea key (m.rs x.sd) (m.rs x.sb)
          ((acq s1).done x.h x.h.words).upd fun m => m.landAll ws
      else
        let after := rel ++ s.unitAfter s.cur key n
        (((acq s0).touchUnit s.cur key).request s.cur key (s.needsSlot s.cur key) true (.unit i key opd Cap.null (m.rs x.sd) (m.rs x.sb) 0)
          after).done x.h x.h.words

def execAmoAdd (x : AmoA) (s : State) : Out := amoI (.amoAdd x) x s
def execAmoSub (x : AmoA) (s : State) : Out := amoI (.amoSub x) x s
def execAmoMin (x : AmoA) (s : State) : Out := amoI (.amoMin x) x s
def execAmoMax (x : AmoA) (s : State) : Out := amoI (.amoMax x) x s
def execAmoMinu (x : AmoA) (s : State) : Out := amoI (.amoMinu x) x s
def execAmoMaxu (x : AmoA) (s : State) : Out := amoI (.amoMaxu x) x s
def execAmoAnd (x : AmoA) (s : State) : Out := amoI (.amoAnd x) x s
def execAmoOr (x : AmoA) (s : State) : Out := amoI (.amoOr x) x s
def execAmoXor (x : AmoA) (s : State) : Out := amoI (.amoXor x) x s
def execAmoSwp (x : AmoA) (s : State) : Out := amoI (.amoSwp x) x s
def execAmocas (x : AmoA) (s : State) : Out := amoI (.amocas x) x s

/-- Operands of an AMO or AMOCAS. -/
def amoArgs : Instr → Option AmoA
  | .amoAdd x | .amoSub x | .amoMin x | .amoMax x | .amoMinu x | .amoMaxu x | .amoAnd x | .amoOr x | .amoXor x | .amoSwp x
  | .amocas x => some x
  | _ => none

def redArgs : Instr → Option RedA
  | .redAdd x | .redMin x | .redMax x | .redAnd x | .redOr x | .redXor x | .redFadd x => some x
  | _ => none

/-- A request may be performed: its predecessors are performed, and at a memory-side unit the earlier operations of its task there
(R247); at another core's LS it is the message that slot 15 serves next, in one of its issue cycles (R209). -/
def State.unitReady (s : State) (r : Req) : Bool :=
  !s.waiting r.after &&
  !(s.reqs.any fun q => q.id < r.id && q.pos = r.pos && q.pending && q.unitKey.any fun a => r.unitKey.any fun b => s.sameUnit a b) &&
  r.message.all fun core => (s.nextMsg core).any (fun q => q.id = r.id) && s.turn15 core

/-- The performance of a message takes an issue cycle of slot 15. -/
def State.performs (s : State) (r : Req) : State :=
  match r.message with
  | some core => s.useTurn15 core
  | none => s

/-- AMO_PERFORM: the unit performs atomic `cur` indivisibly; its reply carries the old value. -/
def execAmoPerform (s : State) : Out :=
  .next <|
  match s.req? s.cur with
  | none => s
  | some r =>
    match r.k with
    | .unit i key opd _ a b _ =>
      match amoArgs i with
      | none => s
      | some x =>
        if !s.unitReady r then s else
        let (s1, ws) := (s.performs r).amoAt r.pos i x.sd (amoBytes x.et) opd.ea key a b
        if r.pos = nowhere then s1.reqEnd r
        else ({ s1 with reqs := s1.reqs.map fun q => if q.id = r.id then { q with k := .done ws } else q } : State).markerWake r.pos
    | _ => s

/-! ## RED, REDW (R312, R313) -/

/-- Performs a reduction; on an uncorrectable error nothing is written and ERRST.REDERR is set, not consumed. -/
def State.redAt (s : State) (pos : Nat) (i : Instr) (n : Nat) (ea : W64) (k : Nat) (b : W64) : State :=
  match s.ueIn Rdr.home k n with
  | some blk =>
    if pos = nowhere then s.logAt pos ea k blk else (s.logAt pos ea k blk).updM pos fun m => { m.setErr errRed with rRep := true }
  | none => (s.amoStep i n k 0 b).1

def redI (i : Instr) (x : RedA) (s : State) : Out :=
  s.gate .noHandler x.h.nr fun s =>
    let n := amoBytes x.et
    s.amoIssue x.h x.mem [pStore, pAtomic] n fun s key opd =>
      let m := s.me
      if m.pend ≥ 16 then s.notReady x.h x.h.words oFull (.red 15) 0
      else if ownLs s.cur key then ((s.dropKept opd.sp opd.ea n).redAt s.cur i n opd.ea key (m.rs x.sb)).done x.h x.h.words
      else
        let s1 := ((s.dropKept opd.sp opd.ea n).touchUnit s.cur key).upd fun m => { m with pend := m.pend + 1 }
        (s1.request s.cur key (s.needsSlot s.cur key) false (.unit i key opd Cap.null 0 (m.rs x.sb) 0)
          (s.unitAfter s.cur key n)).done x.h x.h.words

def execRedAdd (x : RedA) (s : State) : Out := redI (.redAdd x) x s
def execRedMin (x : RedA) (s : State) : Out := redI (.redMin x) x s
def execRedMax (x : RedA) (s : State) : Out := redI (.redMax x) x s
def execRedAnd (x : RedA) (s : State) : Out := redI (.redAnd x) x s
def execRedOr (x : RedA) (s : State) : Out := redI (.redOr x) x s
def execRedXor (x : RedA) (s : State) : Out := redI (.redXor x) x s
def execRedFadd (x : RedA) (s : State) : Out := redI (.redFadd x) x s

/-- RED_PERFORM: the unit performs reduction `cur`; the acknowledgement frees its slot and retires its PEND entry. -/
def execRedPerform (s : State) : Out :=
  .next <|
  match s.req? s.cur with
  | none => s
  | some r =>
    match r.k with
    | .unit i key opd _ _ b _ =>
      match redArgs i with
      | none => s
      | some x =>
        if !s.unitReady r then s else
        let s1 := (((s.performs r).redAt r.pos i (amoBytes x.et) opd.ea key b).updM r.pos fun m => { m with pend := m.pend - 1 }).reqEnd r
        s1.wakeAll fun k m => k = r.pos && (match m.park with | .red n => m.pend ≤ n | _ => false)
    | _ => s

def execRedw (x : SH) (s : State) : Out :=
  s.gate .noHandler x.h.nr fun s =>
    let m := s.me
    let n := (m.rs x.sr).toNat
    if m.pend ≤ n then
      if m.rRep then (s.upd fun m => { m with rRep := false }).final x.h x.h.words oErr else s.done x.h x.h.words
    else s.notReady x.h x.h.words oEmpty (.red n) 0

/-! ## SYNC_REMOTE_PERFORM (R299) -/

/-- A put to or get from a ring on a memory-side page at its unit: a malformed header is ILLEGAL there (R290, R337). -/
def State.ringEffect (s : State) (op : QOp) (h : Hd) (r : SReg) (x : W64) (k : Nat) (obj : W64) : State :=
  s.proofCheck fun s =>
    if (s.ueIn Rdr.home k 64).isNone && (s.rhead k).bad then illegal 6 s else s.qEffect op h h.words r x k obj

/-- SYNC_REMOTE_PERFORM: the unit performs request `cur` and replies: a word instruction, a barrier arrival or claim, a put or get of
a stage ring on a memory-side page (R337), or a store to control pages that followed other accesses. -/
def execSyncRemotePerform (s : State) : Out :=
  .next <|
  match s.req? s.cur with
  | none => s
  | some r =>
    match r.k with
    | .unit i key opd c a b v =>
      if !s.unitReady r then s else
      let word := (s.performs r).reply r fun s => s.proofCheck fun s =>
        if isClu key && !(s.bank (bankOfKey key)).sw.isEmpty then s.notReady (unitHd i) (unitHd i).words oBusy .busy opd.ea
        else if isClu key && (s.bank (bankOfKey key)).mode != 1 then s.fault (capFlt cSpace 3 0 c opd.ea.toNat)
        else s.wordEffect i key a b opd.ea
      match i with
      | .ldsy _ | .stsy _ | .ldpk _ | .feset _ | .feget _ | .waitge _ | .waiteq _ => word
      | .barc x => s.reply r fun s => s.barClaim x (key - 2 ^ 80) a
      | .bara x =>
        let (s1, g) := s.barArrive (key - 2 ^ 80)
        s1.returned r [.s x.sr.toNat (BitVec.ofNat 64 g)] none
      | .spawn x => if isClu key then s else s.reply r fun s => s.ringEffect .put x.h 0 a key opd.ea
      | .sqget x => if isClu key then s else s.reply r fun s => s.ringEffect .get x.h x.sr a key opd.ea
      | _ => if r.toCtl && !s.windowWaits key (accessLen i) then (s.ctlPut i key a b v).reqEnd r else s
    | _ => s

end Sys2Proof.Machine
end

