-- ==== Sys2Proof/Machine/Task.lean ====
section
/-! DEFINITION. The task system (spec/18: R320-R342): launch records and the dispatcher, gangs, stage rings, rounds, the end of a
launch and the deadlock detector; the task-system instructions. -/

namespace Sys2Proof.Machine

/-- A field of a record. -/
def fld {n : Nat} (x : BitVec n) (lo len : Nat) : Nat := (x.extractLsb' lo len).toNat

/-! ## Records (R320) -/

structure RecF where
  arg : BitVec 128
  entry : Nat
  ftab : Nat
  stab : Nat
  gangs : Nat
  gy : Nat
  gx : Nat
  fcnt : Nat
  nslice : Nat
  lease : Nat
  usertag : Nat
  shadow : Nat
  rsv : Bool
  pmode : Nat
  pdie : Nat
  pclu : Nat
  pcore : Nat
  compat : Bool
  gpg : Nat
  tpg : Nat
  stage : Nat
  prio : Nat

def recOf (x : BitVec 1024) : RecF :=
  { arg := x.extractLsb' 896 128, entry := fld x 832 64, ftab := fld x 768 64, stab := fld x 704 64, gangs := fld x 672 32
    gy := fld x 656 16, gx := fld x 640 16, fcnt := fld x 624 16, nslice := fld x 608 16 + 1, lease := fld x 592 16
    usertag := fld x 576 16, shadow := fld x 544 32, rsv := fld x 35 509 != 0 || fld x 8 2 != 0, pmode := fld x 33 2
    pdie := fld x 28 5, pclu := fld x 24 4, pcore := fld x 20 4, compat := fld x 19 1 = 1, gpg := fld x 14 5, tpg := fld x 10 4
    stage := fld x 4 4, prio := fld x 0 4 }

/-! ## Kernel headers (R372-R374) -/

structure HdrF where
  magic : Nat
  hver : Nat
  flags : Nat
  revmask : Nat
  entry : Nat
  slots : Nat
  zacc : Nat
  svn : Nat
  lsb : Nat
  shadow : Nat
  ftoff : Nat
  ftcnt : Nat
  ltcnt : Nat
  ltoff : Nat
  codelen : Nat
  hash : BitVec 384

def State.hdrOf (s : State) (part va : Nat) : HdrF :=
  let f := fun (o n : Nat) => s.memNat (globKey part (va + o)) n
  { magic := f 0 4, hver := f 4 2, flags := f 6 2, revmask := f 8 8, entry := f 16 4, slots := f 20 1, zacc := f 21 1, svn := f 22 2
    lsb := f 24 4, shadow := f 28 4, ftoff := f 32 4, ftcnt := f 36 2, ltcnt := f 38 2, ltoff := f 40 4, codelen := f 44 4
    hash := BitVec.ofNat 384 (f 48 48) }

/-- [lo, hi) lies on mapped pages of the lease. -/
def State.leased (s : State) (part lease lo hi : Nat) : Bool :=
  hi ≤ 2 ^ 64 && (chunksOf lo (hi - lo)).all fun va => (s.pageAt part va).isSome &&
    s.ranges.any fun ((k, r) : Nat × Rng) => k / 4096 = part && !r.rev && r.lease = lease && r.base ≤ va && va < r.base + r.len

/-- The base of the first page of [lo, hi) that is not of the lease (R212, R435). -/
def State.unleasedPage (s : State) (part lease lo hi : Nat) : Nat :=
  s.faultPage part (((chunksOf lo (hi - lo)).find? fun va => !s.leased part lease va (va + 1)).getD lo)

/-- [lo, hi) lies on executable pages. -/
def State.xMapped (s : State) (part lo hi : Nat) : Bool :=
  (chunksOf lo (hi - lo)).all fun va => (s.pageAt part va).any fun x => x.2.x

/-- [va, hi) lies in the code segment that is mapped at `va`: the bytes of one mapped image (DEDUCED, notes/assumptions/101.md). -/
def State.inSegment (s : State) (part va hi : Nat) : Bool :=
  (s.pageAt part va).any fun x => x.2.seg.any fun g => g.1 ≤ va && hi ≤ g.2

/-- The header's checks (R374). An ENTRY or FTCNT outside the range that R372 gives it is of cause 2 too (DEDUCED,
notes/assumptions/101.md). -/
def State.hdrOk (s : State) (part lease va : Nat) : Bool :=
  let h := s.hdrOf part va
  va % 64 = 0 && s.xMapped part va (va + 96) && s.leased part lease va (va + 96) &&
  h.magic = 0x4C41564B && (h.hver = 3 || (h.hver = 2 && h.svn = 0 && h.ltoff = 0 && h.ltcnt = 0)) && h.flags = 0 &&
  h.revmask % 2 = 1 && 1 ≤ h.slots && h.slots ≤ 15 && h.zacc ≤ 8 && 64 ≤ h.lsb && h.lsb ≤ 262144 && h.lsb % 64 = 0 &&
  h.entry % 4 = 0 && 96 ≤ h.entry && h.entry < 96 + h.codelen && h.ftcnt ≤ 4096 &&
  [96 + h.codelen, h.ftoff + 16 * h.ftcnt].all fun n => s.xMapped part va (va + n) && s.inSegment part va (va + n)

/-! ## Checks of a record (R321) -/

/-- ARGCAP names leased memory. -/
def leasedSpace (c : Cap) : Bool := c.space = 3 || c.space = 4 || c.space = 5

/-- The footprint entries, low doubleword and offset. -/
def State.footTable (s : State) (part : Nat) (r : RecF) (h : HdrF) : List (Nat × Nat) :=
  let (base, n) := if r.ftab != 0 then (r.ftab, r.fcnt) else (r.entry + h.ftoff, h.ftcnt)
  (List.range n).map fun i => (s.memNat (globKey part (base + 16 * i)) 8, s.memNat (globKey part (base + 16 * i + 8)) 8)

/-- A footprint entry as ranges relative to ARGCAP's cursor, modulo 2^64. -/
def footRanges (c : Cap) (e : Nat × Nat) : List Foot :=
  let lo := (c.cursor.toNat + e.2) % 2 ^ 64
  let hi := lo + e.1 / 65536
  let write := e.1 / 2 % 2 = 1
  if hi ≤ 2 ^ 64 then [{ lo := lo, hi := hi, write := write }]
  else [{ lo := lo, hi := 2 ^ 64, write := write }, { lo := 0, hi := hi - 2 ^ 64, write := write }]

/-- A reserved bit of an entry is set, or its length is 0. -/
def footBad (e : Nat × Nat) : Bool := e.1 % 2 = 1 || e.1 / 4 % 16384 != 0 || e.1 / 65536 = 0

/-- Entry `i` of a stage table. -/
def State.stageAt (s : State) (part stab i : Nat) : Stage × Bool :=
  let lo := s.memNat (globKey part (stab + 16 * i)) 8
  let hi := s.memNat (globKey part (stab + 16 * i + 8)) 8
  let kind := lo / 2 ^ 60
  let st : Stage :=
    { addr := BitVec.ofNat 64 hi, kind := kind, cores := lo / 2 ^ 48 % 256, high := lo / 2 ^ 32 % 65536, low := lo / 2 ^ 16 % 65536
      w := lo / 256 % 256, above := 0, got := 0 }
  let page := s.pageAt part hi
  let cap := s.memNat (globKey part (hi + 8)) 2
  let ok := kind ≤ 2 && lo / 2 ^ 56 % 16 = 0 && lo % 256 = 0 && (kind = 0 || (st.low < st.high && 1 ≤ st.w &&
    (if kind = 1 then hi < 2 ^ 23 else hi % 64 = 0 && (page.any fun x => x.2.imm && x.2.ms) && 1 ≤ cap && cap ≤ 4096)))
  (st, ok)

/-- A die that the record's placement admits. -/
def pmodeDie (pmode pdie d : Nat) : Bool := pmode = 0 || d = pdie

/-- The lowest-numbered cause for which a record is refused (R321); `host`: taken from a queue. An FCNT above 4,096, or a reserved
bit or LENGTH 0 of a footprint entry, is cause 1 (notes/assumptions/44.md); the header's table is known only of a header that
passes its checks. A host's ARGCAP that no tagged capability may be (R346), or of SPACE PLATE, which PLATE alone makes (R351), fails check 4
(DEDUCED, log 87). -/
def State.refusal (s : State) (part : Nat) (x : BitVec 1024) (tag host : Bool) : Option Nat :=
  let r := recOf x
  let h := s.hdrOf part r.entry
  let c : Cap := { bits := r.arg, tag := true }
  let hdr := s.hdrOk part r.lease r.entry
  let feet := if r.ftab != 0 || hdr then s.footTable part r h else []
  let granted := s.ranges.any fun ((k, g) : Nat × Rng) => k / 4096 = part && g.lease = r.lease
  if r.rsv || r.prio > 10 || r.gangs = 0xFFFFFFFF || r.gx = 0 || r.gy = 0 || r.gpg = 0 || r.gpg > 16 || r.tpg = 0 ||
      (r.ftab != 0 && r.fcnt > 4096) || (r.pmode = 3 && r.pcore + r.gpg > 16) || feet.any footBad then some 1
  else if !hdr then some 2
  else if r.tpg > h.slots || r.tpg * h.zacc > 16 then some 3
  else if !granted || (!host && !tag) || (host && (!c.valid || c.space = spPlate)) ||
      (leasedSpace c && (!s.leased part r.lease c.base c.top ||
        feet.any fun e => (footRanges c e).any fun g => !s.leased part r.lease g.lo g.hi)) then some 4
  else if r.gangs / (r.gx * r.gy) > 65535 then some 5
  else if !((s.part part).dies.any (pmodeDie r.pmode r.pdie)) || (r.compat && h.lsb > 262080) then some 6
  else if r.stab != 0 && (List.range 16).any fun i => !(s.stageAt part r.stab i).2 then some 7
  else none

/-! ## Completion entries (R322, R457) -/

/-- A write of the device to memory at its home. -/
def State.devWrite (s : State) (part va : Nat) (bs : List Byte) : State := s.unitWrite (globKey part va) bs

/-- COMPLETION_ENTRY_WRITE: entry k at CRING + 16 * (k mod CAP). -/
def State.completion (s : State) (part q usertag cause status lnch : Nat) : State :=
  let sq := Tab.get SubQ.empty (s.part part).sq q
  if sq.log2cap = 0 then s
  else
    let w := usertag * 2 ^ 48 + cause * 2 ^ 40 + status * 2 ^ 32 + lnch
    (s.devWrite part (sq.cring.toNat + 16 * (sq.cputs % 2 ^ sq.log2cap)) (leBytes 16 w)).setSq part q
      { sq with cputs := (sq.cputs + 1) % 2 ^ 32 }

/-! ## DISPATCH_TAKE_RECORD (R321, R323, R406, R409) -/

/-- One of several values among which the specification does not choose: the next free value decides (R3). -/
def State.pickOf (s : State) (l : List Nat) : Option Nat := l[Config.freeNat s.free % l.length]?

/-- A free value has been used. -/
def State.drew (s : State) : State := { s with free := s.free + 1 }

/-- A proof id that is not live and that R414 permits again; which one is free (R423). -/
def State.freeProof (s : State) : Option Nat :=
  s.pickOf (((List.range 65535).map (· + 1)).filter fun i => (Tab.find? s.proofs i).isNone && (Tab.find? s.retired i).isNone)

/-- Shadow bytes that the partition's launches have reserved. -/
def State.shadowUsed (s : State) (part : Nat) : Nat :=
  (s.launches.filter fun ((_, l) : Nat × Launch) => l.part = part).foldl (fun n ((_, l) : Nat × Launch) => n + l.budget) 0

/-- A launch from a record that passed its checks. -/
def State.newLaunch (s : State) (part q : Nat) (x : BitVec 1024) (slot root : Nat) : State :=
  let r := recOf x
  let h := s.hdrOf part r.entry
  let c : Cap := { bits := r.arg, tag := true }
  let g := Tab.get 0 s.gens slot
  let gen := if g ≥ 65535 then 1 else g + 1
  let l : Launch :=
    { st := .running, gen := gen, part := part, sq := q, usertag := r.usertag, compat := r.compat, lease := r.lease, prio := r.prio
      arg := c, entry := BitVec.ofNat 64 (r.entry + h.entry), root := root, gx := r.gx, gy := r.gy, gpg := r.gpg, tpg := r.tpg
      pmode := r.pmode, pdie := r.pdie, pclu := r.pclu, pcore := r.pcore, stage := r.stage, nslice := r.nslice, slots := h.slots
      lsb := h.lsb, zacc := h.zacc, hash := h.hash
      foot := if leasedSpace c then (s.footTable part r h).flatMap (footRanges c) else []
      budget := (if r.shadow = 0 then h.shadow else r.shadow) * 4096, use := 0, gangs := r.gangs + 1
      greqs := [{ own := true, first := 0, count := r.gangs + 1, arg := c }]
      stages := if r.stab = 0 then [] else (List.range 16).map fun i => (s.stageAt part r.stab i).1
      clu := none, gov := true, govNew := [], defers := [], halos := [], pend := [], bound := [], ord := s.nextReq, endAt := 0
      sweep := none, stall := s.cyc, stallRep := none }
  { s with nextReq := s.nextReq + 1, launches := Tab.put s.launches slot l, gens := Tab.put s.gens slot gen
           proofs := Tab.put s.proofs root { lslot := slot, parent := 0, depth := 0, st := 0, ord := 0 } }

/-- Checks a record and creates its launch, or refuses it; none when a slot, an id or pool space is missing. -/
def State.takeRecord (s : State) (part q : Nat) (x : BitVec 1024) (tag host : Bool) : Option State :=
  let r := recOf x
  match s.refusal part x tag host with
  | some cause => some (s.completion part q r.usertag cause 2 0)
  | none =>
    let h := s.hdrOf part r.entry
    let budget := (if r.shadow = 0 then h.shadow else r.shadow) * 4096
    match (List.range 64).find? fun i => (Tab.find? s.launches i).isNone, s.freeProof with
    | some slot, some root =>
      if s.proofs.length ≥ 16384 || s.shadowUsed part + budget > Config.shadowPool part then none
      else some (s.drew.newLaunch part q x slot root)
    | _, _ => none

/-- The completion ring of a queue has room for the entry of one record more, beside those of its live launches (R457). -/
def State.ringRoom (s : State) (part q : Nat) : Bool :=
  let sq := Tab.get SubQ.empty (s.part part).sq q
  let live := (s.launches.filter fun ((_, l) : Nat × Launch) => l.part = part && l.sq = q).length
  sq.log2cap = 0 || (sq.cputs + 2 ^ 32 - sq.hidx) % 2 ^ 32 + live < 2 ^ sq.log2cap

/-- With the ring full the host may have read on, up to CPUTS; how far is free (notes/assumptions/17.md). -/
def State.hostReads (s : State) (part q : Nat) : State :=
  if s.ringRoom part q then s
  else
    let sq := Tab.get SubQ.empty (s.part part).sq q
    let n := Config.freeNat s.free % ((sq.cputs + 2 ^ 32 - sq.hidx) % 2 ^ 32 + 1)
    s.drew.setSq part q { sq with hidx := (sq.hidx + n) % 2 ^ 32 }

/-- DISPATCH_TAKE_RECORD: the dispatcher takes partition `cur`'s next record: a deferred submission that has been released,
ahead of queue `arg`'s next record. Neither is taken while its completion ring could overflow. -/
def execDispatchTakeRecord (s : State) : Out :=
  .next <|
  let part := s.cur
  match (s.part part).waiting with
  | w :: rest =>
    let s := s.hostReads part w.sq
    if !s.ringRoom part w.sq then s
    else match s.takeRecord part w.sq w.img w.tag false with
    | some s1 => s1.updPart part fun p => { p with waiting := rest }
    | none => s
  | [] =>
    let q := s.arg
    let sq := Tab.get SubQ.empty (s.part part).sq q
    if q ≥ 16 || sq.log2cap = 0 || sq.puts = sq.gets then s
    else
      let s := s.hostReads part q
      let k := globKey part (sq.ring.toNat + 128 * (sq.gets % 2 ^ sq.log2cap))
      if !s.ringRoom part q then s
      else match s.takeRecord part q (BitVec.ofNat 1024 (s.memNat k 128)) false true with
      | some s1 =>
        s1.setSq part q { Tab.get SubQ.empty (s1.part part).sq q with gets := (sq.gets + 1) % 2 ^ 32 }
      | none => s

/-- SUBMISSION_DOORBELL (R457). -/
def execSubmissionDoorbell (part q : Nat) (puts : W32) (s : State) : Out := .next (s.doorbell part q puts.toNat)

/-! ## Placement (R324, R325) -/

/-- A core holds tasks of a launch with COMPAT set. -/
def State.compatOn (s : State) (core : Nat) : Bool :=
  (s.core core).allocs.any fun a => (s.launch? a.lslot).any (·.compat)

/-- [off, off + size) is free in the core's LS, for a launch with or without COMPAT (R324). -/
def State.lsFree (s : State) (core off size : Nat) (compat : Bool) : Bool :=
  off % 64 = 0 && off + size ≤ 262144 && !((compat || s.compatOn core) && off < 64) &&
  (s.core core).allocs.all fun a => a.base + a.size ≤ off || off + size ≤ a.base

/-- The first free offset, at 0, 64 or the end of an allocation. -/
def State.freeOff (s : State) (core size : Nat) (compat : Bool) : Option Nat :=
  ((0 :: 64 :: (s.core core).allocs.map fun a => a.base + a.size).filter fun o => s.lsFree core o size compat).foldl
    (fun r o => match r with | none => some o | some b => some (Nat.min b o)) none

/-- First of `n` contiguous free tiles; which of several places is free. -/
def State.freeTiles (s : State) (core n : Nat) : Option Nat :=
  s.pickOf ((List.range (17 - n)).filter fun b => (List.range n).all fun i => Tab.get 0 (s.core core).tiles (b + i) = 0)

/-- An LS offset for a new group; which of several is free. -/
def State.anyOff (s : State) (core size : Nat) (compat : Bool) : Option Nat :=
  s.pickOf (((List.range 4096).map (· * 64)).filter fun o => s.lsFree core o size compat)

/-- Free task slots of a core. -/
def State.freeSlots (s : State) (core : Nat) : List Nat :=
  (List.range 15).filter fun i => (s.ms (core * 16 + i)).kind = .empty

/-- A core is in a die of the partition that has joined. -/
def State.coreIn (s : State) (part core : Nat) : Bool :=
  (s.part part).dies.contains (core / 256) && (s.die (core / 256)).joined && !(s.die (core / 256)).failed

/-- A launch with COMPAT set may stand on the core: no other one stands there, and no allocation covers LS bytes 0-63 (R324). -/
def State.compatFits (s : State) (l : Launch) (core : Nat) : Bool :=
  !l.compat || (s.core core).allocs.all fun a => 64 ≤ a.base && !(s.launch? a.lslot).any fun k => k.compat && k.ord != l.ord

/-- A core takes a group of a launch at an LS offset. -/
def State.groupFits (s : State) (l : Launch) (core off : Nat) : Bool :=
  s.coreIn l.part core && (s.freeSlots core).length ≥ l.tpg && (s.freeTiles core (l.tpg * l.zacc)).isSome &&
  s.lsFree core off l.lsb l.compat && s.compatFits l core

/-- Cores b to b + GPG - 1 meet PMODE and stand in one cluster. -/
def Launch.pmodeOk (l : Launch) (b : Nat) : Bool :=
  b % 16 + l.gpg ≤ 16 && pmodeDie l.pmode l.pdie (b / 256) && (l.pmode < 2 || b / 16 % 16 = l.pclu) && (l.pmode != 3 || b % 16 = l.pcore)

/-- The gang is placeable on cores b on, with these LS offsets. -/
def State.gangFits (s : State) (l : Launch) (b : Nat) (offs : List Nat) : Bool :=
  l.pmodeOk b && offs.length = l.gpg && (List.range l.gpg).all fun i => s.groupFits l (b + i) (offs.getD i 0)

/-- A page of the launch's lease is ABU-placed. -/
def State.abuLease (s : State) (l : Launch) : Bool :=
  s.ranges.any fun ((k, r) : Nat × Rng) => k / 4096 = l.part && r.lease = l.lease &&
    (chunksOf r.base r.len).any fun va => (s.pageAt l.part va).any fun x => x.2.abu

/-- Offsets for a gang on cores b on, if it fits there. -/
def State.offsAt (s : State) (l : Launch) (b : Nat) : Option (List Nat) :=
  let os := (List.range l.gpg).filterMap fun i => s.freeOff (b + i) l.lsb l.compat
  if s.gangFits l b os then some os else none

/-- A placement of a launch's next gang, the first in ascending position. -/
def State.place (s : State) (l : Launch) : Option (Nat × List Nat) :=
  ((s.part l.part).dies.flatMap fun d => (List.range 256).map fun i => d * 256 + i).findSome? fun b =>
    if l.pmodeOk b then (s.offsAt l b).map fun o => (b, o) else none

def Foot.meets (a b : Foot) : Bool := (a.write || b.write) && a.lo < b.hi && b.lo < a.hi

/-- The launch waits on an earlier one whose footprint conflicts (R327). -/
def State.dependent (s : State) (l : Launch) : Bool :=
  s.launches.any fun ((_, k) : Nat × Launch) => k.part = l.part && k.ord < l.ord && l.foot.any fun f => k.foot.any f.meets

/-- The launch has a gang to place, and nothing but placement holds it back. -/
def State.waitingGang (s : State) (l : Launch) : Bool :=
  (l.st = .running || l.st = .doomed) && !l.greqs.isEmpty && !s.dependent l && !s.power.hold &&
  !(!(s.part l.part).full && s.abuLease l)

/-- Locality bin of a record (R325). -/
def Launch.bin (l : Launch) : Nat :=
  let x := fld l.arg.cursor 12 15
  (x % 64) ^^^ (x / 64 % 64) ^^^ (x / 4096)

/-- The launch of a level that is served next, with the bin drained and the order at which its drain began. -/
def State.nextInLevel (s : State) (part prio : Nat) : Option (Nat × Nat × Nat) :=
  let cands := s.launches.filter fun ((_, l) : Nat × Launch) => l.part = part && l.prio = prio && s.waitingGang l
  let first := fun (b lim : Nat) =>
    (cands.filter fun ((_, l) : Nat × Launch) => l.bin = b && l.ord < lim).foldl (fun (r : Option (Nat × Nat)) ((i, l) : Nat × Launch) =>
      match r with
      | some (_, o) => if l.ord < o then some (i, l.ord) else r
      | none => some (i, l.ord)) none
  let (bin, lim) := Tab.get (0, 0) (s.part part).bins prio
  match first bin lim with
  | some (i, _) => some (i, bin, lim)
  | none =>
    ((List.range 64).map fun i => (bin + 1 + i) % 64).findSome? fun b => (first b s.nextReq).map fun x => (x.1, b, s.nextReq)

/-- The launches whose next gang is placeable now have not stalled (R326). -/
def State.stalls (s : State) : State :=
  { s with launches := s.launches.map fun ((i, l) : Nat × Launch) =>
      (i, if l.greqs.isEmpty || (s.place l).isNone then l else { l with stall := s.cyc }) }

/-- A core is kept for a gang of priority above `prio` whose stall has been reported and which is placeable there now (R326). -/
def State.promised (s : State) (part core prio : Nat) : Bool :=
  s.launches.any fun ((_, l) : Nat × Launch) => l.part = part && prio < l.prio && l.stallRep.isSome && s.waitingGang l &&
    (List.range l.gpg).any fun i => i ≤ core && l.pmodeOk (core - i) && (s.offsAt l (core - i)).isSome

/-- A higher level of the partition holds a placeable gang. -/
def State.higherPlaceable (s : State) (l : Launch) : Bool :=
  s.launches.any fun ((_, k) : Nat × Launch) => k.part = l.part && l.prio < k.prio && s.waitingGang k && (s.place k).isSome

/-! ## Creating tasks (R19, R323) -/

/-- The cells of [k, k + n) of LS, its descriptors, tags and full/empty bits are all zero and empty. -/
def State.clearLs (s : State) (core off n : Nat) : State :=
  let lo := lsKey core off / 64
  { s with mem := s.mem.filter fun (x : Host.Cell) => !(lo ≤ blockOfCell x.1 && blockOfCell x.1 < lo + n / 64) }

/-- The shape record of a launch with COMPAT set stands in LS bytes 0-63 of each core it holds (R165); no field of the launch
record gives its values, so they are free. -/
def State.putShape (s : State) (core lslot : Nat) : State :=
  match s.launch? lslot with
  | some l =>
    if l.compat && !((s.core core).allocs.any fun a => a.lslot = lslot) then
      { s with mem := setCells s.mem (dataCells (lsKey core 0) (leBytes 64 (Config.shape l.ord).toNat)) }
    else s
  | none => s

/-- Grants a group an LS allocation, and gives the group the state's `nextReq` as its number. -/
def State.grantLs (s : State) (core lslot gang grp off size : Nat) : State :=
  { ((s.putShape core lslot).clearLs core off size).updCore core (fun c =>
      { c with allocs := c.allocs ++ [{ lslot := lslot, gang := gang, grp := grp, base := off, size := size, pinned := false, gno := s.nextReq }] }) with
    nextReq := s.nextReq + 1 }

/-- Clears tiles `z` to `z + n - 1` of a core, with their tags and errors. -/
def State.dropTiles (s : State) (core z n : Nat) : State :=
  let mine := fun (t : Nat) => core * 16 + z ≤ t && t < core * 16 + z + n
  { s with tiles := s.tiles.filter fun ((k, _) : Nat × W32) => !mine (k / 1024)
           ztag := s.ztag.filter fun t => !mine t
           zbad := s.zbad.filter fun t => !mine t }

/-- Tiles of a task: all zero with tag FP32, owned by the task at `pos`. -/
def State.grantTiles (s : State) (core pos base n : Nat) : State :=
  (s.dropTiles core base n).updCore core fun c =>
    { c with tiles := (List.range n).foldl (fun t i => Tab.put t (base + i) (pos + 1)) c.tiles }

def coordOf (l : Launch) (g : Nat) : W64 :=
  BitVec.ofNat 64 (g % l.gx + g / l.gx % l.gy * 2 ^ 16 + g / (l.gx * l.gy) * 2 ^ 32)

/-- A new task, but for the number of its group. -/
def State.newTask (s : State) (lslot : Nat) (l : Launch) (arg : Cap) (gang grp task stage lsbase zbase : Nat) : Master :=
  let stageTask := gang = 0xFFFFFFFF
  ({ Master.empty with
      kind := .task, st := .ready, pc := l.entry, taskid := task, grpid := grp, gangid := gang
      coord := if stageTask then 0 else coordOf l gang, lslot := lslot, lgen := l.gen, stage := stage, proof := l.root, lsbase := lsbase
      lssize := l.lsb, zbase := if l.zacc = 0 then 0 else zbase, zcount := l.zacc, prio := l.prio
      slice := if stageTask then 0 else ((gang * l.gpg + grp) * l.tpg + task) % l.nslice, nslice := l.nslice, issued := s.cyc
      since := s.cyc, woke := s.cyc } : Master).wc 1 { arg with tag := true }

/-- A core can reach the ring of a stage: a FIFO bank only from its own cluster (R329, R330). -/
def Launch.reaches (l : Launch) (st : Stage) (core : Nat) : Bool := st.kind != 1 || l.clu = some (core / 16)

/-- The core joins the launch's pool, if it has one: it is assigned to the first stage that still lacks a core and whose ring it
reaches, or else to the record's STAGE (R328). -/
def State.joinPool (s : State) (lslot core : Nat) : State :=
  match s.launch? lslot with
  | none => s
  | some l =>
    let ids := List.range l.stages.length
    let assign := fun (s : State) (i : Nat) => s.updCore core fun c => { c with stage := c.stage ++ [(lslot, i)] }
    if (s.core core).stage.any fun x => x.1 = lslot then s
    else match ids.find? fun i => (l.stages[i]?).any fun st => st.got < st.cores && l.reaches st core with
    | some i =>
      (assign s i).updLaunch lslot fun l => { l with stages := (ids.zip l.stages).map fun ((n, st) : Nat × Stage) =>
        if n = i then { st with got := st.got + 1 } else st }
    | none => if (l.stages[l.stage]?).any fun st => l.reaches st core then assign s l.stage else s

/-- Places one group. -/
def State.placeGroup (s0 : State) (lslot : Nat) (l : Launch) (arg : Cap) (gang grp core off : Nat) : State :=
  let base := (s0.freeTiles core (l.tpg * l.zacc)).getD 0
  let slots := (s0.freeSlots core).take l.tpg
  let s1 := (s0.drew.grantLs core lslot gang grp off l.lsb).joinPool lslot core
  ((List.range slots.length).zip slots).foldl (fun s ((t, slot) : Nat × Nat) =>
    let pos := core * 16 + slot
    let z := base + t * l.zacc
    (s.grantTiles core pos z l.zacc).setM pos { s.newTask lslot l arg gang grp t l.stage off z with gno := s0.nextReq }) s1

/-- GANG_DISPATCH: launch `slot`'s next gang is placed whole on cores `core` on, with these LS offsets, if it is the launch
whose turn it is (R325). -/
def execGangDispatch (slot core : Nat) (offs : List Nat) (s : State) : Out :=
  .next <|
  match s.launch? slot with
  | none => s
  | some l =>
    match s.nextInLevel l.part l.prio, l.greqs with
    | some (i, bin, lim), g :: rest =>
      if i != slot || s.higherPlaceable l || !s.gangFits l core offs then s
      else
        let s0 := s.setLaunch slot { l with clu := l.clu <|> some (core / 16) }
        let s1 := (List.range l.gpg).foldl (fun s grp => s.placeGroup slot l g.arg g.first grp (core + grp) (offs.getD grp 0)) s0
        let s2 := s1.updLaunch slot fun l =>
          { l with greqs := if g.count ≤ 1 then rest else { g with first := g.first + 1, count := g.count - 1 } :: rest
                   stall := s.cyc, stallRep := none }
        let s3 := s2.updPart l.part fun p => { p with bins := Tab.put p.bins l.prio (bin, lim) }
        s3.wakeAll fun k m => (m.park = .gang && m.lslot = slot) || (m.park = .resume && s.partOf k = l.part)
    | _, _ => s

/-- Tasks of a core whose PRIO, which they keep (R340), is lower than `prio`. -/
def State.lowerTasks (s : State) (prio core : Nat) : List (Nat × Master) :=
  s.masters.filter fun ((k, m) : Nat × Master) => coreOf k = core && m.kind = .task && m.saving.isNone && m.prio < prio

/-- The launches of the tasks of lower priority on a core. -/
def State.lowerOn (s : State) (l : Launch) (core : Nat) : List Nat :=
  ((s.lowerTasks l.prio core).filterMap fun ((_, m) : Nat × Master) => (s.launch? m.lslot).map fun k => lnchid k.gen m.lslot).eraseDups

/-- The core without its tasks of lower priority, and without the allocations that they leave to nobody. -/
def State.sansLower (s : State) (l : Launch) (core : Nat) : State :=
  let low := (s.lowerTasks l.prio core).map Prod.fst
  let rest := s.masters.filter fun ((k, _) : Nat × Master) => !low.contains k
  let used := fun (a : Alloc) =>
    (rest.any fun ((k, m) : Nat × Master) => coreOf k = core && m.kind = .task && m.lslot = a.lslot && m.lsbase = a.base) ||
    !(low.any fun k => (s.ms k).lslot = a.lslot && (s.ms k).lsbase = a.base) || a.pinned
  { s.updCore core fun c =>
      { c with allocs := c.allocs.filter used, tiles := c.tiles.filter fun ((_, o) : Nat × Nat) => !low.contains (o - 1) } with
    masters := rest }

/-- The first cores on which a launch's next gang would be placeable but for tasks of lower priority. -/
def State.stallAt (s : State) (l : Launch) : Option Nat :=
  ((s.part l.part).dies.flatMap fun d => (List.range 256).map fun i => d * 256 + i).find? fun b =>
    l.pmodeOk b && ((List.range l.gpg).any fun i => !(s.lowerOn l (b + i)).isEmpty) &&
    (((List.range l.gpg).foldl (fun s i => s.sansLower l (b + i)) s).offsAt l b).isSome

/-- The priority of a launch before the SETPRIOs of cycle `cyc`. -/
def Launch.prioBefore (l : Launch) (cyc : Nat) : Nat :=
  match l.prioAt with
  | some (c, p) => if c = cyc then p else l.prio
  | none => l.prio

/-- STALL_REPORT: launch `cur`'s next gang has stayed unplaceable beyond the stall limit, while cores that would otherwise take it
hold tasks of lower priority: a TYPE 3 packet, once for the stall (R326, R437), with the priority before a SETPRIO of its cycle (R342). -/
def execStallReport (s : State) : Out :=
  .next <|
  match s.launch? s.cur with
  | none => s
  | some l =>
    let limit := (s.part l.part).dlStall * 1024
    if !s.waitingGang l || l.stallRep.any (l.stall ≤ ·) || s.cyc - l.stall ≤ limit || (s.place l).isSome then s
    else match s.stallAt l with
    | none => s
    | some b =>
      let lower := ((List.range l.gpg).flatMap fun i => s.lowerOn l (b + i)).eraseDups
      let d := fun (i : Nat) => BitVec.ofNat 64 (lower.getD i 0)
      let die := b / 256
      (s.queuePacket die
        { pos := none, type := 3, eng := 0, cause := 0x21, pc := 0, d0 := BitVec.ofNat 64 (l.prioBefore s.cyc + lower.length * 256), d1 := d 0
          d2 := d 1, d3 := d 2, proof := 0, lnch := lnchid l.gen s.cur, round := s.round.num, die := die, clu := b / 16 % 16
          core := 0, slot := 0, svc := false }).updLaunch s.cur fun l => { l with stallRep := some s.cyc }

/-! ## Stage rings (R328, R329, R337) -/

/-- The ring of a stage (R329). -/
def stageKey (l : Launch) (st : Stage) : Nat :=
  if st.kind = 1 then ringKey (cluKey (l.clu.getD 0) (st.addr.toNat % 2 ^ 23)) else globKey l.part st.addr.toNat

/-- The number of items in a stage's ring. A launch none of whose gangs has been placed has no FIFO bank ring yet (R329). -/
def State.stageCount (s : State) (l : Launch) (st : Stage) : Nat :=
  if st.kind = 0 || (st.kind = 1 && l.clu.isNone) then 0 else s.qCount (stageKey l st)

/-- The ring can be used: a bank in FIFO mode, or a well-formed header on a memory-side IMM page. -/
def State.stageRing (s : State) (k : Nat) : Bool :=
  if isClu k then (s.bank (bankOfKey k)).mode = 2 && (s.bank (bankOfKey k)).sw.isEmpty
  else ((s.pageOfKey k).any fun x => x.2.imm && x.2.ms) && !(s.rhead k).bad

/-- TASKIDs in use in the group of a launch that has an allocation on a core: its tasks', and those of its saved tasks. -/
def State.taskIds (s : State) (lslot core : Nat) (a : Alloc) : List Nat :=
  ((s.masters.filter fun ((k, m) : Nat × Master) => coreOf k = core && m.kind = .task && m.lslot = lslot && m.lsbase = a.base).map
    fun ((_, m) : Nat × Master) => m.taskid) ++
  ((s.saves.filter fun ((_, r) : Nat × Save) =>
    r.mateOf core { Master.empty with lslot := lslot, lsbase := a.base, gangid := a.gang, grpid := a.grp }).map
      fun ((_, r) : Nat × Save) => r.m.taskid)

/-- STAGE_ITEM_TAKE: a free slot of core `arg` takes an item of its stage's ring for launch `cur` and creates a task, in a group of
the launch on the core, any one with fewer than 15 tasks (R3), or in a new one. -/
def execStageItemTake (s : State) : Out :=
  .next <|
  match s.launch? s.cur with
  | none => s
  | some l =>
    let core := s.arg
    match (s.core core).stage.find? fun x => x.1 = s.cur with
    | none => s
    | some (_, sn) =>
      match l.stages[sn]?, (s.freeSlots core).head?, s.freeTiles core l.zacc with
      | some st, some slot, some z =>
        let k := stageKey l st
        if st.kind = 0 || !(l.st = .running || l.st = .doomed) || !s.stageRing k || s.qCount k = 0 || !l.reaches st core ||
            s.promised l.part core l.prio || s.power.hold then s
        else
          let pos := core * 16 + slot
          let item := s.qItem k
          let make := fun (s : State) (off task gno : Nat) =>
            let m := { (s.newTask s.cur l l.arg 0xFFFFFFFF 0 task sn off z).ws 2 item with gno := gno }
            ((s.grantTiles core pos z l.zacc).setM pos m).qGet pos k
          let free := fun (a : Alloc) => (List.range 15).find? fun t => !(s.taskIds s.cur core a).contains t
          let mine := (s.core core).allocs.filter fun a => a.lslot = s.cur
          let open' := (mine.filter fun a => (s.taskIds s.cur core a).length < 15).filterMap fun a => (free a).map fun t => (a, t)
          if mine.isEmpty then
            if !s.compatFits l core then s
            else match s.drew.anyOff core l.lsb l.compat with
            | some off => make (s.drew.drew.grantLs core s.cur 0xFFFFFFFF 0 off l.lsb) off 0 s.nextReq
            | none => s
          else match open'[Config.freeNat (s.free + 1) % open'.length]? with
          | some (a, t) => make s.drew.drew a.base t a.gno
          | none => s
      | _, _, _ => s

/-! ## GANG, SPAWN, SQGET, EXIT, LNCH (R336-R339) -/

/-- The issuing task's launch; an SVC has none. -/
def State.myLaunch (s : State) : Option Launch := if s.me.kind = .svc then none else s.launch? s.me.lslot

def execGang (x : GangA) (s : State) : Out :=
  s.gate .noHandler x.h.nr fun s =>
    let m := s.me
    let c := m.rc x.cA
    let n := (m.rs x.sa).toNat
    match s.myLaunch with
    | none => illegal 6 s
    | some l =>
      if n = 0 || n ≥ 2 ^ 32 || l.gangs + n > 2 ^ 32 - 1 || (l.gangs + n - 1) / (l.gx * l.gy) > 65535 then illegal 6 s
      else if !c.tag then s.fault (capFlt cCaptag 1 0 c c.base)
      else if !s.leased l.part l.lease c.base c.top then
        s.fault (capFlt cLease 6 0 c (s.unleasedPage l.part l.lease c.base c.top))
      else s.proofCheck fun s =>
        if (l.greqs.filter fun g => !g.own).length ≥ 16 then s.notReady x.h x.h.words oFull .gang 0
        else
          let s1 := s.updLaunch m.lslot fun l =>
            { l with greqs := l.greqs ++ [{ own := false, first := l.gangs, count := n, arg := c }], gangs := l.gangs + n
                     stall := if l.greqs.isEmpty then s.cyc else l.stall }
          (s1.upd fun m => m.ws x.sd (BitVec.ofNat 64 l.gangs)).done x.h x.h.words

/-- The issue checks of a stage ring: as a queue's for a FIFO bank, which a switch in progress leaves to BUSY, out of reach from another
cluster; a memory-side IMM page of
the launch's lease otherwise (R337, R343). -/
def State.ringFlt (s : State) (l : Launch) (st : Stage) : Option Flt :=
  let va := st.addr.toNat
  if st.kind = 1 then
    let b := s.bank (bankOfKey (stageKey l st))
    if !l.reaches st (coreOf s.cur) || (b.mode != 2 && b.sw.isEmpty) then some (capFlt cSpace 3 0 Cap.null va) else none
  else match s.pageAt l.part va with
  | some (_, p) =>
    if !(p.imm && p.ms) then some (capFlt cSpace 3 0 Cap.null (s.faultPage l.part va))
    else if !s.leased l.part l.lease va (va + 64) then some (capFlt cLease 6 0 Cap.null (s.faultPage l.part va)) else none
  | none => some (capFlt cLease 6 0 Cap.null (s.faultPage l.part va))

/-- SPAWN and SQGET on stage `sn`'s ring: a FIFO bank's request, or one to the memory-side unit. -/
def State.stageIssue (s : State) (i : Instr) (h : Hd) (sn : Nat) (a : W64) (put : Bool) : State :=
  match s.myLaunch.bind fun l => (l.stages[sn]?).map fun st => (l, st) with
  | none => illegal 6 s
  | some (l, st) =>
    let key := stageKey l st
    if st.kind = 0 then illegal 6 s
    else match s.ringFlt l st with
    | some f => s.fault f
    | none => s.proofCheck fun s =>
      if s.slotFull s.cur key then s.notReady h h.words oFull (.slot (s.bankOf key)) st.addr
      else if st.kind = 1 && s.switching s.cur 2 (st.addr.toNat % 2 ^ 23) 1 then s.notReady h h.words oBusy .busy st.addr
      else
        let s1 := if put then s.touchUnit s.cur key else s
        s1.sendUnit (st.kind = 1) key true i { sp := if st.kind = 1 then 2 else 3, ea := st.addr } Cap.null a 0 0
          ((if st.kind = 1 then if put then s.earlier s.cur 2 else [] else s.shownAfter s.cur put 4) ++ s.unitAhead s.cur key 8)

def execSpawn (x : SpawnA) (s : State) : Out :=
  s.gate .noHandler x.h.nr fun s => s.stageIssue (.spawn x) x.h x.stage.toNat (s.me.rs x.sa) true
def execSqget (x : SH) (s : State) : Out :=
  s.gate .noHandler x.h.nr fun s => s.stageIssue (.sqget x) x.h s.me.stage 0 false

/-- EXIT retires the task once nothing of it is under way (R338). -/
def execExit (_x : Pl) (s : State) : Out := s.gate .noHandler 0 State.exitTask

/-- LNCH: the record is read and held with the issuing task's proof (R339). A block of it in error is logged, and its bytes are taken as
they stand: R343 lists no fault for it (notes/assumptions/93.md). -/
def execLnch (x : RMem) (s : State) : Out :=
  s.gate .noHandler x.h.nr fun s =>
    let m := s.me
    let c := m.rc x.mem.cap
    let ea := m.ea x.mem
    match s.myLaunch with
    | none => illegal 6 s
    | some l =>
      s.accessHeld x.h x.h.words { cap := c, perms := [pLoad, pLdcap], sp := spLoad, ea := ea.toNat, len := 128, align := 64 } fun s key =>
        let r := s.rdr s.cur m.proof
        let img := BitVec.ofNat 1024 (leNat (s.loadBytes r key 128))
        let tag := s.loadTag r (key + 112)
        let s := s.noteUe r 0 ea key 128
        if (recOf img).prio > m.prio then illegal 6 s
        else if l.defers.length ≥ 256 then s.notReady x.h x.h.words oFull .lnch ea
        else
          let s1 := s.updLaunch m.lslot fun l => { l with defers := l.defers ++ [{ proof := m.proof, img := img, tag := tag }] }
          (s1.upd fun m => m.ws x.sr (BitVec.ofNat 64 l.defers.length)).done x.h x.h.words

/-! ## SETPRIO, GOVCFG, DLCFG (R340, R341) -/

/-- The live launch that an LNCHID names. -/
def State.byLnchid (s : State) (id : Nat) : Option Nat :=
  match s.launch? (id % 64) with
  | some l => if l.gen = id / 64 && id < 2 ^ 22 then some (id % 64) else none
  | none => none

/-- A new priority of a launch; the one before this cycle is kept (R342). -/
def Launch.setPrio (l : Launch) (cyc p : Nat) : Launch :=
  { l with prio := p, prioAt := some (cyc, l.prioBefore cyc) }

def execSetprio (x : S1) (s : State) : Out :=
  s.gate .noHandler 0 fun s =>
    let m := s.me
    let a := m.rs x.sr
    if m.kind = .svc then
      if fld a 22 10 != 0 || fld a 36 28 != 0 || fld a 32 4 > 11 then illegal 6 s
      else
        let s1 := match s.byLnchid (fld a 0 22) with
          | some i => s.updLaunch i fun l => l.setPrio s.cyc (fld a 32 4)
          | none => s
        s1.advance x.h.p (m.next x.h.words)
    else if a.toNat > m.prio then illegal 6 s
    else (s.updLaunch m.lslot fun l => l.setPrio s.cyc a.toNat).advance x.h.p (m.next x.h.words)

def execGovcfg (x : SS) (s : State) : Out :=
  s.gate .sup x.h.nr fun s =>
    let a := s.me.rs x.ra
    let b := s.me.rs x.rb
    let high := fld b 32 16
    let low := fld b 16 16
    let w := fld b 8 8
    if fld a 22 2 != 0 || fld a 28 36 != 0 || fld b 48 16 != 0 || fld b 1 7 != 0 || low ≥ high || w = 0 then illegal 6 s
    else
      let sn := fld a 24 4
      let live := (s.byLnchid (fld a 0 22)).bind fun i => (s.launch? i).bind fun l =>
        (l.stages[sn]?).bind fun st => if st.kind = 0 then none else some i
      match live with
      | none => s.final x.h x.h.words oFalse
      | some i =>
        (s.updLaunch i fun l => { l with govNew := l.govNew ++ [(sn, high, low, w, b.getLsbD 0)] }).done x.h x.h.words

/-- DLCFG. Bits [7:1] of sa must be 0, as the other bits that the rule gives no meaning (notes/assumptions/85.md). -/
def execDlcfg (x : SH) (s : State) : Out :=
  s.gate .sup x.h.nr fun s =>
    let a := s.me.rs x.sr
    if fld a 1 7 != 0 || fld a 8 8 = 0 || fld a 16 24 = 0 || fld a 42 1 != 0 || fld a 48 16 != 0 then illegal 6 s
    else
      (s.updPart (s.partOf s.cur) fun p =>
        { p with dlEn := a.getLsbD 0, dlPer := fld a 8 8, dlStall := fld a 16 24, dlDie := fld a 43 5, dlSvc := fld a 40 2 }).done
          x.h x.h.words

/-! ## Rounds (R331) -/

/-- Dies that hold the round's markers up: those that have joined. -/
def State.roundDies (s : State) : List Nat := (s.dies.filter fun ((_, d) : Nat × Die) => d.joined && !d.failed).map Prod.fst

/-- ROUND_START: on the timer or on demand, when no round is under way. By what means a supervisor core asks for a round is not
stated, so it may ask at any cycle (notes/assumptions/50.md). -/
def execRoundStart (s : State) : Out :=
  .next <|
  if !s.rot.on || s.round.opened || !(s.round.demand || Config.svcAsks s.cyc || s.cyc - s.round.at' ≥ 65536) then s
  else { s with round := { s.round with opened := true, entered := [], demand := false, at' := s.cyc } }

/-- Every die has entered the new round. -/
def State.edgeReady (s : State) : Bool := s.round.opened && s.roundDies.all s.round.entered.contains

/-! ## End of launch (R333) -/

/-- The cores on which a launch's stage rings can be reached. -/
def State.poolCores (s : State) (lslot : Nat) : List Nat :=
  (s.cores.filter fun ((_, c) : Nat × Core) => c.stage.any fun x => x.1 = lslot).map Prod.fst

/-- No stage ring holds an item. -/
def State.ringsEmpty (s : State) (l : Launch) : Bool := l.stages.all fun st => s.stageCount l st = 0

/-- The sums of the cores' counts of messages sent and received (R333). -/
def State.sentSum (s : State) (lslot : Nat) : Nat := (s.cores.map fun ((_, c) : Nat × Core) => Tab.get 0 c.sent lslot).sum
def State.recvSum (s : State) (lslot : Nat) : Nat := (s.cores.map fun ((_, c) : Nat × Core) => Tab.get 0 c.recv lslot).sum

/-- Every core is idle for the launch: no task, handler, job, request, batch or scan of it is left. -/
def State.launchIdle (s : State) (lslot : Nat) : Bool :=
  !(s.masters.any fun ((k, m) : Nat × Master) => !isSvcPos k && m.kind != .empty && m.lslot = lslot) &&
  !(s.reqs.any fun r => !isSvcPos r.pos && r.lslot = lslot) &&
  !(s.batches.any fun b => !isSvcPos b.pos && b.lslot = lslot)

/-- END_SWEEP: a sweep of launch `cur`. The second of two idle sweeps with the same equal sums declares the end, and a round
is asked for. -/
def execEndSweep (s : State) : Out :=
  .next <|
  match s.launch? s.cur with
  | none => s
  | some l =>
    if !(l.st = .running || l.st = .doomed) || !l.greqs.isEmpty ||
        (s.saves.any fun ((_, r) : Nat × Save) => r.m.lslot = s.cur && r.m.lgen = l.gen) || !s.ringsEmpty l then s
    else if !s.launchIdle s.cur || s.sentSum s.cur != s.recvSum s.cur then s.updLaunch s.cur fun l => { l with sweep := none }
    else if l.sweep = some (s.sentSum s.cur) then
      let s1 := s.updLaunch s.cur fun l =>
        { l with st := if l.st = .running then .ending else .aborting, endAt := s.cyc }
      { s1 with round := { s1.round with demand := true } }
    else s.updLaunch s.cur fun l => { l with sweep := some (s.sentSum s.cur) }

/-! ## The deadlock detector (R334, R437) -/

/-- Tasks of a partition, by group. -/
def State.groupTasks (s : State) (part g : Nat) : List (Nat × Master) :=
  s.masters.filter fun ((k, m) : Nat × Master) => m.kind = .task && s.partOf k = part && m.gno = g

/-- A task of the group is SAVED. -/
def State.groupSaved (s : State) (g : Nat) : Bool :=
  (s.saves.any fun ((_, r) : Nat × Save) => r.m.gno = g) || s.masters.any fun ((_, m) : Nat × Master) => m.saving.isSome && m.gno = g

/-- Every task of the group is parked on a state-class condition; one that has issued EXIT is not. -/
def blocked (ts : List (Nat × Master)) : Bool :=
  !ts.isEmpty && ts.all fun ((_, m) : Nat × Master) => m.st = .parked && !m.exiting && 3 ≤ m.parkO.toNat && m.parkO.toNat ≤ 7

/-- The groups for which a master waits at a ring. -/
def State.waits (s : State) (m : Master) : List Nat :=
  match m.park with
  | .queue k full => let r := Tab.get Ring.empty s.rings k; if full then r.takes else r.puts
  | _ => []

/-- Groups that a group waits for. -/
def State.waitsFor (s : State) (ts : List (Nat × Master)) : List Nat := ts.flatMap fun ((_, m) : Nat × Master) => s.waits m

/-- Cycles of at most `f` further groups that return to `start`, which is the least group on them. -/
def cyclesFrom (next : Nat → List Nat) (start : Nat) : Nat → List Nat → Nat → List (List Nat)
  | 0, _, _ => []
  | f + 1, path, g =>
    (next g).flatMap fun h =>
      if h = start then [path.reverse]
      else if h < start || path.contains h then []
      else cyclesFrom next start f (h :: path) h

/-- Inserts into a rising list. -/
def insertNat (a : Nat) : List Nat → List Nat
  | [] => [a]
  | b :: r => if a ≤ b then a :: b :: r else b :: insertNat a r

/-- A group with its number and the cycles in which its tasks last woke, in rising order. -/
def State.groupMark (s : State) (part g : Nat) : List Nat :=
  g :: (s.groupTasks part g).foldl (fun r ((_, m) : Nat × Master) => insertNat m.woke r) []

/-- The blocked groups' cycles of at most 8, each group with its tasks' last wakes, so that a wake of a member makes another
cycle. -/
def State.deadlocks (s : State) (part : Nat) : List (List (List Nat)) :=
  let gs := ((s.masters.filter fun ((k, m) : Nat × Master) => m.kind = .task && s.partOf k = part).map
    fun ((_, m) : Nat × Master) => m.gno).eraseDups
  let bs := gs.filter fun g => blocked (s.groupTasks part g) && !s.groupSaved g
  let next := fun (g : Nat) => (s.waitsFor (s.groupTasks part g)).filter bs.contains
  ((bs.flatMap fun g => cyclesFrom next g 8 [g] g).eraseDups).map fun c => c.map (s.groupMark part)

/-- The groups of a cycle. -/
def cycleGroups (c : List (List Nat)) : List Nat := c.filterMap List.head?

/-- A task of group `g` that waits for group `h` at a ring. -/
def State.ringTask (s : State) (part g h : Nat) : Option (Nat × Master) :=
  (s.groupTasks part g).find? fun ((_, m) : Nat × Master) => (s.waits m).contains h

/-- Reports a cycle: one TYPE 2 packet for each group, in the ring of the die whose SVC DLCFG names. -/
def State.reportCycle (s : State) (part : Nat) (c : List (List Nat)) : State :=
  let gs := cycleGroups c
  let die := (s.part part).dlDie
  ((List.range gs.length).zip gs).foldl (fun s ((i, g) : Nat × Nat) =>
    match s.ringTask part g (gs.getD ((i + 1) % gs.length) g) with
    | none => s
    | some (pos, m) =>
      s.queuePacket die
        { s.packet pos 0 { cause := 0x20, d0 := BitVec.ofNat 64 (i + gs.length * 16 + m.parkO.toNat * 256), d2 := m.parkA } 0 with
          type := 2, pos := none, cont := i != 0 }) s

/-- None of a cycle's groups has woken since, as far as they stand in slots: one with a SAVED task is examined when it is back. -/
def State.unwoken (s : State) (part : Nat) (c : List (List Nat)) : Bool :=
  c.all fun g => (g.head?).any fun i => s.groupSaved i || s.groupMark part i = g

/-- DEADLOCK_EXAMINE: a cycle that stands at two successive examinations of partition `cur` is reported, and then only after one of its
members has woken. -/
def execDeadlockExamine (s : State) : Out :=
  .next <|
  let p := s.part s.cur
  if !p.dlEn || s.round.num < p.dlAt + p.dlPer then s
  else
    let now := s.deadlocks s.cur
    let new := now.filter fun c => p.dlSeen.contains c && !p.dlRep.contains c
    let s1 := new.foldl (fun s c => s.reportCycle s.cur c) s
    s1.updPart s.cur fun p => { p with dlAt := s.round.num, dlSeen := now, dlRep := (p.dlRep.filter (s.unwoken s.cur)) ++ new }

end Sys2Proof.Machine
end

