-- ==== Sys2Proof/Machine/Lease.lean ====
section
/-! DEFINITION. Leases, revocation and unmapping, and the write-back scanner (spec/19: R357, R358, R364-R369). -/

namespace Sys2Proof.Machine

/-! ## Range descriptors (R365) -/

structure DescF where
  vbase : Nat
  length : Nat
  flba : Nat
  nsid : Nat
  lease : Nat
  rsv : Bool
  home : Nat
  hpin : Bool
  tier : Nat
  file : Bool
  abu : Bool
  ms : Bool
  imm : Bool
  x : Bool
  w : Bool
  pl : Bool
  psz : Nat

def descF (d : BitVec 512) : DescF :=
  let b := fun (i : Nat) => d.getLsbD i
  { vbase := fld d 448 64, length := fld d 384 64, flba := fld d 320 64, nsid := fld d 288 32, lease := fld d 272 16
    rsv := fld d 27 245 != 0 || fld d 0 10 != 0, home := fld d 22 5, hpin := b 21, tier := fld d 19 2, file := b 18, abu := b 17
    ms := b 16, imm := b 15, x := b 14, w := b 13, pl := b 12, psz := fld d 10 2 }

/-- A consistent descriptor, with every field within its range; the home die lies in the partition. -/
def DescF.ok (d : DescF) (dies : List Nat) : Bool :=
  !d.rsv && d.psz ≤ 2 && d.tier ≤ 2 && dies.contains d.home &&
  d.vbase % pageBytes d.psz = 0 && d.length != 0 && d.length % pageBytes d.psz = 0 && d.vbase + d.length ≤ 2 ^ 64 &&
  (d.imm || !(d.ms || d.abu || d.hpin)) && (!d.ms || d.tier = 0) && (!d.abu || (d.psz = 0 && d.tier = 0 && d.hpin)) &&
  (!d.x || !(d.w || d.imm || d.pl)) && (!d.pl || !(d.w || d.imm)) && (!d.file || !(d.imm || d.ms || d.abu)) &&
  (d.file || (d.flba = 0 && d.nsid = 0))

/-- The descriptor's pages, by first address. -/
def DescF.pages (d : DescF) : List Nat := (List.range (d.length / pageBytes d.psz)).map fun i => d.vbase + i * pageBytes d.psz

/-- First logical block of the page at `va`. -/
def DescF.flbaOf (d : DescF) (va : Nat) : Nat := if d.file then d.flba + (va - d.vbase) / 4096 else 0

/-- A new page of the descriptor, in the second tier or not. -/
def DescF.page (d : DescF) (va : Nat) (t2 : Bool) : Page :=
  { psz := d.psz, w := d.w, x := d.x, pl := d.pl, imm := d.imm, ms := d.ms, abu := d.abu, file := d.file, hpin := d.hpin, tier := d.tier
    home := d.home, nsid := d.nsid, flba := d.flbaOf va, t2 := t2, wb := 0, again := false, dord := 0
    svn := 65536, stale := false, tsvn := none, ctl := false, fwd := [] }

/-- A mapped page has the descriptor's attributes. The home of a page that may move is where it is now. -/
def DescF.agrees (d : DescF) (va : Nat) (p : Page) : Bool :=
  p.psz = d.psz && p.w = d.w && p.x = d.x && p.pl = d.pl && p.imm = d.imm && p.ms = d.ms && p.abu = d.abu && p.file = d.file &&
  p.hpin = d.hpin && p.tier = d.tier && (!d.hpin || p.home = d.home) && p.nsid = d.nsid && p.flba = d.flbaOf va && !p.ctl

/-- The page at `va` of the descriptor's size is mapped as the descriptor says. -/
def State.pageMapped (s : State) (part : Nat) (d : DescF) (va : Nat) : Bool :=
  match Tab.find? s.pages (pageKey part va d.psz) with
  | some p => d.agrees va p
  | none => false

/-- Some mapped page of the range differs from the descriptor (fail 1). The control pages of every die and the partition block count, be they
mapped in this partition or not (R455). -/
def State.pageClash (s : State) (part : Nat) (d : DescF) : Bool :=
  (d.vbase < ctlBase + 0x4200000 && ctlBase < d.vbase + d.length) || (chunksOf d.vbase d.length).any fun c => match s.pageAt part c with
    | some (_, p) => !d.agrees (c / pageBytes d.psz * pageBytes d.psz) p
    | none => false

/-- The partition lacks memory for the unmapped pages (fail 2), or its service excludes them (R453): TIER 2 pages stand in the
second tier in reduced service, and in either tier otherwise. -/
def State.noRoom (s : State) (part : Nat) (d : DescF) : Bool :=
  let full := (s.part part).full
  let need := (d.pages.filter fun va => !s.pageMapped part d va).length
  let fit := fun (t2 : Bool) => s.roomIn t2 d.home / pageBytes d.psz
  (!full && (d.tier = 0 || d.abu)) ||
  (if d.tier = 0 then fit false else if d.tier = 1 || !full then fit true else fit false + fit true) < need

/-- The tier in which a page of the descriptor starts: TIER 2 pages in HBM while it has room, in full service
(notes/assumptions/47.md). -/
def State.startsT2 (s : State) (part : Nat) (d : DescF) : Bool :=
  d.tier = 1 || (d.tier = 2 && (!(s.part part).full || s.roomIn false d.home < pageBytes d.psz))

/-- Key of a byte on a namespace. -/
def flashKey (nsid flba i : Nat) : Nat := nsid * 2 ^ 76 + flba * 4096 + i
def State.flashByte (s : State) (k : Nat) : Byte := (Tab.find? s.flash k).getD (Config.flash k)

/-- Blocks of a page hold nothing: data, descriptors, tags and full/empty bits. -/
def State.clearPage (s : State) (part va n : Nat) : State :=
  let lo := globKey part va / 64
  { s with mem := s.mem.filter fun (x : Host.Cell) => !(lo ≤ blockOfCell x.1 && blockOfCell x.1 < lo + n / 64) }

/-- Maps a page: zero, or filled from the storage port. An executable page that LEASE maps is zero, whatever its file holds (R380). -/
def State.mapPage (s : State) (part : Nat) (d : DescF) (va : Nat) : State :=
  let n := pageBytes d.psz
  let p := d.page va (s.startsT2 part d)
  let s1 := s.clearPage part va n
  let s2 : State :=
    if d.file && !d.x then
      { s1 with mem := setCells s1.mem (bytesAt (globKey part va) ((List.range n).map fun i => s1.flashByte (flashKey p.nsid p.flba i))) }
    else s1
  { s2 with pages := Tab.put s2.pages (pageKey part va d.psz) p }

/-- Indices of the ranges a partition holds, and a free one; which is free (R366). -/
def State.rangeIds (s : State) (part : Nat) : List Nat :=
  (s.ranges.filter fun ((k, _) : Nat × Rng) => k / 4096 = part).map fun ((k, _) : Nat × Rng) => k % 4096
def State.freeRange (s : State) (part : Nat) : Option Nat :=
  let ids := s.rangeIds part
  s.pickOf ((List.range 4096).filter fun i => !ids.contains i)

/-! ## LEASE (R366) -/

/-- LEASE reads its descriptor and sends the request; the reply completes it. A block of the descriptor in error is logged, and its bytes
are taken as they stand: R370 lists no fault for it (notes/assumptions/93.md). -/
def execLease (x : RMem) (s : State) : Out :=
  s.gate .sup x.h.nr fun s =>
    let m := s.me
    let c := m.rc x.mem.cap
    let ea := m.ea x.mem
    s.accessHeld x.h x.h.words { cap := c, perms := [pLoad], sp := spLoad, ea := ea.toNat, len := 64, align := 64 } fun s key =>
      let r := s.rdr s.cur 0
      let d := BitVec.ofNat 512 (leNat (s.loadBytes r key 64))
      let s := s.noteUe r 0 ea key 64
      if !(descF d).ok (s.part (s.partOf s.cur)).dies then illegal 6 s
      else if (s.freeRange (s.partOf s.cur)).isNone then s.notReady x.h x.h.words oFull .lease ea
      else s.sendUnit false key false (.lease x) { sp := 3, ea := ea } c 0 0 (d.setWidth 1024) []

/-- LEASE_COMPLETE: request `id` maps its pages, adds the range and replies; `ok`: the storage port read the FILE pages
without error. A range whose pages are all mapped reads nothing, so it meets no storage error. -/
def execLeaseComplete (id : Nat) (ok : Bool) (s : State) : Out :=
  .next <|
  match s.req? id with
  | none => s
  | some r =>
    match r.k with
    | .unit (.lease x) _ opd _ _ _ v =>
      let part := s.partOf r.pos
      let d := descF (v.setWidth 512)
      let fail := fun (code : W64) => s.reply r fun s => (s.upd fun m => m.ws x.sr code).final x.h x.h.words oFalse
      match s.freeRange part with
      | none => s.reply r fun s => s.notReady x.h x.h.words oFull .lease opd.ea
      | some i =>
        if s.pageClash part d then fail 1
        else if s.noRoom part d then fail 2
        else if d.file && !ok && d.pages.any fun va => !s.pageMapped part d va then fail 3
        else
          let s1 := (d.pages.filter fun va => !s.pageMapped part d va).foldl (fun s va => s.mapPage part d va) s
          let s2 : State :=
            { s1.drew with ranges := Tab.put s1.ranges (part * 4096 + i) { lease := d.lease, base := d.vbase, len := d.length, rev := false } }
          s2.reply r fun s => (s.upd fun m => m.ws x.sr (BitVec.ofNat 64 i)).done x.h x.h.words
    | _ => s

/-! ## LREV (R367) -/

/-- The ranges that LREV names: range sb of lease sa, or all of them. -/
def lrevNames (part : Nat) (a b : W64) (k : Nat) (g : Rng) : Bool :=
  k / 4096 = part && g.lease = a.toNat && (b = BitVec.allOnes 64 || k % 4096 = b.toNat)

/-- LREV: every core drops the ranges from its lease check; the reply follows. -/
def execLrev (x : SS) (s : State) : Out :=
  s.gate .sup x.h.nr fun s =>
    let m := s.me
    let a := m.rs x.ra
    let b := m.rs x.rb
    if a.toNat ≥ 2 ^ 16 || (b.toNat ≥ 4096 && b != BitVec.allOnes 64) then illegal 6 s
    else
      let part := s.partOf s.cur
      let s1 : State := { s with ranges := s.ranges.map fun ((k, g) : Nat × Rng) =>
        (k, if lrevNames part a b k g then { g with rev := true } else g) }
      s1.sendUnit false ctlKey false (.lrev x) { sp := 3, ea := 0 } Cap.null a b 0 []

/-- A running job's footprint meets [lo, hi) of GLOB memory. -/
def State.jobsMeet (s : State) (part lo hi : Nat) : Bool :=
  s.masters.any fun ((k, m) : Nat × Master) => s.partOf k = part && m.jobs.any fun j =>
    !j.held && (j.rd ++ j.wr).any fun f => f.meets 3 lo hi

/-- LREV_COMPLETE: once the running jobs that meet the ranges of request `cur` are done, they leave the lease. With sb all ones
on a lease that holds no range nothing is removed, and the model answers FALSE as for a named range that does not exist
(DESIGN CHOICE, log 86). -/
def execLrevComplete (s : State) : Out :=
  .next <|
  match s.req? s.cur with
  | none => s
  | some r =>
    match r.k with
    | .unit (.lrev x) _ _ _ a b _ =>
      let part := s.partOf r.pos
      let mine := s.ranges.filter fun ((k, g) : Nat × Rng) => lrevNames part a b k g && g.rev
      if mine.any fun ((_, g) : Nat × Rng) => s.jobsMeet part g.base (g.base + g.len) then s
      else if mine.isEmpty then s.reply r fun s => s.final x.h x.h.words oFalse
      else
        let s1 : State := { s with ranges := s.ranges.filter fun ((k, g) : Nat × Rng) => !(lrevNames part a b k g && g.rev) }
        (s1.reply r fun s => s.done x.h x.h.words).wakeAll fun k m => m.park = .lease && s.partOf k = part
    | _ => s

/-! ## XINV (R368) -/

/-- Mapped pages that meet [a, a + n). A larger page that the range covers in part is one of them, and XINV unmaps it whole
(DESIGN CHOICE, log 95). -/
def State.pagesIn (s : State) (part a n : Nat) : List (Nat × Page) :=
  s.pages.filter fun ((k, p) : Nat × Page) => k / 2 ^ 48 = part && pageBase k < a + n && a < pageBase k + pageBytes p.psz

def execXinv (x : SS) (s : State) : Out :=
  s.gate .sup x.h.nr fun s =>
    let m := s.me
    let a := m.rs x.ra
    let b := m.rs x.rb
    if a.toNat % 65536 != 0 || b.toNat % 65536 != 0 then illegal 6 s
    else s.sendUnit false ctlKey false (.xinv x) { sp := 3, ea := a } Cap.null a b 0 []

/-- A page lies in some lease. -/
def State.pageLeased (s : State) (part k : Nat) (p : Page) : Bool :=
  s.ranges.any fun ((i, g) : Nat × Rng) => i / 4096 = part && g.base < pageBase k + pageBytes p.psz && pageBase k < g.base + g.len

/-- Something is in flight to a page (R368): a load or its reply, with all that it extends over, a line that a core has asked for, a store
or its acknowledgement, an atomic, an ABU's scan. -/
def State.pageBusy (s : State) (k : Nat) : Bool :=
  let on := fun (key : Nat) => isGlobKey key && (s.pageOfKey key).map Prod.fst = some k
  (s.reqs.any fun r => on r.key || r.ext.any fun e => on e.1 || on (e.1 + e.2 - 1)) || (s.batches.any fun b => b.late && b.cells.any fun (c : Host.Cell) => on c.1) ||
  (s.cores.any fun ((_, c) : Nat × Core) => c.fills.any fun ((l, _, _) : Nat × Bool × Nat) => on (l * 64)) ||
  s.scans.any fun x => x.img.isNone && ((s.ms x.pos).posts.find? fun p => p.id = x.post).any fun p =>
    on (globKey (s.partOf x.pos) (p.d.base x.slice)) || on (globKey (s.partOf x.pos) (p.d.base x.slice + p.d.sstr - 1))

/-- No cache, copy or replica holds anything of the lines from `lo` on any more. -/
def State.forget (s : State) (lo n : Nat) : State :=
  let on := fun (l : Nat) => lo ≤ l && l < lo + n
  let bytes := fun (t : Tab Byte) => t.filter fun (c : Host.Cell) => !on (blockOfCell (c.1 % 2 ^ 95))
  { s with
    cores := s.cores.map fun ((i, c) : Nat × Core) => (i, { c with
      l1 := c.l1.filter fun ((l, _) : Nat × Nat) => !on l, pers := c.pers.filter fun x => !on x.line })
    banks := s.banks.map fun ((i, b) : Nat × Bank) => (i, { b with lines := b.lines.filter fun ((l, _) : Nat × Nat) => !on l })
    copies := s.copies.filter fun ((l, _) : Nat × List Nat) => !on l
    stale := s.stale.map fun ((d, t) : Nat × Tab Byte) => (d, bytes t)
    halo := s.halo.map fun ((d, t) : Nat × Tab Byte) => (d, bytes t) }

/-- Unmaps a page: it leaves the map, the translation caches, the HLTs and every cache, and its memory is free. -/
def State.unmap (s : State) (part k : Nat) (p : Page) : State :=
  { (s.clearPage part (pageBase k) (pageBytes p.psz)).forget (globKey part (pageBase k) / 64) (pageBytes p.psz / 64) with
    pages := Tab.del s.pages k, tcache := s.tcache.filter (· != k), hlt := s.hlt.filter fun ((j, _) : Nat × Nat) => j / 32 != k
    wcount := s.wcount.filter fun ((j, _) : Nat × Nat) => j / 32 != k
    patched := s.patched.filter fun x => !(x.part = part && pageBase k ≤ x.va && x.va < pageBase k + pageBytes p.psz) }

/-- The scanner starts on a DIRTY page, if its die's has fewer than 64 under way (R358). -/
def State.scanPage (s : State) (k : Nat) : State :=
  match Tab.find? s.pages k with
  | some p =>
    let busy := (s.pages.filter fun ((_, q) : Nat × Page) => q.file && q.home = p.home && (q.wb = 2 || q.wb = 3)).length
    if p.wb = 1 && busy < 64 then { s with pages := Tab.put s.pages k { p with wb := 2 } } else s
  | none => s

/-- XINV_COMPLETE: request `cur` unmaps its pages once every FILE page is CLEAN, on the DIRTY ones of
which the scanner starts, and nothing to them is in flight. Pages that
the root of trust has mapped stay (DESIGN CHOICE, log 95). The scanner takes the DIRTY pages at once, in page order (DESIGN CHOICE,
notes/assumptions/105.md). -/
def execXinvComplete (s : State) : Out :=
  .next <|
  match s.req? s.cur with
  | none => s
  | some r =>
    match r.k with
    | .unit (.xinv x) _ _ _ a b _ =>
      let part := s.partOf r.pos
      let ps := (s.pagesIn part a.toNat b.toNat).filter fun ((_, p) : Nat × Page) => !p.ctl
      if ps.any fun ((k, p) : Nat × Page) => s.pageLeased part k p then s.reply r fun s => s.final x.h x.h.words oFalse
      else if ps.any fun ((_, p) : Nat × Page) => p.file && p.wb != 0 then ps.foldl (fun s ((k, _) : Nat × Page) => s.scanPage k) s
      else if ps.any fun ((k, _) : Nat × Page) => s.pageBusy k then s
      else (ps.foldl (fun s ((k, p) : Nat × Page) => s.unmap part k p) s).reply r fun s => s.done x.h x.h.words
    | _ => s

/-! ## The write-back scanner (R358) -/

/-- Bytes of a page as committed. -/
def State.pageImage (s : State) (part k : Nat) (p : Page) : List Byte := s.rdBytes Rdr.home (globKey part (pageBase k)) (pageBytes p.psz)

/-- WRITEBACK_COPY_DONE: the staging copy of page `arg` of partition `cur` ends. Blocks in error are logged, and with one the page is DIRTY
again (R443). -/
def execWritebackCopyDone (s : State) : Out :=
  .next <|
  let k := pageKey s.cur (s.arg * 65536) 0
  match Tab.find? s.pages k with
  | none => s
  | some p =>
    if p.wb != 2 then s
    else
      let bad := (blocksOf (globKey s.cur (pageBase k)) (pageBytes p.psz)).filter fun b => s.rd8 Rdr.home (poisonKey b) != 0
      let s1 : State :=
        if bad.isEmpty then
          { s with pages := Tab.put s.pages k { p with wb := 3, again := false }, staging := Tab.put s.staging k (s.pageImage s.cur k p) }
        else { s with pages := Tab.put s.pages k { p with wb := 1, again := false, dord := s.nextReq }, nextReq := s.nextReq + 1 }
      bad.foldl (fun s b => s.logUeDie p.home 0 4 (BitVec.ofNat 64 (b % 2 ^ 64)) 0) s1

/-- WRITEBACK_FLASH_DONE: the flash write completes, or fails and is logged; the page is CLEAN, or DIRTY again. -/
def execWritebackFlashDone (part page : Nat) (ok : Bool) (s : State) : Out :=
  .next <|
  let k := pageKey part (page * 65536) 0
  match Tab.find? s.pages k with
  | none => s
  | some p =>
    if p.wb != 3 then s
    else
      let img := Tab.get [] s.staging k
      let dirty := !ok || p.again
      let s1 : State :=
        { s with pages := Tab.put s.pages k { p with wb := if dirty then 1 else 0, again := false, dord := if dirty then s.nextReq else p.dord }
                 nextReq := s.nextReq + 1, staging := Tab.del s.staging k
                 flash := if ok then putCells s.flash (bytesAt (flashKey p.nsid p.flba 0) img) else s.flash }
      if ok then s1
      else s1.queuePacket p.home
        { pos := none, type := 1, eng := 0, cause := cStorage, pc := 0, d0 := BitVec.ofNat 64 p.nsid, d1 := BitVec.ofNat 64 p.flba
          d2 := BitVec.ofNat 64 (pageBase k), d3 := 0, proof := 0, lnch := 0, round := s.round.num, die := p.home, clu := 0, core := 0
          slot := 0, svc := false }

end Sys2Proof.Machine
end

