-- ==== Sys2Proof/Machine/Portable.lean ====
section
/-! DEFINITION. Portable images (R383, R384): the region markers, which registers an instruction reads and writes, and when
a translation fails. What the portable words compute is the translator's matter: the module never runs them, as both markers
raise ILLEGAL here, and `Config.translate` leaves the translated image free (notes/assumptions/88.md). -/

namespace Sys2Proof.Machine

/-! ## Words of a portable image (R383) -/

/-- What stands at a word: `.pfor` with its index, the register of its count and its length in words; `.endpfor`; an
instruction with its length; or neither. -/
inductive PWord where
  | pfor (si sc : SReg) (n : Nat)
  | endp
  | ins (i : Instr) (n : Nat)
  | none
  deriving DecidableEq, Repr

/-- Reads a list of words (R383). -/
def pword : List W32 → PWord
  | [] => .none
  | w :: ws =>
    let fw := FW.ofWord w
    let plain := fw.c = 0 && fw.nr = 0 && !fw.p
    if fw.op = 0x7E then
      if plain && fw.f = 0 && fw.len = 0 then .pfor fw.a fw.b 1
      else if plain && fw.f = 0 && fw.len = 1 && fw.b = 0 && 2 ≤ ws.length && ws.getD 1 0 = 0 then .pfor fw.a 0 3
      else if plain && fw.f = 1 && fw.len = 0 && fw.a = 0 && fw.b = 0 then .endp
      else .none
    else match decode (w :: ws) with
      | .ok i rest => .ins i (1 + ws.length - rest.length)
      | _ => .none

/-! ## Registers of an instruction

A register is a number: s0 to s63, then v0 to v31, m0 to m7, c0 to c15, and 128 for o. The constant registers s0, m0 and c0 are none. -/

def sR (r : SReg) : List Nat := if r = 0 then [] else [r.toNat]
def vR (r : VReg) : List Nat := [64 + r.toNat]
def mR (r : MReg) : List Nat := if r = 0 then [] else [96 + r.toNat]
def cR (r : CReg) : List Nat := if r = 0 then [] else [104 + r.toNat]
def memR (x : MemOp) : List Nat := cR x.cap ++ sR x.idx
def srcR : Src → List Nat
  | .reg r => sR r
  | _ => []
def cSrcR {n : Nat} : CSrc n → List Nat
  | .reg r => sR r
  | _ => []
def bfR : BfCtl → List Nat
  | .reg r => sR r
  | _ => []
def tpR (x : TP) : List Nat :=
  cR x.acap ++ cR x.bcap ++ (if x.sas then sR (x.sa.setWidth 6) else []) ++ (if x.sbs then sR (x.sb.setWidth 6) else []) ++
  (if x.ms then sR x.m else []) ++ (if x.ns then sR x.n else []) ++ (if x.ks then sR (x.k.setWidth 6) else [])

/-- A destination of which a predicated or partial instruction keeps a part counts as read. -/
def keeps (part : Bool) (d : List Nat) : List Nat := if part then d else []

/-- The registers that an instruction reads and those that it writes. -/
def regUse : Instr → List Nat × List Nat
  | .add x | .sub x | .mul x | .mulh x | .mulhu x | .div x | .divu x | .rem x | .remu x | .and x | .or x | .xor x | .andn x
  | .shl x | .shr x | .sra x | .rot x | .min x | .max x | .minu x | .maxu x | .seq x | .sne x | .slt x | .sltu x =>
    (sR x.sa ++ srcR x.b, sR x.sd)
  | .sel x => (sR x.sa ++ sR x.sb ++ sR x.sc, sR x.sd)
  | .addi x => (sR x.sa, sR x.sd)
  | .li x => ([], sR x.sd)
  | .clz x | .ctz x | .popc x | .mov x => (sR x.sa, sR x.sd)
  | .sxt x | .zxt x => (sR x.sa, sR x.sd)
  | .bfx x => (sR x.sa ++ bfR x.ctl, sR x.sd)
  | .bfi x => (sR x.sa ++ sR x.sd ++ bfR x.ctl, sR x.sd)
  | .call _ => ([], sR 63)
  | .bz x | .bnz x => (sR x.sa, [])
  | .beq x | .bne x | .blt x | .bge x | .bltu x | .bgeu x => (sR x.sa ++ sR x.sb, [])
  | .calli x => (cR x.cN ++ sR x.sa, sR 63)
  | .jmpi x => (cR x.cN ++ sR x.sa, [])
  | .ret x | .hret x | .setprio x => (sR x.sr, [])
  | .geto x | .engst x => ([], sR x.sr)
  | .mfs x => ([], sR x.sr)
  | .mts x => (sR x.sr, [])
  | .rdcyc x => ([], sR x.sd ++ sR x.se)
  | .vadd x | .vsub x | .vmul x | .vmulh x | .vmin x | .vmax x | .vand x | .vor x | .vxor x | .vshl x | .vshr x | .vsra x
  | .vadds x | .vsubs x | .vfadd x | .vfsub x | .vfmul x | .vfmin x | .vfmax x | .vperm x =>
    (vR x.va ++ vR x.vb ++ mR x.msk ++ keeps (x.msk != 0) (vR x.vd), vR x.vd)
  | .vsel x => (vR x.va ++ vR x.vb ++ mR x.msk, vR x.vd)
  | .vabs x | .vrcp x | .vrsq x | .vex2 x | .vlg2 x | .vmov x => (vR x.va ++ mR x.msk ++ keeps (x.msk != 0) (vR x.vd), vR x.vd)
  | .vfma x => (vR x.va ++ vR x.vb ++ vR x.vc ++ mR x.msk ++ keeps (x.msk != 0) (vR x.vd), vR x.vd)
  | .vcvt x =>
    (vR x.va ++ mR x.msk ++ keeps (x.msk != 0 || etWidth x.et.toNat < etWidth x.src.toNat) (vR x.vd), vR x.vd)
  | .vdsx x => (vR x.va ++ sR x.sb ++ mR x.msk ++ keeps (x.msk != 0) (vR x.vd), vR x.vd)
  | .vcmp x | .vfcmp x => (vR x.va ++ vR x.vb ++ mR x.msk, mR x.md)
  | .vred x => (vR x.va ++ mR x.msk, vR x.vd)
  | .vbcast x => (sR x.sa ++ mR x.msk ++ keeps (x.msk != 0) (vR x.vd), vR x.vd)
  | .vins x => (sR x.sa ++ sR x.sb ++ vR x.vd, vR x.vd)
  | .vext x => (vR x.va ++ sR x.sb, sR x.sd)
  | .vslide x => (vR x.va ++ sR x.sb ++ mR x.msk ++ keeps (x.msk != 0) (vR x.vd), vR x.vd)
  | .mand x | .mor x | .mxor x => (mR x.ma ++ mR x.mb, mR x.md)
  | .mnot x => (mR x.ma, mR x.md)
  | .mpop x | .mfirst x => (mR x.ma, sR x.sd)
  | .mma x | .mmas x => (tpR x.tp, [])
  | .zld x | .zst x => (memR x.mem, [])
  | .qset x => (memR x.mem ++ sR x.sc, [])
  | .qpos x => ([], sR x.sd)
  | .atq x => (memR x.mem ++ cR x.cD ++ cR x.cQ, [])
  | .atc x | .atm x | .halopush x => (memR x.mem, [])
  | .kvapp x => (memR x.mem ++ cR x.cS ++ sR x.sd, sR x.sd)
  | .kvdesc x => (memR x.mem ++ cR x.cK ++ cR x.cS, [])
  | .ldB x | .ldH x | .ldW x | .ldD x | .ldsy x | .ldpk x | .feget x => (memR x.mem, sR x.sr)
  | .stB x | .stH x | .stW x | .stD x | .stsy x | .waiteq x => (memR x.mem ++ sR x.sr, [])
  | .ldv x => (memR x.mem ++ mR x.msk ++ keeps (x.msk != 0) (vR x.v), vR x.v)
  | .stv x => (memR x.mem ++ mR x.msk ++ vR x.v, [])
  | .ldg x => (memR x.mem ++ vR x.vi ++ mR x.msk ++ keeps (x.msk != 0 || x.et = 1 || x.et = 2) (vR x.v), vR x.v)
  | .sts x => (memR x.mem ++ vR x.vi ++ mR x.msk ++ vR x.v, [])
  | .ldc x => (memR x.mem, cR x.c)
  | .stc x => (memR x.mem ++ cR x.c, [])
  | .pref x => (memR x.mem, [])
  | .cpy x | .cpyt x => (cR x.cD ++ cR x.cS ++ sR x.idx ++ sR x.sn, [])
  | .cpyw x => (sR x.rb, sR x.ra)
  | .amsg x => (memR x.mem ++ cR x.cH ++ sR x.sd, sR x.sd)
  | .bankmode x => (memR x.mem, [])
  | .halo x => (cR x.cN ++ sR x.sP, [])
  | .park x | .icsync x => (memR x.mem ++ sR x.sa, [])
  | .qput x => (memR x.mem ++ sR x.sr, [])
  | .qget x | .qpeek x | .qcnt x | .lnch x | .lease x => (memR x.mem, sR x.sr)
  | .feset x => (memR x.mem, [])
  | .waitge x => (memR x.mem ++ sR x.sa ++ sR x.sb, [])
  | .bara x => ([], sR x.sr)
  | .bart x | .barc x => (sR x.sr, [])
  | .amoAdd x | .amoSub x | .amoMin x | .amoMax x | .amoMinu x | .amoMaxu x | .amoAnd x | .amoOr x | .amoXor x | .amoSwp x =>
    (memR x.mem ++ sR x.sb, sR x.sd)
  | .amocas x => (memR x.mem ++ sR x.sb ++ sR x.sd, sR x.sd)
  | .redAdd x | .redMin x | .redMax x | .redAnd x | .redOr x | .redXor x | .redFadd x => (memR x.mem ++ sR x.sb, [])
  | .redw x => (sR x.sr, [])
  | .cbput x => (memR x.mem ++ vR x.v, [])
  | .cbget x => (memR x.mem, vR x.v)
  | .cbfree x => (memR x.mem ++ sR x.sa, sR x.sd)
  | .gang x => (cR x.cA ++ sR x.sa, sR x.sd)
  | .spawn x => (sR x.sa, [])
  | .sqget x => ([], sR x.sr)
  | .csetb x => (cR x.cs ++ sR x.sl, cR x.cd)
  | .cadd x => (cR x.cs ++ cSrcR x.b, cR x.cd)
  | .crestr x => (cR x.cs ++ cSrcR x.b, cR x.cd)
  | .csub x => (cR x.ca ++ cR x.cb, sR x.sd)
  | .cseal x | .cunseal x => (cR x.cs ++ cR x.ck, cR x.cd)
  | .cgetb x | .cgetl x | .cgetp x | .ctag x => (cR x.cs, sR x.sd)
  | .cclr x | .cmov x => (cR x.cs, cR x.cd)
  | .imprd x => (memR x.mem ++ cR x.cP ++ sR x.sn, [])
  | .prnew x => (sR x.rb, sR x.ra)
  | .prset x | .prpass x | .prcan x => (sR x.sr, [])
  | .prst x => (sR x.sa, sR x.sd)
  | .prorv x => ([], sR x.sd)
  | _ => ([], [])

/-! ## What makes a translation fail (R384) -/

/-- Makes a translation fail wherever it stands: a supervisor instruction (the marks of R74), or MMA.BGS. -/
def neverPortable : Instr → Bool
  | .govcfg _ | .dlcfg _ | .lease _ | .lrev _ | .xinv _ | .plate _ | .preempt _ | .resume _ | .freeze _ | .mmaBgs _ => true
  | _ => false

/-- Makes a translation fail inside a region: MXE and attention instructions; CALL, CALLI, JMPI, RET, AMSG; PARK, the
full/empty, queue, circular-buffer, wait and barrier instructions; MFS, MTS, RDCYC. -/
def neverInRegion : Instr → Bool
  | .mma _ | .mmas _ | .mmaBgs _ | .zzero _ | .zld _ | .zst _ | .zcvt _ | .qset _ | .qpos _ => true
  | .atq _ | .atc _ | .atm _ | .kvapp _ | .kvdesc _ => true
  | .call _ | .calli _ | .jmpi _ | .ret _ | .amsg _ => true
  | .park _ | .ldsy _ | .stsy _ | .ldpk _ | .feset _ | .feget _ => true
  | .qput _ | .qget _ | .qpeek _ | .qcnt _ | .sqget _ | .cbput _ | .cbget _ | .cbfree _ => true
  | .waitge _ | .waiteq _ | .bara _ | .bart _ | .barc _ => true
  | .mfs _ | .mts _ | .rdcyc _ => true
  | _ => false

/-- The outcome modes of an instruction, none where it has no outcome table. -/
def tryHd : Instr → Hd
  | .vadd x | .vsub x | .vmul x | .vmulh x | .vmin x | .vmax x | .vand x | .vor x | .vxor x | .vshl x | .vshr x
  | .vsra x | .vadds x | .vsubs x | .vfadd x | .vfsub x | .vfmul x | .vfmin x | .vfmax x | .vsel x | .vperm x => x.h
  | .vabs x | .vrcp x | .vrsq x | .vex2 x | .vlg2 x | .vmov x => x.h
  | .vfma x => x.h
  | .vcvt x => x.h
  | .vcmp x | .vfcmp x => x.h
  | .vred x => x.h
  | .vbcast x => x.h
  | .vins x => x.h
  | .vext x => x.h
  | .vslide x => x.h
  | .vdsx x => x.h
  | .mand x | .mor x | .mxor x => x.h
  | .mnot x => x.h
  | .mpop x | .mfirst x => x.h
  | .mma x | .mmas x => x.h
  | .mmaBgs x => x.h
  | .zzero x => x.h
  | .zld x | .zst x => x.h
  | .zcvt x => x.h
  | .qset x => x.h
  | .qpos x => x.h
  | .atq x => x.h
  | .atc x | .atm x | .halopush x => x.h
  | .kvapp x => x.h
  | .kvdesc x => x.h
  | .ldB x | .ldH x | .ldW x | .ldD x | .stB x | .stH x | .stW x | .stD x | .ldsy x | .stsy x | .ldpk x | .feget x
  | .waiteq x => x.h
  | .ldv x | .stv x => x.h
  | .ldg x | .sts x => x.h
  | .ldc x | .stc x => x.h
  | .cpy x | .cpyt x => x.h
  | .cpyw x | .govcfg x | .lrev x | .xinv x | .prnew x => x.h
  | .amsg x => x.h
  | .bankmode x => x.h
  | .halo x => x.h
  | .engwait x => x.h
  | .qput x | .qget x | .qpeek x | .qcnt x | .lnch x | .lease x => x.h
  | .feset x => x.h
  | .waitge x => x.h
  | .bara x | .bart x | .barc x => x.h
  | .amoAdd x | .amoSub x | .amoMin x | .amoMax x | .amoMinu x | .amoMaxu x | .amoAnd x | .amoOr x | .amoXor x
  | .amoSwp x | .amocas x => x.h
  | .redAdd x | .redMin x | .redMax x | .redAnd x | .redOr x | .redXor x | .redFadd x => x.h
  | .redw x | .sqget x | .dlcfg x | .prset x | .prpass x | .prcan x => x.h
  | .cbput x | .cbget x => x.h
  | .cbfree x => x.h
  | .gang x => x.h
  | .spawn x => x.h
  | .imprd x => x.h
  | .plate x => x.h
  | .preempt x | .resume x => x.h
  | _ => { p := false, nr := 0, ext := false, tgt := 0 }

/-- `regUse` with o: the outcome branches and GETO read it, and the try modes and .R write it (R275). -/
def uses (i : Instr) : List Nat × List Nat :=
  let (r, w) := regUse i
  (r ++ (match i with | .bnr _ | .brdy _ | .boc _ | .geto _ => [128] | _ => []), w ++ if (tryHd i).nr = 0 then [] else [128])

/-- The word that a signed offset names, if it lies in the image. -/
def wordAt (a : Nat) (off : W64) : List Nat := if 0 ≤ (a : Int) + off.toInt then [((a : Int) + off.toInt).toNat] else []

/-- Where the instruction at word `a` may branch to, other than by a register. -/
def branchesTo (a : Nat) : Instr → List Nat
  | .br x | .call x | .bnr x | .brdy x => wordAt a (Off.val x.off)
  | .bz x | .bnz x => wordAt a (Off.val x.off)
  | .beq x | .bne x | .blt x | .bge x | .bltu x | .bgeu x => wordAt a (Off.val x.off)
  | .boc x => wordAt a (Off.val x.off)
  | i => let h := tryHd i; if h.nr = 2 then wordAt a (h.tgt.signExtend 64) else []

/-- Does the instruction after it in memory never follow it? -/
def endsFlow : Instr → Bool
  | .br _ | .ret _ | .jmpi _ | .hret _ | .exit _ => true
  | _ => false

/-- Words that may follow the word `a`. A register's target, as of RET, is not followed. -/
def succs (ws : List W32) (a : Nat) : List Nat :=
  match pword (ws.drop a) with
  | .pfor _ _ n => [a + n]
  | .endp => [a + 1]
  | .ins i n => branchesTo a i ++ (if endsFlow i then [] else [a + n])
  | .none => []

/-- Words of an image that are reached from some of them. -/
def reached (ws : List W32) (entries : List Nat) : List Nat :=
  (List.range ws.length).foldl (fun rs _ => (rs ++ rs.flatMap (succs ws)).eraseDups) entries.eraseDups

/-- The instructions from word `a` to the next region marker, and where that stands; data among them is passed over. -/
def regionBody (ws : List W32) : Nat → Nat → List Instr × Nat
  | 0, a => ([], a)
  | n + 1, a =>
    match pword (ws.drop a) with
    | .ins i k => let (b, e) := regionBody ws n (a + k); (i :: b, e)
    | .none => if a < ws.length then regionBody ws n (a + 1) else ([], a)
    | _ => ([], a)

/-- A region: the words of its body stand in [lo, hi), its `.endpfor` at hi; the registers private to its items. -/
structure Region where
  lo : Nat
  hi : Nat
  own : List Nat
  deriving DecidableEq, Repr

/-- The region that the `.pfor` at word `a` opens. -/
def regionAt (ws : List W32) (a : Nat) : Option Region :=
  match pword (ws.drop a) with
  | .pfor si _ n =>
    let (b, e) := regionBody ws ws.length (a + n)
    some { lo := a + n, hi := e, own := (sR si ++ b.flatMap fun i => (uses i).2).eraseDups }
  | _ => none

/-- The registers that may not be read after word `a`, when those in `u` may not be read at it: an item starts with its index
alone, and a region leaves none of its registers. -/
def unread (ws : List W32) (regs : List Region) (a : Nat) (u : List Nat) : List Nat :=
  match pword (ws.drop a) with
  | .pfor si _ _ => ((u ++ ((regionAt ws a).map (·.own)).getD []).eraseDups).filter fun r => !(sR si).contains r
  | .endp => (u ++ (regs.filter fun g => g.hi = a).flatMap (·.own)).eraseDups
  | .ins i _ => u.filter fun r => !(uses i).2.contains r
  | .none => u

/-- One round of the flow: every reached word passes its registers on. -/
def flowRound (ws : List W32) (regs : List Region) (t : Tab (List Nat)) : Tab (List Nat) :=
  t.foldl (fun t' (x : Nat × List Nat) => (succs ws x.1).foldl
    (fun t' b => Tab.put t' b ((Tab.get [] t' b ++ unread ws regs x.1 x.2).eraseDups)) t') t

/-- The registers that may not be read at each reached word; each round that changes the table adds a word or a register. -/
def unreadable (ws : List W32) (regs : List Region) (entries : List Nat) : Tab (List Nat) :=
  (List.range (ws.length * 128)).foldl (fun t _ => flowRound ws regs t) (entries.foldl (fun t e => Tab.put t e []) [])

def imgNat (img : List Byte) (o n : Nat) : Nat := leNat ((img.drop o).take n)

/-- The kernels of an image: headers at multiples of 64 outside an earlier kernel's body (R376). -/
def imgHeaders (img : List Byte) : List Nat :=
  ((List.range (img.length / 64)).foldl (fun ((hs, next) : List Nat × Nat) i =>
    let o := 64 * i
    if next ≤ o && imgNat img o 4 = 0x4C41564B then (hs ++ [o], o + 96 + imgNat img (o + 44) 4) else (hs, next)) ([], 0)).1

/-- Where instructions stand from word `a` to word `b`, one behind another; a word that is none is passed over. -/
def sweepCode (ws : List W32) (b : Nat) : Nat → Nat → List Nat
  | 0, _ => []
  | f + 1, a =>
    if b ≤ a then []
    else match pword (ws.drop a) with
    | .pfor _ _ n | .ins _ n => a :: sweepCode ws b f (a + n)
    | .endp => a :: sweepCode ws b f (a + 1)
    | .none => sweepCode ws b f (a + 1)

/-- The SVN of an object, which its headers agree on (R378). -/
def imgSvn (img : List Byte) : Nat := imgNat img ((imgHeaders img).headD 0 + 22) 2

/-- The instructions of the whole object: what stands before its first kernel, and a kernel's body but for its footprint table, functions
and `_resolve` among them. -/
def imgCode (img : List Byte) : List Nat :=
  let ws := wordsOfBytes img
  sweepCode ws ((imgHeaders img).headD img.length / 4) ws.length 0 ++ (imgHeaders img).flatMap fun o =>
    let len := imgNat img (o + 44) 4
    let ft := imgNat img (o + 32) 4
    let last := if imgNat img (o + 36) 2 != 0 && 96 ≤ ft && ft < 96 + len then ft else 96 + len
    sweepCode ws ((o + last) / 4) ws.length ((o + 96) / 4)

/-- A native image is the object of a portable one, kernel for kernel (R385): the linkage entries, SLOTS, budgets, SVN and footprint table
and `_resolve` are kept, the headers have version 3 and PORT 0, REVMASK has the target's revision bit alone, and each HASH is the body's (R372). -/
def translates (src img : List Byte) (rev : Nat) : Bool :=
  let hs := imgHeaders src
  let ns := imgHeaders img
  hs.length = ns.length && Config.hasResolve src = Config.hasResolve img && (hs.zip ns).all fun ((a, b) : Nat × Nat) =>
    ([(20, 1), (22, 2), (24, 4), (28, 4), (36, 2), (38, 2), (40, 4)].all fun ((o, n) : Nat × Nat) => imgNat src (a + o) n = imgNat img (b + o) n) &&
    (let n := 16 * imgNat src (a + 36) 2
     (src.drop (a + imgNat src (a + 32) 4)).take n = (img.drop (b + imgNat img (b + 32) 4)).take n) &&
    imgNat img (b + 4) 2 = 3 && imgNat img (b + 6) 2 = 0 && imgNat img (b + 8) 8 = 2 ^ rev &&
    BitVec.ofNat 384 (imgNat img (b + 48) 48) = Config.sha384 ((img.drop (b + 96)).take (imgNat img (b + 44) 4))

/-- A translation of the image fails by R384. -/
def portableFails (img : List Byte) : Bool :=
  let ws := wordsOfBytes img
  let entries := imgCode img
  let rs := reached ws entries
  let regs := rs.filterMap (regionAt ws)
  let t := unreadable ws regs entries
  rs.any fun a =>
    let bad := fun (uses : List Nat) => uses.any fun r => (Tab.get [] t a).contains r
    match pword (ws.drop a) with
    | .ins i _ => neverPortable i || bad (uses i).1 || regs.any fun g => g.lo ≤ a && a < g.hi &&
        (neverInRegion i || (branchesTo a i).any fun b => !(g.lo ≤ b && b ≤ g.hi))
    | .pfor _ sc _ => bad (sR sc)
    | _ => false

end Sys2Proof.Machine
end

