-- ==== Sys2Proof/Machine/Code.lean ====
section
/-! DEFINITION. Code objects (spec/20: R371-R390; R450): ICSYNC, the root of trust's services over executable pages, and
translations. -/

namespace Sys2Proof.Machine

/-- REVID and FEAT of the module (R377). -/
def revid : W64 := 0x0003000000000000
def feat : W64 := 0x1F

/-! ## Signatures -/

/-- Bytes cut or filled with zeros to `n`. -/
def sized (n : Nat) (b : List Byte) : List Byte := b.take n ++ List.replicate (n - b.length) 0

/-- An RSA-3072 and an SLH-DSA-SHA2-192s signature by the module over some bytes: 384 and 16,224 bytes (R398). -/
def rsaSig (b : List Byte) : List Byte := sized 384 (Config.sigRsa Config.devid b)
def slhSig (b : List Byte) : List Byte := sized 16224 (Config.sigSlh Config.devid b)

/-! ## ICSYNC (R389) -/

/-- The level of a scope; none for the device, which takes in every core that can fetch the code. -/
def scopeLevel (scope : BitVec 3) : Option Nat :=
  if scope = 1 then some 1 else if scope = 2 then some 2 else if scope = 3 then some 3 else none

/-- The cores within scope of the master at `pos` drop the former words of [va, va + n). -/
def State.dropWords (s : State) (pos va n : Nat) (scope : BitVec 3) : State :=
  let mine := fun (p : Patched) => p.part = s.partOf pos && va < p.va + 4 && p.va < va + n
  match scopeLevel scope with
  | some l =>
    { s with patched := s.patched.map fun p => if mine p then { p with drops := (l, unitAt l pos) :: p.drops } else p }
  | none => { s with patched := s.patched.filter fun p => !mine p }

def execIcsync (x : ParkA) (s : State) : Out :=
  s.gate .noHandler 0 fun s =>
    let m := s.me
    let c := m.rc x.mem.cap
    let ea := m.ea x.mem
    let n := (m.rs x.sa).toNat
    if n ≥ 2 ^ 32 then illegal 6 s
    else match s.check s.cur { cap := c, perms := [pLoad], sp := { code := true }, ea := ea.toNat, len := n } with
    | some f => s.fault f
    | none =>
      if n = 0 then s.done (plHd x.h) x.h.words
      else s.sendUnit false ctlKey false (.icsync x) { sp := c.space, ea := ea } c (m.rs x.sa) 0 0 []

/-- ICSYNC_COMPLETE: the last core within scope of request `cur` has dropped the range. -/
def execIcsyncComplete (s : State) : Out :=
  .next <|
  match s.req? s.cur with
  | none => s
  | some r =>
    match r.k with
    | .unit (.icsync x) _ opd _ a _ _ =>
      (s.dropWords r.pos opd.ea.toNat a.toNat x.scope).reply r fun s => s.done (plHd x.h) x.h.words
    | _ => s

/-! ## MAP_EXECUTABLE (R380) -/

/-- Offsets of the kernels of an image: aligned headers outside an earlier kernel's body. -/
def State.kernelsIn (s : State) (part va n : Nat) : List Nat :=
  ((List.range (n / 64)).foldl (fun ((ks, next) : List Nat × Nat) i =>
    let o := 64 * i
    if next ≤ o && s.memNat (globKey part (va + o)) 4 = 0x4C41564B then
      (ks ++ [o], o + 96 + (s.hdrOf part (va + o)).codelen)
    else (ks, next)) ([], 0)).1

/-- Bytes of memory at their home. -/
def State.memBytes (s : State) (part va n : Nat) : List Byte := s.rdBytes Rdr.home (globKey part va) n

/-- The refusal code of a request, short of the mapping itself. The image of a translation record is for the REVID and FEAT that the
record names, which its signatures cover (R386). -/
def State.mapRefusal (s : State) (r : MapReq) : Option Nat :=
  let va := r.stage.toNat
  let at' := fun (o n : Nat) => s.memBytes r.part (va + r.bytes + o) n
  let hash := Config.sha384 (s.memBytes r.part va r.bytes)
  let ks := (s.kernelsIn r.part va r.bytes).map fun o => (o, s.hdrOf r.part (va + o))
  let signed := if r.record then Config.verify (Config.sha384 (at' 0 144)) (at' 144 16608) else Config.verify hash (at' 0 16608)
  let tsvn := leNat (at' 60 2)
  let rev := if r.record then BitVec.ofNat 64 (leNat (at' 64 8)) else r.revid
  let need := if r.record then BitVec.ofNat 64 (leNat (at' 72 8)) else r.featreq
  if !signed then some 1
  else if r.record && BitVec.ofNat 384 (leNat (at' 80 48)) != hash then some 2
  else if ks.any fun ((o, h) : Nat × HdrF) =>
      o + 96 + h.codelen > r.bytes || h.svn != r.svn || Config.sha384 (s.memBytes r.part (va + o + 96) h.codelen) != h.hash then some 2
  else if r.svn < s.rot.objFuse then some 3
  else if r.record && tsvn < s.rot.floor then some 4
  else if !(rev = revid || (rev &&& 0xFFFFFFFFFFFFFFC0 = revid && need &&& ~~~feat = 0)) ||
      ks.any fun ((_, h) : Nat × HdrF) => h.revmask % 2 = 0 || h.flags % 2 = 1 then some 5
  else none

/-- The range that the service maps: 64 KiB executable pages, in the second tier while the service is reduced. -/
def MapReq.desc (r : MapReq) (home : Nat) : DescF :=
  { vbase := r.base.toNat, length := (r.bytes + 65535) / 65536 * 65536, flba := 0, nsid := 0, lease := r.lease, rsv := false, home := home
    hpin := false, tier := 2, file := false, abu := false, ms := false, imm := false, x := true, w := false, pl := false, psz := 0 }

/-- A page of the image is already mapped with the same bytes. Such a page stays as it is: it keeps the block descriptors of its earlier
mapping, and none of this request's descriptor table is written to it (DESIGN CHOICE, log 53). -/
def State.imageAt (s : State) (r : MapReq) (d : DescF) (va : Nat) : Bool :=
  match s.pageAt r.part va with
  | some (_, p) =>
    let o := va - r.base.toNat
    let n := Nat.min 65536 (r.bytes - o)
    d.agrees va p && p.svn = r.svn && !p.stale && s.memBytes r.part va n = s.memBytes r.part (r.stage.toNat + o) n
  | none => false

/-- Maps one page of the image: its bytes as staged, zero beyond its end; the block descriptors of the object's descriptor
table at the offsets it names, and 0x0000 for every other block (R53, R86). -/
def State.mapImage (s : State) (r : MapReq) (d : DescF) (tsvn : Option Nat) (va : Nat) : State :=
  let o := va - r.base.toNat
  let n := Nat.min 65536 (r.bytes - o)
  let src := globKey r.part (r.stage.toNat + o)
  let dst := globKey r.part va
  let s1 := s.mapPage r.part d va
  let hs := ((s.kernelsIn r.part r.stage.toNat r.bytes).map (r.base.toNat + ·)).filter fun h => h < va + 65536 && va < h + 96
  let here := r.descs.filter fun (x : Nat × BitVec 16) => o ≤ x.1 && x.1 < o + n
  let fmts := here.flatMap fun (x : Nat × BitVec 16) => bfdCells (dst + (x.1 - o)) x.2
  { s1 with mem := setCells s1.mem (bytesAt dst (s.rdBytes Rdr.home src n) ++ fmts)
            pages := s1.pages.map fun ((k, p) : Nat × Page) =>
              (k, if k = pageKey r.part va 0 then { p with svn := r.svn, tsvn := tsvn, hdrs := hs } else p) }

/-- The pages of the image are its code segment; one that was mapped already is of the longer segment. -/
def State.markSegment (s : State) (r : MapReq) (d : DescF) : State :=
  let ks := d.pages.map fun va => pageKey r.part va 0
  let lo := r.base.toNat
  let hi := lo + r.bytes
  { s with pages := s.pages.map fun ((k, p) : Nat × Page) => (k, if !ks.contains k then p else
      match p.seg with
      | some (a, b) => { p with seg := some (Nat.min a lo, Nat.max b hi) }
      | none => { p with seg := some (lo, hi) }) }

/-- MAP_EXECUTABLE: the service refuses a request with a code, or maps the image and replies 0. -/
def execMapExecutable (r : MapReq) (s : State) : Out :=
  .next <|
  let reply := fun (s : State) (code : Nat) => ({ s with rot := { s.rot with replies := (r.part, code) :: s.rot.replies } } : State)
  if !s.rot.on then s
  else match s.mapRefusal r with
  | some code => reply s code
  | none =>
    let dies := (s.part r.part).dies
    let d := MapReq.desc r (dies.headD 0)
    let new := d.pages.filter fun va => !s.imageAt r d va
    match s.freeRange r.part with
    | none => reply s 6
    | some i =>
      if !d.ok dies || (d.pages.any fun va => (s.pageAt r.part va).isSome && !s.imageAt r d va) || s.noRoom r.part d then reply s 6
      else
        let tsvn := if r.record then some (leNat (s.memBytes r.part (r.stage.toNat + r.bytes + 60) 2)) else none
        let s1 := (new.foldl (fun s va => s.mapImage r d tsvn va) s).markSegment r d
        reply { s1.drew with ranges := Tab.put s1.ranges (r.part * 4096 + i) { lease := d.lease, base := d.vbase, len := d.length, rev := false } } 0

/-! ## FUSE_RAISE (R381) -/

/-- FUSE_RAISE: purge, mark, drop, then write the counter, which never falls, and report completion. -/
def execFuseRaise (floor : Bool) (v : Nat) (s : State) : Out :=
  .next <|
  let now := if floor then s.rot.floor else s.rot.objFuse
  if !s.rot.on || v ≤ now || v > 65535 then s
  else
    let cache := s.rot.cache.filter fun t => (if floor then t.r.tsvn else t.r.osvn) ≥ v
    let old := fun (p : Page) => !floor && p.x && p.svn < v
    let on := fun (p : Patched) => (s.pageAt p.part p.va).any fun x => old x.2
    { s with pages := s.pages.map fun ((k, p) : Nat × Page) => (k, if old p then { p with stale := true } else p)
             patched := s.patched.filter fun p => !on p
             rot := { s.rot with
               cache := cache, floor := if floor then v else s.rot.floor, objFuse := if floor then s.rot.objFuse else v
               raises := (floor, v) :: s.rot.raises } }

/-! ## Pod translation (R386-R388, R458) -/

/-- Bytes 0-143 of a record. -/
def TransRec.bytes (r : TransRec) : List Byte :=
  leBytes 4 0x5254564B ++ leBytes 2 1 ++ leBytes 2 0 ++ leBytes 48 r.key.src.toNat ++ leBytes 4 r.key.tver ++ leBytes 2 r.tsvn ++
  leBytes 2 r.osvn ++ leBytes 8 r.key.trev.toNat ++ leBytes 8 r.key.tfeat.toNat ++ leBytes 48 r.imghash.toNat ++
  leBytes 8 r.signer.toNat ++ leBytes 8 r.seq

/-- The cached translation under a key. -/
def Rot.cached (r : Rot) (key : TransKey) : Option TransRec := (r.cache.find? fun t => t.r.key = key).map (·.r)

/-- The translated image: none where R384 makes the translation fail, or the translator itself fails; an image that is not the
portable object's, kernel for kernel, and native is no translation of it (R385). The portable image is the one whose SHA-384 the key
names, and its headers give one SVN (R378, R385). -/
def TransKey.image (key : TransKey) : Option (List Byte) :=
  let src := Config.portable key.src
  if portableFails src || Config.sha384 src != key.src || !(imgHeaders src).all (fun o => imgNat src (o + 22) 2 = imgSvn src) then none
  else (Config.translate key.src key.tver key.trev key.tfeat).filter fun img => translates src img (key.trev.toNat % 64)

/-- Signs and caches a translation made here; a failed translation produces nothing but its report (R390). -/
def State.translateHere (s : State) (key : TransKey) : State :=
  match TransKey.image key with
  | none => { s with rot := { s.rot with failed := key :: s.rot.failed } }
  | some img =>
    let r : TransRec :=
      { key := key, tsvn := Config.translatorSvn key.tver, osvn := imgSvn (Config.portable key.src), imghash := Config.sha384 img, signer := Config.devid
        seq := s.rot.seq + 1, image := img, sig := [] }
    let r : TransRec := { r with sig := rsaSig (TransRec.bytes r) ++ slhSig (TransRec.bytes r) }
    { s with rot := { s.rot with seq := s.rot.seq + 1, cache := { r := r } :: s.rot.cache } }

/-- Multicasts the cached record under a key. -/
def State.multicast (s : State) (key : TransKey) : State :=
  match s.rot.cached key with
  | some r => { s with rot := { s.rot with stmts := (3, 0, TransRec.bytes r ++ r.sig) :: s.rot.stmts } }
  | none => s

/-- TRANSLATION_REQUEST: the leader translates, or takes its cached translation, and multicasts the record; another module
asks the leader. -/
def execTranslationRequest (key : TransKey) (s : State) : Out :=
  .next <|
  if !s.rot.on then s
  else if Config.leader = Config.devid then
    (if (s.rot.cached key).isSome then s else s.translateHere key).multicast key
  else if (s.rot.cached key).isSome || s.rot.asked.any fun x => x.1 = key then s
  else { s with rot := { s.rot with asked := s.rot.asked ++ [(key, s.cyc)] } }

/-- A received record is kept. -/
def State.recordOk (s : State) (r : TransRec) : Bool :=
  Config.podMember r.signer && Config.verify (Config.sha384 (TransRec.bytes r)) r.sig && Config.sha384 r.image = r.imghash &&
  s.rot.objFuse ≤ r.osvn && s.rot.floor ≤ r.tsvn && r.key.trev = revid && r.key.tfeat = feat

/-- TRANSLATION_RECORD_RECEIVE: the record is checked and cached, or discarded and logged. -/
def execTranslationRecordReceive (r : TransRec) (s : State) : Out :=
  .next <|
  if !s.rot.on then s
  else if s.recordOk r then
    let cache := if (s.rot.cached r.key).isSome then s.rot.cache else { r := r } :: s.rot.cache
    { s with rot := { s.rot with cache := cache, asked := s.rot.asked.filter fun x => x.1 != r.key } }
  else { s with rot := { s.rot with discards := r.key :: s.rot.discards } }

/-! ## The loader's choice (R378, R379)

The loader is supervisor software: no step of the device makes this choice, and MAP_EXECUTABLE receives what it chose. -/

/-- An entry of a fat object's directory. -/
structure FatEntry where
  kind : Nat
  svn : Nat
  revid : W64
  featreq : W64
  offset : Nat
  length : Nat
  deriving DecidableEq, Repr

def fatEntry (d : BitVec 256) : FatEntry :=
  { kind := fld d 0 4, svn := fld d 48 16, revid := d.extractLsb' 64 64, featreq := d.extractLsb' 128 64, offset := fld d 192 32
    length := fld d 224 32 }

inductive FatChoice where
  /-- the native image of an entry -/
  | native (i : Nat)
  /-- a translation in the module's cache -/
  | cached (r : TransRec)
  /-- the portable image of an entry is translated now -/
  | translate (i : Nat)
  /-- failure, reported with this refusal code -/
  | fail (code : Nat)
  deriving DecidableEq, Repr

/-- Entries with their numbers, without those that the fuse counter passes over. -/
def fatLive (fuse : Nat) (es : List FatEntry) : List (Nat × FatEntry) :=
  ((List.range es.length).zip es).filter fun ((_, e) : Nat × FatEntry) => fuse ≤ e.svn

/-- The image of the same family with the highest revision number whose features the module has. -/
def fatFamily (es : List (Nat × FatEntry)) : Option (Nat × FatEntry) :=
  (es.filter fun ((_, e) : Nat × FatEntry) => e.kind = 1 && e.revid.toNat / 2 ^ 48 = revid.toNat / 2 ^ 48 && e.featreq &&& ~~~feat = 0).foldl
    (fun o x => match o with
      | some y => if y.2.revid.toNat % 64 < x.2.revid.toNat % 64 then some x else o
      | none => some x) none

/-- R379, steps 1 to 5. Where every image that fits is passed over for its SVN, the failure is reported with code 5 as any other
(DESIGN CHOICE, notes/assumptions/100.md). `src` is the hash of an entry's image, `tver` the translator's version. -/
def State.fatChoose (s : State) (es : List FatEntry) (src : Nat → BitVec 384) (tver : Nat) : FatChoice :=
  let live := fatLive s.rot.objFuse es
  if es.any fun e => e.kind > 2 then .fail 5
  else match live.find? fun x => x.2.kind = 1 && x.2.revid = revid with
  | some x => .native x.1
  | none =>
    match fatFamily live with
    | some x => .native x.1
    | none =>
      match live.find? fun x => x.2.kind = 2 with
      | none => .fail 5
      | some x =>
        let key : TransKey := { src := src x.1, tver := tver, trev := revid, tfeat := feat }
        match (s.rot.cached key).filter s.recordOk with
        | some r => .cached r
        | none => if (TransKey.image key).isNone then .fail 5 else .translate x.1

/-- TRANSLATION_TIMEOUT: after 2^26 cycles without a reply the module translates for itself. -/
def execTranslationTimeout (key : TransKey) (s : State) : Out :=
  .next <|
  match s.rot.asked.find? fun x => x.1 = key with
  | none => s
  | some (_, t) =>
    if s.cyc < t + 2 ^ 26 then s
    else ({ s with rot := { s.rot with asked := s.rot.asked.filter fun x => x.1 != key } } : State).translateHere key

/-! ## CODE_PATCH (R450) -/

/-- CODE_PATCH: in a session of the partition, a word of an executable page is changed and logged, but no word of a kernel's header, so that
no kernel hash changes (R372), nor does a recorded SVN; cores may hold the former word until an ICSYNC. -/
def execCodePatch (part : Nat) (va : W64) (w : W32) (s : State) : Out :=
  .next <|
  let ok := va.toNat % 4 = 0 && (s.pageAt part va.toNat).any (fun x => x.2.x && x.2.hdrs.all fun h => va.toNat + 4 ≤ h || h + 96 ≤ va.toNat) && s.rot.sessions.any fun x => x.2 = part
  if !ok then s
  else
    let p : Patched := { id := s.nextReq, part := part, va := va.toNat, old := s.codeWord part va, drops := [] }
    { s with mem := setCells s.mem (dataCells (globKey part va.toNat) (leBytes 4 w.toNat)), nextReq := s.nextReq + 1
             patched := s.patched ++ [p], rot := { s.rot with patches := (part, va, w) :: s.rot.patches } }

end Sys2Proof.Machine
end

