-- ==== Sys2Proof/Machine/Proofs.lean ====
section
/-! DEFINITION. The proof instructions and the proof table's replies (spec/23: R405, R410, R422-R429). -/

namespace Sys2Proof.Machine

/-- A proof id of the table. -/
def State.proof? (s : State) (id : Nat) : Option Proof := Tab.find? s.proofs id

/-- Sends a proof instruction to the proof table; sa's bits above `bits` must be 0. -/
def State.toTable (s : State) (bits : Nat) (i : Instr) (a : W64) : State :=
  if a.toNat ≥ 2 ^ bits then illegal 6 s
  else s.proofCheck fun s => s.sendUnit false ctlKey false i { sp := 3, ea := 0 } Cap.null a 0 0 []

def execPrnew (x : SS) (s : State) : Out :=
  s.gate .task x.h.nr fun s => s.toTable 16 (.prnew x) (s.me.rs x.rb)
def execPrset (x : SH) (s : State) : Out :=
  s.gate .task x.h.nr fun s => s.toTable 16 (.prset x) (s.me.rs x.sr)
def execPrpass (x : SH) (s : State) : Out :=
  s.gate .task x.h.nr fun s => s.toTable 16 (.prpass x) (s.me.rs x.sr)
def execPrcan (x : SH) (s : State) : Out :=
  s.gate .task x.h.nr fun s => s.toTable 16 (.prcan x) (s.me.rs x.sr)
def execPrst (x : SSP) (s : State) : Out :=
  s.gate .noHandler 0 fun s => s.toTable 17 (.prst x) (s.me.rs x.sa)

/-- PRORV: the old vector into sd, the new one from the label (R427). -/
def execProrv (x : ProrvA) (s : State) : Out :=
  s.gate .task 0 fun s => s.proofCheck fun s =>
    let m := s.me
    let v : W64 := if x.imm = 0 then 0 else m.pc + 4 * x.imm.signExtend 64
    (s.upd fun m => { m.ws x.sd m.orphv with orphv := v }).done (plHd x.h) x.h.words

/-! ## At the table -/

/-- The proof that sa names for the issuing task: 0 names its own PROOF, which an orphan no longer has. -/
def State.named (s : State) (a : W64) : Nat :=
  let p := a.toNat % 65536
  if p != 0 then p else if s.me.orphan.isSome then 0 else s.me.proof

/-- The named proof, if it is live in the issuing task's launch. -/
def State.ownProof (s : State) (id : Nat) : Option Proof :=
  (s.proof? id).bind fun p => if p.lslot = s.me.lslot then some p else none

/-- Live proofs of a launch. -/
def State.liveProofs (s : State) (lslot : Nat) : Nat := (s.proofs.filter fun ((_, p) : Nat × Proof) => p.lslot = lslot).length

/-- Resolution requests of a launch that are pending. -/
def State.resolving (s : State) (lslot : Nat) : Nat := (s.reqs.filter fun r => r.lslot = lslot && r.k = .resolve).length

/-- PRNEW at the table (R423). -/
def State.prnewAt (s : State) (x : SS) (a : W64) : State :=
  let p := s.named a
  match s.ownProof p with
  | none => (s.upd fun m => m.ws x.ra 0).final x.h x.h.words oFalse
  | some q =>
    if q.depth = 8 then (s.upd fun m => m.ws x.ra 0).final x.h x.h.words oFalse
    else match s.freeProof with
    | none => s.notReady x.h x.h.words oFull .table 0
    | some c =>
      if s.liveProofs s.me.lslot ≥ 1024 || s.proofs.length ≥ 16384 then s.notReady x.h x.h.words oFull .table 0
      else
        let s1 : State :=
          { s.drew with proofs := Tab.put s.proofs c { lslot := s.me.lslot, parent := p, depth := q.depth + 1, st := 0, ord := 0 } }
        (s1.upd fun m => m.ws x.ra (BitVec.ofNat 64 c)).done x.h x.h.words

/-- PRSET at the table: p = 0 names the root (R424). -/
def State.prsetAt (s : State) (x : SH) (a : W64) : State :=
  let p := if a = 0 then ((s.launch? s.me.lslot).map (·.root)).getD 0 else a.toNat
  match s.ownProof p with
  | none => s.final x.h x.h.words oFalse
  | some _ => (s.upd fun m => { m with proof := p, orphan := none }).done x.h x.h.words

/-- PRPASS and PRCAN at the table: `st'` is the state requested, and the request stays outstanding until the edge (R425). -/
def State.resolveAt (s : State) (x : SH) (a : W64) (st' : Nat) : State :=
  let p := s.named a
  match s.ownProof p with
  | none => s.final x.h x.h.words oFalse
  | some q =>
    if q.parent = 0 || q.st ≥ st' || (st' = 1 && q.st != 0) then s.final x.h x.h.words oFalse
    else if s.resolving s.me.lslot ≥ 64 then s.notReady x.h x.h.words oFull .table 0
    else
      let s1 : State := { s with proofs := Tab.put s.proofs p { q with st := st', ord := s.nextReq } }
      (s1.request s.cur ctlKey false true .resolve []).done x.h x.h.words

/-- A proper ancestor is CANCELLING. -/
def State.inCancelling (s : State) (p : Proof) : Bool :=
  (s.chain p.parent).any fun a => (s.proof? a).any fun q => q.st = 2

/-- The state word of PRST, or the parent (R426). -/
def State.prstWord (s : State) (a : W64) : Nat :=
  let svc := s.me.kind = .svc
  let id := if svc then a.toNat % 65536 else s.named a
  let q := if svc then (s.proof? id).bind fun p =>
      if (s.launch? p.lslot).any fun l => l.part = s.partOf s.cur then some p else none
    else s.ownProof id
  match q with
  | none => if a.toNat ≥ 65536 then 0 else 7 * 2 ^ 13
  | some p =>
    if a.toNat ≥ 65536 then p.parent
    else
      let l := s.launch? p.lslot
      let use := Nat.min (((l.map (·.use)).getD 0 + 4095) / 4096) (2 ^ 24 - 1)
      let kids := (s.proofs.filter fun ((_, c) : Nat × Proof) => c.parent = id).length
      let st := if s.inCancelling p then 3 else p.st
      use * 2 ^ 40 + kids * 2 ^ 22 + (if l.any fun l => l.st = .doomed then 2 ^ 21 else 0) + (if p.parent = 0 then 2 ^ 20 else 0) +
        p.depth * 2 ^ 16 + st * 2 ^ 13

/-- PROOF_TABLE_REPLY: the table performs request `cur` and replies. -/
def execProofTableReply (s : State) : Out :=
  .next <|
  match s.req? s.cur with
  | none => s
  | some r =>
    match r.k with
    | .unit (.prnew x) _ _ _ a _ _ => s.reply r fun s => s.prnewAt x a
    | .unit (.prset x) _ _ _ a _ _ => s.reply r fun s => s.prsetAt x a
    | .unit (.prpass x) _ _ _ a _ _ => s.reply r fun s => s.resolveAt x a 1
    | .unit (.prcan x) _ _ _ a _ _ => s.reply r fun s => s.resolveAt x a 2
    | .unit (.prst x) _ _ _ a _ _ =>
      s.reply r fun s => (s.upd fun m => m.ws x.sd (BitVec.ofNat 64 (s.prstWord a))).done (plHd x.h) x.h.words
    | _ => s

end Sys2Proof.Machine
end

