-- ==== Sys2Proof/Machine/Plates.lean ====
section
/-! DEFINITION. Plates (spec/22: R393-R404): PLATE, IMPRD, signed statements, closing and checkpoints. -/

namespace Sys2Proof.Machine

/-! ## PLATE (R394) -/

/-- The checks at issue, in the order of R394. -/
def plateCheck (c : Cap) : Option Flt :=
  if !c.tag then some (capFlt cCaptag 1 0 c c.cursor.toNat)
  else if c.sealT != 0 || !c.has [pLoad] then some (capFlt cCapperm 2 0 c c.cursor.toNat)
  else if c.space != spGlob then some (capFlt cSpace 3 0 c c.cursor.toNat)
  else if c.base % 65536 != 0 || c.top % 65536 != 0 || c.top ≤ c.base then some (capFlt cAlign 4 0 c c.cursor.toNat)
  else none

def execPlate (x : PlateA) (s : State) : Out :=
  s.gate .sup x.h.nr fun s =>
    let m := s.me
    let c := m.rc x.cs
    let a := m.rs x.sa
    match plateCheck c with
    | some f => s.fault f
    | none =>
      if a.toNat ≥ 4096 then illegal 6 s
      else s.sendUnit false ctlKey false (.plate x) { sp := 3, ea := 0 } c a 0 0 []

/-- A plate capability over the range of `c`. -/
def Cap.toPlate (c : Cap) : Cap :=
  { c with bits := c.bits.extractLsb' 64 64 ++ 0x0400#16 ++ BitVec.ofNat 4 spPlate ++ c.bits.extractLsb' 0 44 }

/-- PLATE's conditions at the root of trust. Another plate meets the range only within one partition, whose addresses name one memory (DEDUCED,
notes/assumptions/106.md). -/
def State.plateFails (s : State) (part id lo hi : Nat) : Bool :=
  let p := s.plate id
  ((chunksOf lo (hi - lo)).any fun va => !(s.pageAt part va).any fun x => x.2.pl) ||
  (s.plates.any fun ((k, q) : Nat × Plate) => k != id && q.st != 0 && q.part = part && q.base < hi && lo < q.top) ||
  p.st = 2 || (p.st = 1 && (p.part != part || p.base != lo || p.top != hi))

/-- Opens a FREE plate: the next generation, every slot empty and unbound (R393, R395). -/
def State.openPlate (s : State) (part id lo hi : Nat) : State :=
  let s1 : State := { s with launches := s.launches.map fun ((i, l) : Nat × Launch) => (i, { l with bound := Tab.del l.bound id }) }
  s1.setPlate id { Plate.empty with st := 1, gen := ((s.plate id).gen + 1) % 2 ^ 32, part := part, base := lo, top := hi, ckAt := s.cyc }

/-- PLATE_COMPLETE: the root of trust performs request `cur`. -/
def execPlateComplete (s : State) : Out :=
  .next <|
  match s.req? s.cur with
  | none => s
  | some r =>
    match r.k with
    | .unit (.plate x) _ _ c a _ _ =>
      let part := s.partOf r.pos
      let id := a.toNat % 4096
      if s.plateFails part id c.base c.top then s.reply r fun s => s.final x.h x.h.words oFalse
      else
        let s1 := if (s.plate id).st = 0 then s.openPlate part id c.base c.top else s
        s1.reply r fun s => (s.upd fun m => m.wc x.cd c.toPlate).done x.h x.h.words
    | _ => s

/-! ## IMPRD (R399) -/

/-- The OPEN plate of a partition that holds an address. -/
def State.openAt (s : State) (part va : Nat) : Option Nat :=
  (List.find? (fun ((_, p) : Nat × Plate) => p.st = 1 && p.part = part && p.base ≤ va && va < p.top) s.plates).map Prod.fst

/-- The checks of cP. -/
def State.imprdCheck (s : State) (part : Nat) (c : Cap) : Option Flt :=
  let va := c.cursor.toNat
  if !c.tag then some (capFlt cCaptag 1 1 c va)
  else if c.sealT != 0 || !c.has [pPlateRead] then some (capFlt cCapperm 2 1 c va)
  else if c.space != spPlate then some (capFlt cSpace 3 1 c va)
  else if (s.openAt part va).isNone then some (plateFlt (((s.platesIn part va 1 2).map Prod.fst).headD 0xFFFF) va)
  else none

def execImprd (x : ImprdA) (s : State) : Out :=
  s.gate .noHandler x.h.nr fun s =>
    let m := s.me
    let part := s.partOf s.cur
    let c := m.rc x.cP
    match s.imprdCheck part c with
    | some f => s.fault f
    | none =>
      let ea := m.ea x.mem
      let acc : Acc :=
        { cap := m.rc x.mem.cap, perms := [pStore], sp := { own := true, imm := true, ms := true }, write := true, ea := ea.toNat
          len := 22880, align := 64 }
      s.accessHeld x.h x.h.words acc fun s key =>
        if (s.reports.filter fun q => q.part = part).length ≥ 16 then s.notReady x.h x.h.words oFull .imprd ea
        else
          let a := (s.core (coreOf s.cur)).allocs.find? fun a => a.lslot = m.lslot && a.holds ea.toNat 22880
          let q : Report :=
            { id := s.nextReq, part := part, dst := key, lslot := m.lslot, gang := (a.map (·.gang)).getD 0, grp := (a.map (·.grp)).getD 0, plate := (s.openAt part c.cursor.toNat).getD 0
              nonce := m.rs x.sn, snap := none, snapAt := 0 }
          ({ s with reports := s.reports ++ [q], nextReq := s.nextReq + 1 } : State).done x.h x.h.words

/-! ## Statements (R398) -/

/-- PENDING of a plate's slot over the live launches. -/
def State.pending (s : State) (id slot : Nat) : Nat :=
  s.launches.foldl (fun n ((_, l) : Nat × Launch) => n + Tab.get 0 l.pend (id * 64 + slot)) 0

/-- PENDING that launches held at their end wait to add (R401): a checkpoint covers it. -/
def State.heldPend (s : State) (st : LSt) (k : Nat) : Nat :=
  (s.launches.filter fun ((_, l) : Nat × Launch) => l.st = st).foldl (fun n ((_, l) : Nat × Launch) => n + Tab.get 0 l.pend k) 0

/-- Slot `k` of a statement. `held`: a checkpoint's, which covers what launches held at their end wait to add. -/
def State.slotBytes (s : State) (held : Bool) (id k : Nat) : List Byte :=
  match Tab.find? (s.plate id).slots k with
  | none => List.replicate 96 0
  | some x =>
    let more := fun (st : LSt) => if held then s.heldPend st (id * 64 + k) else 0
    leBytes 48 x.hash.toNat ++ leBytes 8 (x.struck + more .ending) ++ leBytes 8 (x.spoiled + more .aborting) ++ leBytes 8 (s.pending id k) ++
    leBytes 2 x.carryS ++ leBytes 2 x.carryP ++ leBytes 1 (if x.sat then 1 else 0) ++ List.replicate 19 0

/-- Bytes 0-6271 of a statement of kind `kind` on plate `id`; it takes the signer's next SEQ. -/
def State.statement (s : State) (kind id : Nat) (nonce : W64) (held : Bool) : List Byte × State :=
  let p := s.plate id
  let head := leBytes 4 0x504D494B ++ leBytes 2 1 ++ leBytes 2 kind ++ leBytes 8 Config.devid.toNat ++ leBytes 8 (s.rot.seq + 1) ++
    leBytes 8 s.round.num ++ leBytes 2 id ++ leBytes 2 0 ++ leBytes 4 p.gen ++ leBytes 8 p.base ++ leBytes 8 (p.top - p.base) ++
    leBytes 8 nonce.toNat ++ List.replicate 64 0
  (head ++ (List.range 64).flatMap (s.slotBytes held id), { s with rot := { s.rot with seq := s.rot.seq + 1 } })

/-- A statement with its two signatures. -/
def signed (b : List Byte) : List Byte := b ++ rsaSig b ++ slhSig b

/-- Keeps a signed statement that the root of trust has issued. -/
def State.issue (s : State) (kind id : Nat) (b : List Byte) : State :=
  { s with rot := { s.rot with stmts := (kind, id, signed b) :: s.rot.stmts } }

/-- An allocation is the one that holds the report's destination. -/
def Report.inAlloc (q : Report) (a : Alloc) : Bool :=
  a.lslot = q.lslot && a.gang = q.gang && a.grp = q.grp && a.holds ((q.dst - 2 ^ 68) % 2 ^ 18) 22880

/-- Where a report's destination stands now: on its mapped page, or in its allocation (`placeAlloc` moves the destination with it).
Where the allocation is gone with its tasks, a KILL's among others, it is the same place of the LS, whoever holds that now (R399;
notes/assumptions/56.md). -/
def State.reportKey (s : State) (q : Report) : Option Nat :=
  if isGlobKey q.dst then (s.pageOfKey q.dst).map fun _ => q.dst
  else
    if !((s.core (coreOfLsKey q.dst)).allocs.any q.inAlloc) && s.saves.any fun ((_, r) : Nat × Save) => r.alloc.any q.inAlloc then none
    else some q.dst

/-- A report whose allocation is saved is written into the save record that keeps it (R399, R441). -/
def State.reportSaved (s : State) (q : Report) (bs : List Byte) : State :=
  match List.find? (fun ((_, r) : Nat × Save) => r.alloc.any q.inAlloc) s.saves with
  | some (k, r) =>
    if isGlobKey q.dst then s
    else { s with saves := Tab.put s.saves k { r with ls := setCells r.ls (dataCells (lsKey 0 ((q.dst - 2 ^ 68) % 2 ^ 18)) bs) } }
  | none => s

/-- IMPRD_REPORT_WRITE: the report of request `cur`, taken at an edge, is written: bytes 0-7 last. -/
def execImprdReportWrite (s : State) : Out :=
  .next <|
  match s.reports.find? fun q => q.id = s.cur with
  | none => s
  | some q =>
    match q.snap with
    | none => s
    | some b =>
      let all := signed b
      let s1 := match s.reportKey q with
        | some k => (s.unitWrite (k + 8) (all.drop 8)).unitWrite k (all.take 8)
        | none => s.reportSaved q all
      ({ s1 with reports := s1.reports.filter fun x => x.id != q.id } : State).wakeAll fun k m => m.park = .imprd && s.partOf k = q.part

/-! ## Closing (R393) -/

/-- A lease holds a page of the plate's range. -/
def State.plateLeased (s : State) (p : Plate) : Bool :=
  s.ranges.any fun ((k, g) : Nat × Rng) => k / 4096 = p.part && g.base < p.top && p.base < g.base + g.len

/-- PLATE_CLOSE_REQUEST: OPEN plate `cur` becomes CLOSING, unless a lease holds a page of its range. -/
def execPlateCloseRequest (s : State) : Out :=
  .next <|
  let p := s.plate s.cur
  if p.st = 1 && !s.plateLeased p then s.setPlate s.cur { p with st := 2 } else s

/-- A live launch has PENDING on the plate. -/
def State.platePending (s : State) (id : Nat) : Bool :=
  s.launches.any fun ((_, l) : Nat × Launch) => l.pend.any fun ((k, _) : Nat × Nat) => k / 64 = id

/-- PLATE_CLOSE_FINISH: the closing statement of plate `cur`, whose snapshot an edge has taken once no launch had PENDING on it, is
signed, and the plate becomes FREE. -/
def execPlateCloseFinish (s : State) : Out :=
  .next <|
  let p := s.plate s.cur
  match p.fin with
  | some b => if p.st != 2 || s.platePending s.cur then s else (s.issue 1 s.cur b).setPlate s.cur { Plate.empty with gen := p.gen }
  | none => s

/-! ## Checkpoints (R400, R401) -/

/-- CHECKPOINT_DURABLE: the checkpoint of plate `cur` in flight stands in both places: the record in the reserved region of the storage
namespace, and its SHA-384 with its count and the reserve in the replay-protected block (R400). -/
def execCheckpointDurable (s : State) : Out :=
  .next <|
  let p := s.plate s.cur
  match p.ck with
  | none => s
  | some vs =>
    let slots := vs.foldl (fun t ((i, a, b) : Nat × Nat × Nat) =>
      match Tab.find? t i with
      | some x => Tab.put t i { x with ckS := a, ckP := b }
      | none => t) p.slots
    let s1 : State :=
      { s with rot := { s.rot with region := Tab.put s.rot.region s.cur p.ckRec
                                   rpmb := Tab.put s.rot.rpmb s.cur (Config.sha384 p.ckRec, leNat ((p.ckRec.drop 16).take 8), 2 ^ 20) } }
    s1.setPlate s.cur { p with slots := slots, ck := none, ckFail := false, ckRec := [] }

/-- CHECKPOINT_FAILURE: the checkpoint of plate `cur` in flight cannot be made durable; the previous one stands, and a STORAGE
packet is written at the first failure and then at most once every 2^30 cycles. -/
def execCheckpointFailure (s : State) : Out :=
  .next <|
  let p := s.plate s.cur
  match p.ck with
  | none => s
  | some _ =>
    let report := !p.ckFail || s.cyc ≥ p.ckRep + 2 ^ 30
    let s1 := s.setPlate s.cur { p with ck := none, ckRec := [], ckFail := true, ckRep := if report then s.cyc else p.ckRep }
    if !report then s1
    else s1.queuePacket s.rot.die
      { pos := none, type := 1, eng := 0, cause := cStorage, pc := 0, d0 := Config.ckNsid, d1 := Config.ckBlock s.cur, d2 := 0, d3 := BitVec.ofNat 64 s.cur, proof := 0
        lnch := 0, round := s.round.num, die := s.rot.die, clu := 0, core := 0, slot := 0, svc := false }

end Sys2Proof.Machine
end

