-- ==== Sys2Proof/Machine/Preempt.lean ====
section
/-! DEFINITION. Pre-emption, resumption and freezing (spec/25: R438-R449; R33, R34). -/

namespace Sys2Proof.Machine

/-! ## Targets (R444) -/

structure TgtF where
  sel : Nat
  saveid : Nat
  svc : Bool
  die : Nat
  clu : Nat
  core : Nat
  slot : Nat
  lnch : Nat

def tgtF (a : W64) : TgtF :=
  { sel := fld a 62 2, saveid := fld a 48 14, svc := a.getLsbD 47, die := fld a 42 5, clu := fld a 38 4, core := fld a 34 4
    slot := fld a 30 4, lnch := fld a 0 22 }

def TgtF.coreNo (t : TgtF) : Nat := (t.die * 16 + t.clu) * 16 + t.core
def TgtF.pos (t : TgtF) : Nat := if t.svc then svcBase + t.die * 4 + t.core else t.coreNo * 16 + t.slot

/-- Every bit outside the fields that the selector uses is 0. -/
def within (a mask : W64) : Bool := a &&& ~~~mask = 0

def mSel : W64 := 0xC000000000000000
def mSave : W64 := 0x3FFF000000000000
def mSvc : W64 := 0x0000800000000000
def mDie : W64 := 0x00007C0000000000
def mCore : W64 := 0x0000003C00000000
def mClu : W64 := 0x000003C000000000
def mSlot : W64 := 0x00000003C0000000
def mLnch : W64 := 0x00000000003FFFFF

/-- The target fields of one master. -/
def tgtOne (a : W64) : Bool :=
  let t := tgtF a
  if t.svc then within a (mSel ||| mSvc ||| mDie ||| mCore)
  else within a (mSel ||| mDie ||| mClu ||| mCore ||| mSlot ||| mLnch)

def preemptOk (a b : W64) : Bool :=
  let t := tgtF a
  within b 1 && !(b = 1 && t.sel != 2) &&
  (if t.sel = 0 then within a (mSel ||| mDie ||| mClu ||| mCore ||| mSlot ||| mLnch)
   else if t.sel = 1 then within a (mSel ||| mDie ||| mClu ||| mCore ||| mLnch)
   else if t.sel = 2 then within a (mSel ||| mLnch) else false)

def resumeOk (a b : W64) : Bool :=
  let t := tgtF a
  within b 1 &&
  (if t.sel = 0 then tgtOne a else if t.sel = 1 then within a (mSel ||| mSave)
   else if t.sel = 2 then within a (mSel ||| mLnch) else false)

def freezeOk (a : W64) : Bool := (tgtF a).sel = 0 && tgtOne a

/-- Sends a request to the collector. -/
def State.toCollector (s : State) (ok : Bool) (i : Instr) (a b : W64) : State :=
  if !ok then illegal 6 s
  else s.sendUnit false ctlKey false i { sp := 3, ea := 0 } Cap.null a b 0 []

def execPreempt (x : SSS) (s : State) : Out :=
  s.gate .sup x.h.nr fun s =>
    let m := s.me
    s.toCollector (preemptOk (m.rs x.sa) (m.rs x.sb)) (.preempt x) (m.rs x.sa) (m.rs x.sb)
def execResume (x : SSS) (s : State) : Out :=
  s.gate .sup x.h.nr fun s =>
    let m := s.me
    s.toCollector (resumeOk (m.rs x.sa) (m.rs x.sb)) (.resume x) (m.rs x.sa) (m.rs x.sb)
def execFreeze (x : SSP) (s : State) : Out :=
  s.gate .sup 0 fun s =>
    let m := s.me
    s.toCollector (freezeOk (m.rs x.sa)) (.freeze x) (m.rs x.sa) 0

/-! ## PREEMPT (R440, R445) -/

/-- Tasks of a launch that a selector names and that are neither leaving nor being saved already. -/
def State.selected (s : State) (part sel pos lslot : Nat) : List Nat :=
  (s.masters.filter fun ((k, m) : Nat × Master) =>
    m.kind = .task && s.partOf k = part && m.lslot = lslot && (!m.exiting || m.st = .frozen) && m.saving.isNone &&
    (if sel = 0 then k = pos else if sel = 1 then coreOf k = pos else true)).map Prod.fst

/-- Save records of a partition that are neither in use nor promised. -/
def State.freeSaves (s : State) (part : Nat) : Nat :=
  16384 - (s.saves.filter fun ((k, _) : Nat × Save) => k / 16384 = part).length -
  ((s.part part).pres.filter fun p => !p.kill).foldl (fun n p => n + p.count) 0

/-- PREEMPT at the collector: FALSE, FULL, or accepted for the next edge. -/
def State.preemptAt (s : State) (r : Req) (x : SSS) (a b : W64) : State :=
  let part := s.partOf r.pos
  let t := tgtF a
  let kill := b = 1
  let live := (s.byLnchid t.lnch).bind fun i => (s.launch? i).bind fun l =>
    if l.part = part && (l.st = .running || l.st = .doomed) then some i else none
  let falseOut := s.reply r fun s => s.final x.h x.h.words oFalse
  match live with
  | none => falseOut
  | some i =>
    let pos := if t.sel = 0 then t.pos else t.coreNo
    let sel := s.selected part t.sel pos i
    if !kill && sel.isEmpty then falseOut
    else if (s.part part).pres.length ≥ 16 || (!kill && s.freeSaves part < sel.length) then
      s.reply r fun s => s.notReady x.h x.h.words oFull .preempt 0
    else
      let p : Pre := { id := r.id, sel := t.sel, kill := kill, pos := pos, lslot := i, done := false, edge := 0, count := sel.length }
      let s1 := s.updPart part fun q => { q with pres := q.pres ++ [p] }
      let s2 := if kill then s1.updLaunch i fun l => { l with st := .aborting, endAt := s.cyc, sweep := none } else s1
      { s2 with round := { s2.round with demand := true } }

/-- A free save record of a partition; which is free. -/
def State.freeRecord (s : State) (part : Nat) : Option Nat :=
  s.pickOf ((List.range 16384).filter fun i =>
    (Tab.find? s.saves (part * 16384 + i)).isNone && (s.savingAt (part * 16384 + i)).isNone)

/-- The task at `pos` leaves its slot and its tiles for save record `key`: it is SAVED, and its wait count stands (R29, R31, R441). Its
results and jobs end there, on a copy of its tiles. -/
def State.leaveSlot (s : State) (id pos key : Nat) : State :=
  let m := s.ms pos
  let core := coreOf pos
  let p' := savePos key pos
  let z := 2 ^ 24 * (key + 1)
  let lo := tileOf core m.zbase
  let mine := fun (k : Nat) => lo ≤ k && k < lo + m.zcount * 1024
  let own := fun (t : Nat) => core * 16 + m.zbase ≤ t && t < core * 16 + m.zbase + m.zcount
  let move := fun (t : Nat) => if own t then t - m.zbase + z else t
  let re := fun (p : Nat) => if p = pos then p' else p
  let s1 : State :=
    { s with
      tiles := (s.tiles.filter fun ((k, _) : Nat × W32) => mine k).foldl (fun t ((k, v) : Nat × W32) => Tab.set 0 t (k - lo + tileOf core z) v)
        (s.tiles.filter fun ((k, _) : Nat × W32) => !mine k)
      ztag := s.ztag.map move
      zbad := s.zbad.map move
      reqs := s.reqs.map fun r => { r with pos := re r.pos }
      batches := s.batches.map fun b => { b with pos := re b.pos }
      scans := s.scans.map fun x => { x with pos := re x.pos }
      dies := s.dies.map fun ((n, d) : Nat × Die) => (n, { d with pkts := d.pkts.map fun p => { p with pos := p.pos.map re } }) }
  let s2 := (s1.setM pos Master.empty).setM p'
    { m with saving := some id, wait := m.stood s.cyc, resv := none, zbase := if m.zcount = 0 then 0 else z }
  (s2.updCore core fun c =>
    { c with tiles := c.tiles.filter (fun ((_, o) : Nat × Nat) => o != pos + 1)
             pers := c.pers.filter fun x => x.pos != pos }).wakeAll fun _ m => m.park = .resume

/-- The state of a save at its edge: the selected tasks leave their slots, each for a record. -/
def State.saveEdge (s : State) (part : Nat) (p : Pre) : State :=
  let live := (s.launch? p.lslot).any fun l => l.st = .running || l.st = .doomed
  let sel := if live then s.selected part p.sel p.pos p.lslot else []
  let s1 := sel.foldl (fun s k =>
    match s.freeRecord part with
    | some i => s.drew.leaveSlot p.id k (part * 16384 + i)
    | none => s) s
  s1.updPart part fun q => { q with pres := q.pres.map fun y => if y.id = p.id then { y with done := true, edge := s.round.num, count := sel.length } else y }

/-! ## What has been sent reaches its receiver (R332, R440) -/

/-- An event of a unit, as a part of another step. -/
def State.runAt (s : State) (cur arg : Nat) (e : State → Out) : State :=
  match e { s with cur := cur, arg := arg } with
  | .next t => { t with cur := s.cur, arg := s.arg }
  | _ => s

/-- Every write under way is applied that can be, and every request is performed that can be; a message to another core's LS is
with that core, which serves it in its own time. -/
def State.sweepSent (s : State) : State :=
  let s1 := s.batches.foldl (fun s b =>
    if b.push then b.todo.foldl (fun s d => s.runAt b.id d execHaloPushApply) s
    else (if b.applied then b.todo else [b.home]).foldl (fun s d => s.runAt b.id d execWriteBatchApply) s) s
  s1.reqs.foldl (fun s r =>
    if r.own.isSome then s.runAt r.id 0 execPostedResultReturn
    else if !r.pending || r.unitKey.all isLs then s
    else (((s.runAt r.id 0 execAmoPerform).runAt r.id 0 execRedPerform).runAt r.id 0 execFifoPerform).runAt r.id 0 execSyncRemotePerform) s1

/-- What has been sent is received: at a round's edge every message sent before the marker (R332). -/
def State.flushN : Nat → State → State
  | 0, s => s
  | n + 1, s => if s.batches.isEmpty && !s.reqs.any Req.pending then s else State.flushN n s.sweepSent
def State.flush (s : State) : State := State.flushN (2 * s.batches.length + s.reqs.length) s

/-! ## KILL (R442, R190) -/

/-- An operation on memory sent to a bank or a memory-side unit. -/
def Req.atUnit (r : Req) : Bool := r.pending && r.own.isNone && r.unitKey.any fun k => isClu k || isGlobKey k

/-- Operations that a launch has sent are performed before its tasks retire (R252, R440); its messages to LS go with the
allocations that they write. -/
def State.performSent (s : State) (lslot : Nat) : State :=
  State.flush { s with reqs := s.reqs.filter fun r => isSvcPos r.pos || r.lslot != lslot || !(r.unserved && r.unitKey.all isLs) }

/-- The reservations of a task's KVAPP that are not yet published pass to the memory-side unit: a task `m` that stands, or stood when
it was saved, at `pos`. -/
def State.orphanAppends (s : State) (pos : Nat) (m : Master) : State :=
  m.att.foldl (fun s j =>
    match j.k, j.res with
    | .kvapp _ cD ea _ count, some p =>
      let key := (physKey s pos cD.space ea.toNat).getD 0
      let x : Orphaned :=
        { id := s.nextReq, lnch := m.lnch, part := s.partOf pos, desc := key, d := j.kd.getD (s.readDesc Rdr.home key), p := p, count := count.toNat
          rows := j.unit, after := s.earlier pos 0 }
      { s with orphaned := s.orphaned ++ [x], nextReq := s.nextReq + 1 }
    | _, _ => s) s

/-- KILL at its edge: every task and handler of the launch is retired, its jobs and save records go, and its requests, waiting
releases and LS allocations with them. Answers how many tasks. -/
def State.killLaunch (s : State) (lslot : Nat) : State × Nat :=
  let s0 := s.performSent lslot
  let mine := fun ((k, m) : Nat × Master) => !isSvcPos k && m.lslot = lslot && m.kind != .empty
  let tasks := (s0.masters.filter fun x => mine x && x.2.kind = .task).length +
    (s0.saves.filter fun ((_, r) : Nat × Save) => r.m.lslot = lslot).length
  let gone := (s0.masters.filter mine).map Prod.fst
  let saved := s0.saves.filter fun ((_, r) : Nat × Save) => r.m.lslot = lslot
  let s1 := saved.foldl (fun s ((_, r) : Nat × Save) => s.orphanAppends (r.core * 16) r.m) (gone.foldl (fun s k => s.orphanAppends k (s.ms k)) s0)
  let s2 : State :=
    { s1 with
      -- what a unit could not perform yet, for a release before it, it performs in its turn
      reqs := (s1.reqs.filter fun r => isSvcPos r.pos || r.lslot != lslot || r.atUnit).map fun r =>
        if isSvcPos r.pos || r.lslot != lslot then r else { r with pos := nowhere, slot := false }
      scans := s1.scans.filter fun x => !gone.contains x.pos
      saves := s1.saves.filter fun ((_, r) : Nat × Save) => r.m.lslot != lslot
      batches := s1.batches.map fun b =>
        if isSvcPos b.pos || b.lslot != lslot then b
        else { b with pos := nowhere, proof := 0, cells := if b.proof != 0 then [] else b.cells } }
  let s3 := gone.foldl (fun s k => s.retire k) s2
  let s4 : State :=
    { s3 with cores := s3.cores.map fun ((n, c) : Nat × Core) => (n, { c with allocs := c.allocs.filter fun a => a.lslot != lslot }) }
  let s5 := gone.foldl (fun s k => s.slotFreed (coreOf k)) s4
  (s5.dropBars lslot, tasks)

/-- A pending PREEMPT at its edge: kills come before saves (R448). -/
def State.preEdge (s : State) (part : Nat) (p : Pre) : State :=
  if p.kill then
    let (s1, n) := s.killLaunch p.lslot
    s1.updPart part fun q => { q with pres := q.pres.map fun y => if y.id = p.id then { y with done := true, edge := s.round.num, count := n } else y }
  else s.saveEdge part p

/-! ## Save records (R441) -/

/-- Key of a byte of one core's LS, in any plane, as another core's. -/
def moveKey (a b k : Nat) : Nat :=
  let d := fun (n : Nat) => k - a * 4096 * n + b * 4096 * n
  if k < 2 ^ 72 then d 64
  else if k < 2 * 2 ^ 72 then d 2
  else if k < 3 * 2 ^ 72 then d 4
  else if k < 4 * 2 ^ 72 then d 16
  else d 1

/-- Cells of [off, off + n) of a core's LS, in every plane. -/
def State.lsCells (s : State) (core off n : Nat) : List Host.Cell :=
  let lo := lsKey core off / 64
  s.mem.filter fun (x : Host.Cell) => lo ≤ blockOfCell x.1 && blockOfCell x.1 < lo + n / 64

/-- An instruction in flight that a save does not wait for: a pending resolution, which its edge ends, and an ICSYNC, which is
issued again (R389, R425). -/
def Req.dropped (r : Req) : Bool :=
  match r.k with
  | .resolve => true
  | .unit (.icsync _) _ _ _ _ _ _ => true
  | _ => false

/-- The head of a task's attention queue waits for a job of the core that a save has stopped. -/
def State.attStopped (s : State) (pos : Nat) : Bool :=
  (s.ms pos).att.head?.any fun j => j.res.isNone && s.masters.any fun ((k, m) : Nat × Master) =>
    coreOf k = coreOf pos && m.saving.isSome && (m.mxe ++ m.cpe).any fun i => i.ord < j.ord && j.meets i.rd i.wr

/-- A task has reached the points of R440: its results have landed and its writes are performed, its attention jobs have run to
their ends but for held ones and those behind a stopped job, no started scan's record is on its way, and a frozen task's engines owe
it no register (R32, R127). -/
def State.quiet (s : State) (pos : Nat) : Bool :=
  let m := s.ms pos
  m.div.isNone && !(s.reqs.any fun r => r.pos = pos && !r.dropped) && !(s.batches.any fun b => b.pos = pos && b.open') &&
  !(s.scans.any fun x => x.pos = pos && x.img.isSome) && (m.att.all (·.held) || s.attStopped pos) &&
  (m.st != .frozen || (!m.owes 0 && !m.owes 1))

/-- The edge at which a task's save takes effect. -/
def State.edgeOf (s : State) (pos : Nat) : Option Nat :=
  (s.ms pos).saving.bind fun i => ((s.part (s.partOf pos)).pres.find? fun p => p.id = i).map (·.edge)

/-- Every task of the gang is saved at one edge, that of the task at `pos`, and none of it was saved to stay. -/
def State.gangLeaves (s : State) (pos : Nat) : Bool :=
  let m := s.ms pos
  m.gangid != 0xFFFFFFFF && (s.edgeOf pos).any fun e =>
    s.masters.all (fun ((k, x) : Nat × Master) => !(x.kind = .task && x.lslot = m.lslot && x.gangid = m.gangid) || s.edgeOf k = some e) &&
    s.saves.all fun ((_, r) : Nat × Save) => !(r.m.lslot = m.lslot && r.m.gangid = m.gangid) || (!r.pinned && r.edge = e)

/-- What a save record keeps of a task. One that has sent an ICSYNC stays PARKED, and RESUME issues it again (R389). -/
def Master.kept' (m : Master) : Master :=
  { m with saving := none, tbmask := 0, probes := 0, resv := none, yield := [], kept := none, att8 := [], await := false
           park := if m.st = .parked then m.park else .none }

/-- The save record of the task at `pos`, by which it stands, is whole; `leaves`: its group's allocation leaves the core with its last
task. -/
def State.saveTask (s : State) (pos : Nat) (leaves : Bool) : State :=
  let key := pos / 2 ^ 24 - 1
  let m := s.ms pos
  let core := coreOf pos
  let last := !(s.masters.any fun ((k, x) : Nat × Master) =>
    k != pos && coreOf k = core && x.kind = .task && x.lslot = m.lslot && x.lsbase = m.lsbase)
  let al := (s.core core).allocs.find? fun a => a.lslot = m.lslot && a.base = m.lsbase
  let out := leaves && last
  let lo := tileOf core m.zbase
  let r : Save :=
    { m := m.kept', core := core, edge := (s.edgeOf pos).getD 0, pinned := !leaves
      res := (s.reqs.filter fun q => q.pos = pos && q.k = .resolve).map (·.id)
      alloc := if out then al else none
      ls := if out then (s.lsCells core m.lsbase m.lssize).map fun (c : Host.Cell) => (moveKey core 0 c.1, c.2) else []
      tiles := (s.tiles.filter fun ((k, _) : Nat × W32) => lo ≤ k && k < lo + m.zcount * 1024).map fun ((k, v) : Nat × W32) => (k - lo, v)
      ztags := (List.range m.zcount).map fun i => s.ztag.contains (core * 16 + m.zbase + i)
      zbad := (List.range m.zcount).filter fun i => s.zbad.contains (core * 16 + m.zbase + i) }
  let gone := (s.reqs.filter fun q => q.pos = pos && q.dropped).length + (s.scans.filter fun x => x.pos = pos).length
  let s0 := (List.range gone).foldl (fun s _ => s.noteRecv pos m.lslot) s
  let s1 : State :=
    { s0 with saves := Tab.put s.saves key r, scans := s.scans.filter fun x => x.pos != pos
              reqs := (s.reqs.filter fun q => !(q.pos = pos && q.dropped && q.k != .resolve)).map fun q => if q.pos = pos then { q with pos := nowhere } else q }
  let s2 := s1.dropTiles core m.zbase m.zcount |>.setM pos Master.empty
  let s3 := s2.updCore core fun c =>
    { c with allocs := if out then c.allocs.filter (fun a => !(a.lslot = m.lslot && a.base = m.lsbase))
               else c.allocs.map fun a => if a.lslot = m.lslot && a.base = m.lsbase && !leaves then { a with pinned := true } else a }
  if out then s3.clearLs core m.lsbase (m.lssize) else s3

/-- Completes the records of tasks one after another. -/
def State.saveTasks (s : State) (ps leaving : List Nat) : State :=
  ps.foldl (fun s pos => s.saveTask pos (leaving.contains pos)) s

/-- PREEMPT_COMPLETE: request `cur`'s edge has passed and every core has acknowledged; its tasks are SAVED, or retired. -/
def execPreemptComplete (s : State) : Out :=
  .next <|
  match s.req? s.cur with
  | none => s
  | some r =>
    let part := s.partOf r.pos
    match r.k, (s.part part).pres.find? fun p => p.id = r.id with
    | .unit (.preempt x) _ _ _ _ _ _, some p =>
      let ps := (s.masters.filter fun ((_, m) : Nat × Master) => m.saving = some p.id).map Prod.fst
      if !p.done || !ps.all s.quiet then s
      else
        let s1 := s.saveTasks ps (ps.filter s.gangLeaves)
        let rec' := ((ps.head?).map fun k => (k / 2 ^ 24 - 1) % 16384).getD 0
        let s2 := (s1.updPart part fun q => { q with pres := q.pres.filter fun y => y.id != p.id }).wakeAll
          fun k m => (m.park = .preempt || m.park = .resume) && s.partOf k = part
        let n := if p.kill then p.count else ps.length
        s2.reply r fun s =>
          if !p.kill && n = 0 then s.final x.h x.h.words oFalse
          else (s.upd fun m => m.ws x.sd (BitVec.ofNat 64 (if p.sel = 0 then rec' else n))).done x.h x.h.words
    | _, _ => s

/-! ## RESUME (R446) -/

/-- The remaining footprints of held jobs are checked against the lease again; the first that fails freezes the task (R367). -/
def State.recheck (s : State) (pos : Nat) : State :=
  let m := s.ms pos
  let part := s.partOf pos
  let lease := ((s.launch? m.lslot).map (·.lease)).getD 0
  let bad := fun (j : Job) => (j.rd ++ j.wr).find? fun f => f.sp = 3 && !s.leased part lease f.lo f.hi
  let all := (m.mxe.map fun j => (1, j)) ++ (m.cpe.map fun j => (2, j)) ++ (m.att.map fun j => (3, j))
  match all.findSome? fun ((e, j) : Nat × Job) => (bad j).map fun f => (e, j, f) with
  | some (e, j, f) =>
    s.jobFault pos e j
      { cause := cLease, d0 := BitVec.ofNat 64 (6 * 16 + f.opn * 2), d1 := f.cur, d2 := BitVec.ofNat 64 (s.unleasedPage part lease f.lo f.hi), d3 := BitVec.ofNat 64 j.unit }
  | none => s

/-- The record of the same group that holds its allocation. -/
def State.allocRecord (s : State) (r : Save) : Option (Nat × Save) :=
  List.find? (fun ((_, x) : Nat × Save) => x.alloc.isSome && x.core = r.core && x.m.lslot = r.m.lslot && x.m.gangid = r.m.gangid &&
    x.m.grpid = r.m.grpid) s.saves

/-- The core where the record's group stands: where it was saved if its allocation stayed, or where it has been placed again. -/
def State.groupCore (s : State) (r : Save) : Option Nat :=
  if r.pinned then some r.core
  else (List.find? (fun ((n, c) : Nat × Core) => n % 16 = r.core % 16 && c.allocs.any fun a =>
    a.lslot = r.m.lslot && a.gang = r.m.gangid && a.grp = r.m.grpid) s.cores).map Prod.fst

/-- Places the record's group on a core, if its offset is free there. -/
def State.placeAlloc (s : State) (r : Save) (core : Nat) : Option State :=
  match s.allocRecord r with
  | none => none
  | some (k, x) =>
    match x.alloc with
    | none => none
    | some a =>
      let l := s.launch? r.m.lslot
      if !s.coreIn ((l.map (·.part)).getD 0) core || !s.lsFree core a.base a.size ((l.map (·.compat)).getD false) ||
          !(l.all fun l => s.compatFits l core) then none
      else
        let s1 := (s.putShape core r.m.lslot).clearLs core a.base a.size
        let s2 := s1.updCore core fun c => { c with allocs := c.allocs ++ [{ a with pinned := false }] }
        some { s2 with mem := setCells s2.mem (x.ls.map fun (c : Host.Cell) => (moveKey 0 core c.1, c.2))
                       saves := Tab.put s2.saves k { x with alloc := none, ls := [] }
                       reports := s2.reports.map fun q =>
                         if !isGlobKey q.dst && q.inAlloc a then { q with dst := lsKey core ((q.dst - 2 ^ 68) % 2 ^ 18) } else q }

/-- Jobs take new places in the acceptance order of their core, in their old order (R207). -/
def reorder (base : Nat) (js : List Job) : List Job := js.map fun j => { j with ord := base + j.ord }

/-- A key of a cluster's LS or CLU memory, as the same place of another cluster. -/
def moveCluster (a b k : Nat) : Nat :=
  if isLs k && coreOfLsKey k / 16 = a then lsKey (b * 16 + coreOfLsKey k % 16) ((k - 2 ^ 68) % 2 ^ 18)
  else if isClu k && bankOfKey k / 16 = a then cluKey b ((k - 2 ^ 69) % 2 ^ 23) else k

/-- A barrier instance of core `a`, as that of the same tag and span of core `b` (R310). -/
def moveBar (a b k : Nat) : Nat :=
  if k / 8 = a / 16 then b / 16 * 8 + k % 8
  else if 8192 ≤ k && k < 16384 && (k - 8192) / 8 = a / 256 then 8192 + b / 256 * 8 + k % 8
  else k

/-- The object of a park, once its task stands in another cluster. -/
def Park.moved (f g : Nat → Nat) : Park → Park
  | .bar k => .bar (g k)
  | .queue k full => .queue (f k) full
  | .word k v h => .word (f k) v h
  | .fe k c own => .fe (f k) c own
  | p => p

/-- A resumed task that was parked waits on its object again, with a new waiter record and the count that it had; its condition is
examined before anything else happens (R283). A line is asked for again. -/
def State.rewait (s : State) (pos : Nat) : State :=
  let m := s.ms pos
  if m.st != .parked || m.exiting then s
  else
    let p := match m.park with | .fe k c _ => .fe k c (s.recordFree k) | p => p
    let s1 : State := { s.updM pos fun m => { m with park := p, was := p.object, place := s.nextPlace, exam := true } with nextPlace := s.nextPlace + 1 }
    match m.park with
    | .line l =>
      if isGlobKey (l * 64) && Tab.get 0 (s.core (coreOf pos)).l1 l = 0 then s1.onBehalf pos (·.askLines false [l]) else s1
    | _ => s1

/-- Loads a record into a free slot and the free tiles from `z` of a core that holds its group, unless the core is kept for a gang of higher
priority (R326). -/
def State.loadTask (s : State) (key : Nat) (r : Save) (core z : Nat) : Option State :=
  let m := r.m
  let kept := (s.launch? m.lslot).any fun l => s.promised l.part core l.prio
  match (s.freeSlots core).head? with
  | some slot =>
    if kept then none else
    let pos := core * 16 + slot
    let s1 := s.grantTiles core pos z m.zcount
    let lo := tileOf core z
    let base := (s.core core).ord
    let top := (((m.mxe ++ m.cpe ++ m.att ++ m.vxe).map (·.ord)) ++ m.posts.map (·.ord)).foldl (fun n o => Nat.max n (o + 1)) 0
    let renew := fun (js : List Job) => (reorder base js).map fun j => { j with at' := s.cyc }
    let m1 : Master :=
      { m with zbase := if m.zcount = 0 then 0 else z, park := m.park.moved (moveCluster (r.core / 16) (core / 16)) (moveBar r.core core), since := s.cyc
               issued := s.cyc, vxe := renew m.vxe, mxe := renew m.mxe, cpe := renew m.cpe, att := renew m.att
               posts := m.posts.map fun p => { p with ord := base + p.ord } }
    let s2 : State :=
      { s1 with
        tiles := r.tiles.foldl (fun t ((k, v) : Nat × W32) => Tab.set 0 t (lo + k) v) s1.tiles
        ztag := ((List.range m.zcount).filter fun i => r.ztags.getD i false).map (core * 16 + z + ·) ++ s1.ztag
        zbad := r.zbad.map (core * 16 + z + ·) ++ s1.zbad
        saves := Tab.del s1.saves key
        reqs := s1.reqs.map fun q => if r.res.contains q.id then { q with pos := pos } else q }
    let s3 := (s2.setM pos m1).updCore core fun c => { c with ord := base + top }
    let scans := m.posts.flatMap fun p => ((List.range p.np).filter fun i => !p.landed.contains i).map fun i => (p, i)
    let s4 := scans.foldl (fun s ((p, i) : Post × Nat) =>
      let abu := ((s.pageAt (s.partOf pos) (p.d.base i)).map fun x => abuOf x.2.home x.1).getD 0
      ({ s with scans := s.scans ++ [{ id := s.nextReq, pos := pos, post := p.id, slice := i, abu := abu, acc := false, after := s.observed pos, img := none }]
                nextReq := s.nextReq + 1 } : State).noteSent pos m.lslot) s3
    let left := s4.saves.any fun ((_, x) : Nat × Save) => x.pinned && x.core = core && x.m.lslot = m.lslot && x.m.lsbase = m.lsbase
    let s5 := if left then s4 else s4.updCore core fun c =>
      { c with allocs := c.allocs.map fun a => if a.lslot = m.lslot && a.base = m.lsbase then { a with pinned := false } else a }
    some (if m.st = .frozen then s5 else (s5.recheck pos).rewait pos)
  | none => none

/-- Where free contiguous tiles of a number begin on a core. -/
def State.tileFits (s : State) (core n : Nat) : List Nat :=
  if n = 0 then [0]
  else (List.range (17 - n)).filter fun b => (List.range n).all fun i => Tab.get 0 (s.core core).tiles (b + i) = 0

/-- The ways to resume one record; a group that stands nowhere is placed in cluster `clu`. -/
def State.resumeWays (s : State) (key clu : Nat) : List State :=
  let load := fun (s : State) (r : Save) (c : Nat) => (s.tileFits c r.m.zcount).filterMap fun z => s.loadTask key r c z
  match Tab.find? s.saves key with
  | none => []
  | some r =>
    match s.groupCore r with
    | some c => load s r c
    | none =>
      let c := clu * 16 + r.core % 16
      match s.placeAlloc r c with
      | none => []
      | some s1 => ((Tab.find? s1.saves key).map fun r => load s1 r c).getD []

/-- Clusters in which a saved gang may stand: where a group of it stands; else the one it was saved from (PIN); else any of
the partition that PMODE admits and where every saved group's offset is free (R34). -/
def State.gangClusters (s : State) (part : Nat) (r : Save) (pin : Bool) : List Nat :=
  let here := (List.find? (fun ((_, c) : Nat × Core) => !r.pinned && c.allocs.any fun a => a.lslot = r.m.lslot && a.gang = r.m.gangid)
    s.cores).map fun ((n, _) : Nat × Core) => n / 16
  match here with
  | some c => [c]
  | none =>
    if pin || r.pinned then [r.core / 16]
    else
      let l := s.launch? r.m.lslot
      let groups := s.saves.filter fun ((_, x) : Nat × Save) => x.alloc.isSome && x.m.lslot = r.m.lslot && x.m.gangid = r.m.gangid
      ((s.part part).dies.flatMap fun d => (List.range 16).map fun c => d * 16 + c).filter fun c =>
        (l.all fun l => pmodeDie l.pmode l.pdie (c / 16) && (l.pmode < 2 || c % 16 = l.pclu)) &&
        groups.all fun ((_, x) : Nat × Save) => x.alloc.all fun a =>
          s.lsFree (c * 16 + x.core % 16) a.base a.size ((l.map (·.compat)).getD false)

/-- Resumes records in cluster `clu`, in a way that `k` can go on from. -/
def resumeKeysIn (clu : Nat) (k : State → Option State) : List Nat → State → Option State
  | [], s => k s
  | key :: ks, s => (s.resumeWays key clu).findSome? fun s1 => resumeKeysIn clu k ks s1

/-- Resumes gangs one after another: the first placement of them all that is found (R446). -/
def resumeGangs (part : Nat) (pin : Bool) : List (List Nat) → State → Option State
  | [], s => some s
  | g :: gs, s =>
    match g.head?.bind fun k => Tab.find? s.saves k with
    | none => resumeGangs part pin gs s
    | some r => (s.gangClusters part r pin).findSome? fun c => resumeKeysIn c (resumeGangs part pin gs) g s

/-- Resumes records, gang by gang and what stayed on a core by itself. -/
def State.resumeAll (s : State) (part : Nat) (pin : Bool) (keys : List Nat) : Option State :=
  let gangOf := fun (k : Nat) => (Tab.find? s.saves k).map fun r => (r.pinned, r.m.lslot, r.m.gangid)
  resumeGangs part pin (((keys.map gangOf).eraseDups).map fun g => keys.filter fun k => gangOf k = g) s

/-- Records that a RESUME selects. -/
def State.resumeKeys (s : State) (part : Nat) (t : TgtF) : List Nat :=
  (s.saves.filter fun ((k, r) : Nat × Save) => k / 16384 = part && (if t.sel = 1 then k % 16384 = t.saveid else r.m.lnch = t.lnch) &&
    (s.launch? r.m.lslot).any fun l => l.st != .aborting).map Prod.fst

/-- The master at a target position, there being four SVCs on a die, that is of the launch and the partition, and neither being saved nor leaving: a task that has
issued EXIT is one no more, unless a job's fault has frozen it (notes/assumptions/79.md). -/
def State.target (s : State) (part : Nat) (t : TgtF) : Option Master :=
  let m := s.ms t.pos
  if !(t.svc && t.core ≥ 4) && m.kind != .empty && s.partOf t.pos = part && m.saving.isNone && (!m.exiting || m.st = .frozen) && (if t.svc then 0 else m.lnch) = t.lnch then some m
  else none

/-- The master's fault packet is held by its core, since its die's ring is full and 64 packets wait before it: the master stays FROZEN
until the die takes it (R433), so RESUME of it waits (notes/assumptions/94.md). -/
def State.packetHeld (s : State) (pos : Nat) : Bool :=
  let d := s.die (dieOf pos)
  let base := globKey d.part (ringVa (dieOf pos))
  (s.memNat base 4 + 2 ^ 32 - s.memNat (base + 4) 4) % 2 ^ 32 ≥ 4096 && (d.pkts.drop 64).any fun p => p.pos = some pos

/-- RESUME at the collector. -/
def State.resumeAt (s : State) (r : Req) (x : SSS) (a b : W64) : State :=
  let part := s.partOf r.pos
  let t := tgtF a
  let falseOut := s.reply r fun s => s.final x.h x.h.words oFalse
  let ok := fun (s : State) (n : Nat) => s.reply r fun s => (s.upd fun m => m.ws x.sd (BitVec.ofNat 64 n)).done x.h x.h.words
  if t.sel = 0 then
    match s.target part t with
    | some m =>
      if m.st != .frozen || (!t.svc && (s.launch? m.lslot).any fun l => l.st = .aborting) then falseOut
      else if s.packetHeld t.pos then s
      else ok ((s.thaw t.pos).recheck t.pos) 1
    | none => falseOut
  else
    let keys := s.resumeKeys part t
    -- a task that a SAVE's edge has taken is resumed once its record is whole
    let leaving := s.masters.any fun ((k, m) : Nat × Master) =>
      m.saving.isSome && s.partOf k = part && (if t.sel = 1 then (k / 2 ^ 24 - 1) % 16384 = t.saveid else m.lnch = t.lnch) &&
      (s.launch? m.lslot).any fun l => l.st != .aborting
    if leaving then s
    else if keys.isEmpty then falseOut
    else match s.resumeAll part (b = 1) keys with
    | some s1 => ok (s1.wakeAll fun k m => m.park = .preempt && s.partOf k = part) keys.length
    | none => s.reply r fun s => s.notReady x.h x.h.words oFull .resume 0

/-! ## FREEZE (R447) -/

/-- A request that the frozen master's instruction has sent and no unit has performed: the instruction is issued again. -/
def State.unsent (s : State) (pos : Nat) : Option Req :=
  let m := s.ms pos
  if m.await && m.park = .reply then
    s.reqs.find? fun r => r.pos = pos && !r.mark && r.pc = m.pc && r.unitKey.isSome &&
      !((s.part (s.partOf pos)).pres.any fun p => p.id = r.id)
  else none

/-- FREEZE at the collector: at an instruction boundary, so not while a FIFO bank's reply is awaited. It is answered once the master's
posted results have landed and its accepted jobs are complete (R32, R447). -/
def State.freezeAt (s : State) (r : Req) (x : SSP) (a : W64) : State :=
  let t := tgtF a
  let h := plHd x.h
  match s.target (s.partOf r.pos) t with
  | none => s.reply r fun s => s.final h x.h.words oFalse
  | some m =>
    if m.await && m.park != .reply then s
    else
      let s1 := match s.unsent t.pos with
        | some q => (s.updM t.pos fun m => { m with await := false }).reqEnd q
        | none => s
      let s2 := if m.st = .frozen then s1 else s1.updM t.pos fun m => { m with st := .frozen, park := .none, wait := m.stood s.cyc, place := 0, resv := none, yield := [] }
      if t.pos != r.pos && s2.unsettled t.pos then s2 else s2.reply r fun s => (s.upd fun y => y.ws x.sd m.pc).done h x.h.words

/-- COLLECTOR_PERFORM: the collector performs request `cur`; an accepted PREEMPT waits for its edge. -/
def execCollectorPerform (s : State) : Out :=
  .next <|
  match s.req? s.cur with
  | none => s
  | some r =>
    match r.k with
    | .unit (.preempt x) _ _ _ a b _ =>
      if (s.part (s.partOf r.pos)).pres.any fun p => p.id = r.id then s else s.preemptAt r x a b
    | .unit (.resume x) _ _ _ a b _ => s.resumeAt r x a b
    | .unit (.freeze x) _ _ _ a _ _ => s.freezeAt r x a
    | _ => s

end Sys2Proof.Machine
end

