-- ==== Sys2Proof/Machine/Faults.lean ====
section
/-! DEFINITION. Fault rings, supervisor windows and uncorrectable errors (spec/25: R432-R443). -/

namespace Sys2Proof.Machine

/-- The 64 bytes of a packet with its SEQ (R434). -/
def Packet.bytes (p : Packet) (seq : Nat) : List Byte :=
  let low := seq % 2 ^ 32 + p.type * 2 ^ 32 + p.eng * 2 ^ 35 + (if p.svc then 2 ^ 38 else 0) + p.slot * 2 ^ 39 + p.core * 2 ^ 43 +
    p.clu * 2 ^ 47 + p.die * 2 ^ 51 + p.cause * 2 ^ 56
  leBytes 8 low ++ leBytes 8 (p.lnch * 2 ^ 26 + p.proof * 2 ^ 48) ++ leBytes 8 p.d0.toNat ++ leBytes 8 p.d1.toNat ++
  leBytes 8 p.d2.toNat ++ leBytes 8 p.d3.toNat ++ leBytes 8 p.pc.toNat ++ leBytes 8 p.round

/-- What a master had under way at its fault has landed (R32). -/
def State.landedFirst (s : State) (pos : Nat) (p : Packet) : Bool :=
  let m := s.ms pos
  m.div.isNone && !(s.reqs.any fun r => r.pos = pos && p.first.contains r.id) &&
  !(s.scans.any fun x => x.pos = pos && p.first.contains x.id) &&
  (m.vxe ++ m.mxe ++ m.cpe ++ m.att).all fun j => j.held || !p.jobs.contains j.ord

/-- A packet may be written: its master is settled, or has been resumed and what it had under way at the fault has landed. -/
def State.packetReady (s : State) (p : Packet) : Bool :=
  match p.pos with
  | none => true
  | some pos => (s.ms pos).kind = .empty || if (s.ms pos).st = .frozen then s.settled pos else s.landedFirst pos p

/-- Takes the packet at index `i` out of a list. -/
def dropAt {α : Type} (l : List α) (i : Nat) : List α := l.take i ++ l.drop (i + 1)

/-- FAULT_PACKET_WRITE: die `cur` writes the next packet of a report that it has begun, or else its first ready packet, into the ring and then advances PUTS; with the ring full, 64
packets are held, and a TYPE 1 packet beyond them is dropped and counted in LOST. -/
def execFaultPacketWrite (s : State) : Out :=
  .next <|
  let die := s.cur
  let d := s.die die
  let base := globKey d.part (ringVa die)
  let puts := s.memNat base 4
  let gets := s.memNat (base + 4) 4
  let idx := (List.range d.pkts.length).filter fun i => (d.pkts[i]?).any s.packetReady
  -- the packets of one report stand one behind another (R437)
  let more := (List.range d.pkts.length).find? fun i =>
    ((d.pkts[i]?).any fun p => p.cont) && (i = 0 || (d.pkts[i - 1]?).all fun p => p.type != 2)
  if (puts + 2 ^ 32 - gets) % 2 ^ 32 < 4096 then
    match (more <|> idx.head?).bind fun i => (d.pkts[i]?).map fun p => (i, p) with
    | some (i, p) =>
      let s1 := s.setDie die { d with pkts := dropAt d.pkts i, seq := (d.seq + 1) % 2 ^ 32 }
      (s1.unitWrite (base + 64 + 64 * (puts % 4096)) (p.bytes d.seq)).unitWrite base (leBytes 4 ((puts + 1) % 2 ^ 32))
    | none => s
  else
    match (idx.drop 64).find? fun i => (d.pkts[i]?).any fun p => p.type = 1 with
    | some i =>
      (s.setDie die { d with pkts := dropAt d.pkts i }).unitWrite (base + 8) (leBytes 4 ((s.memNat (base + 8) 4 + 1) % 2 ^ 32))
    | none => s

/-- WINDOW_WRITE: a doubleword of a frozen master's window or of a save record; ignored at other times (R439, R441). -/
def execWindowWrite (die : Nat) (va v : W64) (s : State) : Out :=
  .next (if saveBase ≤ va.toNat && va.toNat < winBase 32 then s.regWrite (s.die die).part va.toNat true v else s)

/-- The die whose counter a corrected error of a block raises, and which: 0 SRAM, 1 HBM, 2 second tier. -/
def State.errPlace (s : State) (key : Nat) : Nat × Nat :=
  if isGlobKey key then
    match s.pageOfKey key with
    | some (_, p) => (p.home, if p.t2 then 2 else 1)
    | none => (0, 1)
  else if isLs key then (coreOfLsKey key / 256, 0)
  else (bankOfKey key / 256, 0)

/-- The die and kind of any site. -/
def State.sitePlace (s : State) : ErrSite → Nat × Nat
  | .block k => s.errPlace k
  | .tile core _ => (core / 256, 0)
  | .qreg pos _ => (dieOf pos, 0)
  | .queue pos _ _ => (dieOf pos, 0)
  | .link die => (die, 3)

/-- UNCORRECTABLE_ERROR: a single-bit error is corrected and counted; another poisons what is stored. On a link nothing is stored, and an
error there is corrected or stays without effect (DESIGN CHOICE, notes/assumptions/99.md). -/
def execUncorrectableError (site : ErrSite) (single : Bool) (s : State) : Out :=
  .next <|
  if single then
    let (die, kind) := s.sitePlace site
    s.updDie die fun d =>
      let up := fun (n : Nat) => Nat.min (n + 1) (2 ^ 64 - 1)
      if kind = 0 then { d with eSram := up d.eSram } else if kind = 1 then { d with eHbm := up d.eHbm }
      else if kind = 2 then { d with eTier2 := up d.eTier2 } else { d with eLink := up d.eLink }
  else
    match site with
    | .block k => { s with mem := Tab.set 0 s.mem (poisonKey k) 1 }
    | .link _ => s
    | .tile core t => { s with zbad := (core * 16 + t) :: s.zbad.filter (· != core * 16 + t) }
    | .qreg pos n => if (s.ms pos).kind = .empty then s else s.updM pos fun m => { m with qbad := n :: m.qbad.filter (· != n) }
    | .queue pos e n =>
      if (s.ms pos).kind = .empty then s
      else s.updM pos fun m => m.setQueue e ((List.range (m.queue e).length).zip (m.queue e) |>.map fun ((i, j) : Nat × Job) =>
        if i = n then { j with bad := true } else j)

end Sys2Proof.Machine
end

