-- ==== Sys2Proof/Machine/Edge.lean ====
section
/-! DEFINITION. A round edge: the proof table's cancels and passes, commits and aborts, pre-emption, the governor, plate
snapshots and checkpoints, and the write-back scanner (spec/23: R411-R421; spec/18: R330, R331; spec/22, spec/25). -/

namespace Sys2Proof.Machine

/-! ## Proofs (R411-R416) -/

/-- A launch that a KILL has made ABORTING: its pending passes are dropped (R428). -/
def State.isAborting (s : State) (lslot : Nat) : Bool := (s.launch? lslot).any fun l => l.st = .aborting

/-- Where a cancelled proof's tasks go: the parent of the outermost CANCELLING proof on its chain (R415). -/
def State.cancelTo (s : State) (id : Nat) : Option Nat :=
  (((s.chain id).filterMap fun a => (s.proof? a).bind fun p =>
    if p.st = 2 then some p.parent else none).getLast?)

/-- Renames the proof of every job of a master; `dead`: the proof was cancelled. -/
def Master.mapJobs (m : Master) (f : Job → Job) : Master :=
  { m with vxe := m.vxe.map f, mxe := m.mxe.map f, cpe := m.cpe.map f, att := m.att.map f }

/-- A cancel's effect on a task: it is orphaned, or its orphan's target moves up; its jobs write no more transactional bytes. -/
def Master.cancel (dest : Nat → Option Nat) (m : Master) : Master :=
  let m1 := m.mapJobs fun j => match dest j.proof with | some t => { j with proof := t, dead := true } | none => j
  if m.kind != .task then m1
  else match m.orphan with
  | some x => { m1 with orphan := some ((dest x).getD x) }
  | none => { m1 with orphan := dest m.proof }

/-- A parked task that has just been orphaned wakes (R283), unless it awaits a reply or its results. -/
def wakesOrphan (was now : Master) : Bool :=
  now.orphan.isSome && was.orphan.isNone && now.st = .parked && !now.exiting && now.park != .reply && now.park != .marker

/-- Versions of a proof are gone, and their budget is free. -/
def State.dropVersions (s : State) (id lslot : Nat) : State :=
  let n := versionCount (Tab.get [] s.vers id)
  ({ s with vers := Tab.del s.vers id } : State).updLaunch lslot fun l => { l with use := l.use - 64 * n }

/-- A proof leaves the table; its id rests until the second edge from now. No die reads a former byte of its versions any more. -/
def State.retireProof (s : State) (id : Nat) : State :=
  { s with proofs := Tab.del s.proofs id, retired := Tab.put s.retired id 3
           stale := s.stale.map fun ((d, t) : Nat × Tab Byte) => (d, t.filter fun (c : Host.Cell) => c.1 / 2 ^ 96 != id + 1) }

/-- Step 1 of an edge: cancelled subtrees are discarded. -/
def State.cancelEdge (s : State) : State :=
  let dead := s.proofs.filterMap fun ((id, p) : Nat × Proof) => (s.cancelTo id).map fun t => (id, p.lslot, t)
  let dest := fun (x : Nat) => (dead.find? fun d => d.1 = x).map fun d => d.2.2
  if dead.isEmpty then s
  else
    let s1 : State :=
      { s with
        masters := s.masters.map fun ((k, m) : Nat × Master) =>
          let n := m.cancel dest
          (k, if wakesOrphan m n then n.unpark s.cyc else n)
        saves := s.saves.map fun ((k, r) : Nat × Save) => (k, { r with m := r.m.cancel dest })
        batches := s.batches.map fun b => if (dest b.proof).isSome then { b with proof := 0, cells := [] } else b
        launches := s.launches.map fun ((k, l) : Nat × Launch) => (k, { l with defers := l.defers.filter fun d => (dest d.proof).isNone }) }
    dead.foldl (fun s d => (s.dropVersions d.1 d.2.1).retireProof d.1) s1

/-- A pass's effect on a task: X's name is Y from now on. -/
def Master.pass (x y : Nat) (m : Master) : Master :=
  let m1 := m.mapJobs fun j => if j.proof = x then { j with proof := y } else j
  if m.kind != .task then m1
  else { m1 with proof := if m.proof = x then y else m.proof, orphan := m.orphan.map fun z => if z = x then y else z }

/-- One pass of `x` into its parent (R412). -/
def State.passProof (s : State) (x : Nat) : State :=
  match s.proof? x with
  | none => s
  | some p =>
    let y := p.parent
    let tx := Tab.get [] s.vers x
    let ty := Tab.get [] s.vers y
    let t := putCells ty tx
    let freed := 64 * (versionCount tx + versionCount ty - versionCount t)
    let below := fun (id : Nat) => id != x && (s.chain id).contains x
    let s1 : State :=
      { s with
        vers := Tab.set [] (Tab.del s.vers x) y t
        proofs := s.proofs.map fun ((id, q) : Nat × Proof) =>
          (id, { q with parent := if q.parent = x then y else q.parent, depth := if below id then q.depth - 1 else q.depth })
        masters := s.masters.map fun ((k, m) : Nat × Master) => (k, m.pass x y)
        saves := s.saves.map fun ((k, r) : Nat × Save) => (k, { r with m := r.m.pass x y })
        batches := s.batches.map fun b => if b.proof = x then { b with proof := y } else b
        launches := s.launches.map fun ((k, l) : Nat × Launch) =>
          (k, { l with defers := l.defers.map fun d => if d.proof = x then { d with proof := y } else d }) }
    (s1.updLaunch p.lslot fun l => { l with use := l.use - freed }).retireProof x

/-- Inserts by rising first component. -/
def insertBy (a : Nat × Nat) : List (Nat × Nat) → List (Nat × Nat)
  | [] => [a]
  | b :: r => if a.1 < b.1 then a :: b :: r else b :: insertBy a r

/-- Step 2: passes in the order in which the table accepted them. -/
def State.passEdge (s : State) : State :=
  let ps := (s.proofs.filter fun ((_, p) : Nat × Proof) => p.st = 1 && !s.isAborting p.lslot).foldl
    (fun l ((id, p) : Nat × Proof) => insertBy (p.ord, id) l) []
  ps.foldl (fun s x => s.passProof x.2) s

/-! ## Commits and aborts (R417-R420) -/

/-- A counter that the launch's end would take beyond its last durable checkpoint and the reserve (R400). -/
def State.plateHold (s : State) (l : Launch) : Bool :=
  l.pend.any fun ((k, n) : Nat × Nat) => match Tab.find? (s.plate (k / 64)).slots (k % 64) with
    | some x => if l.st = .ending then x.struck + n > x.ckS + 2 ^ 20 else x.spoiled + n > x.ckP + 2 ^ 20
    | none => false

/-- The commit would write a page in COPYING (R358). -/
def State.copyHold (s : State) (l : Launch) : Bool :=
  l.st = .ending && (Tab.get [] s.vers l.root).any fun ((k, _) : Nat × Byte) =>
    isGlobKey k && (s.pageOfKey k).any fun x => x.2.file && x.2.wb = 2

/-- Adds the launch's PENDING to STRUCK, or to SPOILED (R396). -/
def State.settlePlates (s : State) (l : Launch) : State :=
  l.pend.foldl (fun s ((k, n) : Nat × Nat) =>
    let p := s.plate (k / 64)
    match Tab.find? p.slots (k % 64) with
    | none => s
    | some x =>
      let v := (if l.st = .ending then x.struck else x.spoiled) + n
      let c := Nat.min v (2 ^ 64 - 1)
      let x1 : PSlot := { x with struck := if l.st = .ending then c else x.struck, spoiled := if l.st = .ending then x.spoiled else c
                                 sat := x.sat || v ≥ 2 ^ 64 }
      s.setPlate (k / 64) { p with slots := Tab.put p.slots (k % 64) x1 }) s

/-- The root's versions become committed memory, at once for every reader; FILE pages that they write become DIRTY. -/
def State.commitBytes (s : State) (root : Nat) : State :=
  let t := Tab.get [] s.vers root
  let pages := ((t.filter fun ((k, _) : Nat × Byte) => isGlobKey k).filterMap fun ((k, _) : Nat × Byte) => (s.pageOfKey k).map Prod.fst).eraseDups
  let s1 : State :=
    { s with mem := setCells s.mem t
             stale := s.stale.map fun ((d, x) : Nat × Tab Byte) => (d, x.filter fun ((k, _) : Nat × Byte) => (Tab.find? t k).isNone) }
  pages.foldl (fun s k =>
    match Tab.find? s.pages k with
    | some p =>
      if !p.file then s
      else
        { s with pages := Tab.put s.pages k (if p.wb = 0 then { p with wb := 1, dord := s.nextReq } else if p.wb = 3 then { p with again := true } else p)
                 nextReq := s.nextReq + 1 }
    | none => s) s1

/-- What a launch leaves when it ends: its proofs, versions, barrier tags, halo regions, stage assignments and slot are free. -/
def State.dropLaunch (s : State) (slot : Nat) (l : Launch) : State :=
  let mine := (s.proofs.filter fun ((_, p) : Nat × Proof) => p.lslot = slot).map Prod.fst
  let s1 := mine.foldl (fun s id => ({ s with vers := Tab.del s.vers id } : State).retireProof id) s
  let s2 := l.halos.foldl (fun s h => s.setHalo l.part h false) (s1.dropBars slot)
  { s2 with
    launches := Tab.del s2.launches slot
    cores := s2.cores.map fun ((n, c) : Nat × Core) => (n, { c with stage := c.stage.filter (fun x => x.1 != slot), sent := Tab.del c.sent slot, recv := Tab.del c.recv slot })
    batches := s2.batches.filter fun b => !(b.push && b.lslot = slot && !isSvcPos b.pos) }

/-- The end of a launch at an edge: the commit, or the abort, and then its completion entry. -/
def State.endLaunch (s : State) (slot : Nat) (l : Launch) : State :=
  let ok := l.st = .ending
  let s1 := (if ok then s.commitBytes l.root else s).settlePlates l
  let next := (if ok then l.defers.filter fun d => d.proof = l.root else []).map fun d =>
    ({ part := l.part, sq := l.sq, img := d.img, tag := d.tag, ord := s.nextReq } : Waiting)
  let s2 := (s1.dropLaunch slot l).updPart l.part fun p => { p with waiting := p.waiting ++ next }
  s2.completion l.part l.sq l.usertag 0 (if ok then 0 else 1) (lnchid l.gen slot)

/-- A killed launch whose tasks are still to retire does not end yet. -/
def State.killPending (s : State) (slot : Nat) : Bool :=
  s.parts.any fun ((_, p) : Nat × Part) => p.pres.any fun x => x.kill && !x.done && x.lslot = slot

/-- Step 3: commits and aborts, in the order in which the ends were declared and then by slot (R245). -/
def State.commitEdge (s : State) : State :=
  let ls := (s.launches.filter fun ((_, l) : Nat × Launch) => l.st = .ending || l.st = .aborting).foldl
    (fun o ((i, l) : Nat × Launch) => insertBy (l.endAt, i) o) []
  ls.foldl (fun s x =>
    match s.launch? x.2 with
    | some l => if s.killPending x.2 || s.plateHold l || s.copyHold l then s else s.endLaunch x.2 l
    | none => s) s

/-! ## The governor (R330, R341) -/

/-- Cores assigned to a stage of a launch. -/
def State.stageCores (s : State) (slot sn : Nat) : List Nat :=
  (s.cores.filter fun ((_, c) : Nat × Core) => c.stage.contains (slot, sn)).map Prod.fst

/-- Occupancy of a stage's ring. -/
def State.occupancy (s : State) (l : Launch) (st : Stage) : Nat := s.stageCount l st

/-- The best of a list by a rank, the first among equals. -/
def bestOf (rank : Nat → Nat) : List Nat → Option Nat
  | [] => none
  | a :: r => match bestOf rank r with
    | some b => if rank b > rank a then some b else some a
    | none => some a

/-- The governor's sample and at most one move for a launch. -/
def State.govern (s : State) (slot : Nat) (l : Launch) : State :=
  let l1 := l.govNew.foldl (fun (l : Launch) (x : Nat × Nat × Nat × Nat × Bool) =>
    let (sn, high, low, w, en) := x
    { l with gov := en, stages := (List.range l.stages.length).zip l.stages |>.map fun ((i, st) : Nat × Stage) =>
        if i = sn then { st with high := high, low := low, w := w } else st }) { l with govNew := [] }
  let occ := fun (i : Nat) => ((l1.stages[i]?).map (s.occupancy l1)).getD 0
  let stages := (List.range l1.stages.length).zip l1.stages |>.map fun ((i, st) : Nat × Stage) =>
    { st with above := if st.kind != 0 && occ i > st.high then st.above + 1 else 0 }
  let ids := List.range stages.length
  let a? := bestOf occ (ids.filter fun i => (stages[i]?).any fun st => st.kind != 0 && st.w ≤ st.above && 0 < st.above)
  let b? := bestOf (fun i => 2 ^ 32 - occ i) ((ids.filter fun i => (stages[i]?).any fun st =>
    st.kind != 0 && occ i < st.low && (s.stageCores slot i).length ≥ 2).reverse)
  let s1 := s.setLaunch slot { l1 with stages := stages }
  match a?, b? with
  | some a, some b =>
    let sta := (stages[a]?).getD { addr := 0, kind := 0, cores := 0, high := 0, low := 0, w := 0, above := 0, got := 0 }
    let live := fun (c : Nat) => (s.masters.filter fun ((k, m) : Nat × Master) => coreOf k = c && m.kind = .task && m.saving.isNone).length
    match bestOf (fun c => 16 - live c) ((s.stageCores slot b).filter fun c => l1.reaches sta c) with
    | some c =>
      if !l1.gov then s1
      else
        (s1.updCore c fun x => { x with stage := x.stage.map fun y => if y = (slot, b) then (slot, a) else y }).updLaunch slot fun l =>
          { l with stages := (List.range l.stages.length).zip l.stages |>.map fun ((i, st) : Nat × Stage) =>
              if i = a then { st with above := 0 } else st }
    | none => s1
  | _, _ => s1

def State.governEdge (s : State) : State :=
  s.launches.foldl (fun s ((i, l) : Nat × Launch) => if l.stages.isEmpty || l.st = .ending || l.st = .aborting then s else s.govern i l) s

/-! ## Plates at an edge (R398-R401) -/

/-- Reports requested since the last edge take their snapshot. -/
def State.reportEdge (s : State) : State :=
  (s.reports.filter fun q => q.snap.isNone).foldl (fun s q =>
    let (b, s1) := s.statement 0 q.plate q.nonce false
    { s1 with reports := s1.reports.map fun x => if x.id = q.id then { x with snap := some b, snapAt := s.cyc } else x }) s

/-- Cycles of a die in a second: 0.525 GHz in reduced service, else its island's setting (R453, R459). -/
def State.hertz (s : State) (die : Nat) : Nat :=
  525000000 + if (s.part (s.die die).part).full then (s.die die).clk * 26250000 else 0

/-- The end of a launch waits for a checkpoint of plate `id` (R400). -/
def State.plateAwaited (s : State) (id : Nat) : Bool :=
  s.launches.any fun ((_, l) : Nat × Launch) => (l.st = .ending || l.st = .aborting) && s.plateHold l &&
    l.pend.any fun ((k, _) : Nat × Nat) => k / 64 = id

/-- A checkpoint of plate `id` is due: the counters of an OPEN plate have risen by 2^20, a second has passed, or, of a CLOSING plate
also, the last one failed or a launch's end waits for one (R400, R401). -/
def State.checkpointDue (s : State) (id : Nat) (p : Plate) : Bool :=
  let now := (p.slots.map fun ((_, x) : Nat × PSlot) => x.struck + x.spoiled).sum
  let was := (p.slots.map fun ((_, x) : Nat × PSlot) => x.ckS + x.ckP).sum
  p.st != 0 && p.ck.isNone &&
    ((p.st = 1 && (now ≥ was + 2 ^ 20 || s.cyc ≥ p.ckAt + s.hertz s.rot.die)) || p.ckFail || s.plateAwaited id)

/-- Writes of due checkpoints start. -/
def State.checkpointEdge (s : State) : State :=
  s.plates.foldl (fun s ((id, p) : Nat × Plate) =>
    if !s.checkpointDue id p then s
    else
      let (b, s1) := s.statement 2 id 0 true
      let vs := p.slots.map fun ((i, x) : Nat × PSlot) =>
        (i, x.struck + s.heldPend .ending (id * 64 + i), x.spoiled + s.heldPend .aborting (id * 64 + i))
      (s1.issue 2 id b).setPlate id { p with ck := some vs, ckAt := s.cyc, ckRec := signed b }) s

/-- A CLOSING plate on which no launch has PENDING any more takes its closing statement's snapshot (R393, R398). -/
def State.closeEdge (s : State) : State :=
  s.plates.foldl (fun s ((id, p) : Nat × Plate) =>
    if p.st != 2 || s.platePending id || p.fin.isSome then s
    else
      let (b, s1) := s.statement 1 id 0 false
      s1.setPlate id { p with fin := some b }) s

/-! ## The write-back scanner (R358) -/

/-- A die's scanner takes its DIRTY pages in order, up to 64 under way. -/
def State.scanDie (s : State) (die : Nat) : State :=
  let mine := s.pages.filter fun ((_, p) : Nat × Page) => p.file && p.home = die
  let busy := (mine.filter fun ((_, p) : Nat × Page) => p.wb = 2 || p.wb = 3).length
  let dirty := (mine.filter fun ((_, p) : Nat × Page) => p.wb = 1).foldl (fun o ((k, p) : Nat × Page) => insertBy (p.dord, k) o) []
  (dirty.take (64 - busy)).foldl (fun s x => s.scanPage x.2) s

/-! ## The edge -/

/-- A job accepted under a proof id is still queued or running (R414). -/
def State.idInUse (s : State) (id : Nat) : Bool :=
  let uses := fun (m : Master) => (m.vxe ++ m.mxe ++ m.cpe ++ m.att).any fun j => j.acc = id
  (s.masters.any fun ((_, m) : Nat × Master) => uses m) || s.saves.any fun ((_, r) : Nat × Save) => uses r.m

/-- Retired ids age, and those that may be allocated again are free. -/
def State.ageIds (s : State) : State :=
  { s with retired := (s.retired.map fun ((id, n) : Nat × Nat) => (id, Nat.max 1 (n - 1))).filter fun ((id, n) : Nat × Nat) =>
      n != 1 || s.idInUse id }

/-- Pending PREEMPTs of one kind at their edge. -/
def State.preemptEdge (s : State) (kill : Bool) : State :=
  s.parts.foldl (fun s ((i, p) : Nat × Part) =>
    (p.pres.filter fun x => x.kill = kill && !x.done).foldl (fun s x => s.preEdge i x) s) s

/-- Every die of the module has come up or has been left out: steps 4 and 5 of R451 are over. -/
def State.allSeen (s : State) : Bool := (List.range 32).all fun d => (s.die d).joined || (s.die d).failed

/-- Clock settings of islands and the power cap, and full service of partitions whose dies have all trained, once no die of the module
is still to come up (R454, R459). -/
def State.serviceEdge (s : State) : State :=
  let s1 : State :=
    { s with power := { s.power with cap := s.power.capNew.getD s.power.cap, capNew := none }
             dies := s.dies.map fun ((i, d) : Nat × Die) => (i, match d.clkNew with | some k => { d with clk := k, clkNew := none } | none => d) }
  { s1 with parts := s1.parts.map fun ((i, p) : Nat × Part) =>
      (i, { p with full := p.full || (s1.allSeen && !p.dies.isEmpty && p.dies.all fun d => (s1.die d).full) }) }

/-- Resolutions have been applied: their requests end, and their markers are examined (R425). -/
def State.resolveEnd (s : State) : State := (s.reqs.filter fun r => r.k = .resolve).foldl (fun s r => s.reqEnd r) s

/-- What has been sent is received: the writes and the requests on their way, what the proof table, the collector, the plate and halo
tables and the ABUs have been sent, and the records on their way (R332). A message for a handler waits at its core. A PRSET may still
reach the table after the edge, as R431 allows it: which does is free (notes/assumptions/50.md). -/
def State.received (s : State) : State :=
  let s1 := s.reqs.foldl (fun s r =>
    let prset := match r.k with | .unit (.prset _) _ _ _ _ _ _ => true | _ => false
    let s0 := if prset then s.drew else s
    (((if prset && Config.freeNat s.free % 2 = 1 then s0 else s0.runAt r.id 0 execProofTableReply).runAt r.id 0 execCollectorPerform).runAt r.id 0 execPlateComplete).runAt r.id 0 execHaloComplete) s.flush
  s1.scans.foldl (fun s x => (s.runAt x.id 0 execAbuRequestAccept).runAt x.id 0 execAbuRecordLand) s1

/-- ROUND_MARKER_ARRIVAL: die `cur` has the marker on every input, enters the new round and forwards it. A marker stands behind all
that was sent before it and before all that is sent after it, and every two dies send to each other, so none can send between
the first die's entry and the last one's: the first entry receives what is on its way, and the other entries and the edge
follow it at once (R331, R332; notes/assumptions/50.md). -/
def execRoundMarkerArrival (s : State) : Out :=
  .next <|
  if !(s.round.opened && s.roundDies.contains s.cur && !s.round.entered.contains s.cur) then s
  else if !s.round.entered.isEmpty then { s with round := { s.round with entered := s.round.entered ++ [s.cur] } }
  else
    let t := s.received
    { t with round := { t.round with entered := [s.cur] }
             agenda := ((s.roundDies.filter (· != s.cur)).map fun d => { i := .roundMarkerArrival, cur := d, arg := 0 }) ++
               { i := .roundEdgeApply, cur := 0, arg := 0 } :: t.agenda }

/-- ROUND_EDGE_APPLY: once every die has entered the new round, its edge takes effect. What was sent before the markers was received
when the dies entered (R332). -/
def execRoundEdgeApply (s : State) : Out :=
  .next <|
  if !s.edgeReady then s
  else
    let s0 : State := { s.ageIds with round := { s.round with num := s.round.num + 1, opened := false, entered := [] } }
    let s1 := (s0.preemptEdge true).cancelEdge.passEdge.commitEdge
    let s2 := ((s1.preemptEdge false).resolveEnd.governEdge).reportEdge.checkpointEdge.closeEdge.serviceEdge
    let s3 := s2.dies.foldl (fun s ((d, _) : Nat × Die) => s.scanDie d) s2
    s3.wakeAll fun _ m => m.park = .table || m.park = .lnch

end Sys2Proof.Machine
end

