-- ==== Sys2Proof/Machine/Bringup.lean ====
section
/-! DEFINITION. Start-up, power loss, partitioning, the control blocks and the ports (spec/26: R451-R459; spec/19: R345, R351;
spec/22: R400, R402). -/

namespace Sys2Proof.Machine

/-! ## Dies and supervisor cores (R351, R451, R455) -/

/-- A page that the root of trust maps for supervisors. -/
def ctlPage (psz home : Nat) : Page :=
  { psz := psz, w := true, x := false, pl := false, imm := true, ms := false, abu := false, file := false, hpin := true, tier := 0
    home := home, nsid := 0, flba := 0, t2 := false, wb := 0, again := false, dord := 0, svn := 65536, stale := false, tsvn := none
    ctl := true, fwd := [] }

/-- The page of supervisor firmware. -/
def firmwarePage (home : Nat) : Page := { ctlPage 0 home with w := false, x := true, imm := false }
def firmwareVa : Nat := Config.svcEntry.toNat / 65536 * 65536

/-- Maps a die's control page and its windows. -/
def State.mapDie (s : State) (part die : Nat) : State :=
  let vas := (ctlBase + 0x200000 * die) :: (List.range 33).map fun i => winBase die + i * 0x200000
  { s with pages := vas.foldl (fun t va => Tab.put t (pageKey part va 1) (ctlPage 1 die)) s.pages }

/-- Maps a partition's block, its save pool and the supervisor firmware, on its lowest-numbered die: in the second tier until the die's
stack holds pages (R453). -/
def State.mapPart (s : State) (part die : Nat) : State :=
  let stand := fun (p : Page) => if (s.die die).full then p else { p with tier := 2, t2 := true }
  let t := Tab.put s.pages (pageKey part (ctlBase + 0x4000000) 1) (ctlPage 1 die)
  let t := Tab.put t (pageKey part saveBase 2) (stand (ctlPage 2 die))
  { s with pages := Tab.put t (pageKey part firmwareVa 0) (stand (firmwarePage die))
           mem := setCells s.mem (bytesAt (globKey part firmwareVa) ((List.range 65536).map Config.svcImage)) }

/-- The roots of R351 in the first task of a supervisor core. -/
def svcStart (cyc : Nat) : Master :=
  let m : Master := { Master.empty with kind := .svc, st := .ready, pc := Config.svcEntry, issued := cyc, since := cyc }
  let whole := fun (sp : Nat) (ps : BitVec 16) => Cap.make 0 ps sp 0 63 0 0 true
  ((((m.wc 1 (whole spGlob 0x3FF)).wc 2 (whole spCode 5)).wc 3 (Cap.over spLs 0x19B 0 0x800000 0)).wc 4 (Cap.over spClu 0x19B 0 0x800000 0)).wc 5
    (Cap.over spKey 0x60 0 16 0)

/-- Starts the four supervisor cores of a die. -/
def State.startSvcs (s : State) (die : Nat) : State :=
  (List.range 4).foldl (fun s n => s.setM (svcBase + die * 4 + n) (svcStart s.cyc)) s

/-- A die in a rising list. -/
def insertDie (d : Nat) : List Nat → List Nat
  | [] => [d]
  | a :: r => if d < a then d :: a :: r else if d = a then a :: r else a :: insertDie d r

/-- A die joins its partition in reduced service. -/
def State.joinDie (s : State) (die part : Nat) : State :=
  let fresh := (s.part part).dies.isEmpty
  let s1 := s.updDie die fun d => { d with joined := true, part := part, born := s.cyc }
  let s2 := s1.updPart part fun p => { p with dies := insertDie die p.dies, full := false }
  ((if fresh then s2.mapPart part die else s2).mapDie part die).startSvcs die

/-! ## POWER_ON, DIE_BRINGUP, HBM_TRAINING_COMPLETE (R451-R454) -/

/-- Start-up has logged a die and the step of R451 at which it failed. -/
def State.logStep (s : State) (die step : Nat) : State := { s with rot := { s.rot with log := (die, step) :: s.rot.log } }

/-- The module stays dark, and the management port reports the code of the failed step. -/
def State.dark (s : State) (step : Nat) : State :=
  { s with rot := { s.rot with answers := (0, leBytes 4 (Config.bootCode step)) :: s.rot.answers } }

/-- POWER_ON, steps 1 to 3: the root of trust of die 0 verifies firmware, reads the fuses and starts its die's supervisor cores. When
die 0 fails at step 1 or 3 the mirror on die 31 does all three (R452); when that fails too, or the fuses cannot be read, the
module stays dark. -/
def execPowerOn (s : State) : Out :=
  .next <|
  let f0 := Config.bootFails 0 % 4
  let f31 := Config.bootFails 31 % 4
  let up := fun (s : State) (die : Nat) =>
    let s1 : State :=
      { s with rot := { s.rot with on := true, die := die, objFuse := Nat.max s.rot.objFuse (Config.fuseObj % 65536)
                                   floor := Nat.max s.rot.floor (Config.fuseFloor % 65536)
                                   layout := (List.range 32).map fun d => Config.partOfDie d % 8 } }
    s1.joinDie die (Config.partOfDie die % 8)
  if s.rot.on then s
  else if f0 = 0 then up s 0
  else if f0 = 2 then (s.logStep 0 2).dark 2
  else if f31 != 0 then ((s.logStep 0 f0).logStep 31 f31).dark f31
  else up ((s.updDie 0 fun d => { d with failed := true }).logStep 0 f0) 31

/-- DIE_BRINGUP: the next die in ascending order passes its tests and joins, or is left out and logged. -/
def execDieBringup (die : Nat) (ok : Bool) (s : State) : Out :=
  .next <|
  let seen := fun (d : Nat) => (s.die d).joined || (s.die d).failed
  if !s.rot.on || die ≥ 32 || seen die || !(List.range die).all seen then s
  else if ok then s.joinDie die (s.rot.layout.getD die 0)
  else (s.updDie die fun d => { d with failed := true }).logStep die 4

/-- HBM_TRAINING_COMPLETE: with steps 4 and 5 over, a die's stack is trained, or its die stays in reduced service, which is logged. -/
def execHbmTrainingComplete (die : Nat) (ok : Bool) (s : State) : Out :=
  .next <|
  if !(s.die die).joined || !s.allSeen then s
  else if ok then s.updDie die fun d => { d with full := true }
  else if (s.die die).full || s.rot.log.contains (die, 6) then s
  else s.logStep die 6

/-! ## POWER_LOSS (R400, R403) -/

/-- A slot's counters after a loss: the last durable checkpoint and the reserve, with the carries raised. -/
def PSlot.resumed (x : PSlot) : PSlot :=
  let up := fun (n : Nat) => Nat.min (n + 2 ^ 20) (2 ^ 64 - 1)
  { x with struck := up x.ckS, spoiled := up x.ckP, carryS := Nat.min (x.carryS + 1) 65535, carryP := Nat.min (x.carryP + 1) 65535
           sat := x.sat || x.ckS + 2 ^ 20 ≥ 2 ^ 64 || x.ckP + 2 ^ 20 ≥ 2 ^ 64 }

def Plate.resumed (p : Plate) : Plate :=
  { p with slots := p.slots.map fun ((i, x) : Nat × PSlot) => (i, x.resumed), ck := none, ckAt := 0, ckFail := false, ckRep := 0, ckRec := [], fin := none }

/-- POWER_LOSS: what fuses, the storage port and the outside keep stays; the rest is as before power-on. -/
def execPowerLoss (s : State) : Out :=
  .next <|
  { State.reset with
    agenda := s.agenda, free := s.free, flash := s.flash, plates := s.plates.map fun ((i, p) : Nat × Plate) => (i, p.resumed)
    rot := { State.reset.rot with objFuse := s.rot.objFuse, floor := s.rot.floor, seq := s.rot.seq, stmts := s.rot.stmts, answers := s.rot.answers
                                  patches := s.rot.patches, replies := s.rot.replies, discards := s.rot.discards, log := s.rot.log
                                  raises := s.rot.raises, failed := s.rot.failed, region := s.rot.region, rpmb := s.rot.rpmb } }

/-! ## PARTITION_CHANGE (R345) -/

/-- Nothing of a partition is under way. -/
def State.partIdle (s : State) (part : Nat) : Bool :=
  !(s.launches.any fun ((_, l) : Nat × Launch) => l.part = part) && (s.part part).waiting.isEmpty && (s.part part).pres.isEmpty &&
  !(s.masters.any fun ((k, m) : Nat × Master) => s.partOf k = part && m.kind != .svc) &&
  !(s.saves.any fun ((k, _) : Nat × Save) => k / 16384 = part) &&
  !(s.reqs.any fun r => r.pos < svcBase + 128 && s.partOf r.pos = part) &&
  !(s.batches.any fun b => b.late && (s.die b.src).part = part) && (s.reports.all fun q => q.part != part) &&
  s.plates.all fun ((_, p) : Nat × Plate) => p.st = 0 || p.part != part

/-- A partition ends: its map, leases, memory, queues and supervisor cores are gone. -/
def State.endPart (s : State) (part : Nat) : State :=
  let lo := part * 2 ^ 58
  { s with
    parts := Tab.del s.parts part, pages := s.pages.filter fun ((k, _) : Nat × Page) => k / 2 ^ 48 != part
    ranges := s.ranges.filter fun ((k, _) : Nat × Rng) => k / 4096 != part
    mem := s.mem.filter fun (c : Host.Cell) => !(lo ≤ blockOfCell c.1 && blockOfCell c.1 < lo + 2 ^ 58)
    hlt := s.hlt.filter fun ((k, _) : Nat × Nat) => k / 32 / 2 ^ 48 != part
    tcache := s.tcache.filter fun k => k / 2 ^ 48 != part
    wcount := s.wcount.filter fun ((k, _) : Nat × Nat) => k / 32 / 2 ^ 48 != part
    copies := s.copies.filter fun ((k, _) : Nat × List Nat) => k / 2 ^ 58 != part
    cores := s.cores.map fun ((i, c) : Nat × Core) => (i, { c with
      l1 := c.l1.filter fun ((l, _) : Nat × Nat) => l / 2 ^ 58 != part
      fills := c.fills.filter fun ((l, _, _) : Nat × Bool × Nat) => l / 2 ^ 58 != part
      pers := c.pers.filter fun x => x.line / 2 ^ 58 != part })
    banks := s.banks.map fun ((i, b) : Nat × Bank) => (i, { b with lines := b.lines.filter fun ((l, _) : Nat × Nat) => l / 2 ^ 58 != part })
    patched := s.patched.filter fun p => p.part != part
    masters := s.masters.filter fun ((k, _) : Nat × Master) => s.partOf k != part }

/-- PARTITION_CHANGE: the new layout, when every die of the partitions involved is idle; they start anew. -/
def execPartitionChange (parts : List Nat) (s : State) : Out :=
  .next <|
  let now := (s.dies.filter fun ((_, d) : Nat × Die) => d.joined && !d.failed).map fun ((i, d) : Nat × Die) => (i, d.part, parts.getD i 0)
  let moved := now.filter fun ((_, a, b) : Nat × Nat × Nat) => a != b
  let ps := (moved.flatMap fun ((_, a, b) : Nat × Nat × Nat) => [a, b]).eraseDups
  if !s.rot.on || parts.length != 32 || (parts.any fun p => p ≥ 8) || !ps.all s.partIdle then s
  else
    let s0 := ps.foldl (fun s p => s.endPart p) s
    let s1 : State := { s0 with rot := { s0.rot with layout := parts } }
    (now.filter fun ((_, a, b) : Nat × Nat × Nat) => ps.contains a || ps.contains b).foldl
      (fun s ((i, _, b) : Nat × Nat × Nat) => s.joinDie i b) s1

/-! ## Clocks and power (R459) -/

/-- ISLAND_CLOCK_SET: one of 21 clocks for a core-array island, from the next round edge. -/
def execIslandClockSet (die k : Nat) (s : State) : Out :=
  .next <| if k ≤ 20 && (s.die die).joined then s.updDie die fun d => { d with clkNew := some k } else s

/-- POWER_CAP_SET: `cur` watts, stored as the nearer limit outside 3,000 to 12,000. -/
def execPowerCapSet (s : State) : Out :=
  .next { s with power := { s.power with capNew := some (clamp 3000 12000 s.cur) } }

/-- The island of a die stands at 0.525 GHz: by its setting, or in reduced service (R453). -/
def State.lowest (s : State) (d : Die) : Bool := d.clk = 0 || !(s.part d.part).full

/-- POWER_WINDOW: the supervisors compare the measured `cur` watts with the cap: above it they lower clocks, by steps of their
own choice, and with every island at its lowest they hold new placements until power falls. -/
def execPowerWindow (s : State) : Out :=
  .next <|
  let s1 : State := { s with power := { s.power with watts := s.cur } }
  if s.cur ≤ s.power.cap then { s1 with power := { s1.power with hold := false } }
  else if s.dies.all fun ((_, d) : Nat × Die) => !d.joined || s.lowest d then { s1 with power := { s1.power with hold := true } }
  else
    s.dies.foldl (fun (s : State) ((i, d) : Nat × Die) =>
      if d.joined && !s.lowest d then s.drew.updDie i fun d => { d with clkNew := some (Config.freeNat s.free % d.clk) } else s) s1

/-! ## Control blocks (R7, R179, R455) -/

/-- ABUCFG_WRITE: SHARE of a die's stack, clamped to 10-90. -/
def execAbucfgWrite (die : Nat) (v : W32) (s : State) : Out :=
  .next <| if die < 32 then s.updDie die fun d => { d with share := clamp 10 90 (v.toNat % 128) } else s

/-- Bytes from `va` on lie on control pages of a partition's map: no other partition's are reached (R345, R455). -/
def State.ctlRange (s : State) (part va n : Nat) : Bool :=
  ctlBase ≤ va && va + n ≤ 2 ^ 64 && (chunksOf va n).all fun a => (s.pageAt part a).any fun x => x.2.ctl

/-- REGISTER_WRITE: a doubleword of a control block; what is RO or reserved ignores it. -/
def execRegisterWrite (part : Nat) (va v : W64) (s : State) : Out :=
  .next <| if s.ctlRange part (va.toNat / 8 * 8) 8 then s.regWrite part va.toNat true v else s

/-! ## Ports (R457, R458) -/

/-- Every byte of [va, va + n) lies on an IMM page that leases have mapped. -/
def State.immRange (s : State) (part va n : Nat) : Bool :=
  va + n ≤ 2 ^ 64 && (chunksOf va n).all fun a => (s.pageAt part a).any fun x => x.2.imm && !x.2.ctl

/-- Bytes that arrive from outside are written at their homes, in order. -/
def State.arrive (s : State) (part va : Nat) (bs : List Byte) : State := if bs.isEmpty then s else s.devWrite part va bs

/-- Entries of a partition's pod export table. -/
def State.podTable (s : State) (part : Nat) : List (BitVec 128) :=
  (List.range 64).map fun i => BitVec.ofNat 128 (s.memNat (globKey part (ctlBase + 0x4001000 + 16 * i)) 16)

/-- One exported range holds the access and permits it. -/
def State.exported (s : State) (part va n : Nat) (wr : Bool) : Bool :=
  (s.podTable part).any fun e => Config.podBase e ≤ va && va + n ≤ Config.podBase e + Config.podLen e &&
    (if wr then Config.podWrite e else Config.podRead e)

/-- What the host may write beside BAR0: the partition's exported IMM ranges, and the record rings of its enabled queues, which stand on
IMM pages (R457, R458; notes/assumptions/96.md). -/
def State.hostRange (s : State) (part va n : Nat) : Bool :=
  s.immRange part va n && (s.exported part va n true || (s.part part).sq.any fun ((_, q) : Nat × SubQ) =>
    q.log2cap != 0 && q.ring.toNat ≤ va && va + n ≤ q.ring.toNat + 128 * 2 ^ q.log2cap)

/-- HOST_MEMORY_WRITE: over a trained host port, control blocks of the partition through BAR0, and what the host may write of memory. -/
def execHostMemoryWrite (part : Nat) (va : W64) (bytes : List Byte) (s : State) : Out :=
  .next <|
  if s.ports.host = 0 && s.ports.cxl = 0 then s
  else if s.ctlRange part va.toNat bytes.length then s.ctlStore (bytesAt (globKey part va.toNat) bytes)
  else if s.hostRange part va.toNat bytes.length then s.arrive part va.toNat bytes
  else s

/-- POD_ACCESS: another module reads or writes within an exported range; a read leaves the module as it is. The step is the access's
delivery: each channel of a (module, range) delivers in its order (notes/assumptions/96.md). -/
def execPodAccess (part : Nat) (va : W64) (wr : Bool) (bytes : List Byte) (s : State) : Out :=
  .next <|
  if wr && s.exported part va.toNat bytes.length true && s.immRange part va.toNat bytes.length && s.ports.scale.any (fun x => x.2 != 0) then
    s.arrive part va.toNat bytes
  else s

/-- PORT_TRAINING: a port trains at one of its generations, or loses its link (0). -/
def execPortTraining (port : Port) (gen : Nat) (s : State) : Out :=
  .next <|
  let p := s.ports
  match port with
  | .host => if gen = 0 || (5 ≤ gen && gen ≤ 7) then { s with ports := { p with host := gen } } else s
  | .cxl => if gen = 0 || gen = 2 || gen = 3 then { s with ports := { p with cxl := gen } } else s
  | .scaleUp n => if gen = 0 || gen = 2 || gen = 3 then { s with ports := { p with scale := Tab.set 0 p.scale n gen } } else s
  | .storage => if gen ≤ 6 then { s with ports := { p with storage := gen } } else s

/-! ## SPDM (R402, R450) -/

/-- What a measurement index reports. -/
def State.measure (s : State) (index : Nat) : List Byte :=
  if index = 1 || index = 2 then leBytes 48 (Config.fwHash index).toNat
  else if index = 3 then leBytes 2 s.rot.objFuse ++ leBytes 2 s.rot.floor
  else if index = 4 then (List.range 32).map fun d => BitVec.ofNat 8 (if (s.die d).joined then (s.die d).part else 255)
  else if index = 5 then
    (s.plates.filter fun ((_, p) : Nat × Plate) => p.st != 0).flatMap fun ((id, p) : Nat × Plate) =>
      leBytes 2 id ++ leBytes 4 p.gen ++ leBytes 8 p.base ++ leBytes 8 p.top ++ (List.range 64).flatMap fun k =>
        leBytes 48 (((Tab.find? p.slots k).map fun x => x.hash.toNat).getD 0)
  else leBytes 8 Config.devid.toNat ++ Config.certs

/-- The answer to a measurement request, with its nonce: the content, and the two signatures over the hash of the transcript, which is
the request and the content (R402; notes/assumptions/58.md). -/
def State.measured (s : State) (index : Nat) (nonce : BitVec 256) : List Byte :=
  let said := leBytes 1 index ++ leBytes 32 nonce.toNat
  let hash := leBytes 48 (Config.sha384 (said ++ s.measure index)).toNat
  s.measure index ++ leBytes 32 nonce.toNat ++ rsaSig hash ++ slhSig hash

/-- SPDM_REQUEST: a session bound to one partition opens once both sides are authenticated; a measurement is answered signed. -/
def execSpdmRequest (r : SpdmReq) (s : State) : Out :=
  .next <|
  if !s.rot.on then s
  else match r with
  | .openSession client part =>
    if Config.clientOk client && part < 8 then
      { s with rot := { s.rot with sessions := (client, part) :: s.rot.sessions.filter fun x => x.1 != client } }
    else s
  | .measure _ index nonce =>
    if 1 ≤ index && index ≤ 6 then { s with rot := { s.rot with answers := (index, s.measured index nonce) :: s.rot.answers } } else s
  | .close client => { s with rot := { s.rot with sessions := s.rot.sessions.filter fun x => x.1 != client } }

end Sys2Proof.Machine
end

