-- ==== Sys2Proof/Machine/Fence.lean ====
section
/-! DEFINITION. FENCE and ENGWAIT (spec/11: R250-R253). -/

namespace Sys2Proof.Machine

/-- The page of a batch's data. -/
def State.batchPage (s : State) (b : Batch) : Option Page := (b.cells.head?).bind fun (c : Host.Cell) => (s.pageOfKey c.1).map Prod.snd

/-- A probe of TBMASK bit `bit` echoes at a scope: every write that the task issued to the destination is performed there, or
at its home (R251). A held write is performed nowhere yet. -/
def State.echoes (s : State) (pos : Nat) (scope : BitVec 3) (bit : Nat) : Bool :=
  let unit := fun (f : Nat → Bool) => s.reqs.any fun r => r.pos = pos && r.unserved && r.unitKey.any f
  let batch := fun (f : Batch → Bool) => s.batches.any fun b => b.pos = pos && b.late && f b
  let key := fun (b : Batch) => ((b.cells.head?).map Prod.fst).getD 0
  let page := fun (b : Batch) (f : Page → Bool) => isGlobKey (key b) && (s.batchPage b).any f
  if bit < 16 then
    !unit (fun k => isClu k && bankOfKey k % 16 = bit) && !batch fun b => isClu (key b) && bankOfKey (key b) % 16 = bit
  else if bit < 48 then
    !batch (fun b => b.home = bit - 16 && (scopeDev scope || b.hold) && page b fun p => !p.t2) &&
    !(s.batches.any fun b => b.pos = pos && b.push && b.todo.contains (bit - 16))
  else if bit = tbRls then !unit fun k => isLs k && coreOfLsKey k != coreOf pos
  else if bit = tbTier2 then !batch fun b => page b (·.t2)
  else !unit isGlobKey && !batch fun b => page b (·.ms)

/-- Bits of a mask. -/
def bitsOf (x : W64) : List Nat := (List.range 64).filter fun i => x.getLsbD i

/-- FENCE: once posted results have returned, jobs that write have completed and every probe has echoed, TBMASK is
cleared; until then the task parks (R251). It also waits for a held write to the own LS, which has no bit (R250). -/
def execFence (x : FenceA) (s : State) : Out :=
  s.gate .noHandler 0 fun s =>
    let m := s.me
    let s1 := s.dropKeptAll
    let words := if x.ext then 3 else 1
    let late := (bitsOf m.tbmask).filter fun b => !s.echoes s.cur x.scope b
    if !s.outstanding s.cur && !m.writing && late.isEmpty && (s.earlier s.cur x.scope).isEmpty then
      (s1.upd fun m => { m with tbmask := 0, probes := 0 }).advance true (m.next words)
    else (s1.upd fun m => { m with probes := m.tbmask }).parkM s.cur (.fence x.scope) 0xF 0

/-- FENCE_PROBE_ECHO: the probe of bit `arg` echoes to the task at `cur`, which wakes with the last one. -/
def execFenceProbeEcho (s : State) : Out :=
  .next <|
  match s.me.park with
  | .fence scope =>
    if s.me.probes.getLsbD s.arg && s.echoes s.cur scope s.arg then
      (s.upd fun m => { m with probes := m.probes &&& ~~~(BitVec.ofNat 64 (2 ^ s.arg)) }).markerWake s.cur
    else s
  | _ => s

/-- ENGWAIT: a mask of 0 selects every queue (R253). -/
def execEngwait (x : EngwaitA) (s : State) : Out :=
  s.gate .noHandler x.h.nr fun s =>
    let mask := if x.mask = 0 then 15 else x.mask.toNat
    if s.me.engIdle mask then s.reportCopies x.h x.h.words
    else s.notReady x.h x.h.words oEmpty (.engwait mask) 0

end Sys2Proof.Machine
end

