-- ==== Sys2Proof/Machine/Dispatch.lean ====
section
/-! DEFINITION. One arm for each constructor of `Instr`: the direct call of its meaning. -/

namespace Sys2Proof.Machine

def exec (i : Instr) (s : State) : Host.Outcome State Fault Refusal :=
  match i with
  | .add x => Sys2Proof.Machine.execAdd x s
  | .sub x => Sys2Proof.Machine.execSub x s
  | .mul x => Sys2Proof.Machine.execMul x s
  | .mulh x => Sys2Proof.Machine.execMulh x s
  | .mulhu x => Sys2Proof.Machine.execMulhu x s
  | .div x => Sys2Proof.Machine.execDiv x s
  | .divu x => Sys2Proof.Machine.execDivu x s
  | .rem x => Sys2Proof.Machine.execRem x s
  | .remu x => Sys2Proof.Machine.execRemu x s
  | .and x => Sys2Proof.Machine.execAnd x s
  | .or x => Sys2Proof.Machine.execOr x s
  | .xor x => Sys2Proof.Machine.execXor x s
  | .andn x => Sys2Proof.Machine.execAndn x s
  | .shl x => Sys2Proof.Machine.execShl x s
  | .shr x => Sys2Proof.Machine.execShr x s
  | .sra x => Sys2Proof.Machine.execSra x s
  | .rot x => Sys2Proof.Machine.execRot x s
  | .min x => Sys2Proof.Machine.execMin x s
  | .max x => Sys2Proof.Machine.execMax x s
  | .minu x => Sys2Proof.Machine.execMinu x s
  | .maxu x => Sys2Proof.Machine.execMaxu x s
  | .seq x => Sys2Proof.Machine.execSeq x s
  | .sne x => Sys2Proof.Machine.execSne x s
  | .slt x => Sys2Proof.Machine.execSlt x s
  | .sltu x => Sys2Proof.Machine.execSltu x s
  | .sel x => Sys2Proof.Machine.execSel x s
  | .addi x => Sys2Proof.Machine.execAddi x s
  | .li x => Sys2Proof.Machine.execLi x s
  | .clz x => Sys2Proof.Machine.execClz x s
  | .ctz x => Sys2Proof.Machine.execCtz x s
  | .popc x => Sys2Proof.Machine.execPopc x s
  | .mov x => Sys2Proof.Machine.execMov x s
  | .sxt x => Sys2Proof.Machine.execSxt x s
  | .zxt x => Sys2Proof.Machine.execZxt x s
  | .bfx x => Sys2Proof.Machine.execBfx x s
  | .bfi x => Sys2Proof.Machine.execBfi x s
  | .br x => Sys2Proof.Machine.execBr x s
  | .call x => Sys2Proof.Machine.execCall x s
  | .bz x => Sys2Proof.Machine.execBz x s
  | .bnz x => Sys2Proof.Machine.execBnz x s
  | .beq x => Sys2Proof.Machine.execBeq x s
  | .bne x => Sys2Proof.Machine.execBne x s
  | .blt x => Sys2Proof.Machine.execBlt x s
  | .bge x => Sys2Proof.Machine.execBge x s
  | .bltu x => Sys2Proof.Machine.execBltu x s
  | .bgeu x => Sys2Proof.Machine.execBgeu x s
  | .calli x => Sys2Proof.Machine.execCalli x s
  | .jmpi x => Sys2Proof.Machine.execJmpi x s
  | .ret x => Sys2Proof.Machine.execRet x s
  | .nop x => Sys2Proof.Machine.execNop x s
  | .trap x => Sys2Proof.Machine.execTrap x s
  | .bkpt x => Sys2Proof.Machine.execBkpt x s
  | .mfs x => Sys2Proof.Machine.execMfs x s
  | .mts x => Sys2Proof.Machine.execMts x s
  | .rdcyc x => Sys2Proof.Machine.execRdcyc x s
  | .vadd x => Sys2Proof.Machine.execVadd x s
  | .vsub x => Sys2Proof.Machine.execVsub x s
  | .vmul x => Sys2Proof.Machine.execVmul x s
  | .vmulh x => Sys2Proof.Machine.execVmulh x s
  | .vmin x => Sys2Proof.Machine.execVmin x s
  | .vmax x => Sys2Proof.Machine.execVmax x s
  | .vabs x => Sys2Proof.Machine.execVabs x s
  | .vand x => Sys2Proof.Machine.execVand x s
  | .vor x => Sys2Proof.Machine.execVor x s
  | .vxor x => Sys2Proof.Machine.execVxor x s
  | .vshl x => Sys2Proof.Machine.execVshl x s
  | .vshr x => Sys2Proof.Machine.execVshr x s
  | .vsra x => Sys2Proof.Machine.execVsra x s
  | .vadds x => Sys2Proof.Machine.execVadds x s
  | .vsubs x => Sys2Proof.Machine.execVsubs x s
  | .vfadd x => Sys2Proof.Machine.execVfadd x s
  | .vfsub x => Sys2Proof.Machine.execVfsub x s
  | .vfmul x => Sys2Proof.Machine.execVfmul x s
  | .vfma x => Sys2Proof.Machine.execVfma x s
  | .vfmin x => Sys2Proof.Machine.execVfmin x s
  | .vfmax x => Sys2Proof.Machine.execVfmax x s
  | .vrcp x => Sys2Proof.Machine.execVrcp x s
  | .vrsq x => Sys2Proof.Machine.execVrsq x s
  | .vex2 x => Sys2Proof.Machine.execVex2 x s
  | .vlg2 x => Sys2Proof.Machine.execVlg2 x s
  | .vcvt x => Sys2Proof.Machine.execVcvt x s
  | .vcmp x => Sys2Proof.Machine.execVcmp x s
  | .vfcmp x => Sys2Proof.Machine.execVfcmp x s
  | .vsel x => Sys2Proof.Machine.execVsel x s
  | .vred x => Sys2Proof.Machine.execVred x s
  | .vperm x => Sys2Proof.Machine.execVperm x s
  | .vbcast x => Sys2Proof.Machine.execVbcast x s
  | .vins x => Sys2Proof.Machine.execVins x s
  | .vext x => Sys2Proof.Machine.execVext x s
  | .vslide x => Sys2Proof.Machine.execVslide x s
  | .vdsx x => Sys2Proof.Machine.execVdsx x s
  | .vmov x => Sys2Proof.Machine.execVmov x s
  | .mand x => Sys2Proof.Machine.execMand x s
  | .mor x => Sys2Proof.Machine.execMor x s
  | .mxor x => Sys2Proof.Machine.execMxor x s
  | .mnot x => Sys2Proof.Machine.execMnot x s
  | .mpop x => Sys2Proof.Machine.execMpop x s
  | .mfirst x => Sys2Proof.Machine.execMfirst x s
  | .vxeExecute => Sys2Proof.Machine.execVxeExecute s
  | .mma x => Sys2Proof.Machine.execMma x s
  | .mmas x => Sys2Proof.Machine.execMmas x s
  | .mmaBgs x => Sys2Proof.Machine.execMmaBgs x s
  | .zzero x => Sys2Proof.Machine.execZzero x s
  | .zld x => Sys2Proof.Machine.execZld x s
  | .zst x => Sys2Proof.Machine.execZst x s
  | .zcvt x => Sys2Proof.Machine.execZcvt x s
  | .qset x => Sys2Proof.Machine.execQset x s
  | .qpos x => Sys2Proof.Machine.execQpos x s
  | .mxeKstep => Sys2Proof.Machine.execMxeKstep s
  | .mmasSlice => Sys2Proof.Machine.execMmasSlice s
  | .mxeTileJob => Sys2Proof.Machine.execMxeTileJob s
  | .atq x => Sys2Proof.Machine.execAtq x s
  | .atc x => Sys2Proof.Machine.execAtc x s
  | .atm x => Sys2Proof.Machine.execAtm x s
  | .kvapp x => Sys2Proof.Machine.execKvapp x s
  | .kvdesc x => Sys2Proof.Machine.execKvdesc x s
  | .atqExecute => Sys2Proof.Machine.execAtqExecute s
  | .abuRequestAccept => Sys2Proof.Machine.execAbuRequestAccept s
  | .abuSliceScan => Sys2Proof.Machine.execAbuSliceScan s
  | .abuRecordLand => Sys2Proof.Machine.execAbuRecordLand s
  | .atmExecute => Sys2Proof.Machine.execAtmExecute s
  | .kvappExecute => Sys2Proof.Machine.execKvappExecute s
  | .kvappPublish => Sys2Proof.Machine.execKvappPublish s
  | .kvdescExecute => Sys2Proof.Machine.execKvdescExecute s
  | .killedKvappComplete => Sys2Proof.Machine.execKilledKvappComplete s
  | .ldB x => Sys2Proof.Machine.execLdB x s
  | .ldH x => Sys2Proof.Machine.execLdH x s
  | .ldW x => Sys2Proof.Machine.execLdW x s
  | .ldD x => Sys2Proof.Machine.execLdD x s
  | .stB x => Sys2Proof.Machine.execStB x s
  | .stH x => Sys2Proof.Machine.execStH x s
  | .stW x => Sys2Proof.Machine.execStW x s
  | .stD x => Sys2Proof.Machine.execStD x s
  | .ldv x => Sys2Proof.Machine.execLdv x s
  | .stv x => Sys2Proof.Machine.execStv x s
  | .ldg x => Sys2Proof.Machine.execLdg x s
  | .sts x => Sys2Proof.Machine.execSts x s
  | .ldc x => Sys2Proof.Machine.execLdc x s
  | .stc x => Sys2Proof.Machine.execStc x s
  | .pref x => Sys2Proof.Machine.execPref x s
  | .cpy x => Sys2Proof.Machine.execCpy x s
  | .cpyt x => Sys2Proof.Machine.execCpyt x s
  | .cpyw x => Sys2Proof.Machine.execCpyw x s
  | .cpeChunk => Sys2Proof.Machine.execCpeChunk s
  | .amsg x => Sys2Proof.Machine.execAmsg x s
  | .hret x => Sys2Proof.Machine.execHret x s
  | .bankmode x => Sys2Proof.Machine.execBankmode x s
  | .bankSwitchComplete => Sys2Proof.Machine.execBankSwitchComplete s
  | .halo x => Sys2Proof.Machine.execHalo x s
  | .halopush x => Sys2Proof.Machine.execHalopush x s
  | .haloPushApply => Sys2Proof.Machine.execHaloPushApply s
  | .activeMessageServe => Sys2Proof.Machine.execActiveMessageServe s
  | .handlerStart => Sys2Proof.Machine.execHandlerStart s
  | .amsgReply => Sys2Proof.Machine.execAmsgReply s
  | .fence x => Sys2Proof.Machine.execFence x s
  | .engwait x => Sys2Proof.Machine.execEngwait x s
  | .fenceProbeEcho => Sys2Proof.Machine.execFenceProbeEcho s
  | .boc x => Sys2Proof.Machine.execBoc x s
  | .bnr x => Sys2Proof.Machine.execBnr x s
  | .brdy x => Sys2Proof.Machine.execBrdy x s
  | .geto x => Sys2Proof.Machine.execGeto x s
  | .yield x => Sys2Proof.Machine.execYield x s
  | .park x => Sys2Proof.Machine.execPark x s
  | .parkReread => Sys2Proof.Machine.execParkReread s
  | .engst x => Sys2Proof.Machine.execEngst x s
  | .qput x => Sys2Proof.Machine.execQput x s
  | .qget x => Sys2Proof.Machine.execQget x s
  | .qpeek x => Sys2Proof.Machine.execQpeek x s
  | .qcnt x => Sys2Proof.Machine.execQcnt x s
  | .fifoPerform => Sys2Proof.Machine.execFifoPerform s
  | .ldsy x => Sys2Proof.Machine.execLdsy x s
  | .stsy x => Sys2Proof.Machine.execStsy x s
  | .ldpk x => Sys2Proof.Machine.execLdpk x s
  | .feset x => Sys2Proof.Machine.execFeset x s
  | .feget x => Sys2Proof.Machine.execFeget x s
  | .waitge x => Sys2Proof.Machine.execWaitge x s
  | .waiteq x => Sys2Proof.Machine.execWaiteq x s
  | .syncRemotePerform => Sys2Proof.Machine.execSyncRemotePerform s
  | .bara x => Sys2Proof.Machine.execBara x s
  | .bart x => Sys2Proof.Machine.execBart x s
  | .barc x => Sys2Proof.Machine.execBarc x s
  | .barrierGenAdvance => Sys2Proof.Machine.execBarrierGenAdvance s
  | .amoAdd x => Sys2Proof.Machine.execAmoAdd x s
  | .amoSub x => Sys2Proof.Machine.execAmoSub x s
  | .amoMin x => Sys2Proof.Machine.execAmoMin x s
  | .amoMax x => Sys2Proof.Machine.execAmoMax x s
  | .amoMinu x => Sys2Proof.Machine.execAmoMinu x s
  | .amoMaxu x => Sys2Proof.Machine.execAmoMaxu x s
  | .amoAnd x => Sys2Proof.Machine.execAmoAnd x s
  | .amoOr x => Sys2Proof.Machine.execAmoOr x s
  | .amoXor x => Sys2Proof.Machine.execAmoXor x s
  | .amoSwp x => Sys2Proof.Machine.execAmoSwp x s
  | .amocas x => Sys2Proof.Machine.execAmocas x s
  | .amoPerform => Sys2Proof.Machine.execAmoPerform s
  | .redAdd x => Sys2Proof.Machine.execRedAdd x s
  | .redMin x => Sys2Proof.Machine.execRedMin x s
  | .redMax x => Sys2Proof.Machine.execRedMax x s
  | .redAnd x => Sys2Proof.Machine.execRedAnd x s
  | .redOr x => Sys2Proof.Machine.execRedOr x s
  | .redXor x => Sys2Proof.Machine.execRedXor x s
  | .redFadd x => Sys2Proof.Machine.execRedFadd x s
  | .redPerform => Sys2Proof.Machine.execRedPerform s
  | .redw x => Sys2Proof.Machine.execRedw x s
  | .cbput x => Sys2Proof.Machine.execCbput x s
  | .cbget x => Sys2Proof.Machine.execCbget x s
  | .cbfree x => Sys2Proof.Machine.execCbfree x s
  | .gang x => Sys2Proof.Machine.execGang x s
  | .spawn x => Sys2Proof.Machine.execSpawn x s
  | .sqget x => Sys2Proof.Machine.execSqget x s
  | .exit x => Sys2Proof.Machine.execExit x s
  | .lnch x => Sys2Proof.Machine.execLnch x s
  | .setprio x => Sys2Proof.Machine.execSetprio x s
  | .govcfg x => Sys2Proof.Machine.execGovcfg x s
  | .dlcfg x => Sys2Proof.Machine.execDlcfg x s
  | .submissionDoorbell part q puts => Sys2Proof.Machine.execSubmissionDoorbell part q puts s
  | .dispatchTakeRecord => Sys2Proof.Machine.execDispatchTakeRecord s
  | .gangDispatch slot core offs => Sys2Proof.Machine.execGangDispatch slot core offs s
  | .stageItemTake => Sys2Proof.Machine.execStageItemTake s
  | .stallReport => Sys2Proof.Machine.execStallReport s
  | .roundStart => Sys2Proof.Machine.execRoundStart s
  | .roundMarkerArrival => Sys2Proof.Machine.execRoundMarkerArrival s
  | .roundEdgeApply => Sys2Proof.Machine.execRoundEdgeApply s
  | .endSweep => Sys2Proof.Machine.execEndSweep s
  | .deadlockExamine => Sys2Proof.Machine.execDeadlockExamine s
  | .csetb x => Sys2Proof.Machine.execCsetb x s
  | .cadd x => Sys2Proof.Machine.execCadd x s
  | .csub x => Sys2Proof.Machine.execCsub x s
  | .crestr x => Sys2Proof.Machine.execCrestr x s
  | .cseal x => Sys2Proof.Machine.execCseal x s
  | .cunseal x => Sys2Proof.Machine.execCunseal x s
  | .cgetb x => Sys2Proof.Machine.execCgetb x s
  | .cgetl x => Sys2Proof.Machine.execCgetl x s
  | .cgetp x => Sys2Proof.Machine.execCgetp x s
  | .ctag x => Sys2Proof.Machine.execCtag x s
  | .cclr x => Sys2Proof.Machine.execCclr x s
  | .cmov x => Sys2Proof.Machine.execCmov x s
  | .lease x => Sys2Proof.Machine.execLease x s
  | .lrev x => Sys2Proof.Machine.execLrev x s
  | .xinv x => Sys2Proof.Machine.execXinv x s
  | .icsync x => Sys2Proof.Machine.execIcsync x s
  | .imprd x => Sys2Proof.Machine.execImprd x s
  | .plate x => Sys2Proof.Machine.execPlate x s
  | .imprdReportWrite => Sys2Proof.Machine.execImprdReportWrite s
  | .plateCloseRequest => Sys2Proof.Machine.execPlateCloseRequest s
  | .plateCloseFinish => Sys2Proof.Machine.execPlateCloseFinish s
  | .checkpointDurable => Sys2Proof.Machine.execCheckpointDurable s
  | .checkpointFailure => Sys2Proof.Machine.execCheckpointFailure s
  | .prnew x => Sys2Proof.Machine.execPrnew x s
  | .prset x => Sys2Proof.Machine.execPrset x s
  | .prpass x => Sys2Proof.Machine.execPrpass x s
  | .prcan x => Sys2Proof.Machine.execPrcan x s
  | .prst x => Sys2Proof.Machine.execPrst x s
  | .prorv x => Sys2Proof.Machine.execProrv x s
  | .preempt x => Sys2Proof.Machine.execPreempt x s
  | .resume x => Sys2Proof.Machine.execResume x s
  | .freeze x => Sys2Proof.Machine.execFreeze x s
  | .preemptComplete => Sys2Proof.Machine.execPreemptComplete s
  | .windowWrite die va v => Sys2Proof.Machine.execWindowWrite die va v s
  | .postedResultReturn => Sys2Proof.Machine.execPostedResultReturn s
  | .waitlimExpiry => Sys2Proof.Machine.execWaitlimExpiry s
  | .recordlessReissue => Sys2Proof.Machine.execRecordlessReissue s
  | .divideResultWrite => Sys2Proof.Machine.execDivideResultWrite s
  | .persistentTokenRelease => Sys2Proof.Machine.execPersistentTokenRelease s
  | .writeBatchApply => Sys2Proof.Machine.execWriteBatchApply s
  | .writebackApply => Sys2Proof.Machine.execWritebackApply s
  | .homeCountWindow => Sys2Proof.Machine.execHomeCountWindow s
  | .homeMove part page die => Sys2Proof.Machine.execHomeMove part page die s
  | .requestForward die part page => Sys2Proof.Machine.execRequestForward die part page s
  | .pageTierMigrate => Sys2Proof.Machine.execPageTierMigrate s
  | .hltMissFill die part page => Sys2Proof.Machine.execHltMissFill die part page s
  | .faultPacketWrite => Sys2Proof.Machine.execFaultPacketWrite s
  | .writebackCopyDone => Sys2Proof.Machine.execWritebackCopyDone s
  | .writebackFlashDone part page ok => Sys2Proof.Machine.execWritebackFlashDone part page ok s
  | .mapExecutable r => Sys2Proof.Machine.execMapExecutable r s
  | .fuseRaise floor v => Sys2Proof.Machine.execFuseRaise floor v s
  | .translationRequest key => Sys2Proof.Machine.execTranslationRequest key s
  | .translationRecordReceive r => Sys2Proof.Machine.execTranslationRecordReceive r s
  | .translationTimeout key => Sys2Proof.Machine.execTranslationTimeout key s
  | .codePatch part va w => Sys2Proof.Machine.execCodePatch part va w s
  | .partitionChange parts => Sys2Proof.Machine.execPartitionChange parts s
  | .powerOn => Sys2Proof.Machine.execPowerOn s
  | .dieBringup die ok => Sys2Proof.Machine.execDieBringup die ok s
  | .hbmTrainingComplete die ok => Sys2Proof.Machine.execHbmTrainingComplete die ok s
  | .powerLoss => Sys2Proof.Machine.execPowerLoss s
  | .powerCapSet => Sys2Proof.Machine.execPowerCapSet s
  | .islandClockSet die k => Sys2Proof.Machine.execIslandClockSet die k s
  | .powerWindow => Sys2Proof.Machine.execPowerWindow s
  | .abucfgWrite die v => Sys2Proof.Machine.execAbucfgWrite die v s
  | .registerWrite part va v => Sys2Proof.Machine.execRegisterWrite part va v s
  | .unassignedOpcode w stage => Sys2Proof.Machine.execUnassignedOpcode w stage s
  | .fetchFault cause va => Sys2Proof.Machine.execFetchFault cause va s
  | .lineFill => Sys2Proof.Machine.execLineFill s
  | .proofTableReply => Sys2Proof.Machine.execProofTableReply s
  | .collectorPerform => Sys2Proof.Machine.execCollectorPerform s
  | .leaseComplete id ok => Sys2Proof.Machine.execLeaseComplete id ok s
  | .lrevComplete => Sys2Proof.Machine.execLrevComplete s
  | .xinvComplete => Sys2Proof.Machine.execXinvComplete s
  | .icsyncComplete => Sys2Proof.Machine.execIcsyncComplete s
  | .plateComplete => Sys2Proof.Machine.execPlateComplete s
  | .haloComplete => Sys2Proof.Machine.execHaloComplete s
  | .uncorrectableError site single => Sys2Proof.Machine.execUncorrectableError site single s
  | .hostMemoryWrite part va bytes => Sys2Proof.Machine.execHostMemoryWrite part va bytes s
  | .podAccess part va wr bytes => Sys2Proof.Machine.execPodAccess part va wr bytes s
  | .portTraining port gen => Sys2Proof.Machine.execPortTraining port gen s
  | .spdmRequest r => Sys2Proof.Machine.execSpdmRequest r s

end Sys2Proof.Machine
end

