-- ==== Sys2Proof/Machine/Events.lean ====
section
/-! DEFINITION. Which step comes next (R272, R280; notes/assumptions/2.md). Any number of steps happen within a cycle, one after
another. The candidates are the internal events that would change the state now, and the issue of each core that has an eligible
slot. A candidate whose bound has come goes first; otherwise `Config.order` chooses. A cycle passes once every core that can issue
has issued. -/

namespace Sys2Proof.Machine

/-- An act with no argument. -/
def actAt (i : Instr) (cur : Nat) : Act := { i := i, cur := cur, arg := 0 }


/-- The state in which a step is taken by `cur`. -/
def State.enter (s : State) (cur arg : Nat) : State := { s with cur := cur, arg := arg, turn := s.turn + 1 }

/-- The condition of a parked task that has been resumed is not met (R283). Where the object tells, it is read; where only the
instruction does, the condition is what its issue would meet now, which has no other effect here. -/
def State.unmet (s : State) (pos : Nat) (m : Master) : Bool :=
  (m.orphan.isNone || m.park = .marker) &&
  match m.park with
  | .marker => s.outstanding pos
  | .word k v _ => (s.ueIn (s.rdr pos m.proof) k 4).isNone && s.parkWord pos k = v
  | .queue k full => s.qUnmet (s.fetch pos) k full
  | .bar _ => s.barUnmet (s.fetch pos) pos
  -- an ICSYNC is issued again (R389)
  | .reply => false
  | .fe k c _ =>
    if c = 0 || c = 3 then !s.rdFe k
    else if c = 1 then s.rdFe k
    else s.genUnmet (s.fetch pos) m k
  | .engine e => (m.queue e).length ≥ 2
  | .copies n => n < m.copiesOut
  | .engwait mask => !m.engIdle mask
  | .posts => m.postCount ≥ 4
  | .area ea =>
    let r := s.rdr pos m.proof
    let key := lsKey (coreOf pos) ea.toNat
    s.rdNat r key 4 != s.rdNat r (key + 4) 4
  | .red n => n < m.pend
  -- a slot is given, and the table is tried again, by a wake of its own (R278, R422)
  | .slot _ | .table => true
  | .release => !(s.observed pos).isEmpty
  | p =>
    match exec (s.fetch pos) ((s.updM pos (Master.unpark s.cyc)).enter pos 0) with
    | .next t => (t.ms pos).st = .parked && ((t.ms pos).park.object = p.object)
    | _ => false

/-- Resumed tasks that are to be examined become READY, or stay parked (R283). -/
def State.examine (s : State) : State :=
  { s with masters := s.masters.map fun ((k, m) : Nat × Master) =>
    (k, if !m.exam then m else if m.st = .parked && !s.unmet k m then { m.unpark s.cyc with exam := false } else { m with exam := false }) }

/-- What follows from the last step, before the next is chosen: resumed tasks, deferred tasks and request slots, and which launches
stall. -/
def State.ready (s : State) : State := s.examine.settle.stalls

/-- The act would change something now. -/
def State.does (s : State) (a : Act) : Bool :=
  match exec a.i (s.enter a.cur a.arg) with
  | .next t => decide (t ≠ s.enter a.cur a.arg)
  | _ => false

/-! ## Candidates -/

/-- Events that perform or end a request. -/
def State.reqActs (s : State) (r : Req) : List Act :=
  match r.k with
  | .unit _ key _ _ _ _ _ =>
    ([.postedResultReturn, .amoPerform, .redPerform, .fifoPerform, .syncRemotePerform, .proofTableReply, .collectorPerform,
      .leaseComplete r.id (Config.storageOk s.turn), .lrevComplete, .xinvComplete, .icsyncComplete, .plateComplete, .haloComplete,
      .preemptComplete, .amsgReply] : List Instr).map (actAt · r.id) ++
    if isLs key then [actAt .activeMessageServe (coreOfLsKey key), actAt .handlerStart (coreOfLsKey key)] else []
  | .resolve => []
  | _ => [actAt .postedResultReturn r.id]

/-- Events of a master: its engines, its probes, the ends of its waits but for WLIM's. -/
def masterActs (pos : Nat) (m : Master) : List Act :=
  (if m.vxe.isEmpty then [] else [actAt .vxeExecute pos]) ++
  (if m.mxe.isEmpty then [] else [actAt .mxeKstep pos, actAt .mmasSlice pos, actAt .mxeTileJob pos]) ++
  (if m.cpe.isEmpty then [] else [actAt .cpeChunk pos]) ++
  (if m.att.isEmpty then []
    else [actAt .atqExecute pos, actAt .atmExecute pos, actAt .kvappExecute pos, actAt .kvappPublish pos, actAt .kvdescExecute pos]) ++
  (if m.div.isSome then [actAt .divideResultWrite pos] else []) ++
  if !m.isParked then []
  else
    match m.park with
    | .word _ _ _ => [actAt .parkReread pos]
    | .fe _ _ false => [actAt .recordlessReissue pos]
    | .fence _ => (bitsOf m.probes).map fun b => { i := .fenceProbeEcho, cur := pos, arg := b }
    | _ => []

/-- Events of a write on its way. -/
def batchActs (b : Batch) : List Act :=
  if b.push then b.todo.map fun d => { i := .haloPushApply, cur := b.id, arg := d }
  else (if b.applied then b.todo else [b.home]).map fun d => { i := .writeBatchApply, cur := b.id, arg := d }

/-- Events of a core's L1. -/
def coreActs (n : Nat) (c : Core) : List Act :=
  (c.fills.map fun ((l, _, _) : Nat × Bool × Nat) => { i := .lineFill, cur := n, arg := l }) ++
  c.pers.map fun x => { i := .persistentTokenRelease, cur := n, arg := x.line }

/-- Joined dies of a partition. -/
def State.diesOf (s : State) (part : Nat) : List Nat := (s.part part).dies.filter fun d => (s.die d).joined && !(s.die d).failed

/-- Events of a page. -/
def State.pageActs (s : State) (k : Nat) (p : Page) : List Act :=
  let part := k / 2 ^ 48
  let page := k % 2 ^ 48
  (((s.diesOf part).filter fun d => (Tab.find? s.hlt (k * 32 + d)).isNone).map fun d => actAt (.hltMissFill d part page) 0) ++ (p.fwd.map fun d => actAt (.requestForward d part page) 0) ++
  (if p.wb = 2 then [{ i := .writebackCopyDone, cur := part, arg := page }] else []) ++
  (if p.wb = 3 then [actAt (.writebackFlashDone part page (Config.storageOk s.turn && s.ports.storage != 0)) 0] else []) ++
  if p.tier = 2 then [{ i := .pageTierMigrate, cur := part, arg := page }] else []

/-- One of a list by a free number. -/
def pickBy {α : Type} (n : Nat) (l : List α) : Option α := l[n % l.length]?

/-- A place for a launch's next gang, any that fits (R325). -/
def State.anyPlace (s : State) (l : Launch) : Option (Nat × List Nat) :=
  let cores := (s.diesOf l.part).flatMap fun d => (List.range 256).map fun i => d * 256 + i
  pickBy (Config.placeNat s.turn 0) (cores.filterMap fun b =>
    let offs := (List.range l.gpg).filterMap fun i =>
      pickBy (Config.placeNat s.turn (b + i + 1)) (((List.range 4096).map (· * 64)).filter fun o => s.lsFree (b + i) o l.lsb l.compat)
    if s.gangFits l b offs then some (b, offs) else none)

/-- Events of a launch: its next gang, a stall, and its stage cores' items. -/
def State.launchActs (s : State) (slot : Nat) (l : Launch) : List Act :=
  (if !s.waitingGang l then []
    else
      (match s.anyPlace l with | some (b, offs) => [actAt (.gangDispatch slot b offs) slot] | none => []) ++
      if l.stallRep.any (l.stall ≤ ·) || s.cyc - l.stall ≤ (s.part l.part).dlStall * 1024 then []
      else [actAt .stallReport slot]) ++
  (s.poolCores slot).map fun c => { i := .stageItemTake, cur := slot, arg := c }

/-- Events of a partition: its dispatcher and its detector. -/
def partActs (n : Nat) (p : Part) : List Act :=
  (if p.waiting.isEmpty then p.sq.map fun ((q, _) : Nat × SubQ) => { i := .dispatchTakeRecord, cur := n, arg := q }
    else [actAt .dispatchTakeRecord n]) ++
  if p.dlEn then [actAt .deadlockExamine n] else []

/-- Events of a die: its fault ring, and its part in bring-up. -/
def State.dieActs (s : State) (n : Nat) (d : Die) : List Act :=
  (if d.pkts.isEmpty then [] else [actAt .faultPacketWrite n]) ++
  if s.allSeen && d.joined && !d.full then [actAt (.hbmTrainingComplete n (Config.hbmTrains n)) 0] else []

/-- Events of a plate. -/
def State.plateActs (s : State) (n : Nat) (p : Plate) : List Act :=
  (if p.st = 2 then [actAt .plateCloseFinish n] else []) ++
  if p.ck.isSome then
    [actAt (if Config.storageOk s.turn && s.ports.storage != 0 then .checkpointDurable else .checkpointFailure) n]
  else []

/-- Events of the round controller. -/
def State.roundActs (s : State) : List Act :=
  if !s.rot.on then []
  else if s.round.opened then actAt .roundEdgeApply 0 :: s.roundDies.map fun d => actAt .roundMarkerArrival d
  else [actAt .roundStart 0]

/-- Events of the root of trust. -/
def State.rootActs (s : State) : List Act :=
  if !s.rot.on then []
  else
    (s.rot.asked.map fun ((k, _) : TransKey × Nat) => actAt (.translationTimeout k) 0) ++
    match (List.range 32).find? fun d => !((s.die d).joined || (s.die d).failed) with
    | some d => [actAt (.dieBringup d (Config.dieStarts d)) 0]
    | none => []

/-- Internal events that may be possible now. -/
def State.internal (s : State) : List Act :=
  s.reqs.flatMap s.reqActs ++
  (s.masters.flatMap fun ((k, m) : Nat × Master) => masterActs k m) ++
  s.batches.flatMap batchActs ++
  (s.cores.flatMap fun ((k, c) : Nat × Core) => coreActs k c) ++
  (s.banks.flatMap fun ((k, b) : Nat × Bank) => if b.sw.isEmpty then [] else [actAt .bankSwitchComplete k]) ++
  (s.bars.flatMap fun ((k, b) : Nat × Bar) => if b.closed.isEmpty then [] else [actAt .barrierGenAdvance k]) ++
  (s.scans.flatMap fun x => [actAt .abuRequestAccept x.id, actAt .abuSliceScan x.id, actAt .abuRecordLand x.id]) ++
  (s.orphaned.map fun x => actAt .killedKvappComplete x.id) ++
  (s.reports.flatMap fun q => if q.snap.isSome then [actAt .imprdReportWrite q.id] else []) ++
  (s.launches.flatMap fun ((k, l) : Nat × Launch) => s.launchActs k l) ++
  (s.parts.flatMap fun ((k, p) : Nat × Part) => partActs k p) ++
  (s.pages.flatMap fun ((k, p) : Nat × Page) => s.pageActs k p) ++
  (s.dies.flatMap fun ((k, d) : Nat × Die) => s.dieActs k d) ++
  (s.plates.flatMap fun ((k, p) : Nat × Plate) => s.plateActs k p) ++
  s.roundActs ++ s.rootActs

/-! ## Bounds -/

/-- Events of the requests whose return bound has come (R280), and of the writes and requests before them that they wait for. A
mode switch of a bank completes by its request's bound (R200). -/
def State.overdue (s : State) : List Act :=
  let late := (s.reqs.filter fun r => r.due ≤ s.cyc).map (·.id)
  let last := (late ++ (s.batches.filter fun b => late.contains b.req).map (·.id)).foldl Nat.max 0
  if late.isEmpty then []
  else
    ((s.batches.filter fun b => b.id ≤ last).flatMap batchActs) ++ ((s.reqs.filter fun r => r.id ≤ last).flatMap s.reqActs) ++
    (s.banks.filter fun ((_, b) : Nat × Bank) => (b.sw.head?).any fun x => late.contains x.1).map fun ((k, _) : Nat × Bank) =>
      actAt .bankSwitchComplete k

/-- Events of a master whose bound has come; a wait that passes WLIM now is examined first (R30). -/
def State.masterDue (s : State) (k : Nat) (m : Master) : List Act :=
  (if s.expired m then (masterActs k m).filter fun a => a.i = .parkReread || a.i = .fenceProbeEcho else []) ++
  (if m.isParked && m.since + 1024 ≤ s.cyc then
    (masterActs k m).filter fun a => a.i = .parkReread || a.i = .recordlessReissue else []) ++
  (if m.div.isSome && m.issued + 18 ≤ s.cyc then [actAt .divideResultWrite k] else []) ++
  if (m.vxe.head?).any fun j => j.at' + 64 ≤ s.cyc then [actAt .vxeExecute k] else []

/-- Events whose bound has come: a request's return (R280), the ends of waits (R283, R288, R302), a division (R102), a vector
instruction at the head of its queue (R125), held tokens and fills (R280, R281), a barrier's latency (R307), the round timer and an edge's end
(R331), a report's writing (R399), the detector's period (R334). -/
def State.due (s : State) : List Act :=
  s.overdue ++
  (s.masters.flatMap fun ((k, m) : Nat × Master) => s.masterDue k m) ++
  (s.cores.flatMap fun ((k, c) : Nat × Core) =>
    (c.pers.filter fun x => x.got && x.at' + 256 ≤ s.cyc).map fun x => { i := .persistentTokenRelease, cur := k, arg := x.line }) ++
  (s.cores.flatMap fun ((k, c) : Nat × Core) =>
    (c.fills.filter fun ((_, _, t) : Nat × Bool × Nat) => t ≤ s.cyc).map fun ((l, _, _) : Nat × Bool × Nat) =>
      { i := .lineFill, cur := k, arg := l }) ++
  (s.bars.flatMap fun ((k, b) : Nat × Bar) => if b.closed.isEmpty then [] else [actAt .barrierGenAdvance k]) ++
  (if s.round.at' + 65536 ≤ s.cyc then s.roundActs else []) ++
  ((s.reports.filter fun q => q.snap.isSome && q.snapAt + 2 ^ 31 ≤ s.cyc).map fun q => actAt .imprdReportWrite q.id) ++
  s.parts.flatMap fun ((k, p) : Nat × Part) => if p.dlEn then [actAt .deadlockExamine k] else []

/-! ## The choice -/

/-- The issues that are still to happen in this cycle: one for each core with an eligible slot, and the eligible supervisor
cores (R273). -/
def State.issuers (s : State) : List Nat :=
  let ready := (s.masters.filter fun ((_, m) : Nat × Master) => s.eligible m).map Prod.fst
  ready.filter isSvcPos ++ (((ready.filter fun k => !isSvcPos k).map coreOf).eraseDups).filterMap s.pick

/-- One of the possible moves. -/
def State.choose {α : Type} (s : State) : List α → Option α
  | [] => none
  | [a] => some a
  | l => pickBy (Config.order s.turn) l

/-- What comes next: an event, or the issue of a master; none: the cycle passes. -/
def State.move (s : State) : Option (Act ⊕ Nat) :=
  match s.due.find? s.does with
  | some a => some (.inl a)
  | none =>
    let events := (s.internal.filter s.does).map fun a => some (.inl a)
    let issues := s.issuers.map fun p => some (.inr p)
    (s.choose (events ++ if issues.isEmpty then [none] else issues)).join

/-- The clock's events at cycle `t`: the sweeps every 4,096 cycles (R333) and the count windows every 2^20 (R204). -/
def State.timers (s : State) (t : Nat) : List Act :=
  if t % 4096 != 0 then []
  else
    (s.launches.map fun ((k, _) : Nat × Launch) => actAt .endSweep k) ++
    if t % 2 ^ 20 != 0 then []
    else ((s.wcount.map fun ((k, _) : Nat × Nat) => k / 32).eraseDups).map fun pk =>
      { i := .homeCountWindow, cur := pk / 2 ^ 48, arg := pk % 2 ^ 48 }

/-- The waits that have passed WLIM. They end as the cycle passes, after all that happens in it, so that a wake of the same cycle
prevails (R30). -/
def State.expiries (s : State) : List Act :=
  (s.masters.filter fun ((_, m) : Nat × Master) => s.expired m).map fun ((k, _) : Nat × Master) => actAt .waitlimExpiry k

/-- A cycle passes: the ends of its waits and the clock's events are next. -/
def State.tick (s : State) : State :=
  { s with cyc := s.cyc + 1, turn := s.turn + 1, agenda := s.agenda ++ s.expiries ++ s.timers (s.cyc + 1) }

/-- The next step of a state that is `ready`: an instruction or event and the state in which it is executed. What the outside and
the clock have placed on the agenda comes first; none: the cycle passes. -/
def State.upcoming (s : State) : Option (Instr × State) :=
  match s.agenda with
  | a :: r => some (a.i, ({ s with agenda := r } : State).enter a.cur a.arg)
  | [] =>
    match s.move with
    | some (.inl a) => some (a.i, s.enter a.cur a.arg)
    | some (.inr p) => some (s.fetch p, (s.issueMark p).enter p 0)
    | none => none

/-! ## Placing a program -/

/-- Where `withFetchWord` places code. -/
def fetchVa : Nat := 0x10000

/-- The bytes of an instruction of the opcode table, zero above `nbits`, lowest address first. -/
def tableBytes (nbits w : Nat) : List Byte := leBytes 28 (w % 2 ^ nbits)

/-- Who issues the placed instruction: a supervisor core, a handler, or else a task. -/
def placeKind (w : W32) : MKind :=
  match entryOf (FW.ofWord w) with
  | some e => if isHret (FW.ofWord w) then .handler else if e.sup then .svc else .task
  | none => .task

/-- `s` with the instruction on an executable page of a lease, and one READY master at it that may issue it: what a load
of a program and a launch bring about (notes/assumptions/1.md). -/
def State.placeWord (s : State) (nbits w : Nat) : State :=
  let page : Page :=
    { psz := 0, w := false, x := true, pl := false, imm := false, ms := false, abu := false, file := false, hpin := false
      tier := 0, home := 0, nsid := 0, flba := 0, t2 := false, wb := 0, again := false, dord := 0, svn := 0, stale := false
      tsvn := none, ctl := false, fwd := [] }
  let kind := placeKind (BitVec.ofNat 32 (w % 2 ^ nbits))
  let m : Master := { Master.empty with kind := kind, st := .ready, pc := BitVec.ofNat 64 fetchVa, lgen := 1, nslice := 1 }
  { s with
    agenda := [], reqs := [], patched := []
    mem := setCells s.mem (bytesAt (globKey 0 fetchVa) (tableBytes nbits w))
    pages := Tab.put s.pages (pageKey 0 fetchVa 0) page
    ranges := Tab.put s.ranges 0 { lease := 0, base := fetchVa, len := 65536, rev := false }
    masters := [(if kind = .svc then svcBase else if kind = .handler then 15 else 0, m)] }

end Sys2Proof.Machine
end

