-- ==== Sys2Proof/Machine/Step.lean ====
section
/-! DEFINITION. One step of the module (notes/assumptions/2.md), and where a first instruction stands. -/

namespace Sys2Proof.Machine

/-- One step: the upcoming instruction or event is executed, or a cycle passes. -/
def step (s : State) : Host.Outcome State Fault Refusal :=
  match s.ready.upcoming with
  | some (i, t) => exec i t
  | none => .next s.ready.tick

/-- `s` with the instruction of the opcode table where the next step fetches. -/
def State.withFetchWord (s : State) (nbits w : Nat) : State := s.placeWord nbits w

end Sys2Proof.Machine
end

