-- ==== Sys2Proof/Laws/Tab.lean ====
section
/-! SUPPORT. Laws of the finite tables: a read after a write, and the canonical form. -/

namespace Sys2Proof.Tab
variable {α : Type}

@[simp] theorem find?_nil (k : Nat) : find? ([] : Tab α) k = none := rfl

theorem find?_cons (j : Nat) (w : α) (t : Tab α) (k : Nat) :
    find? ((j, w) :: t) k = if j = k then some w else find? t k := rfl

@[simp] theorem find?_put_same (t : Tab α) (k : Nat) (v : α) : find? (put t k v) k = some v := by
  induction t with
  | nil => simp [put, find?_cons]
  | cons p t ih =>
    obtain ⟨j, w⟩ := p
    simp only [put]
    split
    · simp [find?_cons]
    · split <;> simp_all [find?_cons]

theorem find?_put_ne (t : Tab α) {k i : Nat} (v : α) (h : i ≠ k) : find? (put t k v) i = find? t i := by
  have h' : k ≠ i := fun e => h e.symm
  induction t with
  | nil => simp [put, find?_cons, h']
  | cons p t ih =>
    obtain ⟨j, w⟩ := p
    simp only [put]
    split
    · next e => subst e; simp [find?_cons, h']
    · split
      · simp [find?_cons, h']
      · simp [find?_cons, ih]

@[simp] theorem find?_del_same (t : Tab α) (k : Nat) : find? (del t k) k = none := by
  induction t with
  | nil => rfl
  | cons p t ih =>
    obtain ⟨j, w⟩ := p
    simp only [del]
    split
    · exact ih
    · next e => simp [find?_cons, e, ih]

theorem find?_del_ne (t : Tab α) {k i : Nat} (h : i ≠ k) : find? (del t k) i = find? t i := by
  have h' : k ≠ i := fun e => h e.symm
  induction t with
  | nil => rfl
  | cons p t ih =>
    obtain ⟨j, w⟩ := p
    simp only [del]
    split
    · next e => subst e; simp [find?_cons, h', ih]
    · simp [find?_cons, ih]

@[simp] theorem get_nil (d : α) (k : Nat) : get d ([] : Tab α) k = d := rfl

/-- A read of the written key gives the written value. -/
@[simp] theorem get_set_same [DecidableEq α] (d : α) (t : Tab α) (k : Nat) (v : α) : get d (set d t k v) k = v := by
  unfold set get
  split
  · next e => simp [e]
  · simp

/-- A write leaves every other key. -/
theorem get_set_ne [DecidableEq α] (d : α) (t : Tab α) {k i : Nat} (v : α) (h : i ≠ k) :
    get d (set d t k v) i = get d t i := by
  unfold set get
  split
  · rw [find?_del_ne t h]
  · rw [find?_put_ne t v h]

/-- A read after a write, at any key. -/
theorem get_set [DecidableEq α] (d : α) (t : Tab α) (k i : Nat) (v : α) :
    get d (set d t k v) i = if i = k then v else get d t i := by
  split
  · next e => subst e; exact get_set_same d t i v
  · next e => exact get_set_ne d t v e

theorem put_put (t : Tab α) (k : Nat) (v w : α) : put (put t k v) k w = put t k w := by
  induction t with
  | nil => simp [put]
  | cons p t ih =>
    obtain ⟨j, x⟩ := p
    simp only [put]
    split
    · simp [put]
    · split
      · simp [put]
      · next h1 h2 => simp [put, h1, h2, ih]

theorem del_put (t : Tab α) (k : Nat) (v : α) : del (put t k v) k = del t k := by
  induction t with
  | nil => simp [put, del]
  | cons p t ih =>
    obtain ⟨j, x⟩ := p
    simp only [put]
    split
    · next e => subst e; simp [del]
    · split
      · simp [del]
      · next h1 h2 => simp [del, h1, ih]

theorem del_del (t : Tab α) (k : Nat) : del (del t k) k = del t k := by
  induction t with
  | nil => rfl
  | cons p t ih =>
    obtain ⟨j, x⟩ := p
    simp only [del]
    split
    · exact ih
    · next e => simp [del, e, ih]

/-- Two writes of one key are the second, when the first lists it. -/
theorem set_set [DecidableEq α] (d : α) (t : Tab α) (k : Nat) (v w : α) (h : v ≠ d) : set d (set d t k v) k w = set d t k w := by
  simp only [set, h, if_false]
  split
  · exact del_put t k v
  · exact put_put t k v w

/-! ## The canonical form -/

theorem wfFrom_mono [DecidableEq α] (d : α) {lo lo' : Nat} (t : Tab α) (h : lo' ≤ lo) (w : wfFrom d lo t = true) :
    wfFrom d lo' t = true := by
  cases t with
  | nil => rfl
  | cons p t =>
    obtain ⟨j, v⟩ := p
    simp only [wfFrom, Bool.and_eq_true, decide_eq_true_eq] at w ⊢
    exact ⟨⟨Nat.le_trans h w.1.1, w.1.2⟩, w.2⟩

theorem wfFrom_put [DecidableEq α] (d : α) (t : Tab α) (lo k : Nat) (v : α) (hk : lo ≤ k) (hv : v ≠ d)
    (w : wfFrom d lo t = true) : wfFrom d lo (put t k v) = true := by
  induction t generalizing lo with
  | nil => simp [put, wfFrom, hk, hv]
  | cons p t ih =>
    obtain ⟨j, x⟩ := p
    simp only [wfFrom, Bool.and_eq_true, decide_eq_true_eq] at w
    simp only [put]
    split
    · next e => subst e; simp [wfFrom, hv, w.1.1, w.2]
    · split
      · next hlt => simp [wfFrom, hk, hv, w.1.2, w.2, Nat.succ_le_of_lt hlt]
      · next hne hge =>
        have : j + 1 ≤ k := by omega
        simp [wfFrom, w.1.1, w.1.2, ih (j + 1) this w.2]

theorem wfFrom_filter [DecidableEq α] (d : α) (f : Nat × α → Bool) (t : Tab α) (lo : Nat) (w : wfFrom d lo t = true) :
    wfFrom d lo (t.filter f) = true := by
  induction t generalizing lo with
  | nil => rfl
  | cons p t ih =>
    obtain ⟨j, x⟩ := p
    simp only [wfFrom, Bool.and_eq_true, decide_eq_true_eq] at w
    simp only [List.filter_cons]
    split
    · simp [wfFrom, w.1.1, w.1.2, ih (j + 1) w.2]
    · exact wfFrom_mono d _ (by omega) (ih (j + 1) w.2)

theorem del_eq_filter (t : Tab α) (k : Nat) : del t k = t.filter fun p => decide (p.1 ≠ k) := by
  induction t with
  | nil => rfl
  | cons p t ih =>
    obtain ⟨j, x⟩ := p
    simp only [del, List.filter_cons]
    split <;> simp_all

/-- Dropping entries keeps the canonical form. -/
theorem wf_filter [DecidableEq α] (d : α) (f : Nat × α → Bool) (t : Tab α) (w : wf d t = true) :
    wf d (t.filter f) = true := wfFrom_filter d f t 0 w

/-- A write keeps the canonical form. -/
theorem wf_set [DecidableEq α] (d : α) (t : Tab α) (k : Nat) (v : α) (w : wf d t = true) : wf d (set d t k v) = true := by
  unfold set
  split
  · rw [del_eq_filter]; exact wf_filter d _ t w
  · next h => exact wfFrom_put d t 0 k v (Nat.zero_le k) h w

end Sys2Proof.Tab
end

