-- ==== Sys2Proof/Laws/State.lean ====
section
/-! SUPPORT. What each update of one table of the state leaves, field by field, and what it changes: every lemma that
leaves a field is true by unfolding, so that no later proof unfolds an update. -/

namespace Sys2Proof.Machine

/-! ## setM -/

@[simp] theorem setM_cur (s : State) (pos : Nat) (m : Master) : (s.setM pos m).cur = s.cur := rfl
@[simp] theorem setM_arg (s : State) (pos : Nat) (m : Master) : (s.setM pos m).arg = s.arg := rfl
@[simp] theorem setM_cyc (s : State) (pos : Nat) (m : Master) : (s.setM pos m).cyc = s.cyc := rfl
@[simp] theorem setM_free (s : State) (pos : Nat) (m : Master) : (s.setM pos m).free = s.free := rfl
@[simp] theorem setM_turn (s : State) (pos : Nat) (m : Master) : (s.setM pos m).turn = s.turn := rfl
@[simp] theorem setM_agenda (s : State) (pos : Nat) (m : Master) : (s.setM pos m).agenda = s.agenda := rfl
@[simp] theorem setM_mem (s : State) (pos : Nat) (m : Master) : (s.setM pos m).mem = s.mem := rfl
@[simp] theorem setM_vers (s : State) (pos : Nat) (m : Master) : (s.setM pos m).vers = s.vers := rfl
@[simp] theorem setM_saves (s : State) (pos : Nat) (m : Master) : (s.setM pos m).saves = s.saves := rfl
@[simp] theorem setM_cores (s : State) (pos : Nat) (m : Master) : (s.setM pos m).cores = s.cores := rfl
@[simp] theorem setM_banks (s : State) (pos : Nat) (m : Master) : (s.setM pos m).banks = s.banks := rfl
@[simp] theorem setM_bars (s : State) (pos : Nat) (m : Master) : (s.setM pos m).bars = s.bars := rfl
@[simp] theorem setM_reqs (s : State) (pos : Nat) (m : Master) : (s.setM pos m).reqs = s.reqs := rfl
@[simp] theorem setM_nextReq (s : State) (pos : Nat) (m : Master) : (s.setM pos m).nextReq = s.nextReq := rfl
@[simp] theorem setM_nextPlace (s : State) (pos : Nat) (m : Master) : (s.setM pos m).nextPlace = s.nextPlace := rfl
@[simp] theorem setM_batches (s : State) (pos : Nat) (m : Master) : (s.setM pos m).batches = s.batches := rfl
@[simp] theorem setM_stale (s : State) (pos : Nat) (m : Master) : (s.setM pos m).stale = s.stale := rfl
@[simp] theorem setM_copies (s : State) (pos : Nat) (m : Master) : (s.setM pos m).copies = s.copies := rfl
@[simp] theorem setM_halo (s : State) (pos : Nat) (m : Master) : (s.setM pos m).halo = s.halo := rfl
@[simp] theorem setM_tiles (s : State) (pos : Nat) (m : Master) : (s.setM pos m).tiles = s.tiles := rfl
@[simp] theorem setM_ztag (s : State) (pos : Nat) (m : Master) : (s.setM pos m).ztag = s.ztag := rfl
@[simp] theorem setM_zbad (s : State) (pos : Nat) (m : Master) : (s.setM pos m).zbad = s.zbad := rfl
@[simp] theorem setM_launches (s : State) (pos : Nat) (m : Master) : (s.setM pos m).launches = s.launches := rfl
@[simp] theorem setM_gens (s : State) (pos : Nat) (m : Master) : (s.setM pos m).gens = s.gens := rfl
@[simp] theorem setM_proofs (s : State) (pos : Nat) (m : Master) : (s.setM pos m).proofs = s.proofs := rfl
@[simp] theorem setM_retired (s : State) (pos : Nat) (m : Master) : (s.setM pos m).retired = s.retired := rfl
@[simp] theorem setM_round (s : State) (pos : Nat) (m : Master) : (s.setM pos m).round = s.round := rfl
@[simp] theorem setM_parts (s : State) (pos : Nat) (m : Master) : (s.setM pos m).parts = s.parts := rfl
@[simp] theorem setM_dies (s : State) (pos : Nat) (m : Master) : (s.setM pos m).dies = s.dies := rfl
@[simp] theorem setM_pages (s : State) (pos : Nat) (m : Master) : (s.setM pos m).pages = s.pages := rfl
@[simp] theorem setM_staging (s : State) (pos : Nat) (m : Master) : (s.setM pos m).staging = s.staging := rfl
@[simp] theorem setM_flash (s : State) (pos : Nat) (m : Master) : (s.setM pos m).flash = s.flash := rfl
@[simp] theorem setM_ranges (s : State) (pos : Nat) (m : Master) : (s.setM pos m).ranges = s.ranges := rfl
@[simp] theorem setM_hlt (s : State) (pos : Nat) (m : Master) : (s.setM pos m).hlt = s.hlt := rfl
@[simp] theorem setM_tcache (s : State) (pos : Nat) (m : Master) : (s.setM pos m).tcache = s.tcache := rfl
@[simp] theorem setM_wcount (s : State) (pos : Nat) (m : Master) : (s.setM pos m).wcount = s.wcount := rfl
@[simp] theorem setM_plates (s : State) (pos : Nat) (m : Master) : (s.setM pos m).plates = s.plates := rfl
@[simp] theorem setM_reports (s : State) (pos : Nat) (m : Master) : (s.setM pos m).reports = s.reports := rfl
@[simp] theorem setM_scans (s : State) (pos : Nat) (m : Master) : (s.setM pos m).scans = s.scans := rfl
@[simp] theorem setM_orphaned (s : State) (pos : Nat) (m : Master) : (s.setM pos m).orphaned = s.orphaned := rfl
@[simp] theorem setM_patched (s : State) (pos : Nat) (m : Master) : (s.setM pos m).patched = s.patched := rfl
@[simp] theorem setM_rings (s : State) (pos : Nat) (m : Master) : (s.setM pos m).rings = s.rings := rfl
@[simp] theorem setM_rot (s : State) (pos : Nat) (m : Master) : (s.setM pos m).rot = s.rot := rfl
@[simp] theorem setM_power (s : State) (pos : Nat) (m : Master) : (s.setM pos m).power = s.power := rfl
@[simp] theorem setM_ports (s : State) (pos : Nat) (m : Master) : (s.setM pos m).ports = s.ports := rfl

theorem ms_setM (s : State) (pos : Nat) (m : Master) (i : Nat) : (s.setM pos m).ms i = if i = pos then m else s.ms i :=
  Tab.get_set _ _ _ _ _
@[simp] theorem ms_setM_same (s : State) (pos : Nat) (m : Master) : (s.setM pos m).ms pos = m :=
  Tab.get_set_same _ _ _ _
@[simp] theorem setM_core (s : State) (pos : Nat) (m : Master) (i : Nat) : (s.setM pos m).core i = s.core i := rfl
@[simp] theorem setM_bank (s : State) (pos : Nat) (m : Master) (i : Nat) : (s.setM pos m).bank i = s.bank i := rfl
@[simp] theorem setM_die (s : State) (pos : Nat) (m : Master) (i : Nat) : (s.setM pos m).die i = s.die i := rfl
@[simp] theorem setM_part (s : State) (pos : Nat) (m : Master) (i : Nat) : (s.setM pos m).part i = s.part i := rfl
@[simp] theorem setM_plate (s : State) (pos : Nat) (m : Master) (i : Nat) : (s.setM pos m).plate i = s.plate i := rfl
@[simp] theorem setM_bar (s : State) (pos : Nat) (m : Master) (i : Nat) : (s.setM pos m).bar i = s.bar i := rfl
@[simp] theorem setM_partOf (s : State) (pos : Nat) (m : Master) (i : Nat) : (s.setM pos m).partOf i = s.partOf i := rfl
@[simp] theorem setM_launch? (s : State) (pos : Nat) (m : Master) (i : Nat) : (s.setM pos m).launch? i = s.launch? i := rfl

/-! ## setCore -/

@[simp] theorem setCore_cur (s : State) (n : Nat) (c : Core) : (s.setCore n c).cur = s.cur := rfl
@[simp] theorem setCore_arg (s : State) (n : Nat) (c : Core) : (s.setCore n c).arg = s.arg := rfl
@[simp] theorem setCore_cyc (s : State) (n : Nat) (c : Core) : (s.setCore n c).cyc = s.cyc := rfl
@[simp] theorem setCore_free (s : State) (n : Nat) (c : Core) : (s.setCore n c).free = s.free := rfl
@[simp] theorem setCore_turn (s : State) (n : Nat) (c : Core) : (s.setCore n c).turn = s.turn := rfl
@[simp] theorem setCore_agenda (s : State) (n : Nat) (c : Core) : (s.setCore n c).agenda = s.agenda := rfl
@[simp] theorem setCore_mem (s : State) (n : Nat) (c : Core) : (s.setCore n c).mem = s.mem := rfl
@[simp] theorem setCore_vers (s : State) (n : Nat) (c : Core) : (s.setCore n c).vers = s.vers := rfl
@[simp] theorem setCore_masters (s : State) (n : Nat) (c : Core) : (s.setCore n c).masters = s.masters := rfl
@[simp] theorem setCore_saves (s : State) (n : Nat) (c : Core) : (s.setCore n c).saves = s.saves := rfl
@[simp] theorem setCore_banks (s : State) (n : Nat) (c : Core) : (s.setCore n c).banks = s.banks := rfl
@[simp] theorem setCore_bars (s : State) (n : Nat) (c : Core) : (s.setCore n c).bars = s.bars := rfl
@[simp] theorem setCore_reqs (s : State) (n : Nat) (c : Core) : (s.setCore n c).reqs = s.reqs := rfl
@[simp] theorem setCore_nextReq (s : State) (n : Nat) (c : Core) : (s.setCore n c).nextReq = s.nextReq := rfl
@[simp] theorem setCore_nextPlace (s : State) (n : Nat) (c : Core) : (s.setCore n c).nextPlace = s.nextPlace := rfl
@[simp] theorem setCore_batches (s : State) (n : Nat) (c : Core) : (s.setCore n c).batches = s.batches := rfl
@[simp] theorem setCore_stale (s : State) (n : Nat) (c : Core) : (s.setCore n c).stale = s.stale := rfl
@[simp] theorem setCore_copies (s : State) (n : Nat) (c : Core) : (s.setCore n c).copies = s.copies := rfl
@[simp] theorem setCore_halo (s : State) (n : Nat) (c : Core) : (s.setCore n c).halo = s.halo := rfl
@[simp] theorem setCore_tiles (s : State) (n : Nat) (c : Core) : (s.setCore n c).tiles = s.tiles := rfl
@[simp] theorem setCore_ztag (s : State) (n : Nat) (c : Core) : (s.setCore n c).ztag = s.ztag := rfl
@[simp] theorem setCore_zbad (s : State) (n : Nat) (c : Core) : (s.setCore n c).zbad = s.zbad := rfl
@[simp] theorem setCore_launches (s : State) (n : Nat) (c : Core) : (s.setCore n c).launches = s.launches := rfl
@[simp] theorem setCore_gens (s : State) (n : Nat) (c : Core) : (s.setCore n c).gens = s.gens := rfl
@[simp] theorem setCore_proofs (s : State) (n : Nat) (c : Core) : (s.setCore n c).proofs = s.proofs := rfl
@[simp] theorem setCore_retired (s : State) (n : Nat) (c : Core) : (s.setCore n c).retired = s.retired := rfl
@[simp] theorem setCore_round (s : State) (n : Nat) (c : Core) : (s.setCore n c).round = s.round := rfl
@[simp] theorem setCore_parts (s : State) (n : Nat) (c : Core) : (s.setCore n c).parts = s.parts := rfl
@[simp] theorem setCore_dies (s : State) (n : Nat) (c : Core) : (s.setCore n c).dies = s.dies := rfl
@[simp] theorem setCore_pages (s : State) (n : Nat) (c : Core) : (s.setCore n c).pages = s.pages := rfl
@[simp] theorem setCore_staging (s : State) (n : Nat) (c : Core) : (s.setCore n c).staging = s.staging := rfl
@[simp] theorem setCore_flash (s : State) (n : Nat) (c : Core) : (s.setCore n c).flash = s.flash := rfl
@[simp] theorem setCore_ranges (s : State) (n : Nat) (c : Core) : (s.setCore n c).ranges = s.ranges := rfl
@[simp] theorem setCore_hlt (s : State) (n : Nat) (c : Core) : (s.setCore n c).hlt = s.hlt := rfl
@[simp] theorem setCore_tcache (s : State) (n : Nat) (c : Core) : (s.setCore n c).tcache = s.tcache := rfl
@[simp] theorem setCore_wcount (s : State) (n : Nat) (c : Core) : (s.setCore n c).wcount = s.wcount := rfl
@[simp] theorem setCore_plates (s : State) (n : Nat) (c : Core) : (s.setCore n c).plates = s.plates := rfl
@[simp] theorem setCore_reports (s : State) (n : Nat) (c : Core) : (s.setCore n c).reports = s.reports := rfl
@[simp] theorem setCore_scans (s : State) (n : Nat) (c : Core) : (s.setCore n c).scans = s.scans := rfl
@[simp] theorem setCore_orphaned (s : State) (n : Nat) (c : Core) : (s.setCore n c).orphaned = s.orphaned := rfl
@[simp] theorem setCore_patched (s : State) (n : Nat) (c : Core) : (s.setCore n c).patched = s.patched := rfl
@[simp] theorem setCore_rings (s : State) (n : Nat) (c : Core) : (s.setCore n c).rings = s.rings := rfl
@[simp] theorem setCore_rot (s : State) (n : Nat) (c : Core) : (s.setCore n c).rot = s.rot := rfl
@[simp] theorem setCore_power (s : State) (n : Nat) (c : Core) : (s.setCore n c).power = s.power := rfl
@[simp] theorem setCore_ports (s : State) (n : Nat) (c : Core) : (s.setCore n c).ports = s.ports := rfl

theorem core_setCore (s : State) (n : Nat) (c : Core) (i : Nat) : (s.setCore n c).core i = if i = n then c else s.core i :=
  Tab.get_set _ _ _ _ _
@[simp] theorem core_setCore_same (s : State) (n : Nat) (c : Core) : (s.setCore n c).core n = c :=
  Tab.get_set_same _ _ _ _
@[simp] theorem setCore_ms (s : State) (n : Nat) (c : Core) (i : Nat) : (s.setCore n c).ms i = s.ms i := rfl
@[simp] theorem setCore_bank (s : State) (n : Nat) (c : Core) (i : Nat) : (s.setCore n c).bank i = s.bank i := rfl
@[simp] theorem setCore_die (s : State) (n : Nat) (c : Core) (i : Nat) : (s.setCore n c).die i = s.die i := rfl
@[simp] theorem setCore_part (s : State) (n : Nat) (c : Core) (i : Nat) : (s.setCore n c).part i = s.part i := rfl
@[simp] theorem setCore_plate (s : State) (n : Nat) (c : Core) (i : Nat) : (s.setCore n c).plate i = s.plate i := rfl
@[simp] theorem setCore_bar (s : State) (n : Nat) (c : Core) (i : Nat) : (s.setCore n c).bar i = s.bar i := rfl
@[simp] theorem setCore_partOf (s : State) (n : Nat) (c : Core) (i : Nat) : (s.setCore n c).partOf i = s.partOf i := rfl
@[simp] theorem setCore_launch? (s : State) (n : Nat) (c : Core) (i : Nat) : (s.setCore n c).launch? i = s.launch? i := rfl

/-! ## setBank -/

@[simp] theorem setBank_cur (s : State) (n : Nat) (b : Bank) : (s.setBank n b).cur = s.cur := rfl
@[simp] theorem setBank_arg (s : State) (n : Nat) (b : Bank) : (s.setBank n b).arg = s.arg := rfl
@[simp] theorem setBank_cyc (s : State) (n : Nat) (b : Bank) : (s.setBank n b).cyc = s.cyc := rfl
@[simp] theorem setBank_free (s : State) (n : Nat) (b : Bank) : (s.setBank n b).free = s.free := rfl
@[simp] theorem setBank_turn (s : State) (n : Nat) (b : Bank) : (s.setBank n b).turn = s.turn := rfl
@[simp] theorem setBank_agenda (s : State) (n : Nat) (b : Bank) : (s.setBank n b).agenda = s.agenda := rfl
@[simp] theorem setBank_mem (s : State) (n : Nat) (b : Bank) : (s.setBank n b).mem = s.mem := rfl
@[simp] theorem setBank_vers (s : State) (n : Nat) (b : Bank) : (s.setBank n b).vers = s.vers := rfl
@[simp] theorem setBank_masters (s : State) (n : Nat) (b : Bank) : (s.setBank n b).masters = s.masters := rfl
@[simp] theorem setBank_saves (s : State) (n : Nat) (b : Bank) : (s.setBank n b).saves = s.saves := rfl
@[simp] theorem setBank_cores (s : State) (n : Nat) (b : Bank) : (s.setBank n b).cores = s.cores := rfl
@[simp] theorem setBank_bars (s : State) (n : Nat) (b : Bank) : (s.setBank n b).bars = s.bars := rfl
@[simp] theorem setBank_reqs (s : State) (n : Nat) (b : Bank) : (s.setBank n b).reqs = s.reqs := rfl
@[simp] theorem setBank_nextReq (s : State) (n : Nat) (b : Bank) : (s.setBank n b).nextReq = s.nextReq := rfl
@[simp] theorem setBank_nextPlace (s : State) (n : Nat) (b : Bank) : (s.setBank n b).nextPlace = s.nextPlace := rfl
@[simp] theorem setBank_batches (s : State) (n : Nat) (b : Bank) : (s.setBank n b).batches = s.batches := rfl
@[simp] theorem setBank_stale (s : State) (n : Nat) (b : Bank) : (s.setBank n b).stale = s.stale := rfl
@[simp] theorem setBank_copies (s : State) (n : Nat) (b : Bank) : (s.setBank n b).copies = s.copies := rfl
@[simp] theorem setBank_halo (s : State) (n : Nat) (b : Bank) : (s.setBank n b).halo = s.halo := rfl
@[simp] theorem setBank_tiles (s : State) (n : Nat) (b : Bank) : (s.setBank n b).tiles = s.tiles := rfl
@[simp] theorem setBank_ztag (s : State) (n : Nat) (b : Bank) : (s.setBank n b).ztag = s.ztag := rfl
@[simp] theorem setBank_zbad (s : State) (n : Nat) (b : Bank) : (s.setBank n b).zbad = s.zbad := rfl
@[simp] theorem setBank_launches (s : State) (n : Nat) (b : Bank) : (s.setBank n b).launches = s.launches := rfl
@[simp] theorem setBank_gens (s : State) (n : Nat) (b : Bank) : (s.setBank n b).gens = s.gens := rfl
@[simp] theorem setBank_proofs (s : State) (n : Nat) (b : Bank) : (s.setBank n b).proofs = s.proofs := rfl
@[simp] theorem setBank_retired (s : State) (n : Nat) (b : Bank) : (s.setBank n b).retired = s.retired := rfl
@[simp] theorem setBank_round (s : State) (n : Nat) (b : Bank) : (s.setBank n b).round = s.round := rfl
@[simp] theorem setBank_parts (s : State) (n : Nat) (b : Bank) : (s.setBank n b).parts = s.parts := rfl
@[simp] theorem setBank_dies (s : State) (n : Nat) (b : Bank) : (s.setBank n b).dies = s.dies := rfl
@[simp] theorem setBank_pages (s : State) (n : Nat) (b : Bank) : (s.setBank n b).pages = s.pages := rfl
@[simp] theorem setBank_staging (s : State) (n : Nat) (b : Bank) : (s.setBank n b).staging = s.staging := rfl
@[simp] theorem setBank_flash (s : State) (n : Nat) (b : Bank) : (s.setBank n b).flash = s.flash := rfl
@[simp] theorem setBank_ranges (s : State) (n : Nat) (b : Bank) : (s.setBank n b).ranges = s.ranges := rfl
@[simp] theorem setBank_hlt (s : State) (n : Nat) (b : Bank) : (s.setBank n b).hlt = s.hlt := rfl
@[simp] theorem setBank_tcache (s : State) (n : Nat) (b : Bank) : (s.setBank n b).tcache = s.tcache := rfl
@[simp] theorem setBank_wcount (s : State) (n : Nat) (b : Bank) : (s.setBank n b).wcount = s.wcount := rfl
@[simp] theorem setBank_plates (s : State) (n : Nat) (b : Bank) : (s.setBank n b).plates = s.plates := rfl
@[simp] theorem setBank_reports (s : State) (n : Nat) (b : Bank) : (s.setBank n b).reports = s.reports := rfl
@[simp] theorem setBank_scans (s : State) (n : Nat) (b : Bank) : (s.setBank n b).scans = s.scans := rfl
@[simp] theorem setBank_orphaned (s : State) (n : Nat) (b : Bank) : (s.setBank n b).orphaned = s.orphaned := rfl
@[simp] theorem setBank_patched (s : State) (n : Nat) (b : Bank) : (s.setBank n b).patched = s.patched := rfl
@[simp] theorem setBank_rings (s : State) (n : Nat) (b : Bank) : (s.setBank n b).rings = s.rings := rfl
@[simp] theorem setBank_rot (s : State) (n : Nat) (b : Bank) : (s.setBank n b).rot = s.rot := rfl
@[simp] theorem setBank_power (s : State) (n : Nat) (b : Bank) : (s.setBank n b).power = s.power := rfl
@[simp] theorem setBank_ports (s : State) (n : Nat) (b : Bank) : (s.setBank n b).ports = s.ports := rfl

theorem bank_setBank (s : State) (n : Nat) (b : Bank) (i : Nat) : (s.setBank n b).bank i = if i = n then b else s.bank i :=
  Tab.get_set _ _ _ _ _
@[simp] theorem bank_setBank_same (s : State) (n : Nat) (b : Bank) : (s.setBank n b).bank n = b :=
  Tab.get_set_same _ _ _ _
@[simp] theorem setBank_ms (s : State) (n : Nat) (b : Bank) (i : Nat) : (s.setBank n b).ms i = s.ms i := rfl
@[simp] theorem setBank_core (s : State) (n : Nat) (b : Bank) (i : Nat) : (s.setBank n b).core i = s.core i := rfl
@[simp] theorem setBank_die (s : State) (n : Nat) (b : Bank) (i : Nat) : (s.setBank n b).die i = s.die i := rfl
@[simp] theorem setBank_part (s : State) (n : Nat) (b : Bank) (i : Nat) : (s.setBank n b).part i = s.part i := rfl
@[simp] theorem setBank_plate (s : State) (n : Nat) (b : Bank) (i : Nat) : (s.setBank n b).plate i = s.plate i := rfl
@[simp] theorem setBank_bar (s : State) (n : Nat) (b : Bank) (i : Nat) : (s.setBank n b).bar i = s.bar i := rfl
@[simp] theorem setBank_partOf (s : State) (n : Nat) (b : Bank) (i : Nat) : (s.setBank n b).partOf i = s.partOf i := rfl
@[simp] theorem setBank_launch? (s : State) (n : Nat) (b : Bank) (i : Nat) : (s.setBank n b).launch? i = s.launch? i := rfl

/-! ## setDie -/

@[simp] theorem setDie_cur (s : State) (d : Nat) (x : Die) : (s.setDie d x).cur = s.cur := rfl
@[simp] theorem setDie_arg (s : State) (d : Nat) (x : Die) : (s.setDie d x).arg = s.arg := rfl
@[simp] theorem setDie_cyc (s : State) (d : Nat) (x : Die) : (s.setDie d x).cyc = s.cyc := rfl
@[simp] theorem setDie_free (s : State) (d : Nat) (x : Die) : (s.setDie d x).free = s.free := rfl
@[simp] theorem setDie_turn (s : State) (d : Nat) (x : Die) : (s.setDie d x).turn = s.turn := rfl
@[simp] theorem setDie_agenda (s : State) (d : Nat) (x : Die) : (s.setDie d x).agenda = s.agenda := rfl
@[simp] theorem setDie_mem (s : State) (d : Nat) (x : Die) : (s.setDie d x).mem = s.mem := rfl
@[simp] theorem setDie_vers (s : State) (d : Nat) (x : Die) : (s.setDie d x).vers = s.vers := rfl
@[simp] theorem setDie_masters (s : State) (d : Nat) (x : Die) : (s.setDie d x).masters = s.masters := rfl
@[simp] theorem setDie_saves (s : State) (d : Nat) (x : Die) : (s.setDie d x).saves = s.saves := rfl
@[simp] theorem setDie_cores (s : State) (d : Nat) (x : Die) : (s.setDie d x).cores = s.cores := rfl
@[simp] theorem setDie_banks (s : State) (d : Nat) (x : Die) : (s.setDie d x).banks = s.banks := rfl
@[simp] theorem setDie_bars (s : State) (d : Nat) (x : Die) : (s.setDie d x).bars = s.bars := rfl
@[simp] theorem setDie_reqs (s : State) (d : Nat) (x : Die) : (s.setDie d x).reqs = s.reqs := rfl
@[simp] theorem setDie_nextReq (s : State) (d : Nat) (x : Die) : (s.setDie d x).nextReq = s.nextReq := rfl
@[simp] theorem setDie_nextPlace (s : State) (d : Nat) (x : Die) : (s.setDie d x).nextPlace = s.nextPlace := rfl
@[simp] theorem setDie_batches (s : State) (d : Nat) (x : Die) : (s.setDie d x).batches = s.batches := rfl
@[simp] theorem setDie_stale (s : State) (d : Nat) (x : Die) : (s.setDie d x).stale = s.stale := rfl
@[simp] theorem setDie_copies (s : State) (d : Nat) (x : Die) : (s.setDie d x).copies = s.copies := rfl
@[simp] theorem setDie_halo (s : State) (d : Nat) (x : Die) : (s.setDie d x).halo = s.halo := rfl
@[simp] theorem setDie_tiles (s : State) (d : Nat) (x : Die) : (s.setDie d x).tiles = s.tiles := rfl
@[simp] theorem setDie_ztag (s : State) (d : Nat) (x : Die) : (s.setDie d x).ztag = s.ztag := rfl
@[simp] theorem setDie_zbad (s : State) (d : Nat) (x : Die) : (s.setDie d x).zbad = s.zbad := rfl
@[simp] theorem setDie_launches (s : State) (d : Nat) (x : Die) : (s.setDie d x).launches = s.launches := rfl
@[simp] theorem setDie_gens (s : State) (d : Nat) (x : Die) : (s.setDie d x).gens = s.gens := rfl
@[simp] theorem setDie_proofs (s : State) (d : Nat) (x : Die) : (s.setDie d x).proofs = s.proofs := rfl
@[simp] theorem setDie_retired (s : State) (d : Nat) (x : Die) : (s.setDie d x).retired = s.retired := rfl
@[simp] theorem setDie_round (s : State) (d : Nat) (x : Die) : (s.setDie d x).round = s.round := rfl
@[simp] theorem setDie_parts (s : State) (d : Nat) (x : Die) : (s.setDie d x).parts = s.parts := rfl
@[simp] theorem setDie_pages (s : State) (d : Nat) (x : Die) : (s.setDie d x).pages = s.pages := rfl
@[simp] theorem setDie_staging (s : State) (d : Nat) (x : Die) : (s.setDie d x).staging = s.staging := rfl
@[simp] theorem setDie_flash (s : State) (d : Nat) (x : Die) : (s.setDie d x).flash = s.flash := rfl
@[simp] theorem setDie_ranges (s : State) (d : Nat) (x : Die) : (s.setDie d x).ranges = s.ranges := rfl
@[simp] theorem setDie_hlt (s : State) (d : Nat) (x : Die) : (s.setDie d x).hlt = s.hlt := rfl
@[simp] theorem setDie_tcache (s : State) (d : Nat) (x : Die) : (s.setDie d x).tcache = s.tcache := rfl
@[simp] theorem setDie_wcount (s : State) (d : Nat) (x : Die) : (s.setDie d x).wcount = s.wcount := rfl
@[simp] theorem setDie_plates (s : State) (d : Nat) (x : Die) : (s.setDie d x).plates = s.plates := rfl
@[simp] theorem setDie_reports (s : State) (d : Nat) (x : Die) : (s.setDie d x).reports = s.reports := rfl
@[simp] theorem setDie_scans (s : State) (d : Nat) (x : Die) : (s.setDie d x).scans = s.scans := rfl
@[simp] theorem setDie_orphaned (s : State) (d : Nat) (x : Die) : (s.setDie d x).orphaned = s.orphaned := rfl
@[simp] theorem setDie_patched (s : State) (d : Nat) (x : Die) : (s.setDie d x).patched = s.patched := rfl
@[simp] theorem setDie_rings (s : State) (d : Nat) (x : Die) : (s.setDie d x).rings = s.rings := rfl
@[simp] theorem setDie_rot (s : State) (d : Nat) (x : Die) : (s.setDie d x).rot = s.rot := rfl
@[simp] theorem setDie_power (s : State) (d : Nat) (x : Die) : (s.setDie d x).power = s.power := rfl
@[simp] theorem setDie_ports (s : State) (d : Nat) (x : Die) : (s.setDie d x).ports = s.ports := rfl

theorem die_setDie (s : State) (d : Nat) (x : Die) (i : Nat) : (s.setDie d x).die i = if i = d then x else s.die i :=
  Tab.get_set _ _ _ _ _
@[simp] theorem die_setDie_same (s : State) (d : Nat) (x : Die) : (s.setDie d x).die d = x :=
  Tab.get_set_same _ _ _ _
@[simp] theorem setDie_ms (s : State) (d : Nat) (x : Die) (i : Nat) : (s.setDie d x).ms i = s.ms i := rfl
@[simp] theorem setDie_core (s : State) (d : Nat) (x : Die) (i : Nat) : (s.setDie d x).core i = s.core i := rfl
@[simp] theorem setDie_bank (s : State) (d : Nat) (x : Die) (i : Nat) : (s.setDie d x).bank i = s.bank i := rfl
@[simp] theorem setDie_part (s : State) (d : Nat) (x : Die) (i : Nat) : (s.setDie d x).part i = s.part i := rfl
@[simp] theorem setDie_plate (s : State) (d : Nat) (x : Die) (i : Nat) : (s.setDie d x).plate i = s.plate i := rfl
@[simp] theorem setDie_bar (s : State) (d : Nat) (x : Die) (i : Nat) : (s.setDie d x).bar i = s.bar i := rfl
@[simp] theorem setDie_launch? (s : State) (d : Nat) (x : Die) (i : Nat) : (s.setDie d x).launch? i = s.launch? i := rfl

/-! ## setPart -/

@[simp] theorem setPart_cur (s : State) (p : Nat) (x : Part) : (s.setPart p x).cur = s.cur := rfl
@[simp] theorem setPart_arg (s : State) (p : Nat) (x : Part) : (s.setPart p x).arg = s.arg := rfl
@[simp] theorem setPart_cyc (s : State) (p : Nat) (x : Part) : (s.setPart p x).cyc = s.cyc := rfl
@[simp] theorem setPart_free (s : State) (p : Nat) (x : Part) : (s.setPart p x).free = s.free := rfl
@[simp] theorem setPart_turn (s : State) (p : Nat) (x : Part) : (s.setPart p x).turn = s.turn := rfl
@[simp] theorem setPart_agenda (s : State) (p : Nat) (x : Part) : (s.setPart p x).agenda = s.agenda := rfl
@[simp] theorem setPart_mem (s : State) (p : Nat) (x : Part) : (s.setPart p x).mem = s.mem := rfl
@[simp] theorem setPart_vers (s : State) (p : Nat) (x : Part) : (s.setPart p x).vers = s.vers := rfl
@[simp] theorem setPart_masters (s : State) (p : Nat) (x : Part) : (s.setPart p x).masters = s.masters := rfl
@[simp] theorem setPart_saves (s : State) (p : Nat) (x : Part) : (s.setPart p x).saves = s.saves := rfl
@[simp] theorem setPart_cores (s : State) (p : Nat) (x : Part) : (s.setPart p x).cores = s.cores := rfl
@[simp] theorem setPart_banks (s : State) (p : Nat) (x : Part) : (s.setPart p x).banks = s.banks := rfl
@[simp] theorem setPart_bars (s : State) (p : Nat) (x : Part) : (s.setPart p x).bars = s.bars := rfl
@[simp] theorem setPart_reqs (s : State) (p : Nat) (x : Part) : (s.setPart p x).reqs = s.reqs := rfl
@[simp] theorem setPart_nextReq (s : State) (p : Nat) (x : Part) : (s.setPart p x).nextReq = s.nextReq := rfl
@[simp] theorem setPart_nextPlace (s : State) (p : Nat) (x : Part) : (s.setPart p x).nextPlace = s.nextPlace := rfl
@[simp] theorem setPart_batches (s : State) (p : Nat) (x : Part) : (s.setPart p x).batches = s.batches := rfl
@[simp] theorem setPart_stale (s : State) (p : Nat) (x : Part) : (s.setPart p x).stale = s.stale := rfl
@[simp] theorem setPart_copies (s : State) (p : Nat) (x : Part) : (s.setPart p x).copies = s.copies := rfl
@[simp] theorem setPart_halo (s : State) (p : Nat) (x : Part) : (s.setPart p x).halo = s.halo := rfl
@[simp] theorem setPart_tiles (s : State) (p : Nat) (x : Part) : (s.setPart p x).tiles = s.tiles := rfl
@[simp] theorem setPart_ztag (s : State) (p : Nat) (x : Part) : (s.setPart p x).ztag = s.ztag := rfl
@[simp] theorem setPart_zbad (s : State) (p : Nat) (x : Part) : (s.setPart p x).zbad = s.zbad := rfl
@[simp] theorem setPart_launches (s : State) (p : Nat) (x : Part) : (s.setPart p x).launches = s.launches := rfl
@[simp] theorem setPart_gens (s : State) (p : Nat) (x : Part) : (s.setPart p x).gens = s.gens := rfl
@[simp] theorem setPart_proofs (s : State) (p : Nat) (x : Part) : (s.setPart p x).proofs = s.proofs := rfl
@[simp] theorem setPart_retired (s : State) (p : Nat) (x : Part) : (s.setPart p x).retired = s.retired := rfl
@[simp] theorem setPart_round (s : State) (p : Nat) (x : Part) : (s.setPart p x).round = s.round := rfl
@[simp] theorem setPart_dies (s : State) (p : Nat) (x : Part) : (s.setPart p x).dies = s.dies := rfl
@[simp] theorem setPart_pages (s : State) (p : Nat) (x : Part) : (s.setPart p x).pages = s.pages := rfl
@[simp] theorem setPart_staging (s : State) (p : Nat) (x : Part) : (s.setPart p x).staging = s.staging := rfl
@[simp] theorem setPart_flash (s : State) (p : Nat) (x : Part) : (s.setPart p x).flash = s.flash := rfl
@[simp] theorem setPart_ranges (s : State) (p : Nat) (x : Part) : (s.setPart p x).ranges = s.ranges := rfl
@[simp] theorem setPart_hlt (s : State) (p : Nat) (x : Part) : (s.setPart p x).hlt = s.hlt := rfl
@[simp] theorem setPart_tcache (s : State) (p : Nat) (x : Part) : (s.setPart p x).tcache = s.tcache := rfl
@[simp] theorem setPart_wcount (s : State) (p : Nat) (x : Part) : (s.setPart p x).wcount = s.wcount := rfl
@[simp] theorem setPart_plates (s : State) (p : Nat) (x : Part) : (s.setPart p x).plates = s.plates := rfl
@[simp] theorem setPart_reports (s : State) (p : Nat) (x : Part) : (s.setPart p x).reports = s.reports := rfl
@[simp] theorem setPart_scans (s : State) (p : Nat) (x : Part) : (s.setPart p x).scans = s.scans := rfl
@[simp] theorem setPart_orphaned (s : State) (p : Nat) (x : Part) : (s.setPart p x).orphaned = s.orphaned := rfl
@[simp] theorem setPart_patched (s : State) (p : Nat) (x : Part) : (s.setPart p x).patched = s.patched := rfl
@[simp] theorem setPart_rings (s : State) (p : Nat) (x : Part) : (s.setPart p x).rings = s.rings := rfl
@[simp] theorem setPart_rot (s : State) (p : Nat) (x : Part) : (s.setPart p x).rot = s.rot := rfl
@[simp] theorem setPart_power (s : State) (p : Nat) (x : Part) : (s.setPart p x).power = s.power := rfl
@[simp] theorem setPart_ports (s : State) (p : Nat) (x : Part) : (s.setPart p x).ports = s.ports := rfl

theorem part_setPart (s : State) (p : Nat) (x : Part) (i : Nat) : (s.setPart p x).part i = if i = p then x else s.part i :=
  Tab.get_set _ _ _ _ _
@[simp] theorem part_setPart_same (s : State) (p : Nat) (x : Part) : (s.setPart p x).part p = x :=
  Tab.get_set_same _ _ _ _
@[simp] theorem setPart_ms (s : State) (p : Nat) (x : Part) (i : Nat) : (s.setPart p x).ms i = s.ms i := rfl
@[simp] theorem setPart_core (s : State) (p : Nat) (x : Part) (i : Nat) : (s.setPart p x).core i = s.core i := rfl
@[simp] theorem setPart_bank (s : State) (p : Nat) (x : Part) (i : Nat) : (s.setPart p x).bank i = s.bank i := rfl
@[simp] theorem setPart_die (s : State) (p : Nat) (x : Part) (i : Nat) : (s.setPart p x).die i = s.die i := rfl
@[simp] theorem setPart_plate (s : State) (p : Nat) (x : Part) (i : Nat) : (s.setPart p x).plate i = s.plate i := rfl
@[simp] theorem setPart_bar (s : State) (p : Nat) (x : Part) (i : Nat) : (s.setPart p x).bar i = s.bar i := rfl
@[simp] theorem setPart_partOf (s : State) (p : Nat) (x : Part) (i : Nat) : (s.setPart p x).partOf i = s.partOf i := rfl
@[simp] theorem setPart_launch? (s : State) (p : Nat) (x : Part) (i : Nat) : (s.setPart p x).launch? i = s.launch? i := rfl

/-! ## setPlate -/

@[simp] theorem setPlate_cur (s : State) (n : Nat) (x : Plate) : (s.setPlate n x).cur = s.cur := rfl
@[simp] theorem setPlate_arg (s : State) (n : Nat) (x : Plate) : (s.setPlate n x).arg = s.arg := rfl
@[simp] theorem setPlate_cyc (s : State) (n : Nat) (x : Plate) : (s.setPlate n x).cyc = s.cyc := rfl
@[simp] theorem setPlate_free (s : State) (n : Nat) (x : Plate) : (s.setPlate n x).free = s.free := rfl
@[simp] theorem setPlate_turn (s : State) (n : Nat) (x : Plate) : (s.setPlate n x).turn = s.turn := rfl
@[simp] theorem setPlate_agenda (s : State) (n : Nat) (x : Plate) : (s.setPlate n x).agenda = s.agenda := rfl
@[simp] theorem setPlate_mem (s : State) (n : Nat) (x : Plate) : (s.setPlate n x).mem = s.mem := rfl
@[simp] theorem setPlate_vers (s : State) (n : Nat) (x : Plate) : (s.setPlate n x).vers = s.vers := rfl
@[simp] theorem setPlate_masters (s : State) (n : Nat) (x : Plate) : (s.setPlate n x).masters = s.masters := rfl
@[simp] theorem setPlate_saves (s : State) (n : Nat) (x : Plate) : (s.setPlate n x).saves = s.saves := rfl
@[simp] theorem setPlate_cores (s : State) (n : Nat) (x : Plate) : (s.setPlate n x).cores = s.cores := rfl
@[simp] theorem setPlate_banks (s : State) (n : Nat) (x : Plate) : (s.setPlate n x).banks = s.banks := rfl
@[simp] theorem setPlate_bars (s : State) (n : Nat) (x : Plate) : (s.setPlate n x).bars = s.bars := rfl
@[simp] theorem setPlate_reqs (s : State) (n : Nat) (x : Plate) : (s.setPlate n x).reqs = s.reqs := rfl
@[simp] theorem setPlate_nextReq (s : State) (n : Nat) (x : Plate) : (s.setPlate n x).nextReq = s.nextReq := rfl
@[simp] theorem setPlate_nextPlace (s : State) (n : Nat) (x : Plate) : (s.setPlate n x).nextPlace = s.nextPlace := rfl
@[simp] theorem setPlate_batches (s : State) (n : Nat) (x : Plate) : (s.setPlate n x).batches = s.batches := rfl
@[simp] theorem setPlate_stale (s : State) (n : Nat) (x : Plate) : (s.setPlate n x).stale = s.stale := rfl
@[simp] theorem setPlate_copies (s : State) (n : Nat) (x : Plate) : (s.setPlate n x).copies = s.copies := rfl
@[simp] theorem setPlate_halo (s : State) (n : Nat) (x : Plate) : (s.setPlate n x).halo = s.halo := rfl
@[simp] theorem setPlate_tiles (s : State) (n : Nat) (x : Plate) : (s.setPlate n x).tiles = s.tiles := rfl
@[simp] theorem setPlate_ztag (s : State) (n : Nat) (x : Plate) : (s.setPlate n x).ztag = s.ztag := rfl
@[simp] theorem setPlate_zbad (s : State) (n : Nat) (x : Plate) : (s.setPlate n x).zbad = s.zbad := rfl
@[simp] theorem setPlate_launches (s : State) (n : Nat) (x : Plate) : (s.setPlate n x).launches = s.launches := rfl
@[simp] theorem setPlate_gens (s : State) (n : Nat) (x : Plate) : (s.setPlate n x).gens = s.gens := rfl
@[simp] theorem setPlate_proofs (s : State) (n : Nat) (x : Plate) : (s.setPlate n x).proofs = s.proofs := rfl
@[simp] theorem setPlate_retired (s : State) (n : Nat) (x : Plate) : (s.setPlate n x).retired = s.retired := rfl
@[simp] theorem setPlate_round (s : State) (n : Nat) (x : Plate) : (s.setPlate n x).round = s.round := rfl
@[simp] theorem setPlate_parts (s : State) (n : Nat) (x : Plate) : (s.setPlate n x).parts = s.parts := rfl
@[simp] theorem setPlate_dies (s : State) (n : Nat) (x : Plate) : (s.setPlate n x).dies = s.dies := rfl
@[simp] theorem setPlate_pages (s : State) (n : Nat) (x : Plate) : (s.setPlate n x).pages = s.pages := rfl
@[simp] theorem setPlate_staging (s : State) (n : Nat) (x : Plate) : (s.setPlate n x).staging = s.staging := rfl
@[simp] theorem setPlate_flash (s : State) (n : Nat) (x : Plate) : (s.setPlate n x).flash = s.flash := rfl
@[simp] theorem setPlate_ranges (s : State) (n : Nat) (x : Plate) : (s.setPlate n x).ranges = s.ranges := rfl
@[simp] theorem setPlate_hlt (s : State) (n : Nat) (x : Plate) : (s.setPlate n x).hlt = s.hlt := rfl
@[simp] theorem setPlate_tcache (s : State) (n : Nat) (x : Plate) : (s.setPlate n x).tcache = s.tcache := rfl
@[simp] theorem setPlate_wcount (s : State) (n : Nat) (x : Plate) : (s.setPlate n x).wcount = s.wcount := rfl
@[simp] theorem setPlate_reports (s : State) (n : Nat) (x : Plate) : (s.setPlate n x).reports = s.reports := rfl
@[simp] theorem setPlate_scans (s : State) (n : Nat) (x : Plate) : (s.setPlate n x).scans = s.scans := rfl
@[simp] theorem setPlate_orphaned (s : State) (n : Nat) (x : Plate) : (s.setPlate n x).orphaned = s.orphaned := rfl
@[simp] theorem setPlate_patched (s : State) (n : Nat) (x : Plate) : (s.setPlate n x).patched = s.patched := rfl
@[simp] theorem setPlate_rings (s : State) (n : Nat) (x : Plate) : (s.setPlate n x).rings = s.rings := rfl
@[simp] theorem setPlate_rot (s : State) (n : Nat) (x : Plate) : (s.setPlate n x).rot = s.rot := rfl
@[simp] theorem setPlate_power (s : State) (n : Nat) (x : Plate) : (s.setPlate n x).power = s.power := rfl
@[simp] theorem setPlate_ports (s : State) (n : Nat) (x : Plate) : (s.setPlate n x).ports = s.ports := rfl

theorem plate_setPlate (s : State) (n : Nat) (x : Plate) (i : Nat) : (s.setPlate n x).plate i = if i = n then x else s.plate i :=
  Tab.get_set _ _ _ _ _
@[simp] theorem plate_setPlate_same (s : State) (n : Nat) (x : Plate) : (s.setPlate n x).plate n = x :=
  Tab.get_set_same _ _ _ _
@[simp] theorem setPlate_ms (s : State) (n : Nat) (x : Plate) (i : Nat) : (s.setPlate n x).ms i = s.ms i := rfl
@[simp] theorem setPlate_core (s : State) (n : Nat) (x : Plate) (i : Nat) : (s.setPlate n x).core i = s.core i := rfl
@[simp] theorem setPlate_bank (s : State) (n : Nat) (x : Plate) (i : Nat) : (s.setPlate n x).bank i = s.bank i := rfl
@[simp] theorem setPlate_die (s : State) (n : Nat) (x : Plate) (i : Nat) : (s.setPlate n x).die i = s.die i := rfl
@[simp] theorem setPlate_part (s : State) (n : Nat) (x : Plate) (i : Nat) : (s.setPlate n x).part i = s.part i := rfl
@[simp] theorem setPlate_bar (s : State) (n : Nat) (x : Plate) (i : Nat) : (s.setPlate n x).bar i = s.bar i := rfl
@[simp] theorem setPlate_partOf (s : State) (n : Nat) (x : Plate) (i : Nat) : (s.setPlate n x).partOf i = s.partOf i := rfl
@[simp] theorem setPlate_launch? (s : State) (n : Nat) (x : Plate) (i : Nat) : (s.setPlate n x).launch? i = s.launch? i := rfl

/-! ## setBar -/

@[simp] theorem setBar_cur (s : State) (n : Nat) (x : Bar) : (s.setBar n x).cur = s.cur := rfl
@[simp] theorem setBar_arg (s : State) (n : Nat) (x : Bar) : (s.setBar n x).arg = s.arg := rfl
@[simp] theorem setBar_cyc (s : State) (n : Nat) (x : Bar) : (s.setBar n x).cyc = s.cyc := rfl
@[simp] theorem setBar_free (s : State) (n : Nat) (x : Bar) : (s.setBar n x).free = s.free := rfl
@[simp] theorem setBar_turn (s : State) (n : Nat) (x : Bar) : (s.setBar n x).turn = s.turn := rfl
@[simp] theorem setBar_agenda (s : State) (n : Nat) (x : Bar) : (s.setBar n x).agenda = s.agenda := rfl
@[simp] theorem setBar_mem (s : State) (n : Nat) (x : Bar) : (s.setBar n x).mem = s.mem := rfl
@[simp] theorem setBar_vers (s : State) (n : Nat) (x : Bar) : (s.setBar n x).vers = s.vers := rfl
@[simp] theorem setBar_masters (s : State) (n : Nat) (x : Bar) : (s.setBar n x).masters = s.masters := rfl
@[simp] theorem setBar_saves (s : State) (n : Nat) (x : Bar) : (s.setBar n x).saves = s.saves := rfl
@[simp] theorem setBar_cores (s : State) (n : Nat) (x : Bar) : (s.setBar n x).cores = s.cores := rfl
@[simp] theorem setBar_banks (s : State) (n : Nat) (x : Bar) : (s.setBar n x).banks = s.banks := rfl
@[simp] theorem setBar_reqs (s : State) (n : Nat) (x : Bar) : (s.setBar n x).reqs = s.reqs := rfl
@[simp] theorem setBar_nextReq (s : State) (n : Nat) (x : Bar) : (s.setBar n x).nextReq = s.nextReq := rfl
@[simp] theorem setBar_nextPlace (s : State) (n : Nat) (x : Bar) : (s.setBar n x).nextPlace = s.nextPlace := rfl
@[simp] theorem setBar_batches (s : State) (n : Nat) (x : Bar) : (s.setBar n x).batches = s.batches := rfl
@[simp] theorem setBar_stale (s : State) (n : Nat) (x : Bar) : (s.setBar n x).stale = s.stale := rfl
@[simp] theorem setBar_copies (s : State) (n : Nat) (x : Bar) : (s.setBar n x).copies = s.copies := rfl
@[simp] theorem setBar_halo (s : State) (n : Nat) (x : Bar) : (s.setBar n x).halo = s.halo := rfl
@[simp] theorem setBar_tiles (s : State) (n : Nat) (x : Bar) : (s.setBar n x).tiles = s.tiles := rfl
@[simp] theorem setBar_ztag (s : State) (n : Nat) (x : Bar) : (s.setBar n x).ztag = s.ztag := rfl
@[simp] theorem setBar_zbad (s : State) (n : Nat) (x : Bar) : (s.setBar n x).zbad = s.zbad := rfl
@[simp] theorem setBar_launches (s : State) (n : Nat) (x : Bar) : (s.setBar n x).launches = s.launches := rfl
@[simp] theorem setBar_gens (s : State) (n : Nat) (x : Bar) : (s.setBar n x).gens = s.gens := rfl
@[simp] theorem setBar_proofs (s : State) (n : Nat) (x : Bar) : (s.setBar n x).proofs = s.proofs := rfl
@[simp] theorem setBar_retired (s : State) (n : Nat) (x : Bar) : (s.setBar n x).retired = s.retired := rfl
@[simp] theorem setBar_round (s : State) (n : Nat) (x : Bar) : (s.setBar n x).round = s.round := rfl
@[simp] theorem setBar_parts (s : State) (n : Nat) (x : Bar) : (s.setBar n x).parts = s.parts := rfl
@[simp] theorem setBar_dies (s : State) (n : Nat) (x : Bar) : (s.setBar n x).dies = s.dies := rfl
@[simp] theorem setBar_pages (s : State) (n : Nat) (x : Bar) : (s.setBar n x).pages = s.pages := rfl
@[simp] theorem setBar_staging (s : State) (n : Nat) (x : Bar) : (s.setBar n x).staging = s.staging := rfl
@[simp] theorem setBar_flash (s : State) (n : Nat) (x : Bar) : (s.setBar n x).flash = s.flash := rfl
@[simp] theorem setBar_ranges (s : State) (n : Nat) (x : Bar) : (s.setBar n x).ranges = s.ranges := rfl
@[simp] theorem setBar_hlt (s : State) (n : Nat) (x : Bar) : (s.setBar n x).hlt = s.hlt := rfl
@[simp] theorem setBar_tcache (s : State) (n : Nat) (x : Bar) : (s.setBar n x).tcache = s.tcache := rfl
@[simp] theorem setBar_wcount (s : State) (n : Nat) (x : Bar) : (s.setBar n x).wcount = s.wcount := rfl
@[simp] theorem setBar_plates (s : State) (n : Nat) (x : Bar) : (s.setBar n x).plates = s.plates := rfl
@[simp] theorem setBar_reports (s : State) (n : Nat) (x : Bar) : (s.setBar n x).reports = s.reports := rfl
@[simp] theorem setBar_scans (s : State) (n : Nat) (x : Bar) : (s.setBar n x).scans = s.scans := rfl
@[simp] theorem setBar_orphaned (s : State) (n : Nat) (x : Bar) : (s.setBar n x).orphaned = s.orphaned := rfl
@[simp] theorem setBar_patched (s : State) (n : Nat) (x : Bar) : (s.setBar n x).patched = s.patched := rfl
@[simp] theorem setBar_rings (s : State) (n : Nat) (x : Bar) : (s.setBar n x).rings = s.rings := rfl
@[simp] theorem setBar_rot (s : State) (n : Nat) (x : Bar) : (s.setBar n x).rot = s.rot := rfl
@[simp] theorem setBar_power (s : State) (n : Nat) (x : Bar) : (s.setBar n x).power = s.power := rfl
@[simp] theorem setBar_ports (s : State) (n : Nat) (x : Bar) : (s.setBar n x).ports = s.ports := rfl

theorem bar_setBar (s : State) (n : Nat) (x : Bar) (i : Nat) : (s.setBar n x).bar i = if i = n then x else s.bar i :=
  Tab.get_set _ _ _ _ _
@[simp] theorem bar_setBar_same (s : State) (n : Nat) (x : Bar) : (s.setBar n x).bar n = x :=
  Tab.get_set_same _ _ _ _
@[simp] theorem setBar_ms (s : State) (n : Nat) (x : Bar) (i : Nat) : (s.setBar n x).ms i = s.ms i := rfl
@[simp] theorem setBar_core (s : State) (n : Nat) (x : Bar) (i : Nat) : (s.setBar n x).core i = s.core i := rfl
@[simp] theorem setBar_bank (s : State) (n : Nat) (x : Bar) (i : Nat) : (s.setBar n x).bank i = s.bank i := rfl
@[simp] theorem setBar_die (s : State) (n : Nat) (x : Bar) (i : Nat) : (s.setBar n x).die i = s.die i := rfl
@[simp] theorem setBar_part (s : State) (n : Nat) (x : Bar) (i : Nat) : (s.setBar n x).part i = s.part i := rfl
@[simp] theorem setBar_plate (s : State) (n : Nat) (x : Bar) (i : Nat) : (s.setBar n x).plate i = s.plate i := rfl
@[simp] theorem setBar_partOf (s : State) (n : Nat) (x : Bar) (i : Nat) : (s.setBar n x).partOf i = s.partOf i := rfl
@[simp] theorem setBar_launch? (s : State) (n : Nat) (x : Bar) (i : Nat) : (s.setBar n x).launch? i = s.launch? i := rfl

/-! ## updLaunch -/

@[simp] theorem updLaunch_cur (s : State) (slot : Nat) (g : Launch → Launch) : (s.updLaunch slot g).cur = s.cur := by
  unfold State.updLaunch; split <;> rfl
@[simp] theorem updLaunch_arg (s : State) (slot : Nat) (g : Launch → Launch) : (s.updLaunch slot g).arg = s.arg := by
  unfold State.updLaunch; split <;> rfl
@[simp] theorem updLaunch_cyc (s : State) (slot : Nat) (g : Launch → Launch) : (s.updLaunch slot g).cyc = s.cyc := by
  unfold State.updLaunch; split <;> rfl
@[simp] theorem updLaunch_free (s : State) (slot : Nat) (g : Launch → Launch) : (s.updLaunch slot g).free = s.free := by
  unfold State.updLaunch; split <;> rfl
@[simp] theorem updLaunch_turn (s : State) (slot : Nat) (g : Launch → Launch) : (s.updLaunch slot g).turn = s.turn := by
  unfold State.updLaunch; split <;> rfl
@[simp] theorem updLaunch_agenda (s : State) (slot : Nat) (g : Launch → Launch) : (s.updLaunch slot g).agenda = s.agenda := by
  unfold State.updLaunch; split <;> rfl
@[simp] theorem updLaunch_mem (s : State) (slot : Nat) (g : Launch → Launch) : (s.updLaunch slot g).mem = s.mem := by
  unfold State.updLaunch; split <;> rfl
@[simp] theorem updLaunch_vers (s : State) (slot : Nat) (g : Launch → Launch) : (s.updLaunch slot g).vers = s.vers := by
  unfold State.updLaunch; split <;> rfl
@[simp] theorem updLaunch_masters (s : State) (slot : Nat) (g : Launch → Launch) : (s.updLaunch slot g).masters = s.masters := by
  unfold State.updLaunch; split <;> rfl
@[simp] theorem updLaunch_saves (s : State) (slot : Nat) (g : Launch → Launch) : (s.updLaunch slot g).saves = s.saves := by
  unfold State.updLaunch; split <;> rfl
@[simp] theorem updLaunch_cores (s : State) (slot : Nat) (g : Launch → Launch) : (s.updLaunch slot g).cores = s.cores := by
  unfold State.updLaunch; split <;> rfl
@[simp] theorem updLaunch_banks (s : State) (slot : Nat) (g : Launch → Launch) : (s.updLaunch slot g).banks = s.banks := by
  unfold State.updLaunch; split <;> rfl
@[simp] theorem updLaunch_bars (s : State) (slot : Nat) (g : Launch → Launch) : (s.updLaunch slot g).bars = s.bars := by
  unfold State.updLaunch; split <;> rfl
@[simp] theorem updLaunch_reqs (s : State) (slot : Nat) (g : Launch → Launch) : (s.updLaunch slot g).reqs = s.reqs := by
  unfold State.updLaunch; split <;> rfl
@[simp] theorem updLaunch_nextReq (s : State) (slot : Nat) (g : Launch → Launch) : (s.updLaunch slot g).nextReq = s.nextReq := by
  unfold State.updLaunch; split <;> rfl
@[simp] theorem updLaunch_nextPlace (s : State) (slot : Nat) (g : Launch → Launch) : (s.updLaunch slot g).nextPlace = s.nextPlace := by
  unfold State.updLaunch; split <;> rfl
@[simp] theorem updLaunch_batches (s : State) (slot : Nat) (g : Launch → Launch) : (s.updLaunch slot g).batches = s.batches := by
  unfold State.updLaunch; split <;> rfl
@[simp] theorem updLaunch_stale (s : State) (slot : Nat) (g : Launch → Launch) : (s.updLaunch slot g).stale = s.stale := by
  unfold State.updLaunch; split <;> rfl
@[simp] theorem updLaunch_copies (s : State) (slot : Nat) (g : Launch → Launch) : (s.updLaunch slot g).copies = s.copies := by
  unfold State.updLaunch; split <;> rfl
@[simp] theorem updLaunch_halo (s : State) (slot : Nat) (g : Launch → Launch) : (s.updLaunch slot g).halo = s.halo := by
  unfold State.updLaunch; split <;> rfl
@[simp] theorem updLaunch_tiles (s : State) (slot : Nat) (g : Launch → Launch) : (s.updLaunch slot g).tiles = s.tiles := by
  unfold State.updLaunch; split <;> rfl
@[simp] theorem updLaunch_ztag (s : State) (slot : Nat) (g : Launch → Launch) : (s.updLaunch slot g).ztag = s.ztag := by
  unfold State.updLaunch; split <;> rfl
@[simp] theorem updLaunch_zbad (s : State) (slot : Nat) (g : Launch → Launch) : (s.updLaunch slot g).zbad = s.zbad := by
  unfold State.updLaunch; split <;> rfl
@[simp] theorem updLaunch_gens (s : State) (slot : Nat) (g : Launch → Launch) : (s.updLaunch slot g).gens = s.gens := by
  unfold State.updLaunch; split <;> rfl
@[simp] theorem updLaunch_proofs (s : State) (slot : Nat) (g : Launch → Launch) : (s.updLaunch slot g).proofs = s.proofs := by
  unfold State.updLaunch; split <;> rfl
@[simp] theorem updLaunch_retired (s : State) (slot : Nat) (g : Launch → Launch) : (s.updLaunch slot g).retired = s.retired := by
  unfold State.updLaunch; split <;> rfl
@[simp] theorem updLaunch_round (s : State) (slot : Nat) (g : Launch → Launch) : (s.updLaunch slot g).round = s.round := by
  unfold State.updLaunch; split <;> rfl
@[simp] theorem updLaunch_parts (s : State) (slot : Nat) (g : Launch → Launch) : (s.updLaunch slot g).parts = s.parts := by
  unfold State.updLaunch; split <;> rfl
@[simp] theorem updLaunch_dies (s : State) (slot : Nat) (g : Launch → Launch) : (s.updLaunch slot g).dies = s.dies := by
  unfold State.updLaunch; split <;> rfl
@[simp] theorem updLaunch_pages (s : State) (slot : Nat) (g : Launch → Launch) : (s.updLaunch slot g).pages = s.pages := by
  unfold State.updLaunch; split <;> rfl
@[simp] theorem updLaunch_staging (s : State) (slot : Nat) (g : Launch → Launch) : (s.updLaunch slot g).staging = s.staging := by
  unfold State.updLaunch; split <;> rfl
@[simp] theorem updLaunch_flash (s : State) (slot : Nat) (g : Launch → Launch) : (s.updLaunch slot g).flash = s.flash := by
  unfold State.updLaunch; split <;> rfl
@[simp] theorem updLaunch_ranges (s : State) (slot : Nat) (g : Launch → Launch) : (s.updLaunch slot g).ranges = s.ranges := by
  unfold State.updLaunch; split <;> rfl
@[simp] theorem updLaunch_hlt (s : State) (slot : Nat) (g : Launch → Launch) : (s.updLaunch slot g).hlt = s.hlt := by
  unfold State.updLaunch; split <;> rfl
@[simp] theorem updLaunch_tcache (s : State) (slot : Nat) (g : Launch → Launch) : (s.updLaunch slot g).tcache = s.tcache := by
  unfold State.updLaunch; split <;> rfl
@[simp] theorem updLaunch_wcount (s : State) (slot : Nat) (g : Launch → Launch) : (s.updLaunch slot g).wcount = s.wcount := by
  unfold State.updLaunch; split <;> rfl
@[simp] theorem updLaunch_plates (s : State) (slot : Nat) (g : Launch → Launch) : (s.updLaunch slot g).plates = s.plates := by
  unfold State.updLaunch; split <;> rfl
@[simp] theorem updLaunch_reports (s : State) (slot : Nat) (g : Launch → Launch) : (s.updLaunch slot g).reports = s.reports := by
  unfold State.updLaunch; split <;> rfl
@[simp] theorem updLaunch_scans (s : State) (slot : Nat) (g : Launch → Launch) : (s.updLaunch slot g).scans = s.scans := by
  unfold State.updLaunch; split <;> rfl
@[simp] theorem updLaunch_orphaned (s : State) (slot : Nat) (g : Launch → Launch) : (s.updLaunch slot g).orphaned = s.orphaned := by
  unfold State.updLaunch; split <;> rfl
@[simp] theorem updLaunch_patched (s : State) (slot : Nat) (g : Launch → Launch) : (s.updLaunch slot g).patched = s.patched := by
  unfold State.updLaunch; split <;> rfl
@[simp] theorem updLaunch_rings (s : State) (slot : Nat) (g : Launch → Launch) : (s.updLaunch slot g).rings = s.rings := by
  unfold State.updLaunch; split <;> rfl
@[simp] theorem updLaunch_rot (s : State) (slot : Nat) (g : Launch → Launch) : (s.updLaunch slot g).rot = s.rot := by
  unfold State.updLaunch; split <;> rfl
@[simp] theorem updLaunch_power (s : State) (slot : Nat) (g : Launch → Launch) : (s.updLaunch slot g).power = s.power := by
  unfold State.updLaunch; split <;> rfl
@[simp] theorem updLaunch_ports (s : State) (slot : Nat) (g : Launch → Launch) : (s.updLaunch slot g).ports = s.ports := by
  unfold State.updLaunch; split <;> rfl
@[simp] theorem updLaunch_ms (s : State) (slot : Nat) (g : Launch → Launch) (i : Nat) : (s.updLaunch slot g).ms i = s.ms i := by
  simp [State.ms]
@[simp] theorem updLaunch_core (s : State) (slot : Nat) (g : Launch → Launch) (i : Nat) : (s.updLaunch slot g).core i = s.core i := by
  simp [State.core]
@[simp] theorem updLaunch_bank (s : State) (slot : Nat) (g : Launch → Launch) (i : Nat) : (s.updLaunch slot g).bank i = s.bank i := by
  simp [State.bank]
@[simp] theorem updLaunch_die (s : State) (slot : Nat) (g : Launch → Launch) (i : Nat) : (s.updLaunch slot g).die i = s.die i := by
  simp [State.die]
@[simp] theorem updLaunch_part (s : State) (slot : Nat) (g : Launch → Launch) (i : Nat) : (s.updLaunch slot g).part i = s.part i := by
  simp [State.part]
@[simp] theorem updLaunch_plate (s : State) (slot : Nat) (g : Launch → Launch) (i : Nat) : (s.updLaunch slot g).plate i = s.plate i := by
  simp [State.plate]
@[simp] theorem updLaunch_bar (s : State) (slot : Nat) (g : Launch → Launch) (i : Nat) : (s.updLaunch slot g).bar i = s.bar i := by
  simp [State.bar]

/-! ## The issuing master -/

@[simp] theorem me_setM_cur (s : State) (m : Master) : (s.setM s.cur m).me = m := ms_setM_same s s.cur m

theorem upd_eq (s : State) (f : Master → Master) : s.upd f = s.setM s.cur (f s.me) := rfl

@[simp] theorem me_upd (s : State) (f : Master → Master) : (s.upd f).me = f s.me := ms_setM_same s s.cur _

@[simp] theorem upd_cur (s : State) (f : Master → Master) : (s.upd f).cur = s.cur := rfl

/-- Two updates of one master that exists are one. -/
theorem setM_setM (s : State) (pos : Nat) (m n : Master) (h : m ≠ Master.empty) : (s.setM pos m).setM pos n = s.setM pos n := by
  simp only [State.setM, Tab.set_set _ _ _ _ _ h]

theorem upd_upd (s : State) (f g : Master → Master) (h : f s.me ≠ Master.empty) :
    (s.upd f).upd g = s.upd (fun m => g (f m)) := by
  rw [upd_eq (s.upd f), me_upd, upd_cur, upd_eq s f, upd_eq s, setM_setM _ _ _ _ h]

/-- A master of a kind is no empty slot. -/
theorem Master.ne_empty (m : Master) (h : m.kind ≠ .empty) : m ≠ Master.empty := fun e => h (by rw [e]; rfl)

/-! ## Register files -/

/-- A read after a write of an s register: s0 reads 0 whatever is written (R17, R18). -/
@[simp] theorem rs_ws (m : Master) (d r : SReg) (x : W64) :
    (m.ws d x).rs r = if r = 0 then 0 else if r = d then x else m.rs r := by
  unfold Master.ws Master.rs
  by_cases hr : r = 0
  · rw [if_pos hr, if_pos hr]
  · rw [if_neg hr, if_neg hr]
    by_cases hd : d = 0
    · rw [if_pos hd, if_neg fun e => hr (e.trans hd), if_neg hr]
    · rw [if_neg hd, if_neg hr]
      exact (Tab.get_set 0 m.s d.toNat r.toNat x).trans (by simp only [BitVec.toNat_inj])

end Sys2Proof.Machine
end

