-- ==== Sys2Proof/Laws/Memory.lean ====
section
/-! SUPPORT. Laws of memory: a read after a write, what a write leaves, and that every memory operation keeps the
canonical form. -/

namespace Sys2Proof.Machine

@[simp] theorem setCells_nil (m : Tab Byte) : setCells m [] = m := rfl

theorem setCells_cons (m : Tab Byte) (c : Host.Cell) (cs : List Host.Cell) :
    setCells m (c :: cs) = setCells (Tab.set 0 m c.1 c.2) cs := rfl

/-- Writing cells keeps the canonical form. -/
theorem wf_setCells (m : Tab Byte) (cs : List Host.Cell) (w : Mem.wf m = true) : Mem.wf (setCells m cs) = true := by
  induction cs generalizing m with
  | nil => exact w
  | cons c cs ih => exact ih _ (Tab.wf_set 0 m c.1 c.2 w)

/-- Unlisting cells keeps the canonical form. -/
theorem wf_filterCells (m : Tab Byte) (f : Host.Cell → Bool) (w : Mem.wf m = true) : Mem.wf (m.filter f) = true :=
  Tab.wf_filter 0 f m w

/-- A write of cells leaves every byte that none of them names. -/
theorem get_setCells_of_notMem (m : Tab Byte) (cs : List Host.Cell) (k : Nat) (h : ∀ c ∈ cs, c.1 ≠ k) :
    Tab.get 0 (setCells m cs) k = Tab.get 0 m k := by
  induction cs generalizing m with
  | nil => rfl
  | cons c cs ih =>
    rw [setCells_cons, ih _ fun d hd => h d (List.mem_cons_of_mem c hd)]
    exact Tab.get_set_ne 0 m c.2 fun e => h c List.mem_cons_self e.symm

theorem setCells_append (m : Tab Byte) (cs ds : List Host.Cell) : setCells m (cs ++ ds) = setCells (setCells m cs) ds := by
  simp [setCells, List.foldl_append]

/-- The keys of bytes laid at rising keys. -/
theorem bytesAt_key {k : Nat} {bs : List Byte} {c : Host.Cell} (h : c ∈ bytesAt k bs) : k ≤ c.1 ∧ c.1 < k + bs.length := by
  induction bs generalizing k with
  | nil => simp [bytesAt] at h
  | cons b r ih =>
    simp only [bytesAt, List.mem_cons] at h
    obtain rfl | h := h
    · simp
    · have := ih h
      simp only [List.length_cons]
      omega

/-- Bytes laid at rising keys read back. -/
theorem get_setCells_bytesAt (m : Tab Byte) (k : Nat) (bs : List Byte) (i : Nat) (h : i < bs.length) :
    Tab.get 0 (setCells m (bytesAt k bs)) (k + i) = bs[i] := by
  induction bs generalizing m k i with
  | nil => simp at h
  | cons b r ih =>
    simp only [bytesAt, setCells_cons]
    cases i with
    | zero =>
      rw [get_setCells_of_notMem]
      · simp
      · intro c hc e
        have := (bytesAt_key hc).1
        omega
    | succ i =>
      have h' : i < r.length := by simpa using h
      have := ih (Tab.set 0 m k b) (k + 1) i h'
      rw [show k + (i + 1) = k + 1 + i by omega, this]
      rfl

/-! ## The state's memory operations keep the form -/

theorem applyHome_wf (s : State) (ds : List Nat) (cells : List Host.Cell) (w : Mem.wf s.mem = true) :
    Mem.wf (s.applyHome ds cells).mem = true := wf_setCells _ _ w

@[simp] theorem countWrite_mem (s : State) (d p : Nat) : (s.countWrite d p).mem = s.mem := rfl

@[simp] theorem noteSent_mem (s : State) (pos l : Nat) : (s.noteSent pos l).mem = s.mem := by
  unfold State.noteSent; split <;> rfl
@[simp] theorem noteRecv_mem (s : State) (pos l : Nat) : (s.noteRecv pos l).mem = s.mem := by
  unfold State.noteRecv; split <;> rfl

@[simp] theorem send_mem (s : State) (pos home req : Nat) (o : Ord) (cells : List Host.Cell) (push : Bool) (todo : List Nat)
    (proof : Nat) : (s.send pos home req o cells push todo proof).mem = s.mem := by simp [State.send]

/-- A fold of operations that keep the memory keeps it. -/
theorem foldl_mem {α : Type} (f : State → α → State) (h : ∀ s a, (f s a).mem = s.mem) (l : List α) (s : State) :
    (l.foldl f s).mem = s.mem := by
  induction l generalizing s with
  | nil => rfl
  | cons a l ih => exact (ih _).trans (h _ _)

/-- Collecting tokens moves no byte. -/
@[simp] theorem ownLines_mem (s : State) (pos : Nat) (ms : Bool) (cells : List Host.Cell) : (s.ownLines pos ms cells).mem = s.mem := by
  unfold State.ownLines
  split
  · rfl
  · exact foldl_mem (fun s l => State.takeAll s (l1Of pos) l) (fun _ _ => rfl) _ _

/-- Sending a write on to the dies with a copy moves no byte. -/
@[simp] theorem toCopies_mem (s : State) (pos home req : Nat) (o : Ord) (cells : List Host.Cell) (ds : List Nat) (proof : Nat) :
    (s.toCopies pos home req o cells ds proof).mem = s.mem := by
  unfold State.toCopies
  split
  · rfl
  · exact send_mem _ _ _ _ _ _ _ _ _

theorem storeImm_wf (s : State) (pos home req : Nat) (ms : Bool) (o : Ord) (cells : List Host.Cell) (w : Mem.wf s.mem = true) :
    Mem.wf (s.storeImm pos home req ms o cells).1.mem = true := by
  unfold State.storeImm
  dsimp only
  split
  · simpa using applyHome_wf s _ cells w
  · simpa using w

@[simp] theorem storeTagged_mem (s : State) (l p : Nat) (cells : List Host.Cell) : (s.storeTagged l p cells).1.mem = s.mem := by
  simp [State.storeTagged]

@[simp] theorem applyTagged_mem (s : State) (ds : List Nat) (l p : Nat) (cells : List Host.Cell) :
    (s.applyTagged ds l p cells).1.mem = s.mem := by simp [State.applyTagged]

/-- A store by a master keeps the canonical form, wherever it goes. -/
theorem store_wf (s : State) (pos proof : Nat) (dead : Bool) (req : Nat) (o : Ord) (k : Nat) (cells : List Host.Cell)
    (w : Mem.wf s.mem = true) : Mem.wf (s.store pos proof dead req o k cells).1.mem = true := by
  unfold State.store
  dsimp only
  split
  · split
    · exact w
    · split
      · exact w
      · split
        · exact storeImm_wf _ _ _ _ _ _ _ (by simpa using w)
        · split <;> simpa using w
  · split
    · simpa using w
    · exact wf_setCells _ _ w

/-- The memory after reset has the form. -/
theorem reset_mem_wf : Mem.wf State.reset.mem = true := rfl

end Sys2Proof.Machine
end

