-- ==== Sys2Proof/Safety.lean ====
section
/-! DEFINITION. What counts as a safe run: a step that stops neither with a fault nor with a refusal. -/

namespace Sys2Proof.Machine

/-- The outcome is a next state. -/
def Safe (o : Out) : Prop := ∃ t, o = .next t

end Sys2Proof.Machine
end

