-- ==== Sys2Proof/Certificates/Slice0/Obligations.lean ====
section
/-! DEFINITION. The statements about the model, for the provers. `Sys2Proof.Claims` holds the words they are written in;
each statement is one proposition `Obligations.<Name>`. -/

open Sys2Proof Sys2Proof.Machine

namespace Sys2Proof.Claims

/-- A master stands at the acting position and may issue an instruction that any slot may issue (R77, R103, R210). -/
def Issues (s : State) : Prop := s.me.kind ≠ .empty ∧ (s.me.kind = .handler → s.me.hcount ≤ 64)

/-- A task stands at the acting position. -/
def IsTask (s : State) : Prop := s.me.kind = .task

/-- A task or a supervisor core stands at the acting position. -/
def NoHandler (s : State) : Prop := s.me.kind = .task ∨ s.me.kind = .svc

/-- The state after an instruction that changed its issuing master alone, into `m`, and nothing else of the machine: the PC
goes on to `pc`; with the switch marker P and a posted result outstanding the task parks as at a marker (R274). -/
def stepped (s : State) (p : Bool) (pc : W64) (m : Master) : State :=
  let t := s.setM s.cur (m.complete pc)
  if p && t.outstanding s.cur then
    { s.setM s.cur ((m.complete pc).parkOn s.cyc s.nextPlace .marker 0xF s.me.pc) with nextPlace := s.nextPlace + 1 }
  else t

/-- The acting master as a fault leaves it, with its PC at `pc` (R29, R32): FROZEN, its wait count kept as it stands (R283), and
everything else of it as it was. -/
def atFault (s : State) (pc : W64) : Master :=
  { s.me with st := .frozen, park := .none, pc := pc, tries := 0, wait := s.me.stood s.cyc, place := 0, resv := none, yield := [], flt := true }

/-- The address of the instruction after one of `words` words. -/
def nextPc (s : State) (words : Nat) : W64 := s.me.pc + BitVec.ofNat 64 (4 * words)

/-- The register files of a master are those of another (R17). -/
def SameFiles (m n : Master) : Prop := m.s = n.s ∧ m.v = n.v ∧ m.m = n.m ∧ m.c = n.c ∧ m.q = n.q

/-- A task whose engine `e` has a free queue entry, and which is no orphan. -/
def FreeEntry (s : State) (e : Nat) : Prop := IsTask s ∧ s.me.orphan = none ∧ (s.me.queue e).length < 2

/-- The job at the head of queue `e` of the task at `cur` is `j`, ready for its next step and not in error, and the task is
not at its end. -/
def AtHead (s : State) (e : Nat) (j : Job) : Prop :=
  IsTask s ∧ s.me.exiting = false ∧ s.me.saving = none ∧ s.jobReady s.cur e = some j ∧ j.bad = false

/-- A master stands at the acting position and may issue an instruction of group `g` with the not-ready mode `nr` (R77, R210). -/
def May (s : State) (g : Grp) (nr : BitVec 2) : Prop := s.me.kind ≠ .empty ∧ s.me.mayIssue g nr = true

/-- o after an instruction that completes with RDY: NR = 0b00 leaves it (R275). -/
def rdy (s : State) (h : Hd) : BitVec 4 := if h.nr = 0 then s.me.o else 0x0

/-- The special registers that no access writes (R21 to R27). -/
def SameSpecials (m n : Master) : Prop :=
  m.proof = n.proof ∧ m.orphv = n.orphv ∧ m.wlim = n.wlim ∧ m.rlim = n.rlim ∧ m.errst = n.errst ∧ m.prio = n.prio ∧
  m.taskid = n.taskid ∧ m.lslot = n.lslot ∧ m.lgen = n.lgen ∧ m.slice = n.slice

/-- The same requests, but for when they return at the latest and whether a value that they bring is still kept (R213, R280). -/
def SameReqs (a b : List Req) : Prop :=
  a.map (fun r : Req => { r with drop := false, due := 0 }) = b.map fun r : Req => { r with drop := false, due := 0 }

/-- An engine has accepted a job (R125, R155, R183, R223): it stands last in the task's queue with the address of its
instruction, the PC has gone on and o holds `o`; every register, special register and other queue of the task, every
other master, every byte and version of memory and every tile is as before. -/
def QueuedO (s t : State) (e : Nat) (k : JobK) (words : Nat) (o : BitVec 4) : Prop :=
  t.cur = s.cur ∧ t.mem = s.mem ∧ t.vers = s.vers ∧ t.tiles = s.tiles ∧ t.ztag = s.ztag ∧ SameReqs t.reqs s.reqs ∧
  t.me.pc = nextPc s words ∧ t.me.o = o ∧ SameFiles t.me s.me ∧ SameSpecials t.me s.me ∧ t.me.pend = s.me.pend ∧
  (∀ f < 4, f ≠ e → t.me.queue f = s.me.queue f) ∧ (∀ p, p ≠ s.cur → t.ms p = s.ms p) ∧
  ∃ j, t.me.queue e = s.me.queue e ++ [j] ∧ j.k = k ∧ j.pc = s.me.pc ∧ j.unit = 0 ∧ j.held = false

/-- The same, with o as acceptance leaves it. -/
def Queued (s t : State) (e : Nat) (k : JobK) (words : Nat) (h : Hd) : Prop := QueuedO s t e k words (rdy s h)

/-- A queue after its head has left: the next job comes to the head in this cycle. -/
def popped (s : State) (q : List Job) : List Job :=
  match q.tail with
  | [] => []
  | j :: r => { j with at' := s.cyc } :: r

/-- An instruction has completed (R275): the issuing master's register files are those of `m`, its special registers stay, the
PC stands at the next instruction and o holds `o`; no register of another master has changed. -/
def Ends (s t : State) (m : Master) (words : Nat) (o : BitVec 4) : Prop :=
  t.cur = s.cur ∧ SameFiles t.me m ∧ SameSpecials t.me s.me ∧ t.me.pc = nextPc s words ∧ t.me.o = o ∧
  ∀ p, p ≠ s.cur → SameFiles (t.ms p) (s.ms p)

/-- The checks of R212 and the proof check pass, and nothing holds the access back: no earlier access, no slot, bank switch, job
or line in transfer (R213), and no master on its way to rest in its window (R439). -/
def Clear (s : State) (a : Acc) (key : Nat) : Prop :=
  s.check s.cur a = none ∧ s.me.orphan = none ∧ physKey s s.cur a.cap.space a.ea = some key ∧
  s.unitAhead s.cur key a.len = [] ∧ s.windowWaits key a.len = false ∧ s.slotFull s.cur key = false ∧
  s.switching s.cur a.cap.space a.ea a.len = false ∧ s.me.overlaps s.cur a.cap.space a.ea a.len a.excl = false ∧
  (a.write = true → s.claimed s.cur [(key, a.len)] = []) ∧
  (a.write = false → ∀ l ∈ s.absent [(key, a.len)], s.canTake (l1Of s.cur) l false = true)

/-- What a load and a store access (R212, R218). -/
def loadAcc (s : State) (x : MemOp) (perms : List Nat) (len align : Nat) (block : Bool) : Acc :=
  { cap := s.me.rc x.cap, perms := perms, sp := spLoad, ea := (s.me.ea x).toNat, len := len, align := align, block := block }
def storeAcc (s : State) (x : MemOp) (perms : List Nat) (len align : Nat) (block : Bool) : Acc :=
  { loadAcc s x perms len align block with sp := spStore, write := true, tile := true, excl := true }

/-- Memory holds `bs` from `key` on, their granules' tags are clear, and no other byte of any plane has changed (R217). -/
def Wrote (s t : State) (key : Nat) (bs : List Byte) : Prop :=
  (∀ i < bs.length, Tab.get 0 t.mem (key + i) = bs.getD i 0 ∧ Tab.get 0 t.mem (tagKey (key + i)) = 0) ∧
  ∀ k, (k < key ∨ key + bs.length ≤ k) → (∀ i < bs.length, k ≠ tagKey (key + i)) → Tab.get 0 t.mem k = Tab.get 0 s.mem k

/-- A posted request of the acting master has been sent, to be performed or to return later (R278, R299). -/
def Sent (s t : State) (k : ReqK) : Prop :=
  t.mem = s.mem ∧ t.vers = s.vers ∧ ∃ r, SameReqs t.reqs (s.reqs ++ [r]) ∧ r.id = s.nextReq ∧ r.pos = s.cur ∧ r.pc = s.me.pc ∧ r.k = k

/-- An instruction that its reply completes has been sent (R299): its master awaits the reply with the PC at it. -/
def SentAway (s t : State) (k : ReqK) : Prop :=
  Sent s t k ∧ t.cur = s.cur ∧ t.me.await = true ∧ t.me.pc = s.me.pc ∧ SameFiles t.me s.me ∧ SameSpecials t.me s.me ∧
  t.me.o = s.me.o ∧ t.tiles = s.tiles ∧ t.ztag = s.ztag ∧ ∀ p, p ≠ s.cur → SameFiles (t.ms p) (s.ms p)

/-- The unit at hand performs request `r`, whose reply a task or supervisor core awaits: parked on it within its wait limit, or
READY and ineligible (R293, R299). -/
def Awaits (s : State) (r : Req) : Prop :=
  s.req? s.cur = some r ∧ ((s.ms r.pos).kind = .task ∨ (s.ms r.pos).kind = .svc) ∧ (s.ms r.pos).await = true ∧
  (s.ms r.pos).exiting = false ∧ (s.ms r.pos).orphan = none ∧ r.pos ≠ nowhere ∧
  ((s.ms r.pos).st = .parked ∧ (s.ms r.pos).park = .reply ∧
      (s.ms r.pos).wait + (s.cyc - (s.ms r.pos).since) ≤ (s.ms r.pos).wlim.toNat ∨
    (s.ms r.pos).st = .ready ∧ (s.ms r.pos).park = .none)

/-- Request `r` has been answered: it is gone, and its instruction is complete with the register files of `m` and o. -/
def Answered (s t : State) (r : Req) (m : Master) (words : Nat) (o : BitVec 4) : Prop :=
  t.reqs = s.reqs.filter (fun q => q.id != r.id) ∧ (t.ms r.pos).await = false ∧ SameFiles (t.ms r.pos) m ∧
  (t.ms r.pos).pc = (s.ms r.pos).pc + BitVec.ofNat 64 (4 * words) ∧ (t.ms r.pos).o = o

/-- o after a request's RDY. -/
def rdyR (s : State) (r : Req) (h : Hd) : BitVec 4 := if h.nr = 0 then (s.ms r.pos).o else 0x0

/-- A machine in which one task stands in slot 0 of core 0 of die 0. -/
def oneTask (m : Master) : State := { State.reset with agenda := [], masters := [(0, m)] }

/-- A READY task of launch slot 1 with nothing outstanding. -/
def aTask : Master := { Master.empty with kind := .task, st := .ready, lslot := 1, lgen := 1, pc := 0x1000 }

end Sys2Proof.Claims

open Sys2Proof.Claims

/-! ## Scalar, control and special-register instructions (spec/05) -/

namespace Sys2Proof.Claims

/-- The results of R106, with `k` the low six bits of b. -/
def twoSource : List ((Alu → Instr) × (W64 → W64 → W64)) :=
  let k : W64 → Nat := fun b => b.toNat % 64
  let truth : Bool → W64 := fun c => if c then 1 else 0
  [(.add, fun a b => BitVec.ofNat 64 (a.toNat + b.toNat)), (.sub, fun a b => BitVec.ofInt 64 (a.toNat - b.toNat)),
   (.mul, fun a b => BitVec.ofNat 64 (a.toNat * b.toNat)), (.mulh, fun a b => BitVec.ofInt 64 (a.toInt * b.toInt / 2 ^ 64)),
   (.mulhu, fun a b => BitVec.ofNat 64 (a.toNat * b.toNat / 2 ^ 64)), (.and, fun a b => a &&& b), (.or, fun a b => a ||| b),
   (.xor, fun a b => a ^^^ b), (.andn, fun a b => a &&& ~~~b), (.shl, fun a b => BitVec.ofNat 64 (a.toNat * 2 ^ k b)),
   (.shr, fun a b => BitVec.ofNat 64 (a.toNat / 2 ^ k b)), (.sra, fun a b => BitVec.ofInt 64 (a.toInt / 2 ^ k b)),
   (.rot, fun a b => a.rotateLeft (k b)), (.min, fun a b => if b.toInt < a.toInt then b else a),
   (.max, fun a b => if a.toInt < b.toInt then b else a), (.minu, fun a b => if b.toNat < a.toNat then b else a),
   (.maxu, fun a b => if a.toNat < b.toNat then b else a), (.seq, fun a b => truth (a = b)), (.sne, fun a b => truth (a ≠ b)),
   (.slt, fun a b => truth (a.toInt < b.toInt)), (.sltu, fun a b => truth (a.toNat < b.toNat))]

/-- Quotients and remainders of R107: truncated, with the zero divisor and the overflowing quotient. -/
def divisions : List ((Alu → Instr) × (W64 → W64 → W64)) :=
  let ovf : W64 → W64 → Bool := fun a b => a.toInt = -(2 ^ 63) && b.toInt = -1
  [(.div, fun a b => if b = 0 then BitVec.allOnes 64 else if ovf a b then a else BitVec.ofInt 64 (a.toInt.tdiv b.toInt)),
   (.rem, fun a b => if b = 0 then a else if ovf a b then 0 else BitVec.ofInt 64 (a.toInt - a.toInt.tdiv b.toInt * b.toInt)),
   (.divu, fun a b => if b = 0 then BitVec.allOnes 64 else BitVec.ofNat 64 (a.toNat / b.toNat)),
   (.remu, fun a b => if b = 0 then a else BitVec.ofInt 64 (a.toNat - a.toNat / b.toNat * b.toNat))]

/-- The number of `i` below `n` from the top for which the bits read stay clear. -/
def leading (a : W64) : Nat := ((List.range 64).takeWhile fun i => !a.getLsbD (63 - i)).length
def trailing (a : W64) : Nat := ((List.range 64).takeWhile fun i => !a.getLsbD i).length
def ones (a : W64) : Nat := ((List.range 64).filter fun i => a.getLsbD i).length

def oneSource : List ((Alu1 → Instr) × (W64 → W64)) :=
  [(.clz, fun a => BitVec.ofNat 64 (leading a)), (.ctz, fun a => BitVec.ofNat 64 (trailing a)),
   (.popc, fun a => BitVec.ofNat 64 (ones a)), (.mov, fun a => a)]

/-- sext(a, n): the low n bits, read in two's complement (R9). -/
def sext (a : W64) (n : Nat) : W64 :=
  BitVec.ofInt 64 (if a.toNat % 2 ^ n < 2 ^ (n - 1) then (a.toNat % 2 ^ n : Int) else (a.toNat % 2 ^ n : Int) - 2 ^ n)

/-- The target of a direct branch: the first word's address plus four times the signed offset. -/
def target {n : Nat} (s : State) (off : Off n) : W64 := s.me.pc + 4 * Machine.Off.val off

/-- A code capability as R115 checks it: tagged, unsealed with EXEC, of space CODE, and holding the word at `tgt`. -/
def CodeOk (c : Cap) (tgt : W64) : Prop :=
  c.tag = true ∧ c.sealT = 0 ∧ c.has [pExec] = true ∧ c.space = 4 ∧ c.base ≤ tgt.toNat ∧ tgt.toNat + 4 ≤ c.top

/-- What a special register reads as in a task or a supervisor core, in the layouts of R22 to R27: TASKID, COORD, GRPID, GANGID,
LNCHID (generation and slot, 0 with no launch), STAGE, PROOF, ORPHV, WLIM, RLIM, PEND, TBMASK, ERRST, LSBASE, LSSIZE, ZBASE
(COUNT and BASE), PRIO, SLICE and NSLICE. -/
def launchFields (m : Master) : List (Nat × W64) :=
  let v : Nat → W64 := BitVec.ofNat 64
  [(0x00, v m.taskid), (0x01, m.coord), (0x02, v m.grpid), (0x03, v m.gangid),
   (0x04, v (if m.lgen = 0 then 0 else m.lgen % 65536 * 64 + m.lslot % 64)), (0x05, v m.stage), (0x06, v m.proof),
   (0x07, m.orphv), (0x08, m.wlim.setWidth 64), (0x09, m.rlim.setWidth 64), (0x0A, v m.pend), (0x0B, m.tbmask),
   (0x0D, m.errst.setWidth 64), (0x0E, v m.lsbase), (0x0F, v m.lssize), (0x10, v (16 * m.zcount + m.zbase)),
   (0x11, v m.prio), (0x13, v m.slice), (0x14, v m.nslice)]

/-- CYC: the cycles since the master's die joined the module (R22). -/
def cycles (s : State) : W64 := BitVec.ofNat 64 (s.cyc - (s.die (dieOf s.cur)).born)

/-- ROUND: that which the master's die is in: it has entered a round under way, or not (R22, R331). -/
def round (s : State) : Nat :=
  if s.round.opened ∧ dieOf s.cur ∈ s.round.entered then s.round.num + 1 else s.round.num

end Sys2Proof.Claims

/-- R106: each two-source instruction writes its result to sd, the PC goes on, and nothing else changes. A write to s0 is
discarded, by the register write itself (`s0ReadsZero`). -/
def Obligations.TwoSourceResults : Prop :=
  ∀ (s : State) (x : Alu) (p : (Alu → Instr) × (W64 → W64 → W64)), p ∈ twoSource → Issues s →
    exec (p.1 x) s = .next (stepped s x.p (nextPc s (Machine.Src.words x.b))
      (s.me.ws x.sd (p.2 (s.me.rs x.sa) (Machine.Src.val s.me x.b))))

/-- R107, R102: a division completes at issue with its quotient or remainder on its way to sd, and DIVIDE_RESULT_WRITE then
writes exactly that value to sd and leaves every other s register. -/
def Obligations.DivisionResults : Prop :=
  (∀ (s : State) (x : Alu) (p : (Alu → Instr) × (W64 → W64 → W64)), p ∈ divisions → Issues s →
    exec (p.1 x) s = .next (stepped s x.p (nextPc s (Machine.Src.words x.b))
      { s.me with div := some (x.sd.toNat, p.2 (s.me.rs x.sa) (Machine.Src.val s.me x.b)) })) ∧
  (∀ (s : State) (r : SReg) (v : W64), s.me.kind ≠ .empty → s.me.exiting = false → s.me.div = some (r.toNat, v) →
    ∃ t, exec .divideResultWrite s = .next t ∧ t.me.div = none ∧ t.mem = s.mem ∧
      ∀ i, t.me.rs i = if i = 0 then 0 else if i = r then v else s.me.rs i)

/-- R108 to R112: SEL, the one-source instructions, SXT and ZXT, the fields, ADDI and LI write their results to sd and
change nothing else but the PC. That BFI reads the old sd whole where sd is sa is the model's choice (DESIGN CHOICE,
notes/assumptions/95: R9 and R110 are silent). -/
def Obligations.OneSourceAndFieldResults : Prop :=
  ∀ s : State, Issues s →
    (∀ x : Sel, exec (.sel x) s = .next (stepped s x.p (nextPc s 3)
      (s.me.ws x.sd (if s.me.rs x.sc ≠ 0 then s.me.rs x.sa else s.me.rs x.sb)))) ∧
    (∀ (x : Alu1) (p : (Alu1 → Instr) × (W64 → W64)), p ∈ oneSource →
      exec (p.1 x) s = .next (stepped s x.h.p (nextPc s (Pl.words x.h)) (s.me.ws x.sd (p.2 (s.me.rs x.sa))))) ∧
    (∀ x : Xt, exec (.sxt x) s = .next (stepped s x.h.p (nextPc s (Pl.words x.h))
      (s.me.ws x.sd (sext (s.me.rs x.sa) (x.n1.toNat + 1))))) ∧
    (∀ x : Xt, exec (.zxt x) s = .next (stepped s x.h.p (nextPc s (Pl.words x.h))
      (s.me.ws x.sd (BitVec.ofNat 64 ((s.me.rs x.sa).toNat % 2 ^ (x.n1.toNat + 1)))))) ∧
    (∀ x : Bf, exec (.bfx x) s = .next (stepped s x.p (nextPc s (Machine.BfCtl.words x.ctl))
      (s.me.ws x.sd (BitVec.ofNat 64 ((s.me.rs x.sa).toNat / 2 ^ Machine.BfCtl.pos s.me x.ctl % 2 ^ Machine.BfCtl.len s.me x.ctl))))) ∧
    (∀ x : Bf, ∃ v : W64, exec (.bfi x) s = .next (stepped s x.p (nextPc s (Machine.BfCtl.words x.ctl)) (s.me.ws x.sd v)) ∧
      ∀ j < 64, v.getLsbD j =
        if Machine.BfCtl.pos s.me x.ctl ≤ j ∧ j < Machine.BfCtl.pos s.me x.ctl + Machine.BfCtl.len s.me x.ctl
        then (s.me.rs x.sa).getLsbD (j - Machine.BfCtl.pos s.me x.ctl) else (s.me.rs x.sd).getLsbD j) ∧
    (∀ x : Addi, exec (.addi x) s = .next (stepped s x.p (nextPc s 1) (s.me.ws x.sd (s.me.rs x.sa + x.imm.signExtend 64)))) ∧
    (∀ x : Li, exec (.li x) s = .next (stepped s x.p (nextPc s (Machine.LiK.words x.k)) (s.me.ws x.sd (Machine.LiK.val x.k))))

/-- R113, R114, R116, R284: a direct branch goes to its target when its condition holds and to the next instruction
otherwise; CALL writes s63; RET goes to sa with its low two bits 0; NOP goes on. Nothing else changes. BOC, BNR and BRDY are ILLEGAL in the handler slot
(R210, R294). -/
def Obligations.BranchesGoWhereTheySay : Prop :=
  ∀ s : State, Issues s →
    (∀ x : Bcc,
      let a := s.me.rs x.sa
      let b := s.me.rs x.sb
      let goes := fun (i : Instr) (c : Bool) =>
        exec i s = .next (stepped s x.p (if c then target s x.off else nextPc s (Machine.Off.words x.off)) s.me)
      goes (.beq x) (a = b) ∧ goes (.bne x) (a ≠ b) ∧ goes (.blt x) (a.toInt < b.toInt) ∧ goes (.bge x) (b.toInt ≤ a.toInt) ∧
      goes (.bltu x) (a.toNat < b.toNat) ∧ goes (.bgeu x) (b.toNat ≤ a.toNat)) ∧
    (∀ x : Bz, exec (.bz x) s = .next (stepped s x.p
        (if s.me.rs x.sa = 0 then target s x.off else nextPc s (Machine.Off.words x.off)) s.me)) ∧
    (∀ x : Bz, exec (.bnz x) s = .next (stepped s x.p
        (if s.me.rs x.sa = 0 then nextPc s (Machine.Off.words x.off) else target s x.off) s.me)) ∧
    (∀ x : Br, exec (.br x) s = .next (stepped s x.p (target s x.off) s.me)) ∧
    (∀ x : Br, exec (.call x) s = .next (stepped s x.p (target s x.off) (s.me.ws 63 (nextPc s (Machine.Off.words x.off))))) ∧
    (∀ x : S1, exec (.ret x) s = .next (stepped s x.h.p (s.me.rs x.sr &&& ~~~3) s.me)) ∧
    (∀ x : Pl, exec (.nop x) s = .next (stepped s x.p (nextPc s (Pl.words x)) s.me)) ∧
    (NoHandler s →
      (∀ x : Boc, exec (.boc x) s = .next (stepped s x.p
          (if s.me.o = x.code then target s x.off else nextPc s (Machine.Off.words x.off)) s.me)) ∧
      (∀ x : Br, exec (.bnr x) s = .next (stepped s x.p
          (if 1 ≤ s.me.o.toNat ∧ s.me.o.toNat ≤ 7 then target s x.off else nextPc s (Machine.Off.words x.off)) s.me)) ∧
      (∀ x : Br, exec (.brdy x) s = .next (stepped s x.p
          (if s.me.o = 0 then target s x.off else nextPc s (Machine.Off.words x.off)) s.me))) ∧
    (s.me.kind = .handler → ∀ (b : Boc) (x : Br),
      exec (.boc b) s = .next (illegal 2 s) ∧ exec (.bnr x) s = .next (illegal 2 s) ∧ exec (.brdy x) s = .next (illegal 2 s))

/-- R115: CALLI and JMPI go to sa with its low two bits 0 under a code capability that covers the word there; CALLI writes
s63 with the next instruction's address.
R115: the checks of a code capability, in their order: a clear tag is CAPTAG, a seal or no EXEC is CAPPERM, another space
than CODE is SPACE, and a target outside its bounds is CAPBOUND; the instruction then has no other effect; c0 fails the first. Both have OP 0x0E, with F 2
for CALLI and 3 for JMPI, cN in A and sa in B. -/
def Obligations.JumpsThroughCodeCapabilities : Prop :=
  (∀ (s : State) (x : Jmpi), Issues s → CodeOk (s.me.rc x.cN) (s.me.rs x.sa &&& ~~~3) →
     exec (.calli x) s = .next (stepped s x.h.p (s.me.rs x.sa &&& ~~~3) (s.me.ws 63 (nextPc s (Pl.words x.h)))) ∧
     exec (.jmpi x) s = .next (stepped s x.h.p (s.me.rs x.sa &&& ~~~3) s.me)) ∧
  (∀ (s : State) (x : Jmpi), Issues s →
     let c := s.me.rc x.cN
     let tgt := (s.me.rs x.sa &&& ~~~3).toNat
     let stops := fun (cause : Nat) => ∃ f : Flt, f.cause = cause ∧
       exec (.calli x) s = .next (s.fault f) ∧ exec (.jmpi x) s = .next (s.fault f)
     (c.tag = false → stops 0x02) ∧
     (c.tag = true → (c.sealT ≠ 0 ∨ c.has [pExec] = false) → stops 0x04) ∧
     (c.tag = true → c.sealT = 0 → c.has [pExec] = true → c.space ≠ 4 → stops 0x07) ∧
     (c.tag = true → c.sealT = 0 → c.has [pExec] = true → c.space = 4 → (tgt < c.base ∨ c.top < tgt + 4) → stops 0x03) ∧
     (x.cN = 0 → stops 0x02)) ∧
  (∀ (x : Jmpi) (i : Instr) (f : BitVec 2), (i = .calli x ∧ f = 2 ∨ i = .jmpi x ∧ f = 3) →
     let w := (encode i).headD 0
     w.extractLsb' 5 7 = 0x0E ∧ w.extractLsb' 30 2 = f ∧ w.extractLsb' 12 6 = x.cN.setWidth 6 ∧ w.extractLsb' 18 6 = x.sa)

/-- R22 to R27, R117, R119, R285, R289: MFS and RDCYC write registers with what the special registers hold, GETO with o and
ENGST with the engines' queues; MTS stores the RW fields, clears the W1C bits written with 1 and ignores the rest. Nothing else
changes but the PC.
R21, R117: a special-register number from 0x15 is ILLEGAL at run time, for MFS and for MTS, and neither has another
effect. R210, R294: in the handler slot MFS reads 0 but for CYC and ROUND, and GETO and ENGST are ILLEGAL at step 2.
(That MFS reads 0 also after the handler's own MTS is the model's choice, notes/assumptions/102; the model's reading of CYC: 10.) -/
def Obligations.SpecialRegisters : Prop :=
  (∀ s : State,
     (∀ (x : Mfs) (f : Nat × W64), f ∈ launchFields s.me → x.num.toNat = f.1 → Issues s →
       exec (.mfs x) s = .next (stepped s x.h.p (nextPc s (Pl.words x.h))
         (s.me.ws x.sr (if s.me.kind = .handler then 0 else f.2)))) ∧
     (∀ x : Mfs, Issues s → (x.num = 0x0C ∨ x.num = 0x12) →
       exec (.mfs x) s = .next (stepped s x.h.p (nextPc s (Pl.words x.h))
         (s.me.ws x.sr (if x.num = 0x0C then cycles s else BitVec.ofNat 64 (round s))))) ∧
     (∀ x : Mfs, Issues s → x.num.toNat ≤ 0x14 →
       let v := s.me.rs x.sr
       exec (.mts x) s = .next (stepped s x.h.p (nextPc s (Pl.words x.h))
         (if x.num = 0x07 then { s.me with orphv := v &&& ~~~3 }
          else if x.num = 0x08 then { s.me with wlim := if v.toNat % 2 ^ 32 < 256 then 256 else BitVec.ofNat 32 v.toNat }
          else if x.num = 0x09 then { s.me with rlim := BitVec.ofNat 8 v.toNat }
          else if x.num = 0x0D then { s.me with errst := s.me.errst &&& ~~~(BitVec.ofNat 4 v.toNat) }
          else s.me))) ∧
     (∀ x : Rdcyc, Issues s →
       exec (.rdcyc x) s = .next (stepped s x.h.p (nextPc s (Pl.words x.h))
         ((s.me.ws x.sd (cycles s)).ws x.se (BitVec.ofNat 64 (round s))))) ∧
     (∀ x : S1, NoHandler s →
       exec (.geto x) s = .next (stepped s x.h.p (nextPc s (Pl.words x.h)) (s.me.ws x.sr (BitVec.ofNat 64 s.me.o.toNat)))) ∧
     (∀ x : S1, NoHandler s →
       let posts := s.me.posts.length + (s.me.att.filter fun j => match j.k with | .atq .. => true | _ => false).length
       exec (.engst x) s = .next (stepped s x.h.p (nextPc s (Pl.words x.h)) (s.me.ws x.sr (BitVec.ofNat 64
         (s.me.vxe.length + 4 * s.me.mxe.length + 16 * s.me.cpe.length + 64 * s.me.att.length + (if s.me.cRep then 256 else 0) +
           512 * min posts 4 + 65536 * min (s.me.cAcc - s.me.cDone - s.me.cFail) 255)))))) ∧
  (∀ (s : State) (x : S1), s.me.kind = .handler →
     exec (.geto x) s = .next (illegal 2 s) ∧ exec (.engst x) s = .next (illegal 2 s)) ∧
  (∀ (s : State) (x : Mfs), Issues s → 0x14 < x.num.toNat →
     exec (.mfs x) s = .next (illegal 6 s) ∧ exec (.mts x) s = .next (illegal 6 s))

/-- R120, R32: TRAP and BKPT freeze their master and queue a packet with the cause, the instruction's address and the code;
a TRAP's task stands at the next instruction, a BKPT's at the BKPT. Registers and memory stay. P on them has no effect of its own (the
model's choice, notes/assumptions/103). -/
def Obligations.TrapAndBreakpointFreeze : Prop :=
  ∀ (s : State) (x : Trap), Issues s →
    let took := fun (o : Out) (cause : Nat) (pc : W64) => ∃ t p, o = .next t ∧
      t = (s.setM s.cur (atFault s pc)).setDie (dieOf s.cur)
        { s.die (dieOf s.cur) with pkts := (s.die (dieOf s.cur)).pkts ++ [p] } ∧
      p.type = 0 ∧ p.cause = cause ∧ p.pc = s.me.pc ∧ p.d0 = Machine.Off.code x.code ∧ p.d1 = 0 ∧ p.d2 = 0 ∧ p.d3 = 0 ∧
      p.pos = some s.cur ∧ p.round = round s
    took (exec (.trap x) s) 0x0C (nextPc s (Machine.Off.words x.code)) ∧ took (exec (.bkpt x) s) 0x0D s.me.pc

/-! ## The vector engine (spec/06) -/

namespace Sys2Proof.Claims

/-- The vector and mask instructions, with the s operands that acceptance samples (R126). -/
def vxeForm (i : Instr) (m : Master) : Option (Hd × W64 × W64) :=
  match i with
  | .vadd x | .vsub x | .vmul x | .vmulh x | .vmin x | .vmax x | .vand x | .vor x | .vxor x | .vshl x | .vshr x | .vsra x
  | .vadds x | .vsubs x | .vfadd x | .vfsub x | .vfmul x | .vfmin x | .vfmax x | .vsel x | .vperm x => some (x.h, 0, 0)
  | .vabs x | .vrcp x | .vrsq x | .vex2 x | .vlg2 x | .vmov x => some (x.h, 0, 0)
  | .vfma x => some (x.h, 0, 0)
  | .vcvt x => some (x.h, 0, 0)
  | .vcmp x | .vfcmp x => some (x.h, 0, 0)
  | .vred x => some (x.h, 0, 0)
  | .mand x | .mor x | .mxor x => some (x.h, 0, 0)
  | .mnot x => some (x.h, 0, 0)
  | .mpop x | .mfirst x => some (x.h, 0, 0)
  | .vbcast x => some (x.h, m.rs x.sa, 0)
  | .vins x => some (x.h, m.rs x.sa, m.rs x.sb)
  | .vext x => some (x.h, 0, m.rs x.sb)
  | .vslide x => some (x.h, 0, m.rs x.sb)
  | .vdsx x => some (x.h, 0, m.rs x.sb)
  | _ => none

/-- The signed value of an element of `w` bits, and its saturation. -/
def signed (w x : Nat) : Int := if x < 2 ^ (w - 1) then x else (x : Int) - 2 ^ w
def saturate (w : Nat) (x : Int) : Int := max (-(2 ^ (w - 1))) (min (2 ^ (w - 1) - 1) x)

/-- The element types of the integer instructions with their widths, and of the floating-point ones with their formats (R63, R122). -/
def intTypes : List (BitVec 4 × Nat) := [(0, 32), (1, 8), (2, 16), (3, 32), (4, 64)]
def fpTypes : List (BitVec 4 × Nat × Ff) := [(0, 32, ffF), (9, 32, ffF), (7, 16, ffHF), (8, 16, ffBF)]

/-- The integer results of R129 on elements of `w` bits, as exact integers before the low w bits are kept. -/
def laneOps : List ((V3 → Instr) × (Nat → Nat → Nat → Int)) :=
  [(.vadd, fun _ x y => x + y), (.vsub, fun _ x y => x - y), (.vmul, fun _ x y => x * y),
   (.vmulh, fun w x y => signed w x * signed w y / 2 ^ w), (.vmin, fun w x y => min (signed w x) (signed w y)),
   (.vmax, fun w x y => max (signed w x) (signed w y)), (.vand, fun _ x y => (x &&& y : Nat)), (.vor, fun _ x y => (x ||| y : Nat)),
   (.vxor, fun _ x y => (x ^^^ y : Nat)), (.vshl, fun w x y => if w ≤ y then 0 else x * 2 ^ y), (.vshr, fun w x y => if w ≤ y then 0 else x / 2 ^ y),
   (.vsra, fun w x y => signed w x / 2 ^ (min y (w - 1))), (.vadds, fun w x y => saturate w (signed w x + signed w y)),
   (.vsubs, fun w x y => saturate w (signed w x - signed w y))]

/-- The exact results of VFADD, VFSUB and VFMUL (R130). -/
def fpOps : List ((V3 → Instr) × (Nat → Machine.Num → Machine.Num → Machine.Num)) :=
  [(.vfadd, fun rm x y => Machine.Num.add rm x y), (.vfsub, fun rm x y => Machine.Num.add rm x y.negate), (.vfmul, fun _ x y => Machine.Num.mul x y)]

/-- The smaller and the larger of two elements (R130): -0 stands below +0, and a NaN makes the canonical NaN. -/
def fpMin (f : Ff) (x y : Nat) : Nat :=
  if f.num x = .nan ∨ f.num y = .nan then f.nan
  else if Machine.Num.lt (f.num x) (f.num y) = true ∨ Machine.Num.lt (f.num y) (f.num x) = false ∧ (f.num x).sign = true then x else y
def fpMax (f : Ff) (x y : Nat) : Nat :=
  if f.num x = .nan ∨ f.num y = .nan then f.nan
  else if Machine.Num.lt (f.num x) (f.num y) = true ∨ Machine.Num.lt (f.num y) (f.num x) = false ∧ (f.num x).sign = true then y else x

/-- The conditions of VCMP, on elements of w bits, and of VFCMP, on values (R132). -/
def intConds : List (BitVec 4 × (Nat → Nat → Nat → Bool)) :=
  [(0, fun _ x y => x = y), (1, fun _ x y => x ≠ y), (2, fun w x y => signed w x < signed w y), (3, fun w x y => signed w x ≤ signed w y),
   (4, fun w x y => signed w y < signed w x), (5, fun w x y => signed w y ≤ signed w x), (10, fun _ x y => x < y), (11, fun _ x y => x ≤ y),
   (12, fun _ x y => y < x), (13, fun _ x y => y ≤ x)]
def fpConds : List (BitVec 4 × (Machine.Num → Machine.Num → Bool)) :=
  let un := fun (x y : Machine.Num) => x = .nan || y = .nan
  let lt := Machine.Num.lt
  [(0, fun x y => !un x y && !lt x y && !lt y x), (1, fun x y => un x y || lt x y || lt y x), (2, lt), (3, fun x y => !un x y && !lt y x),
   (4, fun x y => lt y x), (5, fun x y => !un x y && !lt x y), (6, un), (7, fun x y => !un x y)]

/-- An instruction on elements of w bits has written the low w bits of `g e` to every active element e of vd; the inactive elements and
every other register are as before (R124). -/
def Lanes (m n : Master) (vd : VReg) (msk : MReg) (w : Nat) (g : Nat → Nat) : Prop :=
  n.s = m.s ∧ n.m = m.m ∧ (∀ r, r ≠ vd → n.rv r = m.rv r) ∧
  ∀ e < 1024 / w, vElem (n.rv vd) w e = if (m.rm msk).getLsbD (e * (w / 8)) then g e % 2 ^ w else vElem (m.rv vd) w e

/-- A comparison of elements of w bits has written all bytes of every element of md, with the condition at the active ones and 0 at the
others; a write of m0 is discarded (R17, R132). -/
def Compared (m n : Master) (md msk : MReg) (w : Nat) (c : Nat → Bool) : Prop :=
  n.s = m.s ∧ n.v = m.v ∧ (∀ r, r ≠ md ∨ r = 0 → n.rm r = m.rm r) ∧
  (md ≠ 0 → ∀ e < 1024 / w, ∀ b < w / 8, (n.rm md).getLsbD (e * (w / 8) + b) = ((m.rm msk).getLsbD (e * (w / 8)) && c e))

/-- Level k of the tree of R136 over the elements t, at place j. -/
def tree (op : Nat → Nat → Nat) (t : Nat → Nat) : Nat → Nat → Nat
  | 0, j => t j
  | k + 1, j => op (tree op t k (2 * j)) (tree op t k (2 * j + 1))

/-- The operation of VRED and its identity, on integers of w bits and on floating-point elements (R136). -/
def intRed (w : Nat) : List (BitVec 2 × (Nat → Nat → Nat) × Nat) :=
  [(0, fun x y => (x + y) % 2 ^ w, 0), (1, fun x y => if signed w x ≤ signed w y then x else y, 2 ^ (w - 1) - 1),
   (2, fun x y => if signed w x ≤ signed w y then y else x, 2 ^ (w - 1))]
def fpRed (f : Ff) (rm : Nat) : List (BitVec 2 × (Nat → Nat → Nat) × Nat) :=
  [(0, fun x y => f.round rm true (Machine.Num.add rm (f.num x) (f.num y)), f.signBit), (1, fpMin f, f.infCode), (2, fpMax f, f.withSign true f.infCode)]

end Sys2Proof.Claims

/-- R125, R126: a vector or mask instruction of a task with a free VXE entry is accepted, with its s operands as they are now;
its results come later. -/
def Obligations.VectorAcceptance : Prop :=
  ∀ (s : State) (i : Instr) (h : Hd) (a b : W64), vxeForm i s.me = some (h, a, b) → IsTask s → s.me.vxe.length < 2 →
    ∃ t, exec i s = .next t ∧ Queued s t 0 (.vxe i a b) h.words h

/-- R126: VXE_EXECUTE performs the command at the head of the queue on the task's registers as they then are, and frees its
entry; memory, c and q registers stay. -/
def Obligations.VectorExecution : Prop :=
  ∀ (s : State) (j : Job) (i : Instr) (a b : W64), IsTask s → s.me.exiting = false → s.me.saving = none →
    s.me.vxe.head? = some j → j.k = .vxe i a b → j.bad = false →
    ∃ t, exec .vxeExecute s = .next t ∧ t.me.vxe = popped s s.me.vxe ∧ SameFiles t.me (s.me.vxeRun i a b) ∧ t.mem = s.mem ∧
      (s.me.vxeRun i a b).c = s.me.c ∧ (s.me.vxeRun i a b).q = s.me.q

/-- R122, R124, R129: an element-wise integer instruction on elements of w bits writes, to each active element of vd, the low
w bits of its exact result on the elements of va and vb, VABS those of the absolute value; the inactive elements and every other register
stay. R130: VFADD, VFSUB, VFMUL and VFMA write the exact result rounded once by RM, with overflow by the .NS column of R97; VFMIN and VFMAX
write the smaller and the larger element. R131: what VRCP, VRSQ and VLG2 write for zeros, infinities, NaN and negative values, VRCP and
VLG2 also for powers of two; VEX2 for NaN, from 128 on, to -150 and for every integer between, and for the narrower types the FP32 result
rounded once more. -/
def Obligations.VectorArithmeticLanes : Prop :=
  ∀ m : Master,
    (∀ (x : V3) (p : (V3 → Instr) × (Nat → Nat → Nat → Int)) (w : Nat), p ∈ laneOps → (x.et, w) ∈ intTypes →
      Lanes m (m.vxeRun (p.1 x) 0 0) x.vd x.msk w fun e => (p.2 w (vElem (m.rv x.va) w e) (vElem (m.rv x.vb) w e) % 2 ^ w).toNat) ∧
    (∀ (x : V2) (w : Nat), (x.et, w) ∈ intTypes →
      Lanes m (m.vxeRun (.vabs x) 0 0) x.vd x.msk w fun e => (signed w (vElem (m.rv x.va) w e)).natAbs) ∧
    (∀ (x : V3) (w : Nat) (f : Ff), (x.et, w, f) ∈ fpTypes →
      let a := fun (e : Nat) => vElem (m.rv x.va) w e
      let b := fun (e : Nat) => vElem (m.rv x.vb) w e
      (∀ p ∈ fpOps, Lanes m (m.vxeRun (p.1 x) 0 0) x.vd x.msk w fun e =>
        f.round x.rm.toNat true (p.2 x.rm.toNat (f.num (a e)) (f.num (b e)))) ∧
      Lanes m (m.vxeRun (.vfmin x) 0 0) x.vd x.msk w (fun e => fpMin f (a e) (b e)) ∧
      Lanes m (m.vxeRun (.vfmax x) 0 0) x.vd x.msk w (fun e => fpMax f (a e) (b e))) ∧
    (∀ (x : V4) (w : Nat) (f : Ff), (x.et, w, f) ∈ fpTypes →
      Lanes m (m.vxeRun (.vfma x) 0 0) x.vd x.msk w fun e => f.round x.rm.toNat true
        (Machine.Num.add x.rm.toNat (Machine.Num.mul (f.num (vElem (m.rv x.va) w e)) (f.num (vElem (m.rv x.vb) w e)))
          (f.num (vElem (m.rv x.vc) w e)))) ∧
    (∀ (x : V2) (w : Nat) (f : Ff), (x.et, w, f) ∈ fpTypes →
      let one := fun (k : V2 → Instr) (r : Machine.Num → Nat → Prop) =>
        ∀ e < 1024 / w, (m.rm x.msk).getLsbD (e * (w / 8)) = true →
          r (f.num (vElem (m.rv x.va) w e)) (vElem ((m.vxeRun (k x) 0 0).rv x.vd) w e)
      one .vrcp (fun a r => (a = .nan → r = f.nan) ∧ (∀ s, a = .inf s → r = f.withSign s 0) ∧ (∀ s e, a = .fin s 0 e → r = f.withSign s f.infCode) ∧
        ∀ (s : Bool) (k : Nat) (e : Int), a = .fin s (2 ^ k) e → r = f.round x.rm.toNat true (.fin s 1 (-(e + k)))) ∧
      one .vrsq (fun a r => (a = .nan ∨ a = .inf true ∨ (∃ k e, a = .fin true (k + 1) e) → r = f.nan) ∧ (a = .inf false → r = 0) ∧
        ∀ s e, a = .fin s 0 e → r = f.withSign s f.infCode) ∧
      one .vlg2 (fun a r => (a = .nan ∨ a = .inf true ∨ (∃ k e, a = .fin true (k + 1) e) → r = f.nan) ∧ (a = .inf false → r = f.infCode) ∧
        (∀ s e, a = .fin s 0 e → r = f.withSign true f.infCode) ∧
        ∀ (k : Nat) (e : Int), a = .fin false (2 ^ k) e → r = f.round x.rm.toNat true (Machine.Num.ofInt (e + k)))) ∧
    (∀ x : V2, x.et = 0 ∨ x.et = 9 → ∀ e < 32, (m.rm x.msk).getLsbD (e * 4) = true →
      let c := vElem (m.rv x.va) 32 e
      let r := vElem ((m.vxeRun (.vex2 x) 0 0).rv x.vd) 32 e
      (ffF.num c = .nan → r = ffF.nan) ∧ (ffF.num c ≠ .nan → Machine.Num.lt (ffF.num c) (Machine.Num.ofInt 128) = false → r = ffF.infCode) ∧
      (ffF.num c ≠ .nan → Machine.Num.lt (Machine.Num.ofInt (-150)) (ffF.num c) = false → r = 0) ∧
      ∀ k : Int, -149 ≤ k → k ≤ 127 → c = ffF.round 0 true (Machine.Num.ofInt k) → r = ffF.round 0 true (.fin false 1 k)) ∧
    ∀ (x : V2) (f : Ff), (x.et, f) ∈ [((7 : BitVec 4), ffHF), (8, ffBF)] →
      Lanes m (m.vxeRun (.vex2 x) 0 0) x.vd x.msk 16 fun e =>
        f.round x.rm.toNat true (ffF.num (exp2a (ffF.round 0 true (f.num (vElem (m.rv x.va) 16 e)))))

/-- R136: VRED writes to element 0 of vd, and 0 to the others, the top of the tree over the active elements, with the identity of the
operation at the inactive ones: the sum, the smallest or the largest, of integers or of floating-point elements; the sum of 32-bit integers
is thus their sum modulo 2^32. R132: VCMP and VFCMP write every byte of the elements of md. R133, R137: VSEL, VPERM, VBCAST, VINS, VEXT,
VSLIDE and VMOV. R134, R135: VCVT converts element by element, the part of the source that PART selects or into the part of vd that it
selects, each value rounded once by R97 or R98, and VDSX gives the dual-shift values at the scale sampled from sb. R138: MNOT inverts a
mask, MAND, MOR and MXOR combine two, and of a mask's elements of 1, 2, 4 or 8 bytes (4 with no type) MPOP counts the active ones and
MFIRST finds the first, or the number of elements when none is active. -/
def Obligations.VectorMovementAndMasks : Prop :=
  ∀ m : Master,
    (∀ (x : VRedA) (w k : Nat), (x.et, w) ∈ intTypes → w * 2 ^ k = 1024 → ∀ p ∈ intRed w, x.op = p.1 →
      m.vxeRun (.vred x) 0 0 = m.wv x.vd (BitVec.ofNat 1024
        (tree p.2.1 (fun e => if (m.rm x.msk).getLsbD (e * (w / 8)) then vElem (m.rv x.va) w e else p.2.2) k 0))) ∧
    (∀ (x : VRedA) (w k : Nat) (f : Ff), x.et ≠ 0 → (x.et, w, f) ∈ fpTypes → w * 2 ^ k = 1024 → ∀ p ∈ fpRed f x.rm.toNat, x.op = p.1 →
      m.vxeRun (.vred x) 0 0 = m.wv x.vd (BitVec.ofNat 1024
        (tree p.2.1 (fun e => if (m.rm x.msk).getLsbD (e * (w / 8)) then vElem (m.rv x.va) w e else p.2.2) k 0))) ∧
    (∀ x : VRedA, x.op = 0 → (x.et = 0 ∨ x.et = 3) →
      (m.vxeRun (.vred x) 0 0).rv x.vd = BitVec.ofNat 1024
        (((List.range 32).map fun e => if (m.rm x.msk).getLsbD (4 * e) then vElem (m.rv x.va) 32 e else 0).sum % 2 ^ 32)) ∧
    (∀ (x : VCmpA) (w : Nat), (x.et, w) ∈ intTypes → ∀ p ∈ intConds, x.cond = p.1 →
      Compared m (m.vxeRun (.vcmp x) 0 0) x.md x.msk w fun e => p.2 w (vElem (m.rv x.va) w e) (vElem (m.rv x.vb) w e)) ∧
    (∀ (x : VCmpA) (w : Nat) (f : Ff), (x.et, w, f) ∈ fpTypes → ∀ p ∈ fpConds, x.cond = p.1 →
      Compared m (m.vxeRun (.vfcmp x) 0 0) x.md x.msk w fun e => p.2 (f.num (vElem (m.rv x.va) w e)) (f.num (vElem (m.rv x.vb) w e))) ∧
    (∀ (x : V3) (w : Nat), (x.et, w) ∈ intTypes →
      Lanes m (m.vxeRun (.vperm x) 0 0) x.vd x.msk w (fun e =>
        if vElem (m.rv x.vb) w e < 1024 / w then vElem (m.rv x.va) w (vElem (m.rv x.vb) w e) else 0) ∧
      let n := m.vxeRun (.vsel x) 0 0
      n.s = m.s ∧ n.m = m.m ∧ (∀ r, r ≠ x.vd → n.rv r = m.rv r) ∧
      ∀ e < 1024 / w, vElem (n.rv x.vd) w e = vElem (m.rv (if (m.rm x.msk).getLsbD (e * (w / 8)) then x.va else x.vb)) w e) ∧
    (∀ (x : V2) (w : Nat), (x.et, w) ∈ intTypes → Lanes m (m.vxeRun (.vmov x) 0 0) x.vd x.msk w fun e => vElem (m.rv x.va) w e) ∧
    (∀ (x : VBcA) (w : Nat) (a : W64), (x.et, w) ∈ intTypes → Lanes m (m.vxeRun (.vbcast x) a 0) x.vd x.msk w fun _ => a.toNat) ∧
    (∀ (x : VSlA) (w : Nat) (b : W64), (x.et, w) ∈ intTypes →
      Lanes m (m.vxeRun (.vslide x) 0 b) x.vd x.msk w fun e =>
        if 0 ≤ e + b.toInt ∧ e + b.toInt < (1024 / w : Nat) then vElem (m.rv x.va) w (e + b.toInt).toNat else 0) ∧
    (∀ (x : VInsA) (w : Nat) (a b : W64), (x.et, w) ∈ intTypes →
      let n := m.vxeRun (.vins x) a b
      (1024 / w ≤ b.toNat → n = m) ∧ (b.toNat < 1024 / w → n.s = m.s ∧ n.m = m.m ∧ (∀ r, r ≠ x.vd → n.rv r = m.rv r) ∧
        ∀ e < 1024 / w, vElem (n.rv x.vd) w e = if e = b.toNat then a.toNat % 2 ^ w else vElem (m.rv x.vd) w e)) ∧
    (∀ (x : VExtA) (w : Nat) (b : W64), (x.et, w) ∈ intTypes →
      m.vxeRun (.vext x) 0 b = m.ws x.sd (if b.toNat < 1024 / w then BitVec.ofInt 64 (signed w (vElem (m.rv x.va) w b.toNat)) else 0)) ∧
    (∀ x : VCvtA, x.ok = true →
      let ws := etWidth x.src.toNat
      let wd := etWidth x.et.toNat
      let n := 1024 / max ws wd
      let r := m.vxeRun (.vcvt x) 0 0
      r.s = m.s ∧ r.m = m.m ∧ (∀ v, v ≠ x.vd → r.rv v = m.rv v) ∧
      ∀ e < 1024 / wd, vElem (r.rv x.vd) wd e =
        if (m.rm x.msk).getLsbD (e * (wd / 8)) = true ∧ (ws ≤ wd ∨ x.part.toNat * n ≤ e ∧ e < x.part.toNat * n + n) then
          etRound x.et.toNat x.ud x.rm.toNat x.ov (etNum x.src.toNat x.us
            (vElem (m.rv x.va) ws (if ws ≤ wd then x.part.toNat * n + e else e - x.part.toNat * n))) % 2 ^ wd
        else vElem (m.rv x.vd) wd e) ∧
    (∀ (x : VDsxA) (w : Nat) (f : Ff) (b : W64), x.et ≠ 0 → (x.et, w, f) ∈ fpTypes →
      Lanes m (m.vxeRun (.vdsx x) 0 b) x.vd x.msk w fun e =>
        let c := vElem (m.rv x.va) (if x.n4 then 4 else 8) (x.part.toNat * (1024 / w) + e)
        f.round x.rm.toNat x.ov (Machine.Num.scale (b.setWidth 8).toInt (dsNum (if x.n4 then ds4Units c else ds8Units c)))) ∧
    (∀ x : M3, (m.vxeRun (.mand x) 0 0) = m.wm x.md (m.rm x.ma &&& m.rm x.mb) ∧
      (m.vxeRun (.mor x) 0 0) = m.wm x.md (m.rm x.ma ||| m.rm x.mb) ∧ (m.vxeRun (.mxor x) 0 0) = m.wm x.md (m.rm x.ma ^^^ m.rm x.mb)) ∧
    (∀ x : M2, (m.vxeRun (.mnot x) 0 0) = m.wm x.md (~~~(m.rm x.ma))) ∧
    (∀ (x : MCnt) (w : Nat), (x.et.toNat, w) ∈ [(0, 4), (1, 1), (2, 2), (3, 4), (4, 8)] →
      let active := fun (e : Nat) => (m.rm x.ma).getLsbD (w * e)
      (m.vxeRun (.mpop x) 0 0) = m.ws x.sd (BitVec.ofNat 64 ((List.range (128 / w)).filter active).length) ∧
      (m.vxeRun (.mfirst x) 0 0) = m.ws x.sd (BitVec.ofNat 64 ((List.range (128 / w)).takeWhile fun e => !active e).length))

/-! ## The matrix engine (spec/07) -/

namespace Sys2Proof.Claims

/-- The values that the tensor block gives, its registers' among them, are within R149's limits. -/
def TpOk (m : Master) (t : TP) : Prop :=
  tpVal m t.ms t.m ≤ 32 ∧ tpVal m t.ns t.n ≤ 32 ∧ tpK m t ≤ 1024 ∧ tpStride m t.sas t.sa % 64 = 0 ∧ tpStride m t.sbs t.sb % 64 = 0 ∧
  (t.mcm = 2 → (m.rs t.mc).toNat % 64 < 16)

/-- The operand at `ea` of length `len` passes the checks of R150 and R151, and no bank that it touches is switching (R200). -/
def OpOk (s : State) (opn : Nat) (c : Cap) (ea : W64) (len : Nat) (write : Bool) (mc : Option Nat) : Prop :=
  s.mxeFlt s.cur opn c ea len write mc = none ∧ s.fpBusy s.cur (mkFpBlk s.cur c.space (mcEa mc ea).toNat len) = false

/-- The checks of R149 and R150 on an MMA's block pass. -/
def MmaOk (s : State) (x : Mma) : Prop :=
  s.me.noTile x.zd = false ∧ TpOk s.me x.tp ∧
  let m := tpVal s.me x.tp.ms x.tp.m
  let n := tpVal s.me x.tp.ns x.tp.n
  let k := tpK s.me x.tp
  let sa := tpStride s.me x.tp.sas x.tp.sa
  let sb := tpStride s.me x.tp.sbs x.tp.sb
  let zero : Bool := m = 0 || n = 0 || k = 0
  OpOk s 0 (s.me.rc x.tp.acap) (s.me.rc x.tp.acap).cursor (if zero then 0 else opExtent m k sa x.tp.ta) false none ∧
  OpOk s 1 (s.me.rc x.tp.bcap) (s.me.rc x.tp.bcap).cursor (if zero then 0 else opExtent n k sb x.tp.tb) false (tpCore s.me x.tp)

/-- The checks of R164 on an MMAS's block pass. -/
def MmasOk (s : State) (x : Mma) : Prop :=
  s.me.noTile x.zd = false ∧ TpOk s.me x.tp ∧
  let m := tpVal s.me x.tp.ms x.tp.m
  let n := tpVal s.me x.tp.ns x.tp.n
  let k := tpK s.me x.tp
  let sa := tpStride s.me x.tp.sas x.tp.sa
  let sb := tpStride s.me x.tp.sbs x.tp.sb
  let len := if m = 0 ∨ n = 0 ∨ k = 0 then 0 else (k - 1) * sb + (m - 1) * sa + 4 * n
  OpOk s 0 (s.me.rc x.tp.acap) (s.me.rc x.tp.acap).cursor len false none

/-- A field of the shape record that MMA.BGS reads (R165, R166). -/
def shape (s : State) (lo n : Nat) : Nat := (s.shapeRecord.extractLsb' lo n).toNat

/-- Element e of the tile that a task names z, as the core at the acting position holds it (R140). -/
def elem (s : State) (z e : Nat) : W32 := s.tile (coreOf s.cur) (s.me.phys z) e

/-- The source core of operand B under multicast (R151): a number, or the low bits of a register. -/
def sourceCore (m : Master) (t : TP) : Nat := if t.mcm = 1 then t.mc.toNat % 16 else (m.rs t.mc).toNat % 16

/-- Operand A, and operand B: under multicast the remote place of the source core's LS (R151, R195). -/
def operandA (m : Master) (t : TP) : Opd := { sp := (m.rc t.acap).space, ea := (m.rc t.acap).cursor }
def operandB (m : Master) (t : TP) : Opd :=
  { sp := (m.rc t.bcap).space
    ea := if t.mcm = 0 then (m.rc t.bcap).cursor
          else BitVec.ofNat 64 (0x400000 + 0x40000 * sourceCore m t + (m.rc t.bcap).cursor.toNat) }

/-- `u` is floor(log2) of the greatest nonzero term. -/
def Greatest (ts : List Machine.Num) (u : Int) : Prop :=
  (∃ t ∈ ts, t.isZero = false ∧ t.log2 = u) ∧ ∀ t ∈ ts, t.isZero = false → t.log2 ≤ u

/-- A walk of a skip stream, of which `rd16` reads the entries: from the q register `q` it leaves `q'`, and the step is performed or
omitted (R154). -/
inductive Walk (rd16 : Nat → Nat) : W64 → W64 → Bool → Prop
  | exhausted (q : W64) : qRem q = 0 → (qAddr q = qEnd q ∨ qAddr q % 2 ≠ qEnd q % 2) → Walk rd16 q q true
  | inRun (q : W64) : qRem q ≠ 0 → Walk rd16 q (qMake (qAddr q) (qEnd q) (qRem q - 1) (qKind q)) (qKind q)
  | nextRun (q q' : W64) (p : Bool) : qRem q = 0 → qAddr q ≠ qEnd q → qAddr q % 2 = qEnd q % 2 →
      Walk rd16 (qMake ((qAddr q + 2) % 2 ^ 18) (qEnd q) (rd16 (qAddr q) % 2 ^ 15) (rd16 (qAddr q) / 2 ^ 15 = 1)) q' p →
      Walk rd16 q q' p

/-- The skip stream of a job, if it has one, is walked without meeting an error: `q'` is the register after the walk. -/
def WalksTo (s : State) (j : Job) (q : Option Nat) (q' : W64) (perform : Bool) : Prop :=
  match q with
  | none => perform = true
  | some n => s.mxeBad s.cur j [] [n] = none ∧
      (∀ off < 2 ^ 18, s.rd8 (s.rdr s.cur j.proof) (poisonKey (lsKey (coreOf s.cur) off)) = 0) ∧
      Walk (s.ls16 (s.rdr s.cur j.proof) (coreOf s.cur)) (s.me.rq (BitVec.ofNat 2 n)) q' perform

/-- The acting master after such a walk. -/
def afterWalk (m : Master) (q : Option Nat) (q' : W64) : Master :=
  match q with
  | none => m
  | some n => m.wq (BitVec.ofNat 2 n) q'

/-- The head of the matrix queue has taken its step of `k`: it is at the next one, or has left the queue. -/
def Stepped (s t : State) (j : Job) (k : Nat) : Prop :=
  if j.unit + 1 < k then t.me.mxe.head?.map (fun x => (x.k, x.unit)) = some (j.k, j.unit + 1) ∧ t.me.mxe.tail = s.me.mxe.tail
  else t.me.mxe = popped s s.me.mxe

end Sys2Proof.Claims

/-- R155, R163, R164: an MMA or MMAS whose parameters and operands pass their checks is accepted into the MXE queue with the
tile, the operands and strides, the rows, columns and steps, the multicast source (R151) and the skip stream of its block; a zero
among the rows, columns and steps leaves no step. An MMAS's slices stand SB apart and their rows SA apart.
R165, R166: MMA.BGS of a launch in COMPAT mode reads the shape record; a rank beyond the PK partitions of K is accepted
with nothing to do, and another with the rows, columns and steps of the record, if its operands pass their checks.
(The model's readings there: notes/assumptions/36, 39.) -/
def Obligations.MultiplyAcceptance : Prop :=
  (∀ (s : State) (x : Mma), FreeEntry s 1 →
     let m := tpVal s.me x.tp.ms x.tp.m
     let n := tpVal s.me x.tp.ns x.tp.n
     let k := tpK s.me x.tp
     let steps := if m = 0 ∨ n = 0 ∨ k = 0 then 0 else k
     let sa := tpStride s.me x.tp.sas x.tp.sa
     let sb := tpStride s.me x.tp.sbs x.tp.sb
     (MmaOk s x → ∃ t, exec (.mma x) s = .next t ∧
       Queued s t 1 (.mma x.zd.toNat (operandA s.me x.tp) (operandB s.me x.tp) sa sb m n steps x.tp.ta x.tp.tb
         (if x.tp.mcm = 0 then 0 else 1) (if x.tp.mcm = 0 then 0 else sourceCore s.me x.tp)
         (if x.tp.qe then some x.tp.q.toNat else none) false) 7 x.h) ∧
     (MmasOk s x → ∃ t, exec (.mmas x) s = .next t ∧ Queued s t 1 (.mmas x.zd.toNat (operandA s.me x.tp) sb m n steps sa) 7 x.h)) ∧
  (∀ (s : State) (x : MmaBgs) (l : Launch), FreeEntry s 1 → s.me.noTile x.zd = false → s.launch? s.me.lslot = some l → l.compat = true →
     shapeOk s.shapeRecord = true →
     let rk := s.me.slice / (shape s 80 16 * shape s 96 16)
     (shape s 112 16 ≤ rk → ∃ t a b, exec (.mmaBgs x) s = .next t ∧
       Queued s t 1 (.mma x.zd.toNat a b 0 0 0 0 0 false false 0 0 none true) x.h.words x.h) ∧
     (rk < shape s 112 16 →
       let rm := s.me.slice % shape s 80 16
       let rn := s.me.slice / shape s 80 16 % shape s 96 16
       let ca := s.me.rc (BitVec.ofNat 4 (shape s 32 4))
       let cb := s.me.rc (BitVec.ofNat 4 (shape s 36 4))
       let ea := ca.cursor + BitVec.ofNat 64 (shape s 192 64 + rm * shape s 320 32 + rk * shape s 384 32)
       let eb := cb.cursor + BitVec.ofNat 64 (shape s 256 64 + rn * shape s 352 32 + rk * shape s 416 32)
       let ta := s.shapeRecord.getLsbD 40
       let tb := s.shapeRecord.getLsbD 41
       OpOk s 0 ca ea (opExtent (shape s 48 6) (shape s 64 11) (shape s 128 20) ta) false none →
       OpOk s 1 cb eb (opExtent (shape s 56 6) (shape s 64 11) (shape s 160 20) tb) false none →
       ∃ t, exec (.mmaBgs x) s = .next t ∧
         Queued s t 1 (.mma x.zd.toNat { sp := ca.space, ea := ea } { sp := cb.space, ea := eb } (shape s 128 20) (shape s 160 20) (shape s 48 6) (shape s 56 6) (shape s 64 11) ta tb 0 0 none true)
           x.h.words x.h))

/-- R155, R167, R168, R169: the tile instructions and the skip-stream instructions are accepted with their tiles, and ZLD,
ZST and QSET with their effective address, once their checks pass; the stream's length is sampled from its register. -/
def Obligations.TileInstructionAcceptance : Prop :=
  ∀ s : State, FreeEntry s 1 →
    (∀ x : ZZeroA, s.me.noTile x.zd = false → ∃ t k, exec (.zzero x) s = .next t ∧ Queued s t 1 k x.h.words x.h ∧
      ∃ o v za, k = .tile (.zzero x) x.zd.toNat za o v) ∧
    (∀ x : ZCvtA, s.me.noTile x.zd = false → s.me.noTile x.za = false → ∃ t k, exec (.zcvt x) s = .next t ∧
      Queued s t 1 k x.h.words x.h ∧ ∃ o v, k = .tile (.zcvt x) x.zd.toNat x.za.toNat o v) ∧
    (∀ x : ZMem, s.me.noTile x.z = false → OpOk s 0 (s.me.rc x.mem.cap) (s.me.ea x.mem) 4096 false none →
      ∃ t k, exec (.zld x) s = .next t ∧ Queued s t 1 k x.h.words x.h ∧ ∃ o v za, k = .tile (.zld x) x.z.toNat za o v ∧ o.ea = s.me.ea x.mem) ∧
    (∀ x : ZMem, s.me.noTile x.z = false → OpOk s 0 (s.me.rc x.mem.cap) (s.me.ea x.mem) 4096 true none →
      ∃ t k, exec (.zst x) s = .next t ∧ Queued s t 1 k x.h.words x.h ∧ ∃ o v zd, k = .tile (.zst x) zd x.z.toNat o v ∧ o.ea = s.me.ea x.mem) ∧
    (∀ x : QSetA,
      let c := s.me.rc x.mem.cap
      let a : Acc := { cap := c, perms := [pLoad], sp := { own := true }, ea := (s.me.ea x.mem).toNat,
                       len := 2 * ((s.me.rs x.sc).toNat % 2 ^ 18), align := 2 }
      c.space = 1 → (s.me.ea x.mem).toNat < 0x40000 → (s.me.rs x.sc).toNat < 2 ^ 18 →
      a.permFlt = none → s.spaceFlt s.cur a = none → a.alignFlt = none → a.boundFlt = none →
      ∃ t k, exec (.qset x) s = .next t ∧ Queued s t 1 k x.h.words x.h ∧
        ∃ o z, k = .tile (.qset x) x.qd.toNat z o (s.me.rs x.sc) ∧ o.ea = s.me.ea x.mem) ∧
    (∀ x : QPosA, ∃ t k, exec (.qpos x) s = .next t ∧ Queued s t 1 k x.h.words x.h ∧ ∃ o v z, k = .tile (.qpos x) x.qa.toNat z o v)

/-- R167, R168, R169: at the head of the queue, ZZERO fills its tile with zeros of its type; ZCVT converts every element of its
source tile, read before any is written; ZLD takes the tile image at its address and leaves the tile's tag; QSET writes the q register
with the stream from its address on, at its start; QPOS writes its q register to sd. The entry frees, and memory stays. ZST writes the
tile image to its address (here in the own LS) with the descriptor of the tile's type, and no other byte. -/
def Obligations.TileJobResults : Prop :=
  ∀ (s : State) (j : Job) (z za : Nat) (o : Opd) (v : W64), AtHead s 1 j →
    (∀ x : ZZeroA, j.k = .tile (.zzero x) z za o v → ∃ t, exec .mxeTileJob s = .next t ∧ t.mem = s.mem ∧ t.me.mxe = popped s s.me.mxe ∧
      (∀ e < 1024, elem t z e = 0) ∧ t.isInt (coreOf s.cur) (s.me.phys z) = decide (x.et = 3)) ∧
    (∀ x : ZCvtA, j.k = .tile (.zcvt x) z za o v → s.mxeBad s.cur j [za] [] = none → ∃ t, exec .mxeTileJob s = .next t ∧ t.mem = s.mem ∧
      t.me.mxe = popped s s.me.mxe ∧
      ∀ e < 1024, elem t z e = zcvtElem x (s.isInt (coreOf s.cur) (s.me.phys za)) (x.et = 3) (elem s za e)) ∧
    (∀ x : QPosA, j.k = .tile (.qpos x) z za o v → s.mxeBad s.cur j [] [z] = none → ∃ t, exec .mxeTileJob s = .next t ∧ t.mem = s.mem ∧
      t.me.mxe = popped s s.me.mxe ∧ SameFiles t.me (s.me.ws x.sd (s.me.rq (BitVec.ofNat 2 z)))) ∧
    (∀ x : ZMem, j.k = .tile (.zld x) z za o v →
      let key := fun (a : Nat) => (physKey s s.cur o.sp ((o.ea.toNat + a) % 2 ^ 64)).getD 0
      (∀ b < 64, s.rd8 (s.jobRdr s.cur j) (poisonKey (key (64 * b))) = 0) →
      ∃ t, exec .mxeTileJob s = .next t ∧ t.mem = s.mem ∧ t.me.mxe = popped s s.me.mxe ∧ SameFiles t.me s.me ∧
        t.isInt (coreOf s.cur) (s.me.phys z) = s.isInt (coreOf s.cur) (s.me.phys z) ∧
        ∀ e < 1024, elem t z e = BitVec.ofNat 32 (s.rdNat (s.jobRdr s.cur j) (key (4 * e)) 4)) ∧
    (∀ x : ZMem, j.k = .tile (.zst x) z za o v → s.mxeBad s.cur j [za] [] = none → o.sp = 1 → o.ea.toNat % 64 = 0 →
      o.ea.toNat + 4096 ≤ 0x40000 →
      let key := lsKey (coreOf s.cur) o.ea.toNat
      ∃ t, exec .mxeTileJob s = .next t ∧ t.me.mxe = popped s s.me.mxe ∧ SameFiles t.me s.me ∧ t.tiles = s.tiles ∧ t.ztag = s.ztag ∧
        (∀ e < 1024, ∀ i < 4, Tab.get 0 t.mem (key + 4 * e + i) = (elem s za e).extractLsb' (8 * i) 8) ∧
        (∀ b < 64, Tab.get 0 t.mem (bfdKey (key + 64 * b) 0) = 0 ∧
          Tab.get 0 t.mem (bfdKey (key + 64 * b) 1) = if s.isInt (coreOf s.cur) (s.me.phys za) then 0 else 8) ∧
        ∀ k < 2 ^ 72, k < key ∨ key + 4096 ≤ k → Tab.get 0 t.mem k = Tab.get 0 s.mem k) ∧
    (∀ x : QSetA, j.k = .tile (.qset x) z za o v → ∃ t, exec .mxeTileJob s = .next t ∧ t.mem = s.mem ∧ t.me.mxe = popped s s.me.mxe ∧
      SameFiles t.me (s.me.wq (BitVec.ofNat 2 z)
        (BitVec.ofNat 64 (o.ea.toNat % 2 ^ 18 + (o.ea.toNat + 2 * v.toNat) % 2 ^ 18 * 2 ^ 18))))

/-- R146, R156: a K-step of an MMA that is performed adds, on a floating-point tile, to element (i, l), for every row i
and column l, the exact products of the step's elements of A and B by the step's sum; elements outside keep their value. R148: on an INT32
tile, whose step's blocks all hold INT8, UINT8 or INT4 with SCALE 0, it adds the exact integer products, with one saturation; a step that
meets another block there has no effect and freezes the task. R154: an MMA with a skip stream walks its q register once before each
step, and a step that the walk omits leaves every tile as it was. R164: an MMAS slice merges each element of its image likewise.
R146, the step's sum: with every product a zero the element stays; otherwise, all terms finite, each is truncated toward 0 to a multiple
of 2^(emax - 60), with emax the floor of log2 of the greatest nonzero one, and their sum is rounded once to the nearest FP32 number;
a sum of 0 is +0. With a NaN or both infinities the element becomes 0x7FC00000, and with infinities of one sign that infinity.
(The model's readings there: notes/assumptions/14.) -/
def Obligations.MatrixStepResults : Prop :=
  ∀ (s : State) (j : Job), AtHead s 1 j →
    (∀ (z m n k mcm mc sa sb : Nat) (oa ob : Opd) (ta tb bgs : Bool) (qo : Option Nat) (q' : W64),
      j.k = .mma z oa ob sa sb m n k ta tb mcm mc qo bgs → m ≤ 32 → n ≤ 32 → j.unit < k →
      (WalksTo s j qo q' false → ∃ t, exec .mxeKstep s = .next t ∧ t.mem = s.mem ∧ t.tiles = s.tiles ∧ SameFiles t.me (afterWalk s.me qo q') ∧
        Stepped s t j k) ∧
      (∀ p q : Nat,
        let A : Mop := { o := oa, st := sa, tr := ta, rows := m }
        let B : Mop := { o := ob, st := sb, tr := tb, rows := n }
        let rd := s.jobRdr s.cur j
        let ks := (List.range (kOf p q)).map (j.unit * kOf p q + ·)
        let as := A.blocks p (kOf p q) j.unit
        let bs := B.blocks q (kOf p q) j.unit
        let fa := bfdFmt (s.blockBfd rd s.cur A (as.headD 0))
        let fb := bfdFmt (s.blockBfd rd s.cur B (bs.headD 0))
        let okInt := fun (x : Mop) (c : Nat) => 1 ≤ bfdFmt (s.blockBfd rd s.cur x c) ∧ bfdFmt (s.blockBfd rd s.cur x c) ≤ 3 ∧ bfdScale (s.blockBfd rd s.cur x c) = 0
        WalksTo s j qo q' true → s.mxeBad s.cur j [z] [] = none → s.stepSizes rd s.cur A B j.unit = some (p, q) →
        (∀ c ∈ as, s.rd8 rd (poisonKey (A.key s s.cur c)) = 0) → (∀ c ∈ bs, s.rd8 rd (poisonKey (B.key s s.cur c)) = 0) →
        (s.isInt (coreOf s.cur) (s.me.phys z) = false →
          ∃ t, exec .mxeKstep s = .next t ∧ SameFiles t.me (afterWalk s.me qo q') ∧ Stepped s t j k ∧ ∀ e < 1024, elem t z e =
            if e / 32 < m ∧ e % 32 < n then
              match stepSum (some (elem s z e).toNat)
                (ks.map fun i => Machine.Num.mul (s.mopElem rd s.cur A fa p (e / 32) i) (s.mopElem rd s.cur B fb q (e % 32) i)) with
              | some v => BitVec.ofNat 32 v
              | none => elem s z e
            else elem s z e) ∧
        (s.isInt (coreOf s.cur) (s.me.phys z) = true →
          (∀ (va vb : Nat → Nat → Int), (∀ c ∈ as, okInt A c) → (∀ c ∈ bs, okInt B c) →
            (∀ i < m, ∀ x ∈ ks, s.mopElem rd s.cur A fa p i x = Machine.Num.ofInt (va i x)) →
            (∀ l < n, ∀ x ∈ ks, s.mopElem rd s.cur B fb q l x = Machine.Num.ofInt (vb l x)) →
            ∃ t, exec .mxeKstep s = .next t ∧ SameFiles t.me (afterWalk s.me qo q') ∧ Stepped s t j k ∧ ∀ e < 1024, elem t z e =
              if e / 32 < m ∧ e % 32 < n then
                BitVec.ofInt 32 (saturate 32 ((elem s z e).toInt + (ks.map fun x => va (e / 32) x * vb (e % 32) x).sum))
              else elem s z e) ∧
          ((∃ c ∈ as, ¬ okInt A c) ∨ (∃ c ∈ bs, ¬ okInt B c) →
            ∃ t, exec .mxeKstep s = .next t ∧ t.mem = s.mem ∧ t.tiles = s.tiles ∧ SameFiles t.me s.me ∧ t.me.st = .frozen)))) ∧
    (∀ (z m n k st rs : Nat) (o : Opd),
      j.k = .mmas z o st m n k rs → m ≤ 32 → n ≤ 32 → j.unit < k → s.mxeBad s.cur j [z] [] = none →
      let key := fun (a : Nat) => (physKey s s.cur o.sp (a % 2 ^ 64)).getD 0
      (∀ i < m, ∀ b ∈ blocksOf (o.ea.toNat + j.unit * st + i * rs) (4 * n), s.rd8 (s.jobRdr s.cur j) (poisonKey (key b)) = 0) →
      ∃ t, exec .mmasSlice s = .next t ∧ ∀ e < 1024, elem t z e =
        let p := s.rdNat (s.jobRdr s.cur j) (key (o.ea.toNat + j.unit * st + e / 32 * rs + 4 * (e % 32))) 4 % 2 ^ 32
        if e / 32 < m ∧ e % 32 < n then
          if s.isInt (coreOf s.cur) (s.me.phys z) then BitVec.ofInt 32 (saturate 32 ((elem s z e).toInt + (BitVec.ofNat 32 p).toInt))
          else match stepSum (some (elem s z e).toNat) [ffF.num p] with
          | some v => BitVec.ofNat 32 v
          | none => elem s z e
        else elem s z e) ∧
  (∀ (z : Nat) (ps : List Machine.Num),
    let ts := ffF.num z :: ps
    ((∀ p ∈ ps, p.isZero = true) → stepSum (some z) ps = none) ∧
    (¬ (∀ p ∈ ps, p.isZero = true) →
      ((Num.nan ∈ ts ∨ Num.inf false ∈ ts ∧ Num.inf true ∈ ts) → stepSum (some z) ps = some 0x7FC00000) ∧
      (Num.nan ∉ ts → Num.inf true ∉ ts → Num.inf false ∈ ts → stepSum (some z) ps = some 0x7F800000) ∧
      (Num.nan ∉ ts → Num.inf false ∉ ts → Num.inf true ∈ ts → stepSum (some z) ps = some 0xFF800000) ∧
      (∀ emax : Int, (∀ t ∈ ts, ∃ neg m e, t = .fin neg m e) → Greatest ts emax →
        let x := (ts.map (Machine.Num.truncAt (emax - 60))).sum
        stepSum (some z) ps = some (if x = 0 then 0 else ffF.round 0 true (.fin (decide (x < 0)) x.natAbs (emax - 60))))))

/-! ## Attention (spec/08) -/

namespace Sys2Proof.Claims

/-- What an append stores of a row of `len` bytes at the data key `src`, block by block: the bytes, clear tags, the block's poison mark and its
descriptor (R189). -/
def rowCells (s : State) (r : Rdr) (src dst len : Nat) : List Host.Cell :=
  (List.range (len / 64)).flatMap fun b =>
    bytesAt (dst + 64 * b) (s.rdBytes r (src + 64 * b) 64) ++ tagClears (dst + 64 * b) 64 ++
      (poisonKey (dst + 64 * b), s.rd8 r (poisonKey (src + 64 * b))) :: bfdCells (dst + 64 * b) (s.rdBfd r (src + 64 * b))

/-- The bytes, the writes under way and the versions of two states are the same. -/
def SameBytes (s t : State) : Prop := t.mem = s.mem ∧ t.batches = s.batches ∧ t.vers = s.vers ∧ t.stale = s.stale

end Sys2Proof.Claims

/-- R183 to R191: ATQ, ATM, KVAPP and KVDESC whose issue checks pass, with a free entry and (ATQ) fewer than four posts or (ATM) no
range of an earlier post met, are accepted into the attention queue with their capabilities, address and sampled count; an ATM
leaves o to its completion.
R187: ATC of a result area whose arrivals equal its slices completes with RDY in the try modes, and changes no register. -/
def Obligations.AttentionAcceptanceAndTest : Prop :=
  (∀ s : State, FreeEntry s 3 →
     (∀ x : AtqA, s.areaFlt s.cur 0 (s.me.rc x.mem.cap) [pStore] (s.me.ea x.mem).toNat 64 64 true = none →
       s.descAreaFlt s.cur 1 (s.me.rc x.cD) [pLoad, pLdcap] (s.me.rc x.cD).cursor.toNat spGlobAny false = none →
       s.areaFlt s.cur 2 (s.me.rc x.cQ) [pLoad] (s.me.rc x.cQ).cursor.toNat 64 64 false = none → s.me.postCount < 4 →
       ∃ t, exec (.atq x) s = .next t ∧
         Queued s t 3 (.atq (s.me.rc x.mem.cap) (s.me.rc x.cD) (s.me.rc x.cQ) (s.me.ea x.mem)) x.h.words x.h) ∧
     (∀ x : MemA, s.areaFlt s.cur 0 (s.me.rc x.mem.cap) [pLoad, pStore] (s.me.ea x.mem).toNat 64 64 true = none →
       (∀ f ∈ toLimit s.cur (s.me.rc x.mem.cap) (s.me.ea x.mem).toNat,
         ∀ g ∈ s.me.postFps ++ s.me.att.flatMap (fun j => match j.k with | .atq .. => j.wr | _ => []), g.meets f.sp f.lo f.hi = false) →
       ∃ t, exec (.atm x) s = .next t ∧ QueuedO s t 3 (.atm (s.me.rc x.mem.cap) (s.me.ea x.mem)) x.h.words s.me.o) ∧
     (∀ x : KvappA, s.descAreaFlt s.cur 0 (s.me.rc x.mem.cap) [pLoad, pStore] (s.me.ea x.mem).toNat spImm true = none →
       s.areaFlt s.cur 1 (s.me.rc x.cS) [pLoad] (s.me.rc x.cS).cursor.toNat 0 64 false = none →
       ∃ t, exec (.kvapp x) s = .next t ∧
         Queued s t 3 (.kvapp x.sd.toNat (s.me.rc x.mem.cap) (s.me.ea x.mem) (s.me.rc x.cS) (s.me.rs x.sd)) x.h.words x.h) ∧
     (∀ x : KvdescA, s.descAreaFlt s.cur 0 (s.me.rc x.mem.cap) [pStore, pStcap] (s.me.ea x.mem).toNat spImm true = none →
       s.areaFlt s.cur 2 (s.me.rc x.cS) [pLoad] (s.me.rc x.cS).cursor.toNat 16 16 false = none →
       s.unitAhead s.cur (lsKey (coreOf s.cur) (s.me.rc x.cS).cursor.toNat) 16 = [] →
       let par : BitVec 128 := BitVec.ofNat 128
         (s.rdNat (s.rdr s.cur s.me.proof) (lsKey (coreOf s.cur) (s.me.rc x.cS).cursor.toNat) 16)
       let d := Desc.ofParams (s.me.rc x.cK) par 0 0
       d.ok = true → s.descFlt s.cur 1 d (s.illegalFlt s.cur s.me.pc) = none →
       ∃ t, exec (.kvdesc x) s = .next t ∧ Queued s t 3 (.kvdesc (s.me.ea x.mem) (s.me.rc x.cK) par) x.h.words x.h)) ∧
  (∀ (s : State) (x : MemA), IsTask s → s.me.orphan = none →
     s.areaFlt s.cur 0 (s.me.rc x.mem.cap) [pLoad] (s.me.ea x.mem).toNat 64 64 false = none →
     let k := lsKey (coreOf s.cur) (s.me.ea x.mem).toNat
     let r := s.rdr s.cur s.me.proof
     s.unitAhead s.cur k 8 = [] → s.ueIn r k 8 = none → s.rdNat r k 4 = s.rdNat r (k + 4) 4 →
     exec (.atc x) s = .next (stepped s x.h.p (nextPc s x.h.words) (if x.h.nr = 0 then s.me else { s.me with o := 0 })))

/-- R177, R179, R185, R186: an ATQ that passes its checks posts one scan for each slice, at the ABU of the page that holds the slice, and frees its entry; the
ABU accepts the oldest scan of a die while fewer than 64 are pending; a scan writes a record that begins with its slice
number; and a landed record leaves the scans.
(Which ABU of the home's stack a page has is the model's choice, notes/assumptions/15; its reading of a record's fields: 41.) -/
def Obligations.AttentionPostAndScan : Prop :=
  (∀ (s : State) (j : Job) (cR cD cQ : Cap) (ea : W64), AtHead s 3 j → j.k = .atq cR cD cQ ea →
    let d := s.readDesc (s.jobRdr s.cur j) ((physKey s s.cur cD.space cD.cursor.toNat).getD 0)
    s.postFlt s.cur j cR cQ ea d = none →
    ∃ t new, exec .atqExecute s = .next t ∧ t.scans = s.scans ++ new ∧ new.map (·.slice) = List.range d.np ∧
      (∀ y ∈ new, y.pos = s.cur ∧ y.acc = false ∧ y.img = none ∧
        ∀ pk p, s.pageAt (s.partOf s.cur) (d.base y.slice) = some (pk, p) → y.abu = abuOf p.home pk) ∧ t.me.att = popped s s.me.att) ∧
  (∀ (s : State) (x : Scan), s.scans.find? (fun y => y.id = s.cur) = some x → x.acc = false →
    (∀ y ∈ s.scans, y.acc = false → y.abu = x.abu → dieOf y.pos = dieOf x.pos → x.id ≤ y.id) →
    (s.scans.filter fun y => y.acc && y.abu = x.abu && y.img.isNone).length < 64 →
    exec .abuRequestAccept s = .next { s with scans := (s.scans.filter fun y => y.id != x.id) ++ [{ x with acc := true }] }) ∧
  (∀ (s : State) (x : Scan) (p : Post), s.scans.find? (fun y => y.id = s.cur) = some x → s.postOf x = some p → x.acc = true → x.img = none →
    s.scans.find? (fun y => y.acc && y.abu = x.abu && y.img.isNone) = some x → s.waiting x.after = false →
    ∃ t bs, exec .abuSliceScan s = .next t ∧ bs.take 4 = leBytes 4 x.slice ∧ t.mem = s.mem ∧
      t.scans = s.scans.map fun y => if y.id = x.id then { y with img := some bs } else y) ∧
  (∀ (s : State) (x : Scan) (p : Post) (bs : List Byte), s.scans.find? (fun y => y.id = s.cur) = some x → s.postOf x = some p →
    x.img = some bs → ∃ t, exec .abuRecordLand s = .next t ∧ t.scans = s.scans.filter fun y => y.id != x.id)

/-- R182, R188: an ATM writes o with RDY when no record of its area carries an error, and with ERR otherwise, and frees its
entry. R189: a KVAPP with no tokens or past its descriptor's capacity writes all ones; another keeps the descriptor that it has read
and reserves its tokens at LEN2,
stores the key row and the value row of one token a step, with their blocks' descriptors and poison marks (a row in another die's halo tile freezes the task instead: R205), and, once these and its task's earlier accesses are performed and LEN has come to its first
token, adds its count to LEN, writes that token and frees its entry.
R184, R191: a KVDESC whose write has been applied at its home frees its entry. R190: the memory-side unit completes a
reservation of a killed launch in its turn: the rows not stored become poisoned, LEN goes past the reservation, which leaves the
list, and the error is logged at the descriptor's home.
(The model's readings there: notes/assumptions/40, 42, 97.) -/
def Obligations.MergeAppendAndDescriptors : Prop :=
  ((∀ (s : State) (j : Job) (cR : Cap) (ea : W64), AtHead s 3 j → j.k = .atm cR ea →
     let r := s.jobRdr s.cur j
     let k := lsKey (coreOf s.cur) ea.toNat
     let np := s.rdNat r k 4
     let dim := s.rdNat r (k + 12) 2
     (dim = 64 ∨ dim = 128 ∨ dim = 192 ∨ dim = 256) → ea.toNat + (np + 1) * (64 + 4 * dim) ≤ cR.top →
     ∃ t, exec .atmExecute s = .next t ∧ t.me.att = popped s s.me.att ∧
       t.me.o = if ∀ i < np, s.rdNat r (k + (64 + 4 * dim) + i * (64 + 4 * dim) + 16) 2 = 0 then 0x0 else 0x8) ∧
   (∀ (s : State) (j : Job) (sd : SReg) (cD cS : Cap) (ea n : W64), AtHead s 3 j → j.k = .kvapp sd.toNat cD ea cS n → j.res = none →
     let key := (physKey s s.cur cD.space ea.toNat).getD 0
     let d := s.readDesc (s.jobRdr s.cur j) key
     s.descFlt s.cur 3 d (s.illegalFlt s.cur j.pc) = none → cS.base ≤ cS.cursor.toNat → cS.cursor.toNat + n.toNat * (d.krow + d.vrow) ≤ cS.top →
     let p := s.msWord (key + 4)
     let foreign := fun (i : Nat) => s.haloForeign s.cur (d.keyRow (p + i)) d.krow || s.haloForeign s.cur (d.valRow (p + i)) d.vrow
     ((n = 0 ∨ d.nsl * d.cap < p + n.toNat) → ∃ t, exec .kvappExecute s = .next t ∧ t.me.att = popped s s.me.att ∧
       SameFiles t.me (s.me.ws sd (BitVec.allOnes 64)) ∧ t.mem = s.mem) ∧
     (n ≠ 0 → p + n.toNat ≤ d.nsl * d.cap → (∃ i < n.toNat, foreign i = true) → ∃ t, exec .kvappExecute s = .next t ∧
       t.me.st = .frozen ∧ t.mem = s.mem ∧ SameFiles t.me s.me) ∧
     (n ≠ 0 → p + n.toNat ≤ d.nsl * d.cap → (∀ i < n.toNat, foreign i = false) → ∃ t, exec .kvappExecute s = .next t ∧
       t.me.att = { j with res := some p, kd := some d } :: s.me.att.tail ∧ t.mem = setCells s.mem (dataCells (key + 4) (leBytes 4 (p + n.toNat))))) ∧
   (∀ (s : State) (j : Job) (sd : SReg) (cD cS : Cap) (ea n : W64) (p : Nat) (d : Desc), AtHead s 3 j → j.k = .kvapp sd.toNat cD ea cS n →
     j.res = some p → j.kd = some d → j.unit < n.toNat →
     let src := cS.cursor.toNat
     let u := (s.copyRow s.cur j (src + j.unit * d.krow) (globKey (s.partOf s.cur) (d.keyRow (p + j.unit))) d.krow).1
     let w := (u.copyRow s.cur j (src + n.toNat * d.krow + j.unit * d.vrow) (globKey (s.partOf s.cur) (d.valRow (p + j.unit))) d.vrow).1
     ∃ t ids, exec .kvappExecute s = .next t ∧ t.me.att = { j with unit := j.unit + 1, after := ids } :: s.me.att.tail ∧ SameBytes w t) ∧
   (∀ (s : State) (pos : Nat) (j : Job) (off dst len : Nat),
     let src := lsKey (coreOf pos) off
     SameBytes (s.jobStore pos j (rowCells s (s.jobRdr pos j) src dst len)) (s.copyRow pos j off dst len).1 ∧
     ((s.copyRow pos j off dst len).2 = true ↔ ∃ b < len / 64, s.rd8 (s.jobRdr pos j) (poisonKey (src + 64 * b)) ≠ 0)) ∧
   (∀ (s : State) (j : Job) (sd : SReg) (cD cS : Cap) (ea n : W64) (p : Nat), IsTask s → s.me.exiting = false →
     s.headJob s.cur 3 = some j → j.k = .kvapp sd.toNat cD ea cS n → j.res = some p → j.held = false → n.toNat ≤ j.unit →
     s.waiting j.after = false →
     let key := (physKey s s.cur cD.space ea.toNat).getD 0
     s.msWord key = p →
     ∃ t, exec .kvappPublish s = .next t ∧ t.me.att = popped s s.me.att ∧ SameFiles t.me (s.me.ws sd (BitVec.ofNat 64 p)) ∧
       t.mem = setCells s.mem (dataCells key (leBytes 4 (p + n.toNat))))) ∧
  ((∀ (s : State) (j : Job) (ea : W64) (cK : Cap) (par : BitVec 128), AtHead s 3 j → j.k = .kvdesc ea cK par → s.applied s.cur = true →
     ∃ t, exec .kvdescExecute s = .next t ∧ (j.unit ≠ 0 → t.me.att = popped s s.me.att ∧ t.mem = s.mem ∧ SameFiles t.me s.me) ∧
       (j.unit = 0 → t.me.att = popped s s.me.att ∨ t.me.att = { j with unit := 1 } :: s.me.att.tail)) ∧
   (∀ (s : State) (x : Orphaned) (pk : Nat) (p : Page), s.orphaned.find? (fun y => y.id = s.cur) = some x → s.waiting x.after = false →
     s.msWord x.desc = x.p → x.desc < 2 ^ 72 → s.pageOfKey x.desc = some (pk, p) →
     ∃ t, exec .killedKvappComplete s = .next t ∧ (t.orphaned = s.orphaned.filter fun y => y.id != x.id) ∧
       (∀ i, x.rows ≤ i → i < x.count →
         ∀ b ∈ blocksOf (globKey x.part (x.d.keyRow (x.p + i))) x.d.krow ++ blocksOf (globKey x.part (x.d.valRow (x.p + i))) x.d.vrow,
           Tab.get 0 t.mem (poisonKey b) = 1) ∧
       (∀ i < 4, Tab.get 0 t.mem (x.desc + i) = (leBytes 4 (x.p + x.count)).getD i 0) ∧
       ∃ k, (t.die p.home).pkts = (s.die p.home).pkts ++ [k] ∧ k.type = 1 ∧ k.cause = 0x0B ∧
         k.d2 = BitVec.ofNat 64 (x.desc / 64 * 64 % 2 ^ 64) ∧ k.d3 = BitVec.ofNat 64 (x.p * 2 ^ 32 + x.count)))

/-! ## Memory (spec/10) -/

namespace Sys2Proof.Claims

def scalarLoads : List ((MemS → Instr) × Nat) := [(.ldB, 1), (.ldH, 2), (.ldW, 4), (.ldD, 8)]
def scalarStores : List ((MemS → Instr) × Nat) := [(.stB, 1), (.stH, 2), (.stW, 4), (.stD, 8)]

/-- The key of element `j` of a gather or scatter (R220), and its active elements. -/
def elemKey (s : State) (x : MemG) (j : Nat) : Nat :=
  (physKey s s.cur (s.me.rc x.mem.cap).space (s.me.ea x.mem + ((s.me.rv x.vi).extractLsb' (32 * j) 32).setWidth 64).toNat).getD 0
def elems (s : State) (x : MemG) : List Nat :=
  (List.range (Nat.min (128 / etBytes 3 x.et) 32)).filter fun j => (s.me.rm x.msk).getLsbD (j * etBytes 3 x.et)

/-- Every element's checks pass and nothing holds the active ones back. -/
def GatherClear (s : State) (x : MemG) (write : Bool) : Prop :=
  May s .noHandler x.h.nr ∧ s.me.orphan = none ∧
  gatherFlt s (s.me.rc x.mem.cap) write (s.me.ea x.mem) (s.me.rv x.vi) (etBytes 3 x.et) = none ∧
  ∀ j ∈ elems s x, s.unitAhead s.cur (elemKey s x j) (etBytes 3 x.et) = [] ∧ s.slotFull s.cur (elemKey s x j) = false ∧
    s.windowWaits (elemKey s x j) (etBytes 3 x.et) = false ∧
    (write = true → s.claimed s.cur ((elems s x).map fun j => (elemKey s x j, etBytes 3 x.et)) = []) ∧
    let ea := (s.me.ea x.mem + ((s.me.rv x.vi).extractLsb' (32 * j) 32).setWidth 64).toNat
    s.switching s.cur (s.me.rc x.mem.cap).space ea (etBytes 3 x.et) = false ∧
    s.me.overlaps s.cur (s.me.rc x.mem.cap).space ea (etBytes 3 x.et) write = false

end Sys2Proof.Claims

/-- R213, R218, R219, R221: a load of the own LS completes at once: LD zero-extends the bytes in little-endian order, LDV
takes the bytes of active elements and leaves the others, a converting LDV takes each element of its block's format with its
block's scale, and LDC takes the 16 bytes and the hidden tag. Nothing else changes.
R213, R278, R280: outside the LSs a load of the default mode posts a request that holds its result, with every register as
it was; its return then writes the result and ends the request.
(The model's readings there: notes/assumptions/20.) -/
def Obligations.ScalarAndVectorLoads : Prop :=
  (∀ (s : State) (key : Nat), ownLs s.cur key = true →
     let r := s.rdr s.cur s.me.proof
     (∀ (x : MemS) (p : (MemS → Instr) × Nat), p ∈ scalarLoads → May s .access x.h.nr →
       Clear s (loadAcc s x.mem [pLoad] p.2 1 true) key → s.ueIn r key p.2 = none →
       ∃ t, exec (p.1 x) s = .next t ∧ t.mem = s.mem ∧
         Ends s t (s.me.ws x.sr (BitVec.ofNat 64 (s.rdNat r key p.2))) x.h.words (rdy s x.h)) ∧
     (∀ x : MemV, x.et.toNat < 7 → May s .noHandler x.h.nr → Clear s (loadAcc s x.mem [pLoad] 128 1 false) key →
       s.ueIn r key 128 = none →
       let w := etWidth (if x.et = 0 then 1 else x.et.toNat) / 8
       ∃ t v, exec (.ldv x) s = .next t ∧ t.mem = s.mem ∧ t.vers = s.vers ∧ Ends s t (s.me.wv x.v v) x.h.words (rdy s x.h) ∧
         ∀ i < 128, vByte v i = if (s.me.rm x.msk).getLsbD (i / w * w) then s.rd8 r (key + i) else vByte (s.me.rv x.v) i) ∧
     (∀ x : MemV, 7 ≤ x.et.toNat → May s .noHandler x.h.nr → Clear s (loadAcc s x.mem [pLoad] 64 64 false) key →
       let f := bfdFmt (s.rdBfd r key)
       let w := etWidth x.et.toNat
       let n := 1024 / w * fmtBits f / 8
       1 ≤ f → f ≤ 10 → s.ueIn r key n = none → (∀ b ∈ blocksOf key n, bfdFmt (s.rdBfd r b) = f) →
       s.check s.cur (loadAcc s x.mem [pLoad] n 1 false) = none →
       s.me.overlaps s.cur (s.me.rc x.mem.cap).space (s.me.ea x.mem).toNat n false = false →
       s.switching s.cur (s.me.rc x.mem.cap).space (s.me.ea x.mem).toNat n = false → s.loadAhead s.cur [(key, n)] = [] →
       ∃ t v, exec (.ldv x) s = .next t ∧ t.mem = s.mem ∧ t.vers = s.vers ∧ Ends s t (s.me.wv x.v v) x.h.words (rdy s x.h) ∧
         ∀ j < 1024 / w, vElem v w j =
           if (s.me.rm x.msk).getLsbD (j * (w / 8)) then
             etRound x.et.toNat false x.rm.toNat x.ov
               (fmtNum f (fmtElem f (s.rdBytes r key n) j) (bfdScale (s.rdBfd r (key + j * fmtBits f / 512 * 64))))
           else vElem (s.me.rv x.v) w j) ∧
     (∀ x : MemC, May s .access x.h.nr → Clear s (loadAcc s x.mem [pLoad, pLdcap] 16 16 false) key → s.ueIn r key 16 = none →
       ∃ t, exec (.ldc x) s = .next t ∧ t.mem = s.mem ∧
         Ends s t (s.me.wc x.c { bits := BitVec.ofNat 128 (s.rdNat r key 16), tag := s.rdTag r key }) x.h.words (rdy s x.h))) ∧
  ((∀ (s : State) (key : Nat) (x : MemS) (p : (MemS → Instr) × Nat), p ∈ scalarLoads → isLs key = false → NoHandler s → x.h.nr = 0 →
     Clear s (loadAcc s x.mem [pLoad] p.2 1 true) key → s.ueIn (s.rdr s.cur s.me.proof) key p.2 = none →
     ∃ t, exec (p.1 x) s = .next t ∧ Ends s t s.me x.h.words s.me.o ∧
       Sent s t (.land [.s x.sr.toNat (BitVec.ofNat 64 (leNat (s.loadBytes (s.rdr s.cur s.me.proof) key p.2)))] none false)) ∧
   (∀ (s : State) (r : Req) (ws : List RegW) (tr : Bool), s.req? s.cur = some r → r.k = .land ws none tr → s.unapplied r.id = false →
     (s.ms r.pos).exiting = false →
     ∃ t, exec .postedResultReturn s = .next t ∧ t.mem = s.mem ∧ t.reqs = s.reqs.filter (fun q => q.id != r.id) ∧
       SameFiles (t.ms r.pos) ((s.ms r.pos).landAll ws) ∧ (t.ms r.pos).pc = (s.ms r.pos).pc))

/-- R220: LDG of the own LS takes, for each active element among the first min(n, 32), the bytes at its own address, and leaves
every other byte of the register; nothing else changes.
R220: STS to the own LS stores each active element among the first min(n, 32) at its own address, the later of two that
meet last, and no other data byte and no register changes.
(The model's readings there: notes/assumptions/21.) -/
def Obligations.GatherAndScatter : Prop :=
  (∀ (s : State) (x : MemG), (Instr.ldg x).wf = true → GatherClear s x false → (∀ j ∈ elems s x, ownLs s.cur (elemKey s x j) = true) →
     let w := etBytes 3 x.et
     let r := s.rdr s.cur s.me.proof
     (∀ j ∈ elems s x, s.ueIn r (elemKey s x j) w = none) →
     ∃ t v, exec (.ldg x) s = .next t ∧ t.mem = s.mem ∧ t.vers = s.vers ∧ Ends s t (s.me.wv x.v v) x.h.words (rdy s x.h) ∧
       ∀ i < 128, vByte v i = if i / w ∈ elems s x then s.rd8 r (elemKey s x (i / w) + i % w) else vByte (s.me.rv x.v) i) ∧
  (∀ (s : State) (x : MemG), (Instr.sts x).wf = true → GatherClear s x true → (∀ j ∈ elems s x, ownLs s.cur (elemKey s x j) = true) →
     let w := etBytes 3 x.et
     ∃ t, exec (.sts x) s = .next t ∧ Ends s t s.me x.h.words (rdy s x.h) ∧
       (∀ j ∈ elems s x, ∀ i < w,
         (∀ l ∈ elems s x, j < l → ¬ (elemKey s x l ≤ elemKey s x j + i ∧ elemKey s x j + i < elemKey s x l + w)) →
         Tab.get 0 t.mem (elemKey s x j + i) = vByte (s.me.rv x.v) (j * w + i)) ∧
       ∀ k < 2 ^ 72, (∀ l ∈ elems s x, ¬ (elemKey s x l ≤ k ∧ k < elemKey s x l + w)) → Tab.get 0 t.mem k = Tab.get 0 s.mem k)

/-- R213, R217, R218, R221: a store to the own LS is performed at once: its bytes stand at its address, its granules' tags are
clear (STC: as the register's tag), and no other byte of memory and no register changes. STV stores the active elements.
R197, R203, R407, R409, R214: a store without release to an IMM page whose home is the issuing die, with no write under
way, is performed in memory; a store to a transactional page of the issuing die under a proof, with no write under way that its
task may have observed, makes versions of that proof alone and leaves memory; with the shadow budget spent the block gets no
version, and the store completes with OVF, sets ERRST.OVF and dooms the launch. A store to a transactional page of another die goes to
its home in a batch, under its proof.
(The model's readings there: notes/assumptions/20, 26, 73.) -/
def Obligations.Stores : Prop :=
  (∀ (s : State) (key : Nat), ownLs s.cur key = true →
     (∀ (x : MemS) (p : (MemS → Instr) × Nat), p ∈ scalarStores → May s .access x.h.nr →
       Clear s (storeAcc s x.mem [pStore] p.2 1 true) key → (ordRel x.ord = true → s.earlier s.cur x.scope = []) →
       ∃ t, exec (p.1 x) s = .next t ∧ Wrote s t key (leBytes p.2 (s.me.rs x.sr).toNat) ∧ Ends s t s.me x.h.words (rdy s x.h)) ∧
     (∀ x : MemV, (Instr.stv x).wf = true → May s .noHandler x.h.nr → Clear s (storeAcc s x.mem [pStore] 128 1 false) key →
       (ordRel x.ord = true → s.earlier s.cur x.scope = []) →
       let w := etWidth (if x.et = 0 then 1 else x.et.toNat) / 8
       ∃ t, exec (.stv x) s = .next t ∧ Ends s t s.me x.h.words (rdy s x.h) ∧
         ∀ k < 2 ^ 72, Tab.get 0 t.mem k =
           if key ≤ k ∧ k < key + 128 ∧ (s.me.rm x.msk).getLsbD ((k - key) / w * w) then vByte (s.me.rv x.v) (k - key)
           else Tab.get 0 s.mem k) ∧
     (∀ x : MemC, May s .access x.h.nr → Clear s (storeAcc s x.mem [pStore, pStcap] 16 16 false) key →
       (ordRel x.ord = true → s.earlier s.cur x.scope = []) →
       ∃ t, exec (.stc x) s = .next t ∧ Ends s t s.me x.h.words (rdy s x.h) ∧
         ∀ k, Tab.get 0 t.mem k =
           if key ≤ k ∧ k < key + 16 then BitVec.ofNat 8 ((s.me.rc x.c).bits.toNat / 256 ^ (k - key))
           else if k = tagKey key then (if (s.me.rc x.c).tag then 1 else 0) else Tab.get 0 s.mem k)) ∧
  (∀ (s : State) (key pk : Nat) (pg : Page) (x : MemS) (p : (MemS → Instr) × Nat), p ∈ scalarStores → isGlobKey key = true →
     s.pageOfKey key = some (pk, pg) → pg.ctl = false → May s .access x.h.nr → ordRel x.ord = false →
     Clear s (storeAcc s x.mem [pStore] p.2 1 true) key →
     let bs := leBytes p.2 (s.me.rs x.sr).toNat
     (pg.imm = true → pg.home = dieOf s.cur → s.batches.any Batch.begun = false →
       ∃ t, exec (p.1 x) s = .next t ∧ Wrote s t key bs ∧ Ends s t s.me x.h.words (rdy s x.h)) ∧
     (pg.imm = false → s.me.proof ≠ 0 → pg.home ≠ dieOf s.cur →
       ∃ t b, exec (p.1 x) s = .next t ∧ t.mem = s.mem ∧ t.vers = s.vers ∧ Ends s t s.me x.h.words (rdy s x.h) ∧
         t.batches = s.batches ++ [b] ∧ b.src = dieOf s.cur ∧ b.home = pg.home ∧ b.proof = s.me.proof ∧ b.applied = false ∧
         ∀ i < p.2, (key + i, bs.getD i 0) ∈ b.cells) ∧
     (pg.imm = false → s.me.proof ≠ 0 → pg.home = dieOf s.cur → s.observed s.cur = [] → ∀ l, s.launch? s.me.lslot = some l →
       (l.use + 64 ≤ l.budget →
         ∃ t, exec (p.1 x) s = .next t ∧ t.mem = s.mem ∧ Ends s t s.me x.h.words (rdy s x.h) ∧
           (∀ i < p.2, Tab.find? (Tab.get [] t.vers s.me.proof) (key + i) = some (bs.getD i 0)) ∧
           ∀ q, q ≠ s.me.proof → Tab.get [] t.vers q = Tab.get [] s.vers q) ∧
       (l.budget < l.use + 64 → hasVersion (Tab.get [] s.vers s.me.proof) (key / 64) = false →
         ∃ t l', exec (p.1 x) s = .next t ∧ t.mem = s.mem ∧ SameFiles t.me s.me ∧ t.me.pc = nextPc s x.h.words ∧ t.me.o = 0xA ∧
           t.me.errst.getLsbD 3 = true ∧
           hasVersion (Tab.get [] t.vers s.me.proof) (key / 64) = false ∧ (∀ q, Tab.get [] t.vers q = Tab.get [] s.vers q) ∧ t.launch? s.me.lslot = some l' ∧ (l.st = .running → l'.st = .doomed))))
/-! ## Copies, messages, banks, halo tiles (spec/10) and fences (spec/11) -/

namespace Sys2Proof.Claims

/-- The destination and source of a copy (R223), and its checks: `rows` rows of `len` bytes. -/
def copyDst (s : State) (x : CpyA) : Opd :=
  { sp := (s.me.rc x.cD).space, ea := (s.me.rc x.cD).cursor + s.me.rs x.idx * BitVec.ofNat 64 (2 ^ x.scale.toNat) }
def copySrc (s : State) (x : CpyA) : Opd := { sp := (s.me.rc x.cS).space, ea := (s.me.rc x.cS).cursor + x.disp.signExtend 64 }
def CopyOk (s : State) (x : CpyA) (rows len drs srs align : Nat) : Prop :=
  let span := fun (stride : Nat) => if rows = 0 ∨ len = 0 then 0 else (rows - 1) * stride + len
  s.cpyFlt { cap := s.me.rc x.cD, perms := [pStore], sp := spStore, write := true, ea := (copyDst s x).ea.toNat, len := span drs, align := align }
    drs false = none ∧
  s.cpyFlt { cap := s.me.rc x.cS, opn := 1, perms := [if (s.me.rc x.cS).space = 5 then pPlateRead else pLoad], sp := spCopySrc
             ea := (copySrc s x).ea.toNat, len := span srs, align := align } srs false = none ∧
  s.plateIssue s.cur (s.me.rc x.cS) (copySrc s x).ea.toNat (span srs) = none ∧
  s.fpBusy s.cur (mkFpBlk s.cur (copySrc s x).sp (copySrc s x).ea.toNat (span srs) ++
    mkFpBlk s.cur (copyDst s x).sp (copyDst s x).ea.toNat (span drs)) = false

end Sys2Proof.Claims

/-- R222, R223, R226: PREF gives its L1 a token of the line of a permitted GLOB or CODE access, and for writing every token, and
otherwise does nothing; CPY and CPYT whose operands
pass their checks are accepted into the CPE queue, with rows, lengths and strides from their registers; CPYW completes once no
more copies are outstanding than its register says, with their number, and with ERR once after a failed copy.
R224, R225: a chunk of a copy into an LS or the banks moves up to 4,096 bytes, each read before any is written, to their
places in the rows, changes no other data byte, and ends the copy with its last byte; a chunk whose first block holds an
uncorrectable error ends the copy as failed and writes nothing.
(The model's readings there: notes/assumptions/11.) -/
def Obligations.PrefetchAndCopies : Prop :=
  (∀ s : State,
     (∀ x : PrefA, NoHandler s → ∃ t, exec (.pref x) s = .next t ∧ t.mem = s.mem ∧ t.vers = s.vers ∧ Ends s t s.me (Pl.words x.h) s.me.o ∧
       ∀ key, physKey s s.cur (s.me.rc x.mem.cap).space (s.me.ea x.mem).toNat = some key →
         if s.check s.cur (loadAcc s x.mem [pLoad] 1 1 false) = none ∧ ((s.me.rc x.mem.cap).space = 3 ∨ (s.me.rc x.mem.cap).space = 4) ∧
             s.msUnit key = none ∧ s.isCtl key = false ∧ s.slotFull s.cur key = false ∧ s.canTake (l1Of s.cur) (key / 64) x.write = true
         then let n := Tab.get 0 (t.core (l1Of s.cur)).l1 (key / 64); n ≠ 0 ∧ (x.write = true → n = 256) else t.cores = s.cores) ∧
     (∀ x : CpyA, FreeEntry s 2 → (s.me.rs x.sn).toNat < 2 ^ 32 →
       let n := (s.me.rs x.sn).toNat
       CopyOk s x 1 n 0 0 1 → ∃ t blk, exec (.cpy x) s = .next t ∧ t.me.cAcc = s.me.cAcc + 1 ∧
         Queued s t 2 (.copy (copyDst s x) (copySrc s x) 1 n 0 0 blk) x.h.words x.h) ∧
     (∀ x : CpyA, FreeEntry s 2 →
       let f := fun (lo n : Nat) => ((s.me.rs x.sn).extractLsb' lo n).toNat
       CopyOk s x (f 12 12) (f 0 12 * 64) (f 44 20) (f 24 20) 64 → ∃ t blk, exec (.cpyt x) s = .next t ∧ t.me.cAcc = s.me.cAcc + 1 ∧
         Queued s t 2 (.copy (copyDst s x) (copySrc s x) (f 12 12) (f 0 12 * 64) (f 44 20) (f 24 20) blk) x.h.words x.h) ∧
     (∀ x : SS, IsTask s → s.me.cAcc - s.me.cDone - s.me.cFail ≤ (s.me.rs x.rb).toNat →
       ∃ t, exec (.cpyw x) s = .next t ∧ t.mem = s.mem ∧ t.me.cRep = false ∧
         Ends s t (s.me.ws x.ra (BitVec.ofNat 64 (s.me.cAcc - s.me.cDone - s.me.cFail))) x.h.words (if s.me.cRep then 0x8 else rdy s x.h))) ∧
  (∀ (s : State) (j : Job) (dst src : Opd) (rows len drs srs : Nat) (blk : Bool), AtHead s 2 j → j.k = .copy dst src rows len drs srs blk →
     let o0 := 4096 * j.unit
     let n := min 4096 (rows * len - o0)
     let at' := fun (x : Opd) (stride o : Nat) => physKey s s.cur x.sp ((x.ea.toNat + (o / len * stride + o % len)) % 2 ^ 64)
     let skey := fun (o : Nat) => (at' src srs o).getD 0
     let dkey := fun (o : Nat) => (at' dst drs o).getD 0
     let bad := fun (o : Nat) => s.rd8 (s.jobRdr s.cur j) (poisonKey (skey o)) ≠ 0
     o0 < rows * len → (∀ o, o0 ≤ o → o < o0 + n → (at' src srs o).isSome ∧ (at' dst drs o).isSome ∧ isGlobKey (dkey o) = false) →
     (blk = true → dst.ea.toNat % 64 = 0 ∧ src.ea.toNat % 64 = 0 ∧ len % 64 = 0 ∧ drs % 64 = 0 ∧ srs % 64 = 0) →
     ((∀ o, o0 ≤ o → o < o0 + n → ¬ bad o) → ∃ t, exec .cpeChunk s = .next t ∧
       (∀ o, o0 ≤ o → o < o0 + n → (∀ p, o0 ≤ p → p < o0 + n → p ≠ o → dkey p ≠ dkey o) →
         Tab.get 0 t.mem (dkey o) = s.rd8 (s.jobRdr s.cur j) (skey o)) ∧
       (∀ k < 2 ^ 72, (∀ o, o0 ≤ o → o < o0 + n → dkey o ≠ k) → Tab.get 0 t.mem k = Tab.get 0 s.mem k) ∧
       SameFiles t.me s.me ∧
       (if o0 + n < rows * len then t.me.cpe.head?.map (·.unit) = some (j.unit + 1)
        else t.me.cpe = popped s s.me.cpe ∧ t.me.cDone = s.me.cDone + 1)) ∧
     (bad o0 → ∃ t, exec .cpeChunk s = .next t ∧ t.mem = s.mem ∧ t.me.cpe = popped s s.me.cpe ∧ t.me.cFail = s.me.cFail + 1 ∧
       t.me.cRep = true ∧ t.me.errst.getLsbD 1 = true))

/-- R209, R210, R211, R227, R228: AMSG sends its message; slot 15 of the target starts the handler at the capability's address
with the sender, the value and the offset in s1 to s3, c1 unsealed over the allocation (R22 aligns it to 64 bytes, so that its bounds
need no rounding), every other s and c register 0 or null and o = RDY; HRET ends it with
the value that AMSG_REPLY then writes to the sender; a handler that a fault has frozen is answered with 0 and ERR.
R209, R213: the built-in handler serves the next message of a core in a turn of slot 15: a load's value lands in its register, a
load of a try mode whose value has not been dropped is kept for its task with its bytes, and a store is performed; the message is then gone.
(The model's readings there: notes/assumptions/28.) -/
def Obligations.ActiveMessagesAndHandlers : Prop :=
  ((∀ (s : State) (x : AmsgA) (key : Nat), NoHandler s → s.me.orphan = none →
     let c := s.me.rc x.mem.cap
     let ch := s.me.rc x.cH
     s.check s.cur { cap := c, perms := [pLoad, pStore], sp := spAmsg, ea := (s.me.ea x.mem).toNat, len := 1 } = none →
     CodeOk ch (ch.cursor &&& ~~~3) → physKey s s.cur 1 (s.me.ea x.mem).toNat = some key → s.slotFull s.cur key = false →
     ∃ t, exec (.amsg x) s = .next t ∧ Ends s t s.me x.h.words (rdy s x.h) ∧
       Sent s t (.unit (.amsg x) key { sp := 1, ea := s.me.ea x.mem } ch (s.me.rs x.sd) 0 0)) ∧
   (∀ (s : State) (r : Req) (x : AmsgA) (key : Nat) (o : Opd) (ch : Cap) (a b : W64) (v : W1024) (al : Alloc),
     s.nextMsg s.cur = some r → r.k = .unit (.amsg x) key o ch a b v →
     let off := key - (2 ^ 68 + s.cur * 2 ^ 18)
     (s.core s.cur).allocs.find? (fun y => y.lslot = (s.ms r.pos).lslot && y.base ≤ off && off < y.base + y.size) = some al →
     ∃ t, exec .handlerStart s = .next t ∧ t.mem = s.mem ∧
       let h := t.ms (s.cur * 16 + 15)
       h.kind = .handler ∧ h.st = .ready ∧ h.pc = ch.cursor &&& ~~~3 ∧ h.hreq = r.id ∧ h.hcount = 0 ∧
       (∀ i, h.rs i = if i = 1 then BitVec.ofNat 64 (coreOf r.pos % 16 * 16 + slotOf r.pos) else if i = 2 then a
         else if i = 3 then BitVec.ofNat 64 off else 0) ∧
       (h.rc 1).tag = true ∧ (h.rc 1).space = 1 ∧ (h.rc 1).perms = 0x0003 ∧ (h.rc 1).cursor = BitVec.ofNat 64 off ∧
       (h.rc 1).sealT = 0 ∧ (∀ i, i ≠ 1 → h.rc i = Cap.null) ∧ h.o = 0 ∧
       (al.base % 64 = 0 → al.size % 64 = 0 → al.base + al.size ≤ 2 ^ 18 → (h.rc 1).base = al.base ∧ (h.rc 1).top = al.base + al.size) ∧
       ∀ p, p ≠ s.cur * 16 + 15 → t.ms p = s.ms p) ∧
   (∀ (s : State) (x : S1) (r : Req) (y : AmsgA) (key : Nat) (o : Opd) (ch : Cap) (a b : W64) (v : W1024),
     s.me.kind = .handler → s.me.hcount ≤ 64 → s.req? s.me.hreq = some r → r.k = .unit (.amsg y) key o ch a b v →
     ∃ t, exec (.hret x) s = .next t ∧ t.mem = s.mem ∧ t.ms s.cur = Master.empty ∧
       t.req? s.me.hreq = some { r with k := .done [.s y.sd.toNat (s.me.rs x.sr)] } ∧ ∀ p, p ≠ s.cur → t.ms p = s.ms p) ∧
   (∀ (s : State) (r : Req), s.req? s.cur = some r → (s.ms r.pos).exiting = false →
     (∀ ws, r.k = .done ws → ∃ t, exec .amsgReply s = .next t ∧ t.mem = s.mem ∧ t.reqs = s.reqs.filter (fun q => q.id != r.id) ∧
       SameFiles (t.ms r.pos) ((s.ms r.pos).landAll ws)) ∧
     (∀ (y : AmsgA) (key : Nat) (o : Opd) (ch : Cap) (a b : W64) (v : W1024), r.k = .unit (.amsg y) key o ch a b v →
       let h := s.ms (coreOfLsKey key * 16 + 15)
       h.kind = .handler → h.hreq = r.id → h.st = .frozen → h.flt = true →
       ∃ t, exec .amsgReply s = .next t ∧ t.mem = s.mem ∧ t.reqs = s.reqs.filter (fun q => q.id != r.id) ∧
         SameFiles (t.ms r.pos) ((s.ms r.pos).ws y.sd 0) ∧ (t.ms r.pos).o = 0x8))) ∧
  (∀ (s : State) (r : Req) (x : MemS) (key : Nat) (o : Opd) (c : Cap) (a b : W64) (v : W1024), s.nextMsg s.cur = some r →
     s.turn15 s.cur = true → (s.ms r.pos).exiting = false →
     (∀ p ∈ scalarLoads, r.k = .unit (p.1 x) key o c a b v → s.ueIn (s.rdr r.pos 0) key p.2 = none →
       ∃ t, exec .activeMessageServe s = .next t ∧ t.mem = s.mem ∧ t.reqs = s.reqs.filter (fun q => q.id != r.id) ∧
         if x.h.nr = 0 then
           SameFiles (t.ms r.pos) ((s.ms r.pos).ws x.sr (BitVec.ofNat 64 (s.rdNat (s.rdr r.pos 0) key p.2)))
         else SameFiles (t.ms r.pos) (s.ms r.pos) ∧ (r.drop = true → (t.ms r.pos).kept = (s.ms r.pos).kept) ∧
           (r.drop = false → ∃ kv, (t.ms r.pos).kept = some kv ∧ kv.ea = o.ea ∧
           kv.img.bytes = s.rdBytes (s.rdr r.pos 0) key p.2)) ∧
     (∀ p ∈ scalarStores, r.k = .unit (p.1 x) key o c a b v →
       ∃ t, exec .activeMessageServe s = .next t ∧ Wrote s t key (leBytes p.2 a.toNat) ∧ t.reqs = s.reqs.filter (fun q => q.id != r.id) ∧
         SameFiles (t.ms r.pos) (s.ms r.pos)))

/-- R200, R229: BANKMODE is accepted and waits behind the bank's earlier switches, or has no more to do when the bank has its mode
and no switch waits; the completion of a switch, once the accesses accepted before it are performed, gives the bank its mode, ends
those behind it to the same mode, and, if the mode is another one, leaves the bank with every byte, descriptor, tag and bit clear
and its counts zero.
R205, R206, R230, R231: HALO declares the region of its capability for its launch, and of a supervisor core, which has none, for its
partition (the model's choice, notes/assumptions/95); its completion gives every replica die the strips as
their home holds them, or takes them away; HALOPUSH sends the strips of a tile, and each replica die then takes them whole, with
the bytes of the store that pushes, in the order of the region's pushes.
(The model's readings there: notes/assumptions/27, 72, 95.) -/
def Obligations.BankModesAndHaloTiles : Prop :=
  ((∀ (s : State) (x : BankA), IsTask s → (s.me.rc x.mem.cap).space = 2 → (s.me.ea x.mem).toNat < 0x800000 →
     let ea := s.me.ea x.mem
     let a : Acc :=
       { cap := s.me.rc x.mem.cap, perms := [pLoad, pStore], sp := {}, ea := ea.toNat / 2 ^ 19 * 2 ^ 19, len := 2 ^ 19 }
     let key := cluKey (clusterOf s.cur) ea.toNat
     let b := clusterOf s.cur * 16 + ea.toNat / 2 ^ 19
     a.permFlt = none → a.boundFlt = none → s.slotFull s.cur key = false → (x.h.nr = 0 ∨ (s.bank b).sw = []) →
     ∃ t, exec (.bankmode x) s = .next t ∧ Ends s t s.me x.h.words (rdy s x.h) ∧
       if (s.bank b).sw = [] ∧ (s.bank b).mode = x.mode.toNat then t.banks = s.banks ∧ t.reqs = s.reqs else
       Sent s t (.unit (.bankmode x) key { sp := 2, ea := ea } (s.me.rc x.mem.cap) 0 0 0) ∧
       t.bank b = { s.bank b with sw := (s.bank b).sw ++ [(s.nextReq, x.mode.toNat)] }) ∧
   (∀ (s : State) (id mode : Nat) (rest : List (Nat × Nat)), (s.bank s.cur).sw = (id, mode) :: rest → s.bankUse s.cur = false →
     let mine := fun (k : Nat) => 2 ^ 63 + s.cur * 2 ^ 13 ≤ blockOfCell k ∧ blockOfCell k < 2 ^ 63 + (s.cur + 1) * 2 ^ 13
     ∃ t, exec .bankSwitchComplete s = .next t ∧ (t.bank s.cur).mode = mode ∧ (t.bank s.cur).sw = rest.dropWhile (fun y => y.2 = mode) ∧
       (mode = (s.bank s.cur).mode → t.mem = s.mem) ∧
       (mode ≠ (s.bank s.cur).mode → (t.bank s.cur).fill = 0 ∧ (t.bank s.cur).held = 0 ∧ (t.bank s.cur).free = 0 ∧
         ∀ k, Tab.get 0 t.mem k = if mine k then 0 else Tab.get 0 s.mem k))) ∧
  ((∀ (s : State) (x : HaloA) (hs : List Halo), NoHandler s →
     (isSvcPos s.cur = false ∧ isSvcPos s.me.lslot = false ∧ (∃ l, s.launch? s.me.lslot = some l ∧ hs = l.halos) ∨
       isSvcPos s.cur = true ∧ hs = (s.part (s.partOf s.cur)).halos) → hs.length < 8 →
     let c := s.me.rc x.cN
     let p := s.me.rs x.sP
     let ts := p.toNat % 2 ^ 32
     let hw := p.toNat / 2 ^ 32
     let a : Acc := { cap := c, perms := [pLoad, pStore], sp := spImm, write := true, tile := false, ea := c.base, len := c.top - c.base }
     ts ≠ 0 → ts % 65536 = 0 → 1 ≤ hw → hw ≤ ts / 128 → hw < 2 ^ 16 → a.permFlt = none → c.space = 3 → s.spaceFlt s.cur a = none →
     (∀ k ∈ s.launches, k.2.part = s.partOf s.cur → ∀ h ∈ k.2.halos, ¬ (h.lo < c.top ∧ c.base < h.hi)) →
     (∀ h ∈ (s.part (s.partOf s.cur)).halos, ¬ (h.lo < c.top ∧ c.base < h.hi)) →
     c.base % 65536 = 0 → (c.top - c.base) % ts = 0 → s.leaseFlt s.cur a = none →
     let key := globKey (s.partOf s.cur) c.base
     s.slotFull s.cur key = false →
     ∃ t h, exec (.halo x) s = .next t ∧ Ends s t s.me x.h.words (rdy s x.h) ∧
       Sent s t (.unit (.halo x) key { sp := 3, ea := BitVec.ofNat 64 c.base } c p 0 0) ∧
       (isSvcPos s.cur = false → ∃ l, t.launch? s.me.lslot = some l ∧ l.halos = hs ++ [h]) ∧
       (isSvcPos s.cur = true → (t.part (s.partOf s.cur)).halos = hs ++ [h]) ∧ h.lo = c.base ∧ h.hi = c.top ∧ h.ts = ts ∧ h.hw = hw) ∧
   (∀ (s : State) (r : Req) (x : HaloA) (key : Nat) (o : Opd) (c : Cap) (p b : W64) (v : W1024) (h : Halo),
     s.req? s.cur = some r → r.k = .unit (.halo x) key o c p b v →
     (s.halosOf r.lslot).find? (fun y => y.lo = key % 2 ^ 64) = some h →
     ∃ t, exec .haloComplete s = .next t ∧ t.mem = s.mem ∧ t.reqs = s.reqs.filter (fun q => q.id != r.id) ∧
       ∀ i < h.tiles, ∀ d vas, (d, vas) ∈ h.replicas i → ∀ va ∈ vas, ∀ j < 64,
         let k := globKey (key / 2 ^ 64) va + j
         Tab.find? (Tab.get [] t.halo d) k = if p.toNat % 2 ^ 32 ≠ 0 then some (Tab.get 0 s.mem k) else none) ∧
   (∀ (s : State) (x : MemA) (h : Halo) (i : Nat), NoHandler s → s.me.orphan = none →
     let c := s.me.rc x.mem.cap
     let ea := s.me.ea x.mem
     let a : Acc := { cap := c, perms := [pStore], sp := spImm, write := true, ea := ea.toNat, len := 1 }
     let key := globKey (s.partOf s.cur) ea.toNat
     s.haloTile (s.partOf s.cur) ea.toNat = some (h, i) → h.owner i = dieOf s.cur → c.space = 3 → a.permFlt = none →
     s.spaceFlt s.cur a = none → a.boundFlt = none → s.leaseFlt s.cur a = none → s.slotFull s.cur key = false →
     ∃ t, exec (.halopush x) s = .next t ∧ t.mem = s.mem ∧ t.vers = s.vers ∧ Ends s t s.me x.h.words (rdy s x.h) ∧
       (h.replicas i ≠ [] → Sent s t (.done []) ∧ ∃ b, t.batches = s.batches ++ [b] ∧ b.push = true ∧ b.req = s.nextReq ∧
         b.chan = globKey (s.partOf s.cur) (h.lo + i * h.ts) ∧ ∀ d, d ∈ b.todo ↔ ∃ vas, (d, vas) ∈ h.replicas i)) ∧
   (∀ (s : State) (b : Batch) (h : Halo) (i : Nat), s.batches.find? (fun y => y.id = s.cur) = some b → b.push = true → s.arg ∈ b.todo →
     s.waiting b.after = false →
     let region := fun (y : Batch) => (s.haloTile (y.chan / 2 ^ 64) (y.chan % 2 ^ 64)).map fun g => g.1.lo
     (∀ y ∈ s.batches, y.push = true → y.home = b.home → region y = region b → s.arg ∈ y.todo → b.id ≤ y.id) →
     s.haloTile (b.chan / 2 ^ 64) (b.chan % 2 ^ 64) = some (h, i) → h.lo % 64 = 0 → h.ts % 64 = 0 →
     ∃ t, exec .haloPushApply s = .next t ∧ t.mem = s.mem ∧ (∀ y ∈ t.batches, y.id = b.id → s.arg ∉ y.todo) ∧
       ∀ vas, (s.arg, vas) ∈ h.replicas i → ∀ va ∈ vas, ∀ j < 64,
         let k := globKey (b.chan / 2 ^ 64) va + j
         let own := Tab.find? b.cells.reverse k
         (b.applied = false → Tab.find? (Tab.get [] t.halo s.arg) k = some (own.getD (Tab.get 0 s.mem k))) ∧
         (b.applied = true → ∀ w, own = some w → Tab.find? (Tab.get [] t.halo s.arg) k = some w)))

/-- R250, R251, R253: a FENCE with nothing outstanding, no writing job, no earlier access still to be performed at its scope and
every probe echoed completes and clears TBMASK, and otherwise parks its task; an echo clears its probe; ENGWAIT of idle queues completes, with ERR once after a failed copy. -/
def Obligations.FencesAndEngineWaits : Prop :=
  ∀ s : State,
    (∀ x : FenceA, NoHandler s →
      let now := s.outstanding s.cur = false ∧ s.me.writing = false ∧
        (∀ b < 64, s.me.tbmask.getLsbD b = true → s.echoes s.cur x.scope b = true) ∧ s.earlier s.cur x.scope = []
      ∃ t, exec (.fence x) s = .next t ∧ t.mem = s.mem ∧ t.me.kept = none ∧
        (now → Ends s t s.me (if x.ext then 3 else 1) s.me.o ∧ t.me.tbmask = 0 ∧ t.me.st = s.me.st) ∧
        (¬ now → t.me.st = .parked ∧ t.me.park = .fence x.scope ∧ t.me.pc = s.me.pc ∧ t.me.probes = s.me.tbmask ∧ SameFiles t.me s.me)) ∧
    (∀ scope, s.me.st = .parked → s.me.park = .fence scope → s.me.exiting = false → s.arg < 64 → s.me.probes.getLsbD s.arg = true →
      s.echoes s.cur scope s.arg = true → ∃ t, exec .fenceProbeEcho s = .next t ∧ t.mem = s.mem ∧ SameFiles t.me s.me ∧
        t.me.pc = s.me.pc ∧ ∀ b < 64, t.me.probes.getLsbD b = (s.me.probes.getLsbD b && b ≠ s.arg)) ∧
    (∀ x : EngwaitA, NoHandler s →
      let on := fun (b : Nat) => x.mask = 0 ∨ x.mask.getLsbD b = true
      (on 0 → s.me.vxe = []) → (on 1 → s.me.mxe = []) → (on 2 → s.me.cpe = []) → (on 3 → s.me.att = [] ∧ s.me.posts = []) →
      ∃ t, exec (.engwait x) s = .next t ∧ t.mem = s.mem ∧ t.me.cRep = false ∧ Ends s t s.me x.h.words (if s.me.cRep then 0x8 else rdy s x.h))

/-! ## Outcomes, waiting and queues (spec/14) -/

/-- R287, R288: PARK on a word of the own LS completes when the word differs from its register and otherwise parks on it;
elsewhere it goes to the word's place, and its reply or a later re-read completes it when the word, as a load reads it, differs. No memory and no
register changes.
R280, R283, R286, R302: the reply of a request that has been performed lands its writes and ends it; a wait beyond WLIM
freezes its task with WAITLIM, and the packet names the instruction, the limit, the outcome and the object, which for a KVAPP
that waits to publish is its descriptor (R189); a task parked without a
waiter record wakes after 1,024 cycles; YIELD waits for the other slots of its core that are eligible now.
(The model's readings there: notes/assumptions/29.) -/
def Obligations.ParkingAndEndsOfWaiting : Prop :=
  ((∀ (s : State) (x : ParkA) (key : Nat), NoHandler s →
     let a : Acc :=
       { cap := s.me.rc x.mem.cap, perms := [pLoad], sp := { own := true, clu := true, imm := true, ms := true }
         ea := (s.me.ea x.mem).toNat, len := 4, align := 4 }
     Clear s a key →
     let word := BitVec.ofNat 32 (leNat (s.loadBytes (s.rdr s.cur s.me.proof) key 4))
     let v := (s.me.rs x.sa).setWidth 32
     (ownLs s.cur key = true → s.ueIn (s.rdr s.cur s.me.proof) key 4 = none → ∃ t, exec (.park x) s = .next t ∧ t.mem = s.mem ∧
       if word = v then t.me.st = .parked ∧ t.me.park = .word key v x.h ∧ t.me.pc = s.me.pc ∧ SameFiles t.me s.me
       else Ends s t s.me (Pl.words x.h) s.me.o) ∧
     (ownLs s.cur key = false → ∃ t, exec (.park x) s = .next t ∧
       SentAway s t (.unit (.park x) key { sp := a.cap.space, ea := s.me.ea x.mem } a.cap (s.me.rs x.sa) 0 0))) ∧
   (∀ (s : State) (r : Req) (x : ParkA) (key : Nat) (o : Opd) (c : Cap) (a b : W64) (v : W1024), Awaits s r →
     r.k = .unit (.park x) key o c a b v → s.unapplied r.id = false → s.ueIn (s.rdr r.pos (s.ms r.pos).proof) key 4 = none →
     BitVec.ofNat 32 (leNat (s.loadBytes (s.rdr r.pos (s.ms r.pos).proof) key 4)) ≠ a.setWidth 32 →
     ∃ t, exec .postedResultReturn s = .next t ∧ t.mem = s.mem ∧ Answered s t r (s.ms r.pos) (Pl.words x.h) (s.ms r.pos).o) ∧
   (∀ (s : State) (key : Nat) (v : W32) (h : Pl), IsTask s → s.me.st = .parked → s.me.saving = none → s.me.park = .word key v h → s.ueIn (s.rdr s.cur s.me.proof) key 4 = none →
     BitVec.ofNat 32 (leNat (s.loadBytes (s.rdr s.cur s.me.proof) key 4)) ≠ v →
     ∃ t, exec .parkReread s = .next t ∧ t.mem = s.mem ∧ t.vers = s.vers ∧ Ends s t s.me (Pl.words h) s.me.o)) ∧
  (∀ s : State,
     (∀ (r : Req) (ws : List RegW), s.req? s.cur = some r → (r.k = .done ws ∨ r.k = .ack ∧ ws = []) → s.unapplied r.id = false →
       (s.ms r.pos).exiting = false → ∃ t, exec .postedResultReturn s = .next t ∧ t.mem = s.mem ∧
         t.reqs = s.reqs.filter (fun q => q.id != r.id) ∧ SameFiles (t.ms r.pos) ((s.ms r.pos).landAll ws)) ∧
     (s.me.kind ≠ .empty → s.me.st = .parked → s.me.park ≠ .reply → s.me.exiting = false → s.me.saving = none → s.me.wlim.toNat < s.me.wait + (s.cyc - s.me.since) →
       ∃ t p, exec .waitlimExpiry s = .next t ∧ t.mem = s.mem ∧ t.me.st = .frozen ∧ t.me.pc = s.me.pc ∧ SameFiles t.me s.me ∧
         (t.die (dieOf s.cur)).pkts = (s.die (dieOf s.cur)).pkts ++ [p] ∧ p.type = 0 ∧ p.cause = 0x09 ∧ p.pos = some s.cur ∧
         p.d0 = s.me.wlim.setWidth 64 ∧ p.d1 = s.me.parkO.setWidth 64 ∧
         p.pc = (if s.me.park = .marker then s.me.parkA else s.me.pc) ∧ p.d2 = if s.me.park = .marker then ((s.me.att.head?).bind Machine.Job.descWait).getD 0 else s.me.parkA) ∧
     (∀ key c, s.me.kind ≠ .empty → s.me.st = .parked → s.me.saving = none → s.me.park = .fe key c false → 1024 ≤ s.cyc - s.me.since →
       ∃ t, exec .recordlessReissue s = .next t ∧ t.mem = s.mem ∧ t.me.st = .ready ∧ t.me.pc = s.me.pc ∧ SameFiles t.me s.me) ∧
     (∀ x : Pl, NoHandler s → ∃ t, exec (.yield x) s = .next t ∧ t.mem = s.mem ∧ t.vers = s.vers ∧ Ends s t s.me (Pl.words x) s.me.o ∧
       ∀ p, p ∈ t.me.yield ↔ isSvcPos s.cur = false ∧ p ≠ s.cur ∧ p / 16 = coreOf s.cur ∧ s.eligible (s.ms p) = true))

namespace Sys2Proof.Claims

/-- A queue instruction on a well-formed queue of the own LS at `key` (R290, R291). -/
def QueueOk (s : State) (x : RMem) (perms : List Nat) (write : Bool) (key : Nat) : Prop :=
  let a : Acc :=
    { cap := s.me.rc x.mem.cap, perms := perms, sp := { own := true }, write := write, ea := (s.me.ea x.mem).toNat, len := 64, align := 64 }
  let cap := s.memNat (key + 8) 2
  NoHandler s ∧ a.cap.space = 1 ∧ Clear s a key ∧ s.ueIn Rdr.home key 64 = none ∧ 1 ≤ cap ∧ cap ≤ 4096 ∧
  (s.memNat (key + 4) 4 + 2 ^ 32 - s.memNat key 4) % 2 ^ 32 ≤ cap ∧ s.check s.cur { a with len := 64 + 8 * cap } = none ∧
  s.me.overlaps s.cur 1 (s.me.ea x.mem).toNat (64 + 8 * cap) write = false

end Sys2Proof.Claims

/-- R290, R291: on a queue of the own LS, QPUT of a queue with space writes its register to the entry at PUTS and adds 1 to
PUTS; QGET of one that is not empty takes the entry at GETS and adds 1 to GETS; QPEEK takes it and leaves GETS; QCNT gives the
number of items. No other byte changes. In the try mode a full queue answers FULL and an empty one EMPTY, with no effect.
(The model's readings there: notes/assumptions/31.) -/
def Obligations.QueuesInTheOwnLs : Prop :=
  ∀ (s : State) (x : RMem) (key : Nat),
    let gets := s.memNat key 4
    let puts := s.memNat (key + 4) 4
    let cap := s.memNat (key + 8) 2
    let count := (puts + 2 ^ 32 - gets) % 2 ^ 32
    let tail := key + 64 + 8 * (puts % cap)
    let head := key + 64 + 8 * (gets % cap)
    let all := [pLoad, pStore, pSync]
    (QueueOk s x all true key → count < cap → s.earlier s.cur 1 = [] →
      ∃ t, exec (.qput x) s = .next t ∧ Ends s t s.me x.h.words (rdy s x.h) ∧
        (∀ i < 8, Tab.get 0 t.mem (tail + i) = (leBytes 8 (s.me.rs x.sr).toNat).getD i 0) ∧
        (∀ i < 4, Tab.get 0 t.mem (key + 4 + i) = (leBytes 4 (puts + 1)).getD i 0) ∧
        ∀ k < 2 ^ 72, ¬ (tail ≤ k ∧ k < tail + 8) → ¬ (key + 4 ≤ k ∧ k < key + 8) → Tab.get 0 t.mem k = Tab.get 0 s.mem k) ∧
    (QueueOk s x all true key → count ≠ 0 → s.ueIn Rdr.home head 8 = none →
      ∃ t, exec (.qget x) s = .next t ∧ Ends s t (s.me.ws x.sr (BitVec.ofNat 64 (s.memNat head 8))) x.h.words (rdy s x.h) ∧
        (∀ i < 4, Tab.get 0 t.mem (key + i) = (leBytes 4 (gets + 1)).getD i 0) ∧
        ∀ k < 2 ^ 72, ¬ (key ≤ k ∧ k < key + 4) → Tab.get 0 t.mem k = Tab.get 0 s.mem k) ∧
    (QueueOk s x all false key → count ≠ 0 → s.ueIn Rdr.home head 8 = none →
      ∃ t, exec (.qpeek x) s = .next t ∧ t.mem = s.mem ∧ t.vers = s.vers ∧ Ends s t (s.me.ws x.sr (BitVec.ofNat 64 (s.memNat head 8))) x.h.words (rdy s x.h)) ∧
    (QueueOk s x [pLoad, pSync] false key →
      ∃ t, exec (.qcnt x) s = .next t ∧ t.mem = s.mem ∧ t.vers = s.vers ∧ Ends s t (s.me.ws x.sr (BitVec.ofNat 64 count)) x.h.words (rdy s x.h)) ∧
    (QueueOk s x all true key → count = cap → s.earlier s.cur 1 = [] → x.h.nr = 1 →
      ∃ t, exec (.qput x) s = .next t ∧ t.mem = s.mem ∧ t.vers = s.vers ∧ Ends s t s.me x.h.words 0x3) ∧
    (QueueOk s x all true key → count = 0 → x.h.nr = 1 →
      ∃ t, exec (.qget x) s = .next t ∧ t.mem = s.mem ∧ t.vers = s.vers ∧ Ends s t s.me x.h.words 0x4)

namespace Sys2Proof.Claims

/-- What a queue instruction or circular-buffer instruction sends to a FIFO bank. -/
def fifoForm (i : Instr) (m : Master) : Option (Hd × MemOp × List Nat × W64 × W1024) :=
  match i with
  | .qput x => some (x.h, x.mem, [pLoad, pStore, pSync], m.rs x.sr, 0)
  | .qget x | .qpeek x => some (x.h, x.mem, [pLoad, pStore, pSync], m.rs x.sr, 0)
  | .qcnt x => some (x.h, x.mem, [pLoad, pSync], m.rs x.sr, 0)
  | .cbput x => some (x.h, x.mem, [pLoad, pStore, pSync], 0, m.rv x.v)
  | .cbget x => some (x.h, x.mem, [pLoad, pStore, pSync], 0, 0)
  | .cbfree x => some (x.h, x.mem, [pLoad, pStore, pSync], m.rs x.sa, 0)
  | _ => none

/-- Bytes 8i to 8i + 7 of FIFO bank `b`'s ring entry. -/
def entryKey (b i : Nat) : Nat := 2 ^ 69 + b * 2 ^ 19 + 8 * (i % 65536)

end Sys2Proof.Claims

/-- R291, R293, R315: a queue or circular-buffer instruction on a FIFO bank whose checks pass goes to the bank, and its task
awaits the reply.
R293, R314, R315: the bank performs a request in its turn. A put writes the entry at the write position; a get takes the
one at the read position and frees it; a peek takes it; a count gives the fill. CBPUT puts 16 entries from its v register;
CBGET takes 16 into its v register and keeps them held; CBFREE frees held records, as many as its register says and are held.
(The model's readings there: notes/assumptions/31, 70.) -/
def Obligations.FifoBanks : Prop :=
  (∀ (s : State) (i : Instr) (h : Hd) (mem : MemOp) (perms : List Nat) (a : W64) (v : W1024), fifoForm i s.me = some (h, mem, perms, a, v) →
     IsTask s → s.me.orphan = none →
     let c := s.me.rc mem.cap
     let ea := s.me.ea mem
     let acc : Acc := { cap := c, perms := perms, sp := spFifo, ea := ea.toNat, len := 1 }
     let lo := ea.toNat / 2 ^ 19 * 2 ^ 19
     let key := cluKey (clusterOf s.cur) ea.toNat
     c.space = 2 → acc.permFlt = none → s.spaceFlt s.cur acc = none → c.base ≤ lo → lo + 2 ^ 19 ≤ c.top → s.slotFull s.cur key = false →
     s.switching s.cur 2 ea.toNat 1 = false →
     ∃ t, exec i s = .next t ∧ SentAway s t (.unit i key { sp := 2, ea := ea } c a 0 v)) ∧
  (∀ (s : State) (r : Req) (i : Instr) (key : Nat) (o : Opd) (c : Cap) (a b' : W64) (v : W1024), Awaits s r →
     r.k = .unit i key o c a b' v → 2 ^ 69 ≤ key → key < 2 ^ 72 →
     let b := bankOfKey key
     let bk := s.bank b
     let m := s.ms r.pos
     let at' := fun (pos : Nat) => BitVec.ofNat 64 (s.memNat (entryKey b pos) 8)
     s.waiting r.after = false → bk.sw = [] → bk.mode = 2 → bk.wpos < 65536 → bk.rpos < 65536 →
     (∀ x : RMem, i = .qput x → bk.fill < 65536 - bk.held →
       ∃ t, exec .fifoPerform s = .next t ∧ Answered s t r m x.h.words (rdyR s r x.h) ∧
         t.bank b = { bk with fill := bk.fill + 1, wpos := (bk.wpos + 1) % 65536 } ∧
         (∀ j < 8, Tab.get 0 t.mem (entryKey b bk.wpos + j) = (leBytes 8 a.toNat).getD j 0) ∧
         ∀ k < 2 ^ 72, ¬ (entryKey b bk.wpos ≤ k ∧ k < entryKey b bk.wpos + 8) → Tab.get 0 t.mem k = Tab.get 0 s.mem k) ∧
     (∀ x : RMem, i = .qget x → bk.fill ≠ 0 → s.ueIn Rdr.home (entryKey b bk.rpos) 8 = none →
       ∃ t, exec .fifoPerform s = .next t ∧ t.mem = s.mem ∧ Answered s t r (m.ws x.sr (at' bk.rpos)) x.h.words (rdyR s r x.h) ∧
         t.bank b = { bk with fill := bk.fill - 1, free := (bk.free + 1) % 2 ^ 32, rpos := (bk.rpos + 1) % 65536 }) ∧
     (∀ x : RMem, i = .qpeek x → bk.fill ≠ 0 → s.ueIn Rdr.home (entryKey b bk.rpos) 8 = none →
       ∃ t, exec .fifoPerform s = .next t ∧ t.mem = s.mem ∧ Answered s t r (m.ws x.sr (at' bk.rpos)) x.h.words (rdyR s r x.h) ∧ t.bank b = bk) ∧
     (∀ x : RMem, i = .qcnt x →
       ∃ t, exec .fifoPerform s = .next t ∧ t.mem = s.mem ∧ Answered s t r (m.ws x.sr (BitVec.ofNat 64 bk.fill)) x.h.words (rdyR s r x.h) ∧
         t.bank b = bk) ∧
     (∀ x : CbA, i = .cbput x → 16 ≤ 65536 - bk.fill - bk.held →
       ∃ t, exec .fifoPerform s = .next t ∧ Answered s t r m x.h.words (rdyR s r x.h) ∧
         t.bank b = { bk with fill := bk.fill + 16, wpos := (bk.wpos + 16) % 65536 } ∧
         (∀ e < 16, ∀ j < 8, Tab.get 0 t.mem (entryKey b (bk.wpos + e) + j) = v.extractLsb' (64 * e + 8 * j) 8) ∧
         ∀ k < 2 ^ 72, (∀ e < 16, ¬ (entryKey b (bk.wpos + e) ≤ k ∧ k < entryKey b (bk.wpos + e) + 8)) →
           Tab.get 0 t.mem k = Tab.get 0 s.mem k) ∧
     (∀ x : CbA, i = .cbget x → 16 ≤ bk.fill → (∀ e < 16, s.ueIn Rdr.home (entryKey b (bk.rpos + e)) 8 = none) →
       ∃ t w, exec .fifoPerform s = .next t ∧ t.mem = s.mem ∧ Answered s t r (m.wv x.v w) x.h.words (rdyR s r x.h) ∧
         (∀ e < 16, w.extractLsb' (64 * e) 64 = at' (bk.rpos + e)) ∧
         t.bank b = { bk with fill := bk.fill - 16, held := bk.held + 16, rpos := (bk.rpos + 16) % 65536 }) ∧
     (∀ x : CbfreeA, i = .cbfree x →
       let n := min a.toNat (bk.held / 16)
       ∃ t, exec .fifoPerform s = .next t ∧ t.mem = s.mem ∧ Answered s t r (m.ws x.sd (BitVec.ofNat 64 n)) x.h.words (rdyR s r x.h) ∧
         t.bank b = { bk with held := bk.held - 16 * n, free := (bk.free + 16 * n) % 2 ^ 32 }))
/-! ## Synchronisation at memory (spec/16) -/

namespace Sys2Proof.Claims

/-- What a word instruction accesses (R305, R306). -/
def syncAcc (s : State) (x : MemOp) (write excl : Bool) : Acc :=
  { cap := s.me.rc x.cap, perms := if write then [pLoad, pStore, pSync] else [pLoad, pSync], sp := spSync, write := write
    tile := true, excl := excl, ea := (s.me.ea x).toNat, len := 4, align := 4 }

/-- The full/empty bit of the word at `key` (R301). -/
def Full (s : State) (key : Nat) : Prop := Tab.get 0 s.mem (feKey key) ≠ 0

/-- Memory is as before, but for the full/empty bit of the word at `key`, which is now `full`. -/
def OnlyBit (s t : State) (key : Nat) (full : Bool) : Prop :=
  ∀ k, Tab.get 0 t.mem k = if k = feKey key then (if full then 1 else 0) else Tab.get 0 s.mem k

/-- The word instructions with what they access and send (R299, R305, R306): the memory operand, whether they write and whether a
job's read range holds them back. -/
def wordForm (i : Instr) (m : Master) : Option (MemOp × Bool × Bool × W64 × W64) :=
  match i with
  | .ldsy x => some (x.mem, false, true, 0, 0)
  | .ldpk x | .feget x => some (x.mem, false, true, 0, 0)
  | .stsy x => some (x.mem, true, true, m.rs x.sr, 0)
  | .feset x => some (x.mem, true, true, 0, 0)
  | .waitge x => some (x.mem, false, false, m.rs x.sa, m.rs x.sb)
  | .waiteq x => some (x.mem, false, false, m.rs x.sr, 0)
  | _ => none

/-- The generation wait of R306: the word has come to `a`, counted from `b`, modulo 2^32. -/
def reached (w : Nat) (a b : W64) : Prop :=
  (a.toNat + 2 ^ 32 - b.toNat % 2 ^ 32) % 2 ^ 32 ≤ (w + 2 ^ 32 - b.toNat % 2 ^ 32) % 2 ^ 32

end Sys2Proof.Claims

/-- R301, R305, R306: on a word of the own LS, LDSY of a full word takes it and makes it empty; STSY of an empty one writes it
and makes it full; LDPK of a full one takes it; FESET sets the bit; FEGET gives the bit above the word; WAITGE and WAITEQ
complete when the word has reached, or equals, their value. In the try mode the other condition answers EMPTY, FULL or EARLY
with no effect.
(The model's readings there: notes/assumptions/32.) -/
def Obligations.FullEmptyWords : Prop :=
  ∀ (s : State) (key : Nat), ownLs s.cur key = true → s.ueIn Rdr.home key 4 = none →
    let w := s.memNat key 4
    (∀ x : MemS, May s .access x.h.nr → Clear s (syncAcc s x.mem false true) key → (ordRel x.ord = true → s.earlier s.cur x.scope = []) →
      (Full s key → ∃ t, exec (.ldsy x) s = .next t ∧ Ends s t (s.me.ws x.sr (BitVec.ofNat 64 w)) x.h.words (rdy s x.h) ∧
        ¬ Full t key ∧ ∀ k < 2 ^ 72, Tab.get 0 t.mem k = Tab.get 0 s.mem k) ∧
      (¬ Full s key → x.h.nr = 1 → ∃ t, exec (.ldsy x) s = .next t ∧ t.mem = s.mem ∧ t.vers = s.vers ∧ Ends s t s.me x.h.words 0x4) ∧
      (Full s key → ∃ t, exec (.ldpk x) s = .next t ∧ t.mem = s.mem ∧ t.vers = s.vers ∧ Ends s t (s.me.ws x.sr (BitVec.ofNat 64 w)) x.h.words (rdy s x.h)) ∧
      (∃ t v, exec (.feget x) s = .next t ∧ t.mem = s.mem ∧ t.vers = s.vers ∧ Ends s t (s.me.ws x.sr v) x.h.words (rdy s x.h) ∧
        v.toNat % 2 ^ 32 = w ∧ (v.toNat / 2 ^ 32 = 1 ↔ Full s key) ∧ (v.toNat / 2 ^ 32 = 0 ↔ ¬ Full s key))) ∧
    (∀ x : MemS, May s .access x.h.nr → Clear s (syncAcc s x.mem true true) key → (ordRel x.ord = true → s.earlier s.cur x.scope = []) →
      (¬ Full s key → ∃ t, exec (.stsy x) s = .next t ∧ Ends s t s.me x.h.words (rdy s x.h) ∧ Full t key ∧
        ∀ k < 2 ^ 72, Tab.get 0 t.mem k =
          if key ≤ k ∧ k < key + 4 then (leBytes 4 (s.me.rs x.sr).toNat).getD (k - key) 0 else Tab.get 0 s.mem k) ∧
      (Full s key → x.h.nr = 1 → ∃ t, exec (.stsy x) s = .next t ∧ t.mem = s.mem ∧ t.vers = s.vers ∧ Ends s t s.me x.h.words 0x3)) ∧
    (∀ x : FesetA, May s .access x.h.nr → Clear s (syncAcc s x.mem true true) key → (ordRel x.ord = true → s.earlier s.cur x.scope = []) →
      ∃ t, exec (.feset x) s = .next t ∧ Ends s t s.me x.h.words (rdy s x.h) ∧ OnlyBit s t key x.full) ∧
    (∀ x : WaitgeA, NoHandler s → Clear s (syncAcc s x.mem false false) key → (ordRel x.ord = true → s.earlier s.cur x.scope = []) →
      (reached w (s.me.rs x.sa) (s.me.rs x.sb) → ∃ t, exec (.waitge x) s = .next t ∧ t.mem = s.mem ∧ t.vers = s.vers ∧ Ends s t s.me x.h.words (rdy s x.h)) ∧
      (¬ reached w (s.me.rs x.sa) (s.me.rs x.sb) → x.h.nr = 1 →
        ∃ t, exec (.waitge x) s = .next t ∧ t.mem = s.mem ∧ t.vers = s.vers ∧ Ends s t s.me x.h.words 0x7)) ∧
    (∀ x : MemS, NoHandler s → Clear s (syncAcc s x.mem false false) key → (ordRel x.ord = true → s.earlier s.cur x.scope = []) →
      (w = (s.me.rs x.sr).toNat % 2 ^ 32 → ∃ t, exec (.waiteq x) s = .next t ∧ t.mem = s.mem ∧ t.vers = s.vers ∧ Ends s t s.me x.h.words (rdy s x.h)) ∧
      (w ≠ (s.me.rs x.sr).toNat % 2 ^ 32 → x.h.nr = 1 → ∃ t, exec (.waiteq x) s = .next t ∧ t.mem = s.mem ∧ t.vers = s.vers ∧ Ends s t s.me x.h.words 0x7))

/-- R299, R300: elsewhere a word instruction goes to its word's unit and its task waits for the reply; the unit performs it in
its turn, a bank in scratchpad mode while it is not switching: LDSY of a full word, STSY of an empty one and WAITEQ of an equal one complete there as on the own LS.
(The model's readings there: notes/assumptions/33.) -/
def Obligations.WordsAtTheirUnits : Prop :=
  (∀ (s : State) (i : Instr) (mem : MemOp) (write excl : Bool) (a b : W64) (key : Nat),
    wordForm i s.me = some (mem, write, excl, a, b) → NoHandler s → Clear s (syncAcc s mem write excl) key → ownLs s.cur key = false →
    ∃ t, exec i s = .next t ∧ SentAway s t (.unit i key { sp := (s.me.rc mem.cap).space, ea := s.me.ea mem } (s.me.rc mem.cap) a b 0)) ∧
  (∀ (s : State) (r : Req) (x : MemS) (key : Nat) (o : Opd) (c : Cap) (a b : W64) (v : W1024), Awaits s r → s.unitReady r = true →
    s.ueIn Rdr.home key 4 = none → (2 ^ 69 ≤ key → key < 2 ^ 72 → (s.bank (bankOfKey key)).sw = [] ∧ (s.bank (bankOfKey key)).mode = 1) →
    (r.k = .unit (.ldsy x) key o c a b v → key < 2 ^ 72 → Full s key → ∃ t, exec .syncRemotePerform s = .next t ∧
      Answered s t r ((s.ms r.pos).ws x.sr (BitVec.ofNat 64 (s.memNat key 4))) x.h.words (rdyR s r x.h) ∧ ¬ Full t key ∧
      ∀ k < 2 ^ 72, Tab.get 0 t.mem k = Tab.get 0 s.mem k) ∧
    (r.k = .unit (.stsy x) key o c a b v → key % 4 = 0 → key < 2 ^ 72 → ¬ Full s key → ∃ t, exec .syncRemotePerform s = .next t ∧
      Answered s t r (s.ms r.pos) x.h.words (rdyR s r x.h) ∧ Full t key ∧
      ∀ k < 2 ^ 72, Tab.get 0 t.mem k = if key ≤ k ∧ k < key + 4 then (leBytes 4 a.toNat).getD (k - key) 0 else Tab.get 0 s.mem k) ∧
    (r.k = .unit (.waiteq x) key o c a b v → s.memNat key 4 = a.toNat % 2 ^ 32 → ∃ t, exec .syncRemotePerform s = .next t ∧
      t.mem = s.mem ∧ Answered s t r (s.ms r.pos) x.h.words (rdyR s r x.h)))

/-- R307 to R310: BARC goes to the barrier's root and there takes a free tag for its launch, or for its supervisor core, with its
count; BARA of a tag that
the launch holds sends its arrival, which returns the generation as its ticket and, with the last one of the count, closes
the generation; GEN advances on every core after the span's latency; BART completes once GEN differs from its ticket, and
answers BAR in the try mode before.
(The model's choices there: a supervisor core is a party of its own, and those of a partition share one instance at span .CLU,
notes/assumptions/81; an arrival counts in the tag's state as it finds it, also where its tag has been released since, 82. Its reading of
the latencies: 35.) -/
def Obligations.Barriers : Prop :=
  (∀ (s : State) (x : BarA) (sp : Nat), NoHandler s →
    (x.scope = 0 ∨ x.scope = 4) ∧ sp = 4 ∨ x.scope = 2 ∧ sp = 2 ∨ x.scope = 3 ∧ sp = 3 →
    let inst := s.barInst s.cur sp x.tag.toNat
    (∃ t, exec (.barc x) s = .next t ∧ SentAway s t (.unit (.barc x) (2 ^ 80 + inst) { sp := 0, ea := 0 } Cap.null (s.me.rs x.sr) 0 0)) ∧
    ((s.bar inst).owner = some (s.party s.cur) →
      (∃ t, exec (.bara x) s = .next t ∧ Ends s t s.me x.h.words (rdy s x.h) ∧
        Sent s t (.unit (.bara x) (2 ^ 80 + inst) { sp := 0, ea := 0 } Cap.null 0 0 0)) ∧
      (s.unitAhead s.cur (2 ^ 80 + inst) 0 = [] → (s.bar inst).gen ≠ (s.me.rs x.sr).toNat % 2 ^ 32 →
        ∃ t, exec (.bart x) s = .next t ∧ t.mem = s.mem ∧ t.vers = s.vers ∧ t.bars = s.bars ∧ Ends s t s.me x.h.words (rdy s x.h)) ∧
      (s.unitAhead s.cur (2 ^ 80 + inst) 0 = [] → (s.bar inst).gen = (s.me.rs x.sr).toNat % 2 ^ 32 → x.h.nr = 1 →
        ∃ t, exec (.bart x) s = .next t ∧ t.mem = s.mem ∧ t.vers = s.vers ∧ t.bars = s.bars ∧ Ends s t s.me x.h.words 0x5))) ∧
  (∀ (s : State) (r : Req) (x : BarA) (inst : Nat) (o : Opd) (c : Cap) (a b : W64) (v : W1024), s.unitReady r = true →
    let bar := s.bar inst
    (Awaits s r → r.k = .unit (.barc x) (2 ^ 80 + inst) o c a b v → bar.owner = none → s.barTaken inst = false → 1 ≤ a.toNat →
      a.toNat < 2 ^ 24 → ∃ t, exec .syncRemotePerform s = .next t ∧ t.mem = s.mem ∧
        Answered s t r (s.ms r.pos) x.h.words (rdyR s r x.h) ∧
        t.bar inst = { bar with owner := some (s.party r.pos), count := a.toNat, arr := 0 }) ∧
    (s.req? s.cur = some r → (s.ms r.pos).exiting = false → r.k = .unit (.bara x) (2 ^ 80 + inst) o c a b v →
      ∃ t, exec .syncRemotePerform s = .next t ∧ t.mem = s.mem ∧ t.reqs = s.reqs.filter (fun q => q.id != r.id) ∧
        SameFiles (t.ms r.pos) ((s.ms r.pos).ws x.sr (BitVec.ofNat 64 ((bar.gen + bar.closed.length) % 2 ^ 32))) ∧
        t.bar inst = if bar.arr + 1 < bar.count then { bar with arr := bar.arr + 1 }
          else { bar with arr := 0, closed := bar.closed ++ [s.cyc] })) ∧
  (∀ (s : State) (at' : Nat) (rest : List Nat), (s.bar s.cur).closed = at' :: rest →
    at' + (if s.cur < 8192 then 8 else if s.cur < 16384 then 24 else 160) ≤ s.cyc →
    ∃ t, exec .barrierGenAdvance s = .next t ∧ t.mem = s.mem ∧
      t.bar s.cur = { s.bar s.cur with closed := rest, gen := ((s.bar s.cur).gen + 1) % 2 ^ 32 })

namespace Sys2Proof.Claims

/-- The smaller and the greater of two data of w bits as signed numbers. -/
def sMin (w x y : Nat) : Nat := if signed w y < signed w x then y else x
def sMax (w x y : Nat) : Nat := if signed w x < signed w y then y else x

/-- What the atomics of R311 write over the datum x of w bits, with y the low w bits of sb. -/
def amoOps : List ((AmoA → Instr) × (Nat → Nat → Nat → Nat)) :=
  [(.amoAdd, fun w x y => (x + y) % 2 ^ w), (.amoSub, fun w x y => (x + 2 ^ w - y) % 2 ^ w), (.amoMin, sMin), (.amoMax, sMax),
   (.amoMinu, fun _ x y => min x y), (.amoMaxu, fun _ x y => max x y), (.amoAnd, fun _ x y => x &&& y), (.amoOr, fun _ x y => x ||| y),
   (.amoXor, fun _ x y => x ^^^ y), (.amoSwp, fun _ _ y => y)]

/-- What the reductions of R312 write. -/
def redOps : List ((RedA → Instr) × (Nat → Nat → Nat → Nat)) :=
  [(.redAdd, fun w x y => (x + y) % 2 ^ w), (.redMin, sMin), (.redMax, sMax), (.redAnd, fun _ x y => x &&& y),
   (.redOr, fun _ x y => x ||| y), (.redXor, fun _ x y => x ^^^ y), (.redFadd, fun _ x y => vfAdd ffF 0 x y)]

/-- Bytes of an element type of an atomic: 8 for .D, 4 for the others. -/
def amoSize (et : BitVec 4) : Nat := if et = 4 then 8 else 4

/-- What an atomic or a reduction accesses. -/
def amoAcc (s : State) (x : MemOp) (perms : List Nat) (n : Nat) : Acc :=
  { cap := s.me.rc x.cap, perms := perms, sp := spSync, write := true, ea := (s.me.ea x).toNat, len := n, align := n }

/-- Its checks pass and nothing holds it back; on the own LS it follows its task's earlier accesses, elsewhere it waits for them at
the unit (R213, R234). -/
def ClearAmo (s : State) (a : Acc) (key : Nat) : Prop :=
  s.check s.cur a = none ∧ s.me.orphan = none ∧ physKey s s.cur a.cap.space a.ea = some key ∧
  (ownLs s.cur key = true → s.unitAhead s.cur key a.len = []) ∧ s.slotFull s.cur key = false ∧
  s.switching s.cur a.cap.space a.ea a.len = false ∧ s.me.overlaps s.cur a.cap.space a.ea a.len true = false

end Sys2Proof.Claims

/-- R311: an atomic on the own LS writes its operation's result over the datum and the old datum, zero-extended, to sd, in one
step; AMOCAS writes sb if the old datum equals sd and otherwise leaves memory and answers FALSE. Elsewhere either is posted, and
its unit performs it likewise: the reply then carries the old datum to sd, and FALSE to o where the compare failed.
(The model's readings there: notes/assumptions/34.) -/
def Obligations.Atomics : Prop :=
  (∀ (s : State) (key : Nat) (x : AmoA), NoHandler s →
    let n := amoSize x.et
    let old := s.memNat key n
    let y := (s.me.rs x.sb).toNat % 2 ^ (8 * n)
    ClearAmo s (amoAcc s x.mem [pLoad, pStore, pAtomic] n) key →
    (ownLs s.cur key = true → (ordRel x.ord = true → s.earlier s.cur x.scope = []) → s.ueIn Rdr.home key n = none →
      (∀ p ∈ amoOps, ∃ t, exec (p.1 x) s = .next t ∧ Wrote s t key (leBytes n (p.2 (8 * n) old y)) ∧
        Ends s t (s.me.ws x.sd (BitVec.ofNat 64 old)) x.h.words (rdy s x.h)) ∧
      (old = (s.me.rs x.sd).toNat % 2 ^ (8 * n) → ∃ t, exec (.amocas x) s = .next t ∧ Wrote s t key (leBytes n y) ∧
        Ends s t (s.me.ws x.sd (BitVec.ofNat 64 old)) x.h.words (rdy s x.h)) ∧
      (old ≠ (s.me.rs x.sd).toNat % 2 ^ (8 * n) → ∃ t, exec (.amocas x) s = .next t ∧ t.mem = s.mem ∧
        Ends s t (s.me.ws x.sd (BitVec.ofNat 64 old)) x.h.words 0xB)) ∧
    (ownLs s.cur key = false → ∀ i, (i = .amocas x ∨ ∃ p ∈ amoOps, i = p.1 x) → ∃ t, exec i s = .next t ∧
      Ends s t s.me x.h.words (rdy s x.h) ∧
      Sent s t (.unit i key { sp := (s.me.rc x.mem.cap).space, ea := s.me.ea x.mem } Cap.null (s.me.rs x.sd) (s.me.rs x.sb) 0))) ∧
  (∀ (s : State) (r : Req) (x : AmoA) (key : Nat) (o : Opd) (c : Cap) (a b : W64) (v : W1024) (p : (AmoA → Instr) × (Nat → Nat → Nat → Nat)),
    p ∈ amoOps → s.req? s.cur = some r → r.k = .unit (p.1 x) key o c a b v → s.unitReady r = true → (s.ms r.pos).exiting = false →
    r.pos ≠ nowhere → key < 2 ^ 72 →
    let n := amoSize x.et
    s.ueIn Rdr.home key n = none →
    ∃ t, exec .amoPerform s = .next t ∧ Wrote s t key (leBytes n (p.2 (8 * n) (s.memNat key n) (b.toNat % 2 ^ (8 * n)))) ∧
      SameFiles (t.ms r.pos) (s.ms r.pos) ∧
      t.reqs = s.reqs.map fun q => if q.id = r.id then { q with k := .done [.s x.sd.toNat (BitVec.ofNat 64 (s.memNat key n))] } else q) ∧
  (∀ (s : State) (r : Req) (x : AmoA) (key : Nat) (o : Opd) (c : Cap) (a b : W64) (v : W1024), s.req? s.cur = some r →
    r.k = .unit (.amocas x) key o c a b v → s.unitReady r = true → (s.ms r.pos).exiting = false → r.pos ≠ nowhere → key < 2 ^ 72 →
    let n := amoSize x.et
    let old := s.memNat key n
    let old' := RegW.s x.sd.toNat (BitVec.ofNat 64 old)
    s.ueIn Rdr.home key n = none →
    ∃ t, exec .amoPerform s = .next t ∧ SameFiles (t.ms r.pos) (s.ms r.pos) ∧
      (old = a.toNat % 2 ^ (8 * n) → Wrote s t key (leBytes n (b.toNat % 2 ^ (8 * n))) ∧
        t.reqs = s.reqs.map fun q => if q.id = r.id then { q with k := .done [old'] } else q) ∧
      (old ≠ a.toNat % 2 ^ (8 * n) → t.mem = s.mem ∧
        t.reqs = s.reqs.map fun q => if q.id = r.id then { q with k := .done [old', .o 0xB] } else q))

/-- R312, R313: a reduction on the own LS writes its operation's result over the datum; elsewhere it is posted and PEND counts
it until its unit has performed it. It writes no register. REDW completes once PEND is not above its register, with ERR once
after a failed reduction.
(The model's readings there: notes/assumptions/33.) -/
def Obligations.Reductions : Prop :=
  (∀ (s : State) (key : Nat) (x : RedA) (p : (RedA → Instr) × (Nat → Nat → Nat → Nat)), p ∈ redOps → NoHandler s →
    let n := amoSize x.et
    ClearAmo s (amoAcc s x.mem [pStore, pAtomic] n) key → s.me.pend < 16 →
    (ownLs s.cur key = true → s.ueIn Rdr.home key n = none →
      ∃ t, exec (p.1 x) s = .next t ∧ t.me.pend = s.me.pend ∧ Ends s t s.me x.h.words (rdy s x.h) ∧
        Wrote s t key (leBytes n (p.2 (8 * n) (s.memNat key n) ((s.me.rs x.sb).toNat % 2 ^ (8 * n))))) ∧
    (ownLs s.cur key = false →
      ∃ t, exec (p.1 x) s = .next t ∧ t.me.pend = s.me.pend + 1 ∧ Ends s t s.me x.h.words (rdy s x.h) ∧
        Sent s t (.unit (p.1 x) key { sp := (s.me.rc x.mem.cap).space, ea := s.me.ea x.mem } Cap.null 0 (s.me.rs x.sb) 0))) ∧
  (∀ (s : State) (r : Req) (x : RedA) (key : Nat) (o : Opd) (c : Cap) (a b : W64) (v : W1024) (p : (RedA → Instr) × (Nat → Nat → Nat → Nat)),
    p ∈ redOps → s.req? s.cur = some r → r.k = .unit (p.1 x) key o c a b v → s.unitReady r = true → (s.ms r.pos).exiting = false →
    key < 2 ^ 72 →
    let n := amoSize x.et
    s.ueIn Rdr.home key n = none →
    ∃ t, exec .redPerform s = .next t ∧ Wrote s t key (leBytes n (p.2 (8 * n) (s.memNat key n) (b.toNat % 2 ^ (8 * n)))) ∧
      SameFiles (t.ms r.pos) (s.ms r.pos) ∧ (t.ms r.pos).pend = (s.ms r.pos).pend - 1 ∧ t.reqs = s.reqs.filter (fun q => q.id != r.id)) ∧
  (∀ (s : State) (x : SH), NoHandler s → s.me.pend ≤ (s.me.rs x.sr).toNat →
    ∃ t, exec (.redw x) s = .next t ∧ t.mem = s.mem ∧ t.me.rRep = false ∧ t.me.pend = s.me.pend ∧
      Ends s t s.me x.h.words (if s.me.rRep then 0x8 else rdy s x.h))

/-! ## The task system (spec/18) -/

namespace Sys2Proof.Claims

/-- The request a stage instruction sends to the ring of stage `st` (R337). -/
def stageReq (i : Instr) (l : Launch) (st : Stage) (a : W64) : ReqK :=
  .unit i (stageKey l st) { sp := if st.kind = 1 then 2 else 3, ea := st.addr } Cap.null a 0 0

/-- The stage has a ring, which passes the checks of R337 and R343, and a request to it may go out. -/
def StageOk (s : State) (l : Launch) (st : Stage) (sn : Nat) : Prop :=
  IsTask s ∧ s.me.orphan = none ∧ s.launch? s.me.lslot = some l ∧ l.stages[sn]? = some st ∧ st.kind ≠ 0 ∧ s.ringFlt l st = none ∧
  s.slotFull s.cur (stageKey l st) = false ∧ (st.kind = 1 → s.switching s.cur 2 (st.addr.toNat % 2 ^ 23) 1 = false)

/-- COORD of gang `g` (R323): its place in the launch's grid. -/
def coordinates (l : Launch) (g : Nat) : Nat := g % l.gx + g / l.gx % l.gy * 2 ^ 16 + g / (l.gx * l.gy) * 2 ^ 32

/-- A task as dispatch leaves it (R19, R323): READY at the entry point, its identities, coordinates, slice set, LS size and tile count
set, c1 the argument, s2 the item and every other register 0. -/
def Fresh (m : Master) (slot : Nat) (l : Launch) (arg : Cap) (gang grp task : Nat) (item : W64) : Prop :=
  m.kind = .task ∧ m.st = .ready ∧ m.pc = l.entry ∧ m.taskid = task ∧ m.grpid = grp ∧ m.gangid = gang ∧ m.lslot = slot ∧ m.lgen = l.gen ∧
  m.proof = l.root ∧ m.prio = l.prio ∧ m.o = 0 ∧ m.wlim = 0x00100000 ∧ m.rlim = 16 ∧ m.orphan = none ∧ m.tbmask = 0 ∧ m.pend = 0 ∧
  m.coord = (if gang = 0xFFFFFFFF then 0 else BitVec.ofNat 64 (coordinates l gang)) ∧ m.lssize = l.lsb ∧ m.zcount = l.zacc ∧
  (l.zacc = 0 → m.zbase = 0) ∧ m.nslice = l.nslice ∧
  m.slice = (if gang = 0xFFFFFFFF then 0 else ((gang * l.gpg + grp) * l.tpg + task) % l.nslice) ∧
  (∀ i, m.rs i = if i = 2 then item else 0) ∧ (∀ i, m.rc i = if i = 1 then { arg with tag := true } else Cap.null) ∧
  (∀ i, m.rv i = 0) ∧ ∀ i, m.rq i = 0

end Sys2Proof.Claims

/-- R336, R337, R338, R339: GANG gives its register the next gang number and adds the gangs to its launch; SPAWN and SQGET send a
put and a get to their stage's ring, which a FIFO bank performs as a queue's; EXIT of a task with nothing under way empties its
slot and frees its tiles; LNCH keeps the record it reads with its proof, to be taken at a commit (a record in error as its bytes stand, the model's choice,
notes/assumptions/93).
(The model's readings there: notes/assumptions/43, 69.) -/
def Obligations.TaskInstructions : Prop :=
  (∀ (s : State) (x : GangA) (l : Launch), IsTask s → s.me.orphan = none → s.launch? s.me.lslot = some l →
    let c := s.me.rc x.cA
    let n := (s.me.rs x.sa).toNat
    1 ≤ n → l.gangs + n ≤ 2 ^ 32 - 1 → (l.gangs + n - 1) / (l.gx * l.gy) ≤ 65535 → c.tag = true →
    s.leased l.part l.lease c.base c.top = true → (l.greqs.filter fun g => !g.own).length < 16 →
    ∃ t l', exec (.gang x) s = .next t ∧ t.mem = s.mem ∧ t.vers = s.vers ∧ Ends s t (s.me.ws x.sd (BitVec.ofNat 64 l.gangs)) x.h.words (rdy s x.h) ∧
      t.launch? s.me.lslot = some l' ∧ l'.gangs = l.gangs + n ∧ l'.greqs = l.greqs ++ [{ own := false, first := l.gangs, count := n, arg := c }]) ∧
  (∀ (s : State) (x : SpawnA) (l : Launch) (st : Stage), StageOk s l st x.stage.toNat →
    ∃ t, exec (.spawn x) s = .next t ∧ SentAway s t (stageReq (.spawn x) l st (s.me.rs x.sa))) ∧
  (∀ (s : State) (x : SH) (l : Launch) (st : Stage), StageOk s l st s.me.stage →
    ∃ t, exec (.sqget x) s = .next t ∧ SentAway s t (stageReq (.sqget x) l st 0)) ∧
  (∀ (s : State) (r : Req) (i : Instr) (key : Nat) (o : Opd) (c : Cap) (a b' : W64) (v : W1024), Awaits s r →
    r.k = .unit i key o c a b' v → 2 ^ 69 ≤ key → key < 2 ^ 72 →
    let b := bankOfKey key
    let bk := s.bank b
    s.waiting r.after = false → bk.sw = [] → bk.mode = 2 → bk.wpos < 65536 → bk.rpos < 65536 →
    (∀ x : SpawnA, i = .spawn x → bk.fill < 65536 - bk.held →
      ∃ t, exec .fifoPerform s = .next t ∧ Answered s t r (s.ms r.pos) x.h.words (rdyR s r x.h) ∧
        t.bank b = { bk with fill := bk.fill + 1, wpos := (bk.wpos + 1) % 65536 } ∧
        ∀ j < 8, Tab.get 0 t.mem (entryKey b bk.wpos + j) = (leBytes 8 a.toNat).getD j 0) ∧
    (∀ x : SH, i = .sqget x → bk.fill ≠ 0 → s.ueIn Rdr.home (entryKey b bk.rpos) 8 = none →
      ∃ t, exec .fifoPerform s = .next t ∧ t.mem = s.mem ∧
        Answered s t r ((s.ms r.pos).ws x.sr (BitVec.ofNat 64 (s.memNat (entryKey b bk.rpos) 8))) x.h.words (rdyR s r x.h) ∧
        t.bank b = { bk with fill := bk.fill - 1, free := (bk.free + 1) % 2 ^ 32, rpos := (bk.rpos + 1) % 65536 })) ∧
  (∀ (s : State) (x : Pl), IsTask s → s.me.div = none → s.me.vxe = [] → s.me.mxe = [] → s.me.cpe = [] → s.me.att = [] → s.me.posts = [] →
    (∀ r ∈ s.reqs, r.pos ≠ s.cur) →
    ∃ t, exec (.exit x) s = .next t ∧ t.mem = s.mem ∧ t.ms s.cur = Master.empty ∧
      (∀ y ∈ (t.core (coreOf s.cur)).tiles, y.2 ≠ s.cur + 1) ∧ ∀ p, p ≠ s.cur → SameFiles (t.ms p) (s.ms p)) ∧
  (∀ (s : State) (x : RMem) (l : Launch) (key : Nat), IsTask s → s.launch? s.me.lslot = some l →
    Clear s (loadAcc s x.mem [pLoad, pLdcap] 128 64 false) key →
    let r := s.rdr s.cur s.me.proof
    let img := BitVec.ofNat 1024 (leNat (s.loadBytes r key 128))
    (recOf img).prio ≤ s.me.prio → l.defers.length < 256 →
    ∃ t l', exec (.lnch x) s = .next t ∧ t.mem = s.mem ∧
      Ends s t (s.me.ws x.sr (BitVec.ofNat 64 l.defers.length)) x.h.words (rdy s x.h) ∧ t.launch? s.me.lslot = some l' ∧
      l'.defers = l.defers ++ [{ proof := s.me.proof, img := img, tag := s.loadTag r (key + 112) }])

/-- R19, R323 to R325, R328: the dispatcher places the gang whose turn it is whole on neighbouring cores, every task of every
group in a slot that was empty, as R19 and R323 say, and owning its tiles; a free slot of a stage core takes an item of its stage's ring into a new
task's s2, in a group of the launch on the core with fewer than 15 tasks or in a new group.
(The model's readings there: notes/assumptions/18.) -/
def Obligations.PlacementOfTasks : Prop :=
  (∀ (s : State) (slot core : Nat) (offs : List Nat) (l : Launch) (g : GangReq) (rest : List GangReq) (bin lim : Nat),
    s.launch? slot = some l → s.nextInLevel l.part l.prio = some (slot, bin, lim) → l.greqs = g :: rest → s.higherPlaceable l = false →
    s.gangFits l core offs = true → isSvcPos (core * 16 + 255) = false →
    ∃ t l', exec (.gangDispatch slot core offs) s = .next t ∧ t.launch? slot = some l' ∧
      l'.greqs = (if g.count ≤ 1 then rest else { g with first := g.first + 1, count := g.count - 1 } :: rest) ∧
      ∀ grp < l.gpg, ∀ k < l.tpg, ∃ pos, pos / 16 = core + grp ∧ pos % 16 < 15 ∧ (s.ms pos).kind = .empty ∧
        Fresh (t.ms pos) slot l g.arg g.first grp k 0 ∧ (t.ms pos).lsbase = offs.getD grp 0 ∧ (t.ms pos).stage = l.stage ∧
        ∀ i < l.zacc, Tab.get 0 (t.core (core + grp)).tiles ((t.ms pos).zbase + i) = pos + 1) ∧
  (∀ (s : State) (l : Launch) (st : Stage) (sn slot z : Nat), s.launch? s.cur = some l →
    (s.core s.arg).stage.find? (fun x => x.1 = s.cur) = some (s.cur, sn) → l.stages[sn]? = some st → (s.freeSlots s.arg).head? = some slot →
    s.freeTiles s.arg l.zacc = some z → st.kind ≠ 0 → (l.st = .running ∨ l.st = .doomed) →
    l.reaches st s.arg = true → s.promised l.part s.arg l.prio = false → s.power.hold = false →
    let key := stageKey l st
    let mine := (s.core s.arg).allocs.filter fun a => a.lslot = s.cur
    s.stageRing key = true → s.qCount key ≠ 0 →
    ((∃ a ∈ mine, (s.taskIds s.cur s.arg a).length < 15) ∨
      mine = [] ∧ s.compatFits l s.arg = true ∧ (s.drew.anyOff s.arg l.lsb l.compat).isSome) →
    ∃ t k, exec .stageItemTake s = .next t ∧ (t.ms (s.arg * 16 + slot)).stage = sn ∧
      (l.zacc ≠ 0 → (t.ms (s.arg * 16 + slot)).zbase = z) ∧
      (∀ i < l.zacc, Tab.get 0 (t.core s.arg).tiles (z + i) = s.arg * 16 + slot + 1) ∧
      Fresh (t.ms (s.arg * 16 + slot)) s.cur l l.arg 0xFFFFFFFF 0 k (BitVec.ofNat 64 (s.memNat (s.qGetKey key) 8)) ∧
      (2 ^ 69 ≤ key → key < 2 ^ 72 → (t.bank (bankOfKey key)).fill = (s.bank (bankOfKey key)).fill - 1))

/-- R321, R322, R323, R326, R437, R457: a valid PUTS is stored and an invalid one disables the queue, while one of a queue without
capacity is stored (the model's choice, notes/assumptions/77); the dispatcher reads the
record at GETS: a refused one gets its completion entry with status 2 and its cause, an accepted one becomes a running launch
in a free slot with the next generation and a root proof, and GETS advances; a gang that has stayed unplaceable beyond the
limit, while cores that would take it hold tasks of lower priority, is reported once.
(The model's readings there: notes/assumptions/17, 44, 71.) -/
def Obligations.DispatchOfRecords : Prop :=
  (∀ (s : State) (part q : Nat) (puts : W32),
    let sq := Tab.get SubQ.empty (s.part part).sq q
    let up := (puts.toNat + 2 ^ 32 - sq.gets) % 2 ^ 32
    let ok := (sq.puts + 2 ^ 32 - sq.gets) % 2 ^ 32 ≤ up ∧ up ≤ 2 ^ sq.log2cap
    sq.log2cap ≠ 0 → ∃ t, exec (.submissionDoorbell part q puts) s = .next t ∧ t.mem = s.mem ∧
      let sq' := Tab.get SubQ.empty (t.part part).sq q
      (ok → sq' = { sq with puts := puts.toNat } ∧ t.dies = s.dies) ∧
      (¬ ok → sq'.log2cap = 0 ∧ ∃ d k, (t.die d).pkts = (s.die d).pkts ++ [k] ∧ k.type = 1 ∧ k.cause = 0x10)) ∧
  (∀ (s : State) (part q : Nat) (puts : W32),
    let sq := Tab.get SubQ.empty (s.part part).sq q
    sq.log2cap = 0 → ∃ t, exec (.submissionDoorbell part q puts) s = .next t ∧ t.mem = s.mem ∧ t.dies = s.dies ∧
      Tab.get SubQ.empty (t.part part).sq q = { sq with puts := puts.toNat }) ∧
  (∀ (s : State),
    let p := s.part s.cur
    let sq := Tab.get SubQ.empty p.sq s.arg
    let live := (s.launches.filter fun ((_, l) : Nat × Launch) => l.part = s.cur && l.sq = s.arg).length
    let img := BitVec.ofNat 1024 (s.memNat (globKey s.cur (sq.ring.toNat + 128 * (sq.gets % 2 ^ sq.log2cap))) 128)
    let r := recOf img
    let h := s.hdrOf s.cur r.entry
    let budget := (if r.shadow = 0 then h.shadow else r.shadow) * 4096
    let entry := globKey s.cur (sq.cring.toNat + 16 * (sq.cputs % 2 ^ sq.log2cap))
    p.waiting = [] → s.arg < 16 → sq.log2cap ≠ 0 → sq.puts ≠ sq.gets → (sq.cputs + 2 ^ 32 - sq.hidx) % 2 ^ 32 + live < 2 ^ sq.log2cap →
    (∀ cause, s.refusal s.cur img false true = some cause → cause < 256 → isGlobKey entry = true →
      ∃ t, exec .dispatchTakeRecord s = .next t ∧
        (∀ i < 16,
          Tab.get 0 t.mem (entry + i) = (leBytes 16 (r.usertag * 2 ^ 48 + cause * 2 ^ 40 + 2 * 2 ^ 32)).getD i 0) ∧
        Tab.get SubQ.empty (t.part s.cur).sq s.arg = { sq with gets := (sq.gets + 1) % 2 ^ 32, cputs := (sq.cputs + 1) % 2 ^ 32 } ∧
        t.launches = s.launches) ∧
    (∀ slot root, s.refusal s.cur img false true = none → (List.range 64).find? (fun i => (s.launch? i).isNone) = some slot →
      s.freeProof = some root → s.proofs.length < 16384 → s.shadowUsed s.cur + budget ≤ Config.shadowPool s.cur →
      ∃ t l, exec .dispatchTakeRecord s = .next t ∧ t.mem = s.mem ∧ t.launch? slot = some l ∧ l.st = .running ∧ l.part = s.cur ∧
        l.sq = s.arg ∧ l.usertag = r.usertag ∧ l.prio = r.prio ∧ l.lease = r.lease ∧ l.root = root ∧ l.arg.bits = r.arg ∧
        l.gen = (if Tab.get 0 s.gens slot ≥ 65535 then 1 else Tab.get 0 s.gens slot + 1) ∧ l.budget = budget ∧ l.use = 0 ∧
        l.greqs = [{ own := true, first := 0, count := r.gangs + 1, arg := l.arg }] ∧
        Tab.find? t.proofs root = some { lslot := slot, parent := 0, depth := 0, st := 0, ord := 0 } ∧
        (∀ i, i ≠ slot → t.launch? i = s.launch? i) ∧
        Tab.get SubQ.empty (t.part s.cur).sq s.arg = { sq with gets := (sq.gets + 1) % 2 ^ 32 })) ∧
  (∀ (s : State) (l : Launch) (b : Nat), s.launch? s.cur = some l → s.waitingGang l = true → (∀ c, l.stallRep = some c → c < l.stall) →
    (s.part l.part).dlStall * 1024 < s.cyc - l.stall → s.place l = none → s.stallAt l = some b →
    ∃ t l' k, exec .stallReport s = .next t ∧ t.mem = s.mem ∧ t.launch? s.cur = some l' ∧ l'.stallRep = some s.cyc ∧
      (t.die (b / 256)).pkts = (s.die (b / 256)).pkts ++ [k] ∧ k.type = 3 ∧ k.cause = 0x21 ∧ k.lnch = lnchid l.gen s.cur)

/-- R334, R340, R341: SETPRIO of a task lowers its launch's priority, of a supervisor core sets a live launch's, and the
one before its cycle is kept; GOVCFG notes a
stage's settings for the next edge, or answers FALSE; DLCFG sets the partition's detector; an examination keeps the cycles it
sees and reports, one TYPE 2 packet a group, those that stood at the one before and are new: each names a task of its group that waits for
the next group, with its outcome and object.
(The model's readings there: notes/assumptions/46.) -/
def Obligations.PrioritiesAndDetector : Prop :=
  ∀ s : State,
    (∀ (x : S1) (l : Launch), IsTask s → s.launch? s.me.lslot = some l → (s.me.rs x.sr).toNat ≤ s.me.prio →
      ∃ t, exec (.setprio x) s = .next t ∧ t.mem = s.mem ∧ t.vers = s.vers ∧ Ends s t s.me (Pl.words x.h) s.me.o ∧
        t.launch? s.me.lslot = some { l with prio := (s.me.rs x.sr).toNat, prioAt := some (s.cyc, l.prioBefore s.cyc) }) ∧
    (∀ (x : S1) (slot : Nat) (l : Launch), s.me.kind = .svc →
      let a := (s.me.rs x.sr).toNat
      a % 2 ^ 22 = lnchid l.gen slot → a / 2 ^ 22 % 2 ^ 10 = 0 → a / 2 ^ 32 ≤ 11 → slot < 64 → l.gen < 65536 → s.launch? slot = some l →
      ∃ t, exec (.setprio x) s = .next t ∧ t.mem = s.mem ∧ t.vers = s.vers ∧ Ends s t s.me (Pl.words x.h) s.me.o ∧
        t.launch? slot = some { l with prio := a / 2 ^ 32, prioAt := some (s.cyc, l.prioBefore s.cyc) }) ∧
    (∀ (x : SS) (slot : Nat) (l : Launch), s.me.kind = .svc →
      let a := (s.me.rs x.ra).toNat
      let b := (s.me.rs x.rb).toNat
      let high := b / 2 ^ 32
      let low := b / 2 ^ 16 % 2 ^ 16
      let w := b / 2 ^ 8 % 2 ^ 8
      let sn := a / 2 ^ 24
      a / 2 ^ 22 % 4 = 0 → sn < 16 → high < 2 ^ 16 → b / 2 % 2 ^ 7 = 0 → low < high → w ≠ 0 →
      (a % 2 ^ 22 = lnchid l.gen slot → slot < 64 → l.gen < 65536 → s.launch? slot = some l →
        ∀ st, l.stages[sn]? = some st → st.kind ≠ 0 → ∃ t, exec (.govcfg x) s = .next t ∧ t.mem = s.mem ∧
          Ends s t s.me x.h.words (rdy s x.h) ∧
          t.launch? slot = some { l with govNew := l.govNew ++ [(sn, high, low, w, decide (b % 2 = 1))] }) ∧
      (s.byLnchid (a % 2 ^ 22) = none → ∃ t, exec (.govcfg x) s = .next t ∧ t.mem = s.mem ∧ t.launches = s.launches ∧
        Ends s t s.me x.h.words 0xB)) ∧
    (∀ x : SH, s.me.kind = .svc →
      let a := (s.me.rs x.sr).toNat
      a / 2 % 2 ^ 7 = 0 → a / 2 ^ 8 % 2 ^ 8 ≠ 0 → a / 2 ^ 16 % 2 ^ 24 ≠ 0 → a / 2 ^ 42 % 2 = 0 → a < 2 ^ 48 →
      ∃ t, exec (.dlcfg x) s = .next t ∧ t.mem = s.mem ∧ t.vers = s.vers ∧ Ends s t s.me x.h.words (rdy s x.h) ∧
        t.part (s.partOf s.cur) = { s.part (s.partOf s.cur) with
          dlEn := decide (a % 2 = 1), dlPer := a / 2 ^ 8 % 2 ^ 8, dlStall := a / 2 ^ 16 % 2 ^ 24, dlDie := a / 2 ^ 43 % 2 ^ 5
          dlSvc := a / 2 ^ 40 % 4 }) ∧
    (let p := s.part s.cur
     let new := (s.deadlocks s.cur).filter fun c => p.dlSeen.contains c && !p.dlRep.contains c
     p.dlEn = true → p.dlAt + p.dlPer ≤ s.round.num → ∃ t ks, exec .deadlockExamine s = .next t ∧ t.mem = s.mem ∧
       (t.part s.cur).dlAt = s.round.num ∧ (t.part s.cur).dlSeen = s.deadlocks s.cur ∧
       (t.die p.dlDie).pkts = (s.die p.dlDie).pkts ++ ks ∧ (∀ k ∈ ks, k.type = 2 ∧ k.cause = 0x20) ∧
       ks.length = (new.map List.length).sum ∧
       ∀ c ∈ new, ∀ i < c.length, ∃ k ∈ ks, ∃ y ∈ s.masters, y.2.kind = .task ∧ s.partOf y.1 = s.cur ∧
         (c.getD i []).head? = some y.2.gno ∧ (∃ g ∈ s.waits y.2, (c.getD ((i + 1) % c.length) []).head? = some g) ∧
         k.d0 = BitVec.ofNat 64 (i + c.length * 16 + y.2.parkO.toNat * 256) ∧ k.d2 = y.2.parkA ∧ k.cont = decide (i ≠ 0))

namespace Sys2Proof.Claims

/-- A round edge is reached with no pre-emption, request, write under way, report or plate at hand. -/
def QuietEdge (s : State) : Prop :=
  s.edgeReady = true ∧ (∀ p ∈ s.parts, p.2.pres = []) ∧ s.reqs = [] ∧ s.batches = [] ∧ s.reports = [] ∧ s.plates = []

/-- One live launch, with its root proof alone or with one child of it. -/
def OneLaunch (s : State) (slot : Nat) (l : Launch) (kids : List (Nat × Proof)) : Prop :=
  s.launches = [(slot, l)] ∧ s.proofs = (l.root, { lslot := slot, parent := 0, depth := 0, st := 0, ord := 0 }) :: kids ∧
  0 < l.root ∧ l.stages = [] ∧ l.halos = [] ∧ s.saves = []

/-- The launch of a slot has ended with `status`: memory is `f`, but for the completion entry of its queue, if that has any capacity
(R322, R457), and the partition's deferred submissions are followed by `ds` (R339). -/
def Ended (s t : State) (slot : Nat) (l : Launch) (status : Nat) (f : Nat → Byte) (ds : List Defer) : Prop :=
  let sq := Tab.get SubQ.empty (s.part l.part).sq l.sq
  let sq' := Tab.get SubQ.empty (t.part l.part).sq l.sq
  let entry := globKey l.part (sq.cring.toNat + 16 * (sq.cputs % 2 ^ sq.log2cap))
  t.launch? slot = none ∧ Tab.find? t.proofs l.root = none ∧ Tab.find? t.vers l.root = none ∧
  (t.part l.part).waiting = (s.part l.part).waiting ++ ds.map (fun d => { part := l.part, sq := l.sq, img := d.img, tag := d.tag, ord := s.nextReq }) ∧
  (sq.log2cap = 0 → sq' = sq ∧ ∀ k, Tab.get 0 t.mem k = f k) ∧
  (sq.log2cap ≠ 0 → sq' = { sq with cputs := (sq.cputs + 1) % 2 ^ 32 } ∧ (isGlobKey entry = true →
    (∀ i < 16, Tab.get 0 t.mem (entry + i) = (leBytes 16 (l.usertag * 2 ^ 48 + status * 2 ^ 32 + lnchid l.gen slot)).getD i 0 ∧
      Tab.get 0 t.mem (tagKey (entry + i)) = 0) ∧
    ∀ k, ¬ (entry ≤ k ∧ k < entry + 16) → (∀ i < 16, k ≠ tagKey (entry + i)) → Tab.get 0 t.mem k = f k))

end Sys2Proof.Claims

/-- R322, R331, R333, R339, R411 to R420: a round starts on demand or 65,536 cycles after the last; each die enters it once, the others at once
after the first (the model's choice, notes/assumptions/50), and when every die has, the edge ends it and the round number rises by 1. At an edge the bytes of an ending launch's root become memory, its
completion entry has STATUS 0, the submissions deferred under its root follow those that wait, and no other byte changes; an aborting
launch's bytes and submissions are gone, and its entry has STATUS 1; a cancelled proof's versions are gone and its tasks orphaned to its
parent; a passed proof's versions become its parent's, over the parent's own, and its tasks the parent's. The second idle
sweep with equal sums ends a launch.
(The model's readings there: notes/assumptions/50.) -/
def Obligations.RoundsAndEdges : Prop :=
  ∀ s : State,
    (s.rot.on = true → s.round.opened = false → (s.round.demand = true ∨ 65536 ≤ s.cyc - s.round.at') →
      exec .roundStart s = .next { s with round := { num := s.round.num, opened := true, entered := [], demand := false, at' := s.cyc } }) ∧
    (∀ d, Tab.find? s.dies s.cur = some d → d.joined = true → d.failed = false → s.round.opened = true → s.cur ∉ s.round.entered →
      (s.round.entered ≠ [] →
        exec .roundMarkerArrival s = .next { s with round := { s.round with entered := s.round.entered ++ [s.cur] } }) ∧
      (s.round.entered = [] → s.reqs = [] → s.batches = [] → s.scans = [] →
        exec .roundMarkerArrival s = .next { s with
          round := { s.round with entered := [s.cur] }
          agenda := ((s.roundDies.filter (· ≠ s.cur)).map fun d => { i := .roundMarkerArrival, cur := d, arg := 0 }) ++
            { i := .roundEdgeApply, cur := 0, arg := 0 } :: s.agenda })) ∧
    (s.edgeReady = true → ∃ t, exec .roundEdgeApply s = .next t ∧ t.round.num = s.round.num + 1 ∧ t.round.opened = false ∧ t.round.entered = []) ∧
    (∀ slot l, QuietEdge s → OneLaunch s slot l [] → l.pend = [] → (Tab.get [] s.vers l.root).Pairwise (fun a b => a.1 < b.1) →
      (l.st = .ending → (∀ c ∈ Tab.get [] s.vers l.root, ∀ x, s.pageOfKey c.1 = some x → x.2.file = false) →
        ∃ t, exec .roundEdgeApply s = .next t ∧
          Ended s t slot l 0 (fun k => (Tab.find? (Tab.get [] s.vers l.root) k).getD (Tab.get 0 s.mem k)) (l.defers.filter fun d => d.proof = l.root)) ∧
      (l.st = .aborting → ∃ t, exec .roundEdgeApply s = .next t ∧ Ended s t slot l 1 (Tab.get 0 s.mem) [])) ∧
    (∀ slot l x ord, QuietEdge s → OneLaunch s slot l [(x, { lslot := slot, parent := l.root, depth := 1, st := 2, ord := ord })] →
      l.root < x → l.st = .running → ∃ t, exec .roundEdgeApply s = .next t ∧ t.mem = s.mem ∧ Tab.find? t.proofs x = none ∧
        Tab.find? t.vers x = none ∧ Tab.find? t.vers l.root = Tab.find? s.vers l.root ∧
        ∀ p, (s.ms p).kind = .task → (s.ms p).orphan = none → (s.ms p).proof = x → (t.ms p).orphan = some l.root) ∧
    (∀ slot l x ord, QuietEdge s → OneLaunch s slot l [(x, { lslot := slot, parent := l.root, depth := 1, st := 1, ord := ord })] →
      l.root < x → l.st = .running → (Tab.get [] s.vers x).Pairwise (fun a b => a.1 < b.1) →
      ∃ t, exec .roundEdgeApply s = .next t ∧ t.mem = s.mem ∧ Tab.find? t.proofs x = none ∧
        (∀ k, Tab.find? (Tab.get [] t.vers l.root) k = (Tab.find? (Tab.get [] s.vers x) k <|> Tab.find? (Tab.get [] s.vers l.root) k)) ∧
        ∀ p, (s.ms p).kind = .task → (s.ms p).proof = x → (t.ms p).proof = l.root) ∧
    (∀ l, s.launch? s.cur = some l → (l.st = .running ∨ l.st = .doomed) → l.greqs = [] → s.saves = [] → s.ringsEmpty l = true →
      s.launchIdle s.cur = true → s.sentSum s.cur = s.recvSum s.cur → l.sweep = some (s.sentSum s.cur) →
      ∃ t l', exec .endSweep s = .next t ∧ t.mem = s.mem ∧ t.round.demand = true ∧ t.launch? s.cur = some l' ∧
        l'.st = if l.st = .running then .ending else .aborting)

/-! ## Capabilities and leases (spec/19) -/

namespace Sys2Proof.Claims

/-- A key that covers exactly one seal type, with a permission (R363). -/
def KeyOk (k : Cap) (perm : Nat) : Prop :=
  k.tag = true ∧ k.space = 0 ∧ k.sealT = 0 ∧ k.has [perm] = true ∧ k.top = k.base + 1 ∧ 1 ≤ k.base ∧ k.base ≤ 14

/-- An outcome that is a fault of the issuing instruction with a cause. -/
def Stops (s : State) (o : Out) (cause : Nat) : Prop := ∃ f : Flt, f.cause = cause ∧ o = .next (s.fault f)

/-- ceil(x / 2^e). -/
def up (x e : Nat) : Nat := (x + 2 ^ e - 1) / 2 ^ e

end Sys2Proof.Claims

/-- R349, R350, R360 to R363: the capability instructions write their results and change nothing else but the PC; a failing
check faults. CSETB gives the least scale that holds the bounds, rounded outward, with the cursor at the base; CADD keeps the
tag only where base and top stay. -/
def Obligations.CapabilityResults : Prop :=
  ∀ s : State, NoHandler s →
    let m := s.me
    let gives := fun (o : Out) (p : Bool) (words : Nat) (n : Master) => o = .next (stepped s p (nextPc s words) n)
    (∀ x : CsetbA,
      let c := m.rc x.cs
      let b := c.cursor.toNat
      let len := (m.rs x.sl).toNat
      let fits := fun (e : Nat) => up (b + len) e - b / 2 ^ e ≤ 16383
      (c.tag = false → Stops s (exec (.csetb x) s) 0x02) ∧
      (c.tag = true → c.sealT ≠ 0 → Stops s (exec (.csetb x) s) 0x04) ∧
      (c.tag = true → c.sealT = 0 → 2 ^ 64 < b + len → Stops s (exec (.csetb x) s) 0x03) ∧
      (c.tag = true → c.sealT = 0 → b + len ≤ 2 ^ 64 →
        (∀ e ≤ 50, fits e → (∀ e' < e, ¬ fits e') → (b / 2 ^ e * 2 ^ e < c.base ∨ c.top < up (b + len) e * 2 ^ e) →
          Stops s (exec (.csetb x) s) 0x03) ∧
        (∀ e ≤ 50, fits e → (∀ e' < e, ¬ fits e') → c.base ≤ b / 2 ^ e * 2 ^ e → up (b + len) e * 2 ^ e ≤ c.top →
          ∃ r, gives (exec (.csetb x) s) x.p 1 (m.wc x.cd r) ∧ r.tag = true ∧ r.perms = c.perms ∧ r.space = c.space ∧ r.sealT = 0 ∧
            r.scl = e ∧ r.cursor.toNat = b / 2 ^ e * 2 ^ e ∧ r.base = b / 2 ^ e * 2 ^ e ∧ r.top = up (b + len) e * 2 ^ e) ∧
        ((∀ e ≤ 50, ¬ fits e) → c.scl ≠ 63 → Stops s (exec (.csetb x) s) 0x03) ∧
        ((∀ e ≤ 50, ¬ fits e) → c.scl = 63 →
          ∃ r, gives (exec (.csetb x) s) x.p 1 (m.wc x.cd r) ∧ r.tag = true ∧ r.perms = c.perms ∧ r.space = c.space ∧
            r.sealT = 0 ∧ r.cursor = 0 ∧ r.base = 0 ∧ r.top = 2 ^ 64))) ∧
    (∀ x : CaddA,
      let c := m.rc x.cs
      (c.tag = true → c.sealT ≠ 0 → Stops s (exec (.cadd x) s) 0x04) ∧
      ((c.tag = false ∨ c.sealT = 0) → ∃ r, gives (exec (.cadd x) s) x.p (Machine.CSrc.words x.b) (m.wc x.cd r) ∧
        r.cursor = c.cursor + Machine.CSrc.signed m x.b ∧ r.bits.extractLsb' 0 64 = c.bits.extractLsb' 0 64 ∧
        r.tag = (c.tag && c.representable r.cursor) ∧ (c.scl ≤ 50 → r.tag = true → r.base = c.base ∧ r.top = c.top))) ∧
    (∀ x : CrestrA,
      let c := m.rc x.cs
      (c.tag = true → c.sealT ≠ 0 → Stops s (exec (.crestr x) s) 0x04) ∧
      ((c.tag = false ∨ c.sealT = 0) → ∃ r, gives (exec (.crestr x) s) x.p (Machine.CSrc.words x.b) (m.wc x.cd r) ∧ r.tag = c.tag ∧
        r.perms = c.perms &&& Machine.CSrc.mask m x.b ∧ r.bits.extractLsb' 64 64 = c.bits.extractLsb' 64 64 ∧
        r.bits.extractLsb' 0 48 = c.bits.extractLsb' 0 48)) ∧
    (∀ x : CsubA, gives (exec (.csub x) s) x.p 1 (m.ws x.sd ((m.rc x.ca).cursor - (m.rc x.cb).cursor))) ∧
    (∀ (x : CsealA) (i : Instr) (perm from' to' : Nat),
      let k := m.rc x.ck
      let c := m.rc x.cs
      (i = .cseal x ∧ perm = 5 ∧ from' = 0 ∧ to' = k.base ∨ i = .cunseal x ∧ perm = 6 ∧ from' = k.base ∧ to' = 0) →
      (k.tag = false → Stops s (exec i s) 0x02) ∧
      (k.tag = true → k.space ≠ 0 → Stops s (exec i s) 0x07) ∧
      (k.tag = true → k.space = 0 → (k.sealT ≠ 0 ∨ k.has [perm] = false) → Stops s (exec i s) 0x04) ∧
      (k.tag = true → k.space = 0 → k.sealT = 0 → k.has [perm] = true → ¬ (k.top = k.base + 1 ∧ 1 ≤ k.base ∧ k.base ≤ 14) →
        Stops s (exec i s) 0x03) ∧
      (KeyOk k perm → c.tag = false → Stops s (exec i s) 0x02) ∧
      (KeyOk k perm → c.tag = true → c.sealT ≠ from' → Stops s (exec i s) 0x04) ∧
      (KeyOk k perm → c.tag = true → c.sealT = from' →
        ∃ r, gives (exec i s) x.p 1 (m.wc x.cd r) ∧ r.tag = true ∧ r.sealT = to' ∧ r.cursor = c.cursor ∧ r.perms = c.perms ∧
          r.space = c.space ∧ r.base = c.base ∧ r.top = c.top)) ∧
    (∀ x : CgetA,
      let c := m.rc x.cs
      gives (exec (.cgetb x) s) x.p 1 (m.ws x.sd (BitVec.ofNat 64 c.base)) ∧
      gives (exec (.cgetl x) s) x.p 1 (m.ws x.sd (BitVec.ofNat 64 (min (c.top - c.base) (2 ^ 64 - 1)))) ∧
      gives (exec (.cgetp x) s) x.p 1
        (m.ws x.sd (BitVec.setWidth 64 (BitVec.ofNat 4 c.sealT ++ BitVec.ofNat 4 c.space ++ c.perms))) ∧
      gives (exec (.ctag x) s) x.p 1 (m.ws x.sd (if c.tag then 1 else 0))) ∧
    (∀ x : CmovA,
      gives (exec (.cclr x) s) x.p 1 (m.wc x.cd { bits := (m.rc x.cs).bits, tag := false }) ∧
      gives (exec (.cmov x) s) x.p 1 (m.wc x.cd (m.rc x.cs)))

namespace Sys2Proof.Claims

/-- A block of a mapped page. -/
def InPage (part va n k : Nat) : Prop := globKey part va / 64 ≤ blockOfCell k ∧ blockOfCell k < globKey part va / 64 + n / 64

/-- What the LEASE sends: its descriptor. -/
def leaseReq (s : State) (x : RMem) (key : Nat) (d : BitVec 512) : ReqK :=
  .unit (.lease x) key { sp := 3, ea := s.me.ea x.mem } (s.me.rc x.mem.cap) 0 0 (d.setWidth 1024)

/-- A request without a memory operand, to the partition's supervisor units. -/
def supReq (_ : State) (i : Instr) (ea a b : W64) : ReqK :=
  .unit i ctlKey { sp := 3, ea := ea } Cap.null a b 0

end Sys2Proof.Claims

/-- R364 to R368: LEASE reads a consistent descriptor and sends it, whatever its blocks' error marks; its completion maps the unmapped
pages with bytes 0 (or the storage port's, for a FILE page without X: R380), adds the range and answers its index, or answers its fail code and changes nothing. LREV stops its ranges
from being checked and, when no running job meets them, takes them out. XINV unmaps the pages of its range that no lease
holds: they leave the page map and the translation caches, and their memory is cleared.
(The model's readings there: notes/assumptions/47, 48; the descriptor in error: 93; LREV of all ranges of a lease that holds none,
answered FALSE: the design choice of 86; XINV's partly covered larger pages and the root of trust's: those of 95.) -/
def Obligations.LeaseInstructions : Prop :=
  (∀ (s : State) (x : RMem) (key : Nat), s.me.kind = .svc → Clear s (loadAcc s x.mem [pLoad] 64 64 false) key →
    let r := s.rdr s.cur 0
    let d := BitVec.ofNat 512 (leNat (s.loadBytes r key 64))
    (s.ueIn r key 64 = none → (descF d).ok (s.part (s.partOf s.cur)).dies = false → exec (.lease x) s = .next (illegal 6 s)) ∧
    ((descF d).ok (s.part (s.partOf s.cur)).dies = true → (s.freeRange (s.partOf s.cur)).isSome →
      ∃ t, exec (.lease x) s = .next t ∧ SentAway s t (leaseReq s x key d))) ∧
  (∀ (s : State) (r : Req) (x : RMem) (key i : Nat) (o : Opd) (c : Cap) (a b : W64) (v : W1024) (ok : Bool), Awaits s r →
    r.k = .unit (.lease x) key o c a b v →
    let part := s.partOf r.pos
    let d := descF (v.setWidth 512)
    let fails := fun (code : W64) => ∃ t, exec (.leaseComplete s.cur ok) s = .next t ∧ t.mem = s.mem ∧ t.pages = s.pages ∧
      t.ranges = s.ranges ∧ Answered s t r ((s.ms r.pos).ws x.sr code) x.h.words 0xB
    part < 8 → d.ok (s.part part).dies = true → s.freeRange part = some i →
    (s.pageClash part d = true → fails 1) ∧
    (s.pageClash part d = false → s.noRoom part d = true → fails 2) ∧
    (s.pageClash part d = false → s.noRoom part d = false → d.file = true → ok = false →
      (∃ va ∈ d.pages, s.pageMapped part d va = false) → fails 3) ∧
    (s.pageClash part d = false → s.noRoom part d = false →
      (d.file = true → ok = true ∨ ∀ va ∈ d.pages, s.pageMapped part d va = true) →
      ∃ t, exec (.leaseComplete s.cur ok) s = .next t ∧
        Answered s t r ((s.ms r.pos).ws x.sr (BitVec.ofNat 64 i)) x.h.words (rdyR s r x.h) ∧
        (∀ j, Tab.find? t.ranges j =
          if j = part * 4096 + i then some { lease := d.lease, base := d.vbase, len := d.length, rev := false } else Tab.find? s.ranges j) ∧
        (∀ va ∈ d.pages, t.pageMapped part d va = true) ∧
        ((d.file = false ∨ d.x = true) → ∀ va ∈ d.pages, s.pageMapped part d va = false → ∀ k, InPage part va (pageBytes d.psz) k → Tab.get 0 t.mem k = 0) ∧
        (d.file = true → d.x = false → ∀ va ∈ d.pages, s.pageMapped part d va = false → ∀ j < pageBytes d.psz,
          Tab.get 0 t.mem (globKey part va + j) = s.flashByte (flashKey d.nsid (d.flba + (va - d.vbase) / 4096) j)) ∧
        (∀ k, (∀ va ∈ d.pages, s.pageMapped part d va = false → ¬ InPage part va (pageBytes d.psz) k) →
          Tab.get 0 t.mem k = Tab.get 0 s.mem k))) ∧
  (∀ (s : State) (x : SS), s.me.kind = .svc →
    let a := s.me.rs x.ra
    let b := s.me.rs x.rb
    let ok := a.toNat < 2 ^ 16 ∧ (b.toNat < 4096 ∨ b = BitVec.allOnes 64)
    (¬ ok → exec (.lrev x) s = .next (illegal 6 s)) ∧
    (ok → ∃ t, exec (.lrev x) s = .next t ∧ SentAway s t (supReq s (.lrev x) 0 a b) ∧
      t.ranges = s.ranges.map fun ((k, g) : Nat × Rng) =>
        (k, { g with rev := g.rev || (k / 4096 = s.partOf s.cur && g.lease = a.toNat && (b = BitVec.allOnes 64 || k % 4096 = b.toNat)) }))) ∧
  (∀ (s : State) (r : Req) (x : SS) (key : Nat) (o : Opd) (c : Cap) (a b : W64) (v : W1024), Awaits s r →
    r.k = .unit (.lrev x) key o c a b v →
    let part := s.partOf r.pos
    let named := fun (e : Nat × Rng) => lrevNames part a b e.1 e.2 && e.2.rev
    (s.ranges.any named = false → ∃ t, exec .lrevComplete s = .next t ∧ t.ranges = s.ranges ∧ t.mem = s.mem ∧
      Answered s t r (s.ms r.pos) x.h.words 0xB) ∧
    (s.ranges.any named = true → (∀ e ∈ s.ranges, named e = true → s.jobsMeet part e.2.base (e.2.base + e.2.len) = false) →
      ∃ t, exec .lrevComplete s = .next t ∧ t.ranges = s.ranges.filter (fun e => !named e) ∧ t.pages = s.pages ∧ t.mem = s.mem ∧
        Answered s t r (s.ms r.pos) x.h.words (rdyR s r x.h))) ∧
  (∀ (s : State) (x : SS), s.me.kind = .svc →
    let a := s.me.rs x.ra
    let b := s.me.rs x.rb
    (¬ (a.toNat % 65536 = 0 ∧ b.toNat % 65536 = 0) → exec (.xinv x) s = .next (illegal 6 s)) ∧
    (a.toNat % 65536 = 0 → b.toNat % 65536 = 0 → ∃ t, exec (.xinv x) s = .next t ∧ SentAway s t (supReq s (.xinv x) a a b))) ∧
  (∀ (s : State) (r : Req) (x : SS) (key : Nat) (o : Opd) (c : Cap) (a b : W64) (v : W1024), Awaits s r →
    r.k = .unit (.xinv x) key o c a b v →
    let part := s.partOf r.pos
    let ps := (s.pagesIn part a.toNat b.toNat).filter fun e => !e.2.ctl
    ((∃ e ∈ ps, s.pageLeased part e.1 e.2 = true) → ∃ t, exec .xinvComplete s = .next t ∧ t.pages = s.pages ∧ t.mem = s.mem ∧
      Answered s t r (s.ms r.pos) x.h.words 0xB) ∧
    ((∀ e ∈ ps, s.pageLeased part e.1 e.2 = false ∧ (e.2.file = true → e.2.wb = 0) ∧ s.pageBusy e.1 = false) →
      ∃ t, exec .xinvComplete s = .next t ∧ Answered s t r (s.ms r.pos) x.h.words (rdyR s r x.h) ∧
        (∀ k, Tab.find? t.pages k = if k ∈ ps.map Prod.fst then none else Tab.find? s.pages k) ∧
        (∀ e ∈ ps, e.1 ∉ t.tcache ∧ ∀ k, InPage part (pageBase e.1) (pageBytes e.2.psz) k → Tab.get 0 t.mem k = 0)))

/-! ## Code objects and translations (spec/20, spec/25) -/

/-- R380, R381, R389, R450: ICSYNC awaits its unit, and when it completes no core within scope fetches a former word of its
range; a debug patch changes the word in memory alone, is logged, and leaves every page's SVN; it changes no word of a kernel's
header, so no kernel hash (R372). The map-executable service
refuses a request with its code and changes nothing else, or maps the image's pages with its SVN and bytes, the block
descriptors that its table names and 0x0000 for every other block (R53, R86). Raising a fuse marks the executable pages below it, drops the older translations and reports its completion.
(The model's readings there: notes/assumptions/53, 54.) -/
def Obligations.CodeMaintenance : Prop :=
  (∀ (s : State) (x : ParkA), NoHandler s →
    let c := s.me.rc x.mem.cap
    let ea := s.me.ea x.mem
    let n := (s.me.rs x.sa).toNat
    n < 2 ^ 32 → s.check s.cur { cap := c, perms := [pLoad], sp := { code := true }, ea := ea.toNat, len := n } = none →
    (n = 0 → exec (.icsync x) s = .next (stepped s x.h.p (nextPc s (Pl.words x.h)) s.me)) ∧
    (n ≠ 0 → ∃ t, exec (.icsync x) s = .next t ∧
      SentAway s t (.unit (.icsync x) ctlKey { sp := c.space, ea := ea } c (s.me.rs x.sa) 0 0))) ∧
  (∀ (s : State) (r : Req) (x : ParkA) (key : Nat) (o : Opd) (c : Cap) (a b : W64) (v : W1024), Awaits s r →
    r.k = .unit (.icsync x) key o c a b v →
    ∃ t, exec .icsyncComplete s = .next t ∧ t.mem = s.mem ∧ Answered s t r (s.ms r.pos) (Pl.words x.h) (s.ms r.pos).o ∧
      ∀ (pos cyc : Nat) (pc : W64), s.partOf pos = s.partOf r.pos → (∀ l, scopeLevel x.scope = some l → unitAt l pos = unitAt l r.pos) →
        o.ea.toNat < pc.toNat + 4 → pc.toNat < o.ea.toNat + a.toNat → t.fetchWord pos cyc pc = t.codeWord (t.partOf pos) pc) ∧
  (∀ (s : State) (part : Nat) (va : W64) (w : W32) (k : Nat) (pg : Page), part < 8 → va.toNat % 4 = 0 →
    s.pageAt part va.toNat = some (k, pg) → pg.x = true → s.rot.sessions.any (fun x => x.2 = part) = true →
    ((∃ h ∈ pg.hdrs, h < va.toNat + 4 ∧ va.toNat < h + 96) → exec (.codePatch part va w) s = .next s) ∧
    ((∀ h ∈ pg.hdrs, va.toNat + 4 ≤ h ∨ h + 96 ≤ va.toNat) → ∃ t p, exec (.codePatch part va w) s = .next t ∧ Wrote s t (globKey part va.toNat) (leBytes 4 w.toNat) ∧ t.pages = s.pages ∧
      t.rot.patches = (part, va, w) :: s.rot.patches ∧ t.patched = s.patched ++ [p] ∧ p.part = part ∧ p.va = va.toNat ∧
      p.old = s.codeWord part va ∧ p.drops = [])) ∧
  (∀ (s : State) (r : MapReq), s.rot.on = true →
    let d := MapReq.desc r ((s.part r.part).dies.headD 0)
    let answers := fun (code : Nat) => { s with rot := { s.rot with replies := (r.part, code) :: s.rot.replies } }
    (∀ code, s.mapRefusal r = some code → exec (.mapExecutable r) s = .next (answers code)) ∧
    (s.mapRefusal r = none → s.freeRange r.part = none → exec (.mapExecutable r) s = .next (answers 6)) ∧
    (∀ i, s.mapRefusal r = none → s.freeRange r.part = some i → s.noRoom r.part d = true → exec (.mapExecutable r) s = .next (answers 6)) ∧
    (∀ i, s.mapRefusal r = none → s.freeRange r.part = some i → d.ok (s.part r.part).dies = true → s.noRoom r.part d = false →
      0 < r.bytes → r.bytes ≤ 65536 → r.part < 8 → s.pageAt r.part r.base.toNat = none →
      (r.stage.toNat + r.bytes ≤ r.base.toNat ∨ r.base.toNat + 65536 ≤ r.stage.toNat) → r.stage.toNat + r.bytes ≤ 2 ^ 64 →
      ∃ t p, exec (.mapExecutable r) s = .next t ∧ t.rot.replies = (r.part, 0) :: s.rot.replies ∧
        t.pageAt r.part r.base.toNat = some (pageKey r.part r.base.toNat 0, p) ∧ p.x = true ∧ p.w = false ∧ p.svn = r.svn ∧ p.stale = false ∧
        (∀ h ∈ s.kernelsIn r.part r.stage.toNat r.bytes, h < 65536 → r.base.toNat + h ∈ p.hdrs) ∧
        (∀ j, Tab.find? t.ranges j = if j = r.part * 4096 + i then some { lease := r.lease, base := r.base.toNat, len := 65536, rev := false }
          else Tab.find? s.ranges j) ∧
        (∀ j < 65536, Tab.get 0 t.mem (globKey r.part (r.base.toNat + j)) =
          if j < r.bytes then s.rd8 Rdr.home (globKey r.part (r.stage.toNat + j)) else 0) ∧
        (∀ x ∈ r.descs, x.1 < r.bytes → (∀ y ∈ r.descs, y.1 / 64 = x.1 / 64 → y = x) → ∀ i < 2,
          Tab.get 0 t.mem (bfdKey (globKey r.part (r.base.toNat + x.1)) i) = x.2.extractLsb' (8 * i) 8) ∧
        ∀ j < 65536, (∀ x ∈ r.descs, x.1 / 64 ≠ j / 64) → ∀ i < 2, Tab.get 0 t.mem (bfdKey (globKey r.part (r.base.toNat + j)) i) = 0)) ∧
  (∀ (s : State) (floor : Bool) (v : Nat), s.rot.on = true →
    let now := if floor then s.rot.floor else s.rot.objFuse
    (v ≤ now → exec (.fuseRaise floor v) s = .next s) ∧
    (now < v → v ≤ 65535 → ∃ t, exec (.fuseRaise floor v) s = .next t ∧ t.mem = s.mem ∧
      t.rot.floor = (if floor then v else s.rot.floor) ∧ t.rot.objFuse = (if floor then s.rot.objFuse else v) ∧
      t.rot.raises = (floor, v) :: s.rot.raises ∧
      (∀ e ∈ t.rot.cache, e ∈ s.rot.cache ∧ v ≤ if floor then e.r.tsvn else e.r.osvn) ∧
      ∀ k, Tab.find? t.pages k = (Tab.find? s.pages k).map fun p => { p with stale := p.stale || (!floor && p.x && p.svn < v) }))

/-- R384 to R388: a module that needs a translation and is no leader asks the leader once; the leader translates and
multicasts, with the SVN of the object's headers, and where R384 or the translator makes the translation fail, the portable image is not the one
whose SHA-384 the key names (R378), its headers give more than one SVN, or what the translator makes is not the object kernel for kernel (R385), the
failure is reported and nothing else comes of it (R390); a record that passes every check is cached under its key and one that fails any is discarded; without a reply for
2^26 cycles (R458) the module translates for itself.
(The model's readings there: notes/assumptions/55, 88.) -/
def Obligations.PodTranslation : Prop :=
  ∀ (s : State), s.rot.on = true →
    (∀ key : TransKey, Config.leader ≠ Config.devid → s.rot.cached key = none → s.rot.asked.any (fun x => x.1 = key) = false →
      exec (.translationRequest key) s = .next { s with rot := { s.rot with asked := s.rot.asked ++ [(key, s.cyc)] } }) ∧
    (∀ key : TransKey, Config.leader = Config.devid → s.rot.cached key = none →
      let src := Config.portable key.src
      (portableFails src = true ∨ Config.sha384 src ≠ key.src ∨ (∃ h ∈ imgHeaders src, imgNat src (h + 22) 2 ≠ imgSvn src) ∨
        ∀ img, Config.translate key.src key.tver key.trev key.tfeat = some img → translates src img (key.trev.toNat % 64) = false) →
      exec (.translationRequest key) s = .next { s with rot := { s.rot with failed := key :: s.rot.failed } }) ∧
    (∀ (key : TransKey) (img : List Byte),
      let src := Config.portable key.src
      portableFails src = false → Config.sha384 src = key.src → (∀ h ∈ imgHeaders src, imgNat src (h + 22) 2 = imgSvn src) →
      Config.translate key.src key.tver key.trev key.tfeat = some img → translates src img (key.trev.toNat % 64) = true →
      s.rot.cached key = none →
      (Config.leader = Config.devid → ∃ t r, exec (.translationRequest key) s = .next t ∧ t.mem = s.mem ∧ t.rot.cached key = some r ∧
        r.image = img ∧ r.imghash = Config.sha384 img ∧ r.signer = Config.devid ∧ r.seq = s.rot.seq + 1 ∧ t.rot.seq = s.rot.seq + 1 ∧
        r.sig.length = 384 + 16224 ∧ r.osvn = imgSvn src ∧ r.tsvn = Config.translatorSvn key.tver ∧ t.rot.stmts = (3, 0, TransRec.bytes r ++ r.sig) :: s.rot.stmts) ∧
      (∀ at', s.rot.asked.find? (fun x => x.1 = key) = some (key, at') → at' + 2 ^ 26 ≤ s.cyc →
        ∃ t r, exec (.translationTimeout key) s = .next t ∧ t.mem = s.mem ∧ t.rot.cached key = some r ∧ r.image = img ∧
          r.signer = Config.devid ∧ ∀ e ∈ t.rot.asked, e.1 ≠ key)) ∧
    (∀ r : TransRec,
      let good := Config.podMember r.signer = true ∧ Config.verify (Config.sha384 (TransRec.bytes r)) r.sig = true ∧
        Config.sha384 r.image = r.imghash ∧ s.rot.objFuse ≤ r.osvn ∧ s.rot.floor ≤ r.tsvn ∧ r.key.trev = 0x0003000000000000 ∧
        r.key.tfeat = 0x1F
      (good → s.rot.cached r.key = none → ∃ t, exec (.translationRecordReceive r) s = .next t ∧ t.mem = s.mem ∧
        t.rot.cached r.key = some r ∧ ∀ e ∈ t.rot.asked, e.1 ≠ r.key) ∧
      (¬ good → exec (.translationRecordReceive r) s = .next { s with rot := { s.rot with discards := r.key :: s.rot.discards } }))

/-! ## Plates (spec/22) -/

namespace Sys2Proof.Claims

/-- The access of an IMPRD's report (R399). -/
def reportAcc (s : State) (x : ImprdA) : Acc :=
  { cap := s.me.rc x.mem.cap, perms := [pStore], sp := { own := true, imm := true, ms := true }, write := true
    ea := (s.me.ea x.mem).toNat, len := 22880, align := 64 }

end Sys2Proof.Claims

/-- R393 to R396, R399: PLATE goes to the root of trust and, where its conditions hold, opens a FREE id with the next
generation, the range and every slot empty, and derives a capability of space PLATE with PLATE-READ alone; otherwise o is FALSE
and nothing changes. IMPRD's request is kept with its nonce for the next edge; its report is written where it was asked for.
A close request is refused while a lease holds a page of the range.
(The model's readings there: notes/assumptions/56.) -/
def Obligations.PlatesAndReports : Prop :=
  (∀ (s : State) (x : PlateA), s.me.kind = .svc →
    let c := s.me.rc x.cs
    let a := s.me.rs x.sa
    (c.tag = false → Stops s (exec (.plate x) s) 0x02) ∧
    (c.tag = true → (c.sealT ≠ 0 ∨ c.has [pLoad] = false) → Stops s (exec (.plate x) s) 0x04) ∧
    (c.tag = true → c.sealT = 0 → c.has [pLoad] = true → c.space ≠ 3 → Stops s (exec (.plate x) s) 0x07) ∧
    (c.tag = true → c.sealT = 0 → c.has [pLoad] = true → c.space = 3 → ¬ (c.base % 65536 = 0 ∧ c.top % 65536 = 0 ∧ c.base < c.top) →
      Stops s (exec (.plate x) s) 0x06) ∧
    (c.tag = true → c.sealT = 0 → c.has [pLoad] = true → c.space = 3 → c.base % 65536 = 0 → c.top % 65536 = 0 → c.base < c.top →
      (a.toNat < 4096 → ∃ t, exec (.plate x) s = .next t ∧
        SentAway s t (.unit (.plate x) ctlKey { sp := 3, ea := 0 } c a 0 0)) ∧
      (4096 ≤ a.toNat → exec (.plate x) s = .next (illegal 6 s)))) ∧
  (∀ (s : State) (r : Req) (x : PlateA) (key : Nat) (o : Opd) (c : Cap) (a b : W64) (v : W1024), Awaits s r →
    r.k = .unit (.plate x) key o c a b v → a.toNat < 4096 →
    let part := s.partOf r.pos
    let id := a.toNat
    (s.plateFails part id c.base c.top = true → ∃ t, exec .plateComplete s = .next t ∧ t.plates = s.plates ∧
      Answered s t r (s.ms r.pos) x.h.words 0xB) ∧
    (s.plateFails part id c.base c.top = false → ∃ t d, exec .plateComplete s = .next t ∧
      Answered s t r ((s.ms r.pos).wc x.cd d) x.h.words (rdyR s r x.h) ∧ d.tag = c.tag ∧ d.space = 5 ∧ d.perms = 0x0400 ∧
      d.cursor = c.cursor ∧ d.base = c.base ∧ d.top = c.top ∧ (∀ k, k ≠ id → t.plate k = s.plate k) ∧
      ((s.plate id).st = 1 → t.plate id = s.plate id) ∧
      ((s.plate id).st = 0 → (t.plate id).st = 1 ∧ (t.plate id).gen = ((s.plate id).gen + 1) % 2 ^ 32 ∧ (t.plate id).part = part ∧
        (t.plate id).base = c.base ∧ (t.plate id).top = c.top ∧ (t.plate id).slots = []))) ∧
  (∀ (s : State) (x : ImprdA) (id key : Nat), NoHandler s →
    let c := s.me.rc x.cP
    let part := s.partOf s.cur
    c.tag = true → c.sealT = 0 → c.has [pPlateRead] = true → c.space = 5 → s.openAt part c.cursor.toNat = some id →
    Clear s (reportAcc s x) key → (s.reports.filter fun q => q.part = part).length < 16 →
    ∃ t q, exec (.imprd x) s = .next t ∧ t.mem = s.mem ∧ t.vers = s.vers ∧ Ends s t s.me x.h.words (rdy s x.h) ∧ t.reports = s.reports ++ [q] ∧
      q.plate = id ∧ q.dst = key ∧ q.nonce = s.me.rs x.sn ∧ q.part = part ∧ q.snap = none) ∧
  (∀ (s : State) (q : Report) (b : List Byte), s.reports.find? (fun q => q.id = s.cur) = some q → q.snap = some b →
    ∃ t, exec .imprdReportWrite s = .next t ∧ t.reports = s.reports.filter (fun y => y.id != q.id) ∧ t.plates = s.plates ∧
      (∀ d, s.reportKey q = some d → d + (Machine.signed b).length < 2 ^ 72 → 8 ≤ (Machine.signed b).length →
        (∀ i < (Machine.signed b).length, Tab.get 0 t.mem (d + i) = (Machine.signed b).getD i 0) ∧
        ∀ k < 2 ^ 72, (k < d ∨ d + (Machine.signed b).length ≤ k) → Tab.get 0 t.mem k = Tab.get 0 s.mem k) ∧
      (s.reportKey q = none → t.mem = s.mem)) ∧
  (∀ s : State,
    let p := s.plate s.cur
    (p.st = 1 → s.plateLeased p = true → exec .plateCloseRequest s = .next s) ∧
    (p.st = 1 → s.plateLeased p = false → exec .plateCloseRequest s = .next (s.setPlate s.cur { p with st := 2 })) ∧
    (p.st = 2 → s.platePending s.cur = true → exec .plateCloseFinish s = .next s))

/-- R393, R398, R400, R401: a CLOSING plate that no launch has PENDING on takes, at a round edge, the snapshot of its closing
statement: 6,272 bytes, which hold its slots' counters; the statement ends with the two signatures, 22,880 bytes in all, and the
plate is FREE with its generation kept. A durable checkpoint's counters are the slots' last durable ones, its record stands in the
storage region and its hash, count and reserve in the replay-protected block. A failed checkpoint leaves the previous one and is reported at the first failure and then every 2^30 cycles.
(The model's readings there: notes/assumptions/57.) -/
def Obligations.StatementsAndCheckpoints : Prop :=
  ∀ s : State,
    let p := s.plate s.cur
    (∀ id < 4096, (s.plates.map Prod.fst).Nodup → (s.plate id).st = 2 → s.platePending id = false → (s.plate id).fin = none →
      ∃ b n, (s.closeEdge.plate id).fin = some b ∧ s.rot.seq < n ∧ n ≤ s.closeEdge.rot.seq ∧ b.length = 6272 ∧
      b.take 8 = leBytes 4 0x504D494B ++ leBytes 2 1 ++ leBytes 2 1 ∧ (b.drop 8).take 8 = leBytes 8 Config.devid.toNat ∧
      (b.drop 16).take 8 = leBytes 8 n ∧ (b.drop 24).take 8 = leBytes 8 s.round.num ∧
      (b.drop 36).take 4 = leBytes 4 (s.plate id).gen ∧
      (∀ k < 64, ∀ x, Tab.find? (s.plate id).slots k = some x →
        (b.drop (128 + 96 * k)).take 64 = leBytes 48 x.hash.toNat ++ leBytes 8 x.struck ++ leBytes 8 x.spoiled)) ∧
    (∀ b, p.st = 2 → s.platePending s.cur = false → p.fin = some b → ∃ t, exec .plateCloseFinish s = .next t ∧ t.mem = s.mem ∧
      t.rot.stmts = (1, s.cur, Machine.signed b) :: s.rot.stmts ∧ t.rot.seq = s.rot.seq ∧
      (Machine.signed b).length = b.length + 384 + 16224 ∧ (Machine.signed b).take b.length = b ∧
      (t.plate s.cur).st = 0 ∧ (t.plate s.cur).gen = p.gen ∧ (t.plate s.cur).slots = [] ∧ ∀ k, k ≠ s.cur → t.plate k = s.plate k) ∧
    (∀ vs, p.ck = some vs → vs.Pairwise (fun a b => a.1 ≠ b.1) → ∃ t, exec .checkpointDurable s = .next t ∧ t.mem = s.mem ∧
      (t.plate s.cur).ck = none ∧ (t.plate s.cur).ckFail = false ∧ (t.plate s.cur).st = p.st ∧
      Tab.find? t.rot.region s.cur = some p.ckRec ∧
      Tab.find? t.rot.rpmb s.cur = some (Config.sha384 p.ckRec, leNat ((p.ckRec.drop 16).take 8), 2 ^ 20) ∧
      ∀ i x, Tab.find? p.slots i = some x → Tab.find? (t.plate s.cur).slots i =
        match vs.find? (fun e => e.1 = i) with
        | some (_, a, b) => some { x with ckS := a, ckP := b }
        | none => some x) ∧
    (∀ vs, p.ck = some vs → ∃ t, exec .checkpointFailure s = .next t ∧ t.mem = s.mem ∧ (t.plate s.cur).ck = none ∧
      (t.plate s.cur).ckFail = true ∧ (t.plate s.cur).slots = p.slots ∧ (t.plate s.cur).st = p.st ∧
      ((p.ckFail = false ∨ p.ckRep + 2 ^ 30 ≤ s.cyc) → ∃ k, (t.die s.rot.die).pkts = (s.die s.rot.die).pkts ++ [k] ∧ k.type = 1 ∧
        k.cause = 0x10 ∧ k.d2 = 0 ∧ k.d3 = BitVec.ofNat 64 s.cur) ∧
      (p.ckFail = true → s.cyc < p.ckRep + 2 ^ 30 → t.dies = s.dies))

/-! ## Proofs (spec/23) -/

namespace Sys2Proof.Claims

/-- The request of a proof instruction to the proof table (R422). -/
def tableReq (_ : State) (i : Instr) (a : W64) : ReqK :=
  .unit i ctlKey { sp := 3, ea := 0 } Cap.null a 0 0

/-- The proof that sa names for the task of a request: 0 names its own PROOF (R423, R425). -/
def namedBy (m : Master) (a : W64) : Nat := if a.toNat % 65536 = 0 then m.proof else a.toNat % 65536

/-- PRPASS or PRCAN accepted (R425): the proof takes the state asked for, the request stays outstanding until its edge, and
the instruction is complete. -/
def Resolving (s t : State) (r : Req) (x : SH) (p : Nat) (q : Proof) (st : Nat) : Prop :=
  t.mem = s.mem ∧ (∀ j, Tab.find? t.proofs j = if j = p then some { q with st := st, ord := s.nextReq } else Tab.find? s.proofs j) ∧
  (∃ n, t.reqs = s.reqs.filter (fun y => y.id != r.id) ++ [n] ∧ n.k = .resolve ∧ n.pos = r.pos) ∧ (t.ms r.pos).await = false ∧
  SameFiles (t.ms r.pos) (s.ms r.pos) ∧ (t.ms r.pos).pc = (s.ms r.pos).pc + BitVec.ofNat 64 (4 * x.h.words) ∧ (t.ms r.pos).o = rdyR s r x.h

end Sys2Proof.Claims

/-- R405, R410, R422 to R427: PRNEW, PRSET, PRPASS, PRCAN and PRST go to the proof table with their task parked; PRORV sets
ORPHV and answers the old one at issue. At the table PRNEW creates an OPEN child one deeper, with 0 and FALSE for a proof not
live in the launch or of depth 8; PRSET changes PROOF; PRPASS and PRCAN change the proof's state, FALSE for a root or a proof
resolved already; PRST writes the state word, or the parent.
(The model's readings there: notes/assumptions/33, 49.) -/
def Obligations.ProofInstructions : Prop :=
  (∀ s : State, IsTask s → s.me.orphan = none →
    (∀ x : SS, (s.me.rs x.rb).toNat < 2 ^ 16 → ∃ t, exec (.prnew x) s = .next t ∧ SentAway s t (tableReq s (.prnew x) (s.me.rs x.rb))) ∧
    (∀ x : SH, (s.me.rs x.sr).toNat < 2 ^ 16 →
      (∃ t, exec (.prset x) s = .next t ∧ SentAway s t (tableReq s (.prset x) (s.me.rs x.sr))) ∧
      (∃ t, exec (.prpass x) s = .next t ∧ SentAway s t (tableReq s (.prpass x) (s.me.rs x.sr))) ∧
      (∃ t, exec (.prcan x) s = .next t ∧ SentAway s t (tableReq s (.prcan x) (s.me.rs x.sr)))) ∧
    (∀ x : ProrvA, exec (.prorv x) s = .next (stepped s x.h.p (nextPc s (Pl.words x.h))
      { s.me.ws x.sd s.me.orphv with orphv := if x.imm = 0 then 0 else s.me.pc + 4 * x.imm.signExtend 64 }))) ∧
  (∀ (s : State) (x : SSP), NoHandler s → s.me.orphan = none → (s.me.rs x.sa).toNat < 2 ^ 17 →
    ∃ t, exec (.prst x) s = .next t ∧ SentAway s t (tableReq s (.prst x) (s.me.rs x.sa))) ∧
  (∀ (s : State) (r : Req) (i : Instr) (key : Nat) (o : Opd) (c : Cap) (a b : W64) (v : W1024), Awaits s r → (s.ms r.pos).kind = .task →
    r.k = .unit i key o c a b v → a.toNat < 2 ^ 17 →
    let m := s.ms r.pos
    let slot := m.lslot
    let p := namedBy m a
    let live := fun (p : Nat) (q : Proof) => Tab.find? s.proofs p = some q ∧ q.lslot = slot
    let no := fun (n : Master) (h : Hd) => ∃ t, exec .proofTableReply s = .next t ∧ t.mem = s.mem ∧ t.proofs = s.proofs ∧
      Answered s t r n h.words 0xB
    let pending := (s.reqs.filter fun q => q.lslot = slot && q.k = .resolve).length
    (∀ x : SS, i = .prnew x →
      ((∀ q, ¬ live p q) → no (m.ws x.ra 0) x.h) ∧
      (∀ q, live p q → q.depth = 8 → no (m.ws x.ra 0) x.h) ∧
      (∀ q n, live p q → q.depth ≠ 8 → s.freeProof = some n → s.liveProofs slot < 1024 → s.proofs.length < 16384 →
        ∃ t, exec .proofTableReply s = .next t ∧ t.mem = s.mem ∧
          Answered s t r (m.ws x.ra (BitVec.ofNat 64 n)) x.h.words (rdyR s r x.h) ∧ (t.ms r.pos).proof = m.proof ∧
          1 ≤ n ∧ n ≤ 65535 ∧ Tab.find? s.proofs n = none ∧
          ∀ j, Tab.find? t.proofs j =
            if j = n then some { lslot := slot, parent := p, depth := q.depth + 1, st := 0, ord := 0 } else Tab.find? s.proofs j)) ∧
    (∀ x : SH, i = .prset x →
      (∀ l q, a = 0 → s.launch? slot = some l → live l.root q → ∃ t, exec .proofTableReply s = .next t ∧ t.mem = s.mem ∧
        t.proofs = s.proofs ∧ Answered s t r m x.h.words (rdyR s r x.h) ∧ (t.ms r.pos).proof = l.root) ∧
      (∀ q, a ≠ 0 → live a.toNat q → ∃ t, exec .proofTableReply s = .next t ∧ t.mem = s.mem ∧ t.proofs = s.proofs ∧
        Answered s t r m x.h.words (rdyR s r x.h) ∧ (t.ms r.pos).proof = a.toNat) ∧
      (a ≠ 0 → (∀ q, ¬ live a.toNat q) → no m x.h)) ∧
    (∀ x : SH, i = .prpass x →
      (∀ q, live p q → (q.parent = 0 ∨ q.st ≠ 0) → no m x.h) ∧
      (∀ q, live p q → q.parent ≠ 0 → q.st = 0 → pending < 64 →
        ∃ t, exec .proofTableReply s = .next t ∧ Resolving s t r x p q 1)) ∧
    (∀ x : SH, i = .prcan x →
      (∀ q, live p q → (q.parent = 0 ∨ 2 ≤ q.st) → no m x.h) ∧
      (∀ q, live p q → q.parent ≠ 0 → q.st < 2 → pending < 64 →
        ∃ t, exec .proofTableReply s = .next t ∧ Resolving s t r x p q 2)) ∧
    (∀ x : SSP, i = .prst x → ∃ t w, exec .proofTableReply s = .next t ∧ t.mem = s.mem ∧ t.proofs = s.proofs ∧
      Answered s t r (m.ws x.sd (BitVec.ofNat 64 w)) (Pl.words x.h) m.o ∧
      ((∀ q, ¬ live p q) → w = if a.toNat < 65536 then 0xE000 else 0) ∧
      ∀ q, live p q → q.depth < 16 → q.st < 4 →
        (65536 ≤ a.toNat → w = q.parent) ∧
        (a.toNat < 65536 → w / 2 ^ 13 % 8 = (if s.inCancelling q then 3 else q.st) ∧ w / 2 ^ 16 % 16 = q.depth ∧
          (w / 2 ^ 20 % 2 = 1 ↔ q.parent = 0) ∧ w % 2 ^ 13 = 0)))

/-! ## Pre-emption (spec/25) -/

namespace Sys2Proof.Claims

/-- The master that a well-formed target of one master names, of the launch and the partition (R444). -/
def Target (s : State) (r : Req) (a : W64) (pos : Nat) : Prop :=
  let m := s.ms pos
  (tgtF a).pos = pos ∧ (tgtF a).sel = 0 ∧ ((tgtF a).svc = true → (tgtF a).core < 4) ∧ m.kind ≠ .empty ∧ s.partOf pos = s.partOf r.pos ∧ m.saving = none ∧ m.exiting = false ∧
  (if (tgtF a).svc then 0 else m.lnch) = (tgtF a).lnch

end Sys2Proof.Claims

/-- R440 to R447: PREEMPT, RESUME and FREEZE of a supervisor core go to the collector, and a malformed target is ILLEGAL. The
collector keeps an accepted PREEMPT for the next edge, which it asks for, and a KILL makes its launch ABORTING. At a SAVE's edge the
selected task is SAVED (R29): it leaves its slot and its tiles, is PARKED no more, and its wait count stands; its record is whole, with every
register, the PC and o, once its results have landed. Which record it takes is free. A RESUME of the record loads them again, into the lowest free slot of
its core and the first free tiles there (the model's choices, notes/assumptions/18 and 19: R441 and R446 say only that they are free), with a task
that was PARKED on its object again, with its wait count, and examined before the machine's next act: it stays parked or, its condition
met, becomes READY. RESUME of a FROZEN master makes it READY at its PC, once a packet of it that its core holds has been taken
(R433); FREEZE stops a READY or PARKED one and answers its PC once its posted results have landed and its accepted jobs are complete
(R32). A kill's completion answers how many
tasks it retired.
(The model's readings there: notes/assumptions/59, 60, 61, 94, 107.) -/
def Obligations.PreemptResumeFreeze : Prop :=
  (∀ s : State, s.me.kind = .svc →
    (∀ x : SSS,
      let a := s.me.rs x.sa
      let b := s.me.rs x.sb
      (preemptOk a b = false → exec (.preempt x) s = .next (illegal 6 s)) ∧
      (preemptOk a b = true → ∃ t, exec (.preempt x) s = .next t ∧ SentAway s t (supReq s (.preempt x) 0 a b)) ∧
      (resumeOk a b = false → exec (.resume x) s = .next (illegal 6 s)) ∧
      (resumeOk a b = true → ∃ t, exec (.resume x) s = .next t ∧ SentAway s t (supReq s (.resume x) 0 a b))) ∧
    (∀ x : SSP,
      let a := s.me.rs x.sa
      (freezeOk a = false → exec (.freeze x) s = .next (illegal 6 s)) ∧
      (freezeOk a = true → ∃ t, exec (.freeze x) s = .next t ∧ SentAway s t (supReq s (.freeze x) 0 a 0)))) ∧
  (∀ (s : State) (r : Req) (i : Instr) (key : Nat) (o : Opd) (c : Cap) (a b : W64) (v : W1024), Awaits s r → (s.ms r.pos).kind = .svc →
    r.k = .unit i key o c a b v →
    let part := s.partOf r.pos
    let q := s.ms r.pos
    let f := tgtF a
    (∀ (x : SSS) (slot : Nat) (l : Launch), i = .preempt x → s.byLnchid f.lnch = some slot → s.launch? slot = some l → l.part = part →
      (s.part part).pres.length < 16 → (∀ p ∈ (s.part part).pres, p.id ≠ r.id) → (l.st = .running ∨ l.st = .doomed) →
      let sel := s.selected part f.sel (if f.sel = 0 then f.pos else f.coreNo) slot
      (b ≠ 1 → sel ≠ [] → sel.length ≤ s.freeSaves part → ∃ t p, exec .collectorPerform s = .next t ∧ t.mem = s.mem ∧ t.masters = s.masters ∧
        t.reqs = s.reqs ∧ t.round.demand = true ∧ t.launches = s.launches ∧ (t.part part).pres = (s.part part).pres ++ [p] ∧
        p.id = r.id ∧ p.kill = false ∧ p.done = false ∧ p.lslot = slot ∧ p.sel = f.sel) ∧
      (b = 1 → ∃ t p, exec .collectorPerform s = .next t ∧ t.mem = s.mem ∧ t.masters = s.masters ∧ t.reqs = s.reqs ∧ t.round.demand = true ∧
        t.launch? slot = some { l with st := .aborting, endAt := s.cyc, sweep := none } ∧
        (t.part part).pres = (s.part part).pres ++ [p] ∧ p.id = r.id ∧ p.kill = true ∧ p.done = false ∧ p.lslot = slot) ∧
      (b ≠ 1 → sel = [] → ∃ t, exec .collectorPerform s = .next t ∧ t.mem = s.mem ∧ Answered s t r q x.h.words 0xB)) ∧
    (∀ (x : SSS) (pos : Nat), i = .resume x → Target s r a pos → (s.ms pos).st = .frozen →
      (f.svc = true ∨ ∀ l, s.launch? (s.ms pos).lslot = some l → l.st ≠ .aborting) →
      (s.ms pos).mxe = [] → (s.ms pos).cpe = [] → (s.ms pos).att = [] → pos ≠ r.pos →
      (s.packetHeld pos = true → exec .collectorPerform s = .next s) ∧
      (s.packetHeld pos = false → ∃ t, exec .collectorPerform s = .next t ∧ t.mem = s.mem ∧ Answered s t r (q.ws x.sd 1) x.h.words (rdyR s r x.h) ∧
        (t.ms pos).st = .ready ∧ (t.ms pos).pc = (s.ms pos).pc ∧ SameFiles (t.ms pos) (s.ms pos) ∧ (t.ms pos).o = (s.ms pos).o)) ∧
    (∀ (x : SSS) (rec' : Save) (z slot : Nat), i = .resume x → f.sel = 1 → f.saveid < 16384 →
      s.saves = [(part * 16384 + f.saveid, rec')] → rec'.pinned = true → (∀ e ∈ s.masters, e.2.saving = none) → r.slot = false →
      (∃ l, s.launch? rec'.m.lslot = some l ∧ l.st ≠ .aborting ∧ s.promised l.part rec'.core l.prio = false) → (s.freeSlots rec'.core).head? = some slot →
      ((List.range (17 - rec'.m.zcount)).find? fun b => (List.range rec'.m.zcount).all fun i => Tab.get 0 (s.core rec'.core).tiles (b + i) = 0)
        = some z →
      rec'.m.vxe = [] → rec'.m.mxe = [] → rec'.m.cpe = [] → rec'.m.att = [] → rec'.m.posts = [] → rec'.m.kind = .task → rec'.res = [] →
      rec'.core * 16 + slot ≠ r.pos →
      ∃ t, exec .collectorPerform s = .next t ∧ t.mem = s.mem ∧ t.saves = [] ∧ Answered s t r (q.ws x.sd 1) x.h.words (rdyR s r x.h) ∧
        let n := t.ms (rec'.core * 16 + slot)
        n.kind = .task ∧ (rec'.m.st ≠ .parked → n.st = rec'.m.st) ∧
          (rec'.m.st = .parked → rec'.m.park ≠ .preempt → rec'.m.exiting = false →
            n.st = .parked ∧ n.wait = rec'.m.wait ∧ n.since = s.cyc ∧ n.exam = true) ∧ SameFiles n rec'.m ∧ n.pc = rec'.m.pc ∧ n.o = rec'.m.o ∧
          n.proof = rec'.m.proof ∧ n.taskid = rec'.m.taskid) ∧
    (∀ (x : SSP) (pos : Nat), i = .freeze x → Target s r a pos → (s.ms pos).await = false → pos ≠ r.pos →
      ∃ t, exec .collectorPerform s = .next t ∧ t.mem = s.mem ∧ t.dies = s.dies ∧
        (t.ms pos).st = .frozen ∧ (t.ms pos).pc = (s.ms pos).pc ∧ SameFiles (t.ms pos) (s.ms pos) ∧
        (s.settled pos = true → Answered s t r (q.ws x.sd (s.ms pos).pc) (Pl.words x.h) q.o) ∧
        (s.settled pos = false → t.reqs = s.reqs ∧ (t.ms r.pos).await = true ∧ SameFiles (t.ms r.pos) q)) ∧
    (∀ (x : SSP), i = .freeze x → (s.ms f.pos).kind = .empty → ∃ t, exec .collectorPerform s = .next t ∧ t.mem = s.mem ∧
      Answered s t r q (Pl.words x.h) 0xB) ∧
    (∀ (x : SSS) (p : Pre), i = .preempt x → (s.part part).pres.find? (fun p => p.id = r.id) = some p → p.id = r.id → p.done = true →
      (s.masters.filter fun e => e.2.saving = some r.id) = [] →
      (p.kill = true → p.sel = 2 → ∃ t, exec .preemptComplete s = .next t ∧ t.mem = s.mem ∧
        Answered s t r (q.ws x.sd (BitVec.ofNat 64 p.count)) x.h.words (rdyR s r x.h)) ∧
      (p.kill = false → ∃ t, exec .preemptComplete s = .next t ∧ t.mem = s.mem ∧ Answered s t r q x.h.words 0xB)) ∧
    (∀ (x : SSS) (p : Pre) (pos home n : Nat), i = .preempt x → (s.part part).pres.find? (fun p => p.id = r.id) = some p → p.id = r.id →
      p.done = true → p.kill = false → p.sel = 0 → (s.masters.filter fun e => e.2.saving = some r.id).map Prod.fst = [pos] →
      pos = savePos (part * 16384 + n) home → n < 16384 → home < 2 ^ 24 →
      (s.ms pos).kind = .task → s.quiet pos = true → (∀ y ∈ s.reqs, y.pos ≠ pos) → s.gangLeaves pos = false →
      ∃ t e, exec .preemptComplete s = .next t ∧ t.mem = s.mem ∧ Answered s t r (q.ws x.sd (BitVec.ofNat 64 n)) x.h.words (rdyR s r x.h) ∧
        (t.ms pos).kind = .empty ∧ Tab.find? t.saves (part * 16384 + n) = some e ∧ SameFiles e.m (s.ms pos) ∧ e.m.pc = (s.ms pos).pc ∧
        e.m.o = (s.ms pos).o ∧ e.m.st = (s.ms pos).st ∧ e.core = coreOf pos ∧ e.pinned = true)) ∧
  (∀ (s : State) (part pos n : Nat) (p : Pre) (l : Launch), s.launch? p.lslot = some l → (l.st = .running ∨ l.st = .doomed) →
    s.selected part p.sel p.pos p.lslot = [pos] → s.freeRecord part = some n → pos < 2 ^ 24 →
    let t := s.saveEdge part p
    let e := t.ms (savePos (part * 16384 + n) pos)
    t.mem = s.mem ∧ (t.ms pos).kind = .empty ∧ (∀ y ∈ (t.core (coreOf pos)).tiles, y.2 ≠ pos + 1) ∧
      (∀ y ∈ (t.part part).pres, y.id = p.id → y.done = true) ∧
      e.saving = some p.id ∧ e.isParked = false ∧ SameFiles e (s.ms pos) ∧ e.pc = (s.ms pos).pc ∧ e.o = (s.ms pos).o ∧
      e.st = (s.ms pos).st ∧ e.park = (s.ms pos).park ∧ e.wait = (s.ms pos).stood s.cyc) ∧
  (∀ (s : State) (pos : Nat) (m : Master), Tab.find? s.masters pos = some m → m.exam = true → m.st = .parked →
    (s.unmet pos m = true → s.examine.ms pos = { m with exam := false }) ∧
    (s.unmet pos m = false → (s.examine.ms pos).st = .ready ∧ (s.examine.ms pos).park = .none ∧ SameFiles (s.examine.ms pos) m))

/-! ## Lines, write batches, homes and tiers (spec/10, spec/11, spec/14, spec/19) -/

namespace Sys2Proof.Claims

/-- Key of the page that holds 64 KiB page number `n` of a partition. -/
def pageNo (part n : Nat) : Nat := pageKey part (n * 65536) 0

/-- The keys of a list of cells are distinct. -/
def Distinct (cs : List Host.Cell) : Prop := cs.Pairwise fun a b => a.1 ≠ b.1

end Sys2Proof.Claims

/-- R203, R235 to R238: a write batch whose predecessors are performed is applied at its home at once: memory holds its bytes
and no other byte of memory changes, a die with a copy reads what it read before, and the writer's own die reads the new bytes;
a write under a proof becomes a version instead, and a die with a copy reads the former version until it applies the write too. Applied on a die with a copy, it shows there too. A die applies it while no
other core holds tokens of its lines for a persistent request (R281). Completes: WRITE_BATCH_APPLY, WRITEBACK_APPLY.
(The model's readings there: notes/assumptions/16.) -/
def Obligations.WriteBatches : Prop :=
  ∀ (s : State) (b : Batch), s.batch? s.cur = some b → b.push = false →
    let first := ((b.cells.head?).map Prod.fst).getD 0
    (∀ (i : Instr), (i = .writeBatchApply ∧ s.arg = b.home ∨ i = .writebackApply) → b.applied = false → s.waiting b.after = false →
      s.tokensFree b b.home = true → s.tokensFree b b.src = true → b.proof = 0 → Distinct b.cells →
      ∃ t, exec i s = .next t ∧ t.vers = s.vers ∧ (∀ c ∈ b.cells, Tab.get 0 t.mem c.1 = c.2) ∧
        (∀ k, (∀ c ∈ b.cells, c.1 ≠ k) → Tab.get 0 t.mem k = Tab.get 0 s.mem k) ∧
        (isGlobKey first = true →
          (∀ d ∈ s.copyDies b.home b.cells, d ≠ b.src → ∀ k, (s.copied d k = true ∨ ∀ c ∈ b.cells, c.1 ≠ k) → t.dieByte d k = s.dieByte d k) ∧
          (Tab.get [] s.halo b.src = [] → ∀ c ∈ b.cells, t.dieByte b.src c.1 = c.2))) ∧
    (s.arg = b.home → b.applied = false → s.waiting b.after = false → s.tokensFree b b.home = true → s.tokensFree b b.src = true → b.proof ≠ 0 →
      ∃ t, exec .writeBatchApply s = .next t ∧ t.mem = s.mem ∧ t.vers = (s.storeTagged b.lslot b.proof b.cells).1.vers ∧
        ((∀ c ∈ b.cells, c.1 < 2 ^ 95) → ∀ d ∈ s.copyDies b.home b.cells, d ≠ b.src → ∀ k < 2 ^ 95, s.copied d k = true →
          dieVer t.vers (Tab.get [] t.stale d) b.proof k = dieVer s.vers (Tab.get [] s.stale d) b.proof k)) ∧
    (b.applied = true → s.tokensFree b s.arg = true → s.arg ∈ b.todo → s.copyBehind b s.arg = false →
      (∀ y ∈ (s.batches.dropWhile fun y => y.id != b.id).tail, y.applied = false ∨ s.arg ∉ y.todo) →
      ∃ t, exec .writeBatchApply s = .next t ∧ t.mem = s.mem ∧ t.vers = s.vers ∧
        (b.proof = 0 → Tab.get [] s.halo s.arg = [] → ∀ c ∈ b.cells, t.dieByte s.arg c.1 = Tab.get 0 s.mem c.1) ∧
        (b.proof ≠ 0 → ∀ c ∈ b.cells, dieVer t.vers (Tab.get [] t.stale s.arg) b.proof c.1 = Tab.find? (Tab.get [] s.vers b.proof) c.1))

/-- R201, R202, R204, R281, R355, R453: a fill whose line no older persistent request of the die claims lands its line in the L1 with
a token, or for a write with all of the die's 256, and makes the die a holder of a copy when the line is homed elsewhere; the lines of one
access that asked persistently land together (the model's reading, notes/assumptions/98), and tokens gained so go after 256 cycles. A die that made more than half of a window's writes to a
page becomes its home, unless the page is pinned there, or stands in HBM and the die's
stack holds no pages or has no room; the move changes the home alone, and requests of dies that named the
old home are forwarded and corrected. A miss fills the HLT from the directory.
(The model's readings there: notes/assumptions/11, 66.) -/
def Obligations.LinesAndHomes : Prop :=
  ∀ s : State,
    (let c := s.core s.cur
     let lines := c.landing s.arg
     (∃ e ∈ c.fills, e.1 = s.arg) → (∀ l ∈ lines, s.outranked s.cur l = false ∧ s.canTake s.cur l (c.asksAll l) = true) →
      ∃ t, exec .lineFill s = .next t ∧ t.mem = s.mem ∧ s.arg ∈ lines ∧
      (∀ l ∈ lines, Tab.get 0 (t.core s.cur).l1 l ≠ 0 ∧
        (c.asksAll l = true → Tab.get 0 (t.core s.cur).l1 l = 256 ∧
          ∀ n, n ≠ s.cur → dieOfL1 n = dieOfL1 s.cur → Tab.get 0 (t.core n).l1 l = 0) ∧
        (∀ x, s.pageOfKey (l * 64) = some x → x.2.home ≠ dieOfL1 s.cur → dieOfL1 s.cur ∈ Tab.get [] t.copies l) ∧
        (∀ x, s.pageOfKey (l * 64) = some x → x.2.home = dieOfL1 s.cur → Tab.get [] t.copies l = Tab.get [] s.copies l)) ∧
      (∀ e ∈ (t.core s.cur).fills, e.1 ∈ lines → ∃ x ∈ (t.core s.cur).pers, x.line = e.1 ∧ x.got = false) ∧
      (∀ e, c.oldest s.arg = some e → ∀ x ∈ c.pers, x.pos = e.pos → x.at' = e.at' → x.got = false →
        { x with at' := s.cyc, got := true } ∈ (t.core s.cur).pers)) ∧
    ((∃ x ∈ (s.core s.cur).pers, x.line = s.arg ∧ x.got = true ∧ x.at' + 256 ≤ s.cyc) →
      ∃ t, exec .persistentTokenRelease s = .next t ∧ t.mem = s.mem ∧
        (∀ x ∈ (t.core s.cur).pers, x.line = s.arg → x.got = true → s.cyc < x.at' + 256) ∧
        ((∀ x ∈ (s.core s.cur).pers, x.line = s.arg → x.got = true → x.at' + 256 ≤ s.cyc) → Tab.get 0 (t.core s.cur).l1 s.arg = 0)) ∧
    (∀ p, Tab.find? s.pages (pageNo s.cur s.arg) = some p →
      let pk := pageNo s.cur s.arg
      let made := fun (d : Nat) => Tab.get 0 s.wcount (pk * 32 + d)
      let total := ((List.range 32).map made).sum
      ∃ t, exec .homeCountWindow s = .next t ∧ t.mem = s.mem ∧ t.pages = s.pages ∧ (∀ d < 32, Tab.get 0 t.wcount (pk * 32 + d) = 0) ∧
        (∀ d < 32, d ≠ p.home → total < 2 * made d → s.movable s.cur pk p = true →
          t.agenda = s.agenda ++ [{ i := .homeMove s.cur s.arg d, cur := s.cur, arg := s.arg }]) ∧
        ((s.movable s.cur pk p = false ∨ ∀ d < 32, d ≠ p.home → 2 * made d ≤ total) → t.agenda = s.agenda)) ∧
    (∀ part page die p, Tab.find? s.pages (pageNo part page) = some p →
      (s.movable part (pageNo part page) p = true → die ≠ p.home → (s.die die).joined = true → (s.die die).part = part →
        (p.t2 = true ∨ (s.die die).full = true ∧ pageBytes p.psz ≤ s.roomIn false die) →
        ∃ t q, exec (.homeMove part page die) s = .next t ∧ t.mem = s.mem ∧ t.vers = s.vers ∧ Tab.find? t.pages (pageNo part page) = some q ∧
          q = { p with home := die, fwd := q.fwd } ∧
          ∀ d < 32, d ∈ q.fwd ↔ ∃ h, Tab.find? s.hlt (pageNo part page * 32 + d) = some h ∧ h ≠ die) ∧
      ((p.hpin = true ∨ p.t2 = false ∧ (s.die die).full = false) → exec (.homeMove part page die) s = .next s) ∧
      (die ∈ p.fwd → exec (.requestForward die part page) s = .next
        { s with hlt := Tab.put s.hlt (pageNo part page * 32 + die) p.home
                 pages := Tab.put s.pages (pageNo part page) { p with fwd := p.fwd.filter (· != die) } }) ∧
      (Tab.find? s.hlt (pageNo part page * 32 + die) = none → ∃ t, exec (.hltMissFill die part page) s = .next t ∧ t.mem = s.mem ∧
        t.pages = s.pages ∧ Tab.find? t.hlt (pageNo part page * 32 + die) = some p.home ∧ pageNo part page ∈ t.tcache))

/-- R198, R358, R453: a page mapped with TIER 2 moves between the tiers with all its state where there is room, to HBM only in full service.
A FILE page's committed bytes are staged, unless a block of it is in error, which leaves it DIRTY (R443), and the flash write leaves them on its namespace and the page CLEAN, or DIRTY again with a
STORAGE packet when the write fails.
(The model's readings there: notes/assumptions/67; that a page stays where it is while the other tier has no room for it is DEDUCED, 47.) -/
def Obligations.TiersAndWritebacks : Prop :=
  ∀ s : State,
    (∀ p, Tab.find? s.pages (pageNo s.cur s.arg) = some p →
      (p.tier = 2 → p.ms = false → (p.t2 = false ∨ (s.part s.cur).full = true) → pageBytes p.psz ≤ s.roomIn (!p.t2) p.home → exec .pageTierMigrate s = .next
        { s with pages := Tab.put s.pages (pageNo s.cur s.arg) { p with t2 := !p.t2 } }) ∧
      ((p.tier ≠ 2 ∨ p.ms = true ∨ p.t2 = true ∧ (s.part s.cur).full = false ∨ s.roomIn (!p.t2) p.home < pageBytes p.psz) → exec .pageTierMigrate s = .next s) ∧
      (let bad := fun (i : Nat) => s.rd8 Rdr.home (poisonKey (globKey s.cur (pageBase (pageNo s.cur s.arg)) + 64 * i)) ≠ 0
       p.wb = 2 → ((∃ i < pageBytes p.psz / 64, bad i) → ∃ t q, exec .writebackCopyDone s = .next t ∧ t.mem = s.mem ∧
        t.staging = s.staging ∧ Tab.find? t.pages (pageNo s.cur s.arg) = some q ∧ q.wb = 1) ∧
       ((∀ i < pageBytes p.psz / 64, ¬ bad i) → ∃ t, exec .writebackCopyDone s = .next t ∧ t.mem = s.mem ∧ t.dies = s.dies ∧
        Tab.find? t.pages (pageNo s.cur s.arg) = some { p with wb := 3, again := false } ∧
        Tab.find? t.staging (pageNo s.cur s.arg) = some (s.rdBytes Rdr.home (globKey s.cur (pageBase (pageNo s.cur s.arg))) (pageBytes p.psz))))) ∧
    (∀ part page p img, Tab.find? s.pages (pageNo part page) = some p → p.wb = 3 → Tab.find? s.staging (pageNo part page) = some img →
      (∃ t, exec (.writebackFlashDone part page true) s = .next t ∧ t.mem = s.mem ∧ t.dies = s.dies ∧
        (p.again = false → Tab.find? t.pages (pageNo part page) = some { p with wb := 0 }) ∧
        (p.again = true → ∃ q, Tab.find? t.pages (pageNo part page) = some q ∧ q.wb = 1) ∧
        ∀ i < img.length, Tab.find? t.flash (flashKey p.nsid p.flba i) = some (img.getD i 0)) ∧
      (∃ t q k, exec (.writebackFlashDone part page false) s = .next t ∧ t.mem = s.mem ∧ t.flash = s.flash ∧
        Tab.find? t.pages (pageNo part page) = some q ∧ q.wb = 1 ∧ (t.die p.home).pkts = (s.die p.home).pkts ++ [k] ∧ k.type = 1 ∧
        k.cause = 0x10))

/-! ## Start-up, partitions, ports and control blocks (spec/26) -/

namespace Sys2Proof.Claims

/-- The root capabilities of a supervisor core at its start (R351): c1 GLOB, c2 CODE, c3 LS, c4 CLU and c5 the key. -/
def Roots (m : Master) : Prop :=
  (∀ i, 1 ≤ i.toNat ∧ i.toNat ≤ 5 → (m.rc i).tag = true ∧ (m.rc i).sealT = 0 ∧ (m.rc i).base = 0) ∧
  ((m.rc 1).space = 3 ∧ (m.rc 1).top = 2 ^ 64 ∧ (m.rc 1).perms = 0x3FF) ∧ ((m.rc 2).space = 4 ∧ (m.rc 2).top = 2 ^ 64 ∧ (m.rc 2).perms = 5) ∧
  ((m.rc 3).space = 1 ∧ (m.rc 3).top = 0x800000 ∧ (m.rc 3).perms = 0x19B) ∧ ((m.rc 4).space = 2 ∧ (m.rc 4).top = 0x800000 ∧ (m.rc 4).perms = 0x19B) ∧
  ((m.rc 5).space = 0 ∧ (m.rc 5).top = 16 ∧ (m.rc 5).perms = 0x60)

/-- A die has joined: its four supervisor cores are READY with the roots, every other register 0. -/
def Joined (t : State) (die part : Nat) : Prop :=
  (t.die die).joined = true ∧ (t.die die).part = part ∧ (t.die die).full = false ∧
  ∀ n < 4, let m := t.ms (131072 + 4 * die + n)
    m.kind = .svc ∧ m.st = .ready ∧ m.pc = Config.svcEntry ∧ Roots m ∧ ∀ i, m.rs i = 0

/-- The master that window `idx` of a die shows: index 16 * (16 * cluster + core) + slot, or 4,096 + n for supervisor core n (R438). -/
def shownBy (die idx : Nat) : Nat := if idx < 4096 then 4096 * die + idx else 131072 + 4 * die + (idx - 4096)

/-- What the doubleword at offset `off` of a frozen master's window shows (R438): the s, c, m and q registers, PC, o, WAIT, ORPHV, WLIM,
RLIM, ERRST, PROOF, QST, the v registers and ZSEL. -/
def WindowShows (m : Master) (off : Nat) (w : Nat) : Prop :=
  (∀ i < 64, off = 8 * i → w = (m.rs (BitVec.ofNat 6 i)).toNat) ∧
  (∀ i < 16, ∀ h < 2, off = 0x200 + 16 * i + 8 * h → w = (m.rc (BitVec.ofNat 4 i)).bits.toNat / 2 ^ (64 * h) % 2 ^ 64) ∧
  (∀ i < 8, ∀ h < 2, off = 0x300 + 16 * i + 8 * h → w = (m.rm (BitVec.ofNat 3 i)).toNat / 2 ^ (64 * h) % 2 ^ 64) ∧
  (∀ i < 4, off = 0x380 + 8 * i → w = (m.rq (BitVec.ofNat 2 i)).toNat) ∧
  (off = 0x3A0 → w = m.pc.toNat) ∧ (off = 0x3A8 → w = m.o.toNat) ∧ (off = 0x3B8 → w = m.wait % 2 ^ 64) ∧ (off = 0x3C0 → w = m.orphv.toNat) ∧
  (off = 0x3C8 → w = m.wlim.toNat) ∧ (off = 0x3D0 → w = m.rlim.toNat) ∧ (off = 0x3D8 → w = m.errst.toNat) ∧
  (off = 0x3E0 → w = m.proof % 2 ^ 64) ∧ (off = 0x3E8 → w = m.engst.toNat) ∧
  (∀ i < 32, ∀ j < 16, off = 0x400 + 128 * i + 8 * j → w = (m.rv (BitVec.ofNat 5 i)).toNat / 2 ^ (64 * j) % 2 ^ 64) ∧
  (off = 0x1400 → w = m.zsel % 2 ^ 64)

/-- Bytes arriving from outside are written, data and tags, and no other data byte changes. -/
def Arrived (s t : State) (key : Nat) (bs : List Byte) : Prop :=
  (∀ i < bs.length, Tab.get 0 t.mem (key + i) = bs.getD i 0 ∧ Tab.get 0 t.mem (tagKey (key + i)) = 0) ∧
  ∀ k < 2 ^ 72, (k < key ∨ key + bs.length ≤ k) → Tab.get 0 t.mem k = Tab.get 0 s.mem k

end Sys2Proof.Claims

/-- R351, R400, R403, R451 to R454: power-on starts the root of trust of die 0, or of die 31 when die 0 fails at step 1 or 3, and its
die; with both failing, or the fuses unread at step 2, the module stays dark and the code of the failed step is reported. The next die
joins, with its supervisor cores at their roots, or is left out and logged; once every die has been brought up or left out, a
trained stack brings its die to full service, and one that fails is logged. Power loss keeps the fuses, the storage port's bytes and the plates, whose counters
resume at the last durable checkpoint and the reserve with their carries raised.
(The model's readings there: notes/assumptions/6, 63. That every s register of a supervisor core is 0 at its start, where R351 gives c1 to
c5 alone, and that all of memory reads 0 after a power loss are the model's choices: DESIGN CHOICE, 5 and 4.) -/
def Obligations.StartAndPowerLoss : Prop :=
  ∀ s : State,
    (s.rot.on = false → s.dies = [] → Config.bootFails 0 % 4 = 0 → ∃ t, exec .powerOn s = .next t ∧ t.rot.on = true ∧ t.rot.die = 0 ∧
      s.rot.objFuse ≤ t.rot.objFuse ∧ s.rot.floor ≤ t.rot.floor ∧ Joined t 0 (Config.partOfDie 0 % 8)) ∧
    (s.rot.on = false → s.dies = [] → (Config.bootFails 0 % 4 = 1 ∨ Config.bootFails 0 % 4 = 3) → Config.bootFails 31 % 4 = 0 → ∃ t, exec .powerOn s = .next t ∧
      t.rot.on = true ∧ t.rot.die = 31 ∧ (t.die 0).failed = true ∧ t.rot.log = (0, Config.bootFails 0 % 4) :: s.rot.log ∧ Joined t 31 (Config.partOfDie 31 % 8)) ∧
    (∀ step, s.rot.on = false → (Config.bootFails 0 % 4 = 2 ∧ step = 2 ∨
        (Config.bootFails 0 % 4 = 1 ∨ Config.bootFails 0 % 4 = 3) ∧ Config.bootFails 31 % 4 = step ∧ step ≠ 0) →
      ∃ t, exec .powerOn s = .next t ∧ t.rot.on = false ∧ t.masters = s.masters ∧ t.mem = s.mem ∧
        t.rot.answers = (0, leBytes 4 (Config.bootCode step)) :: s.rot.answers) ∧
    (∀ die, s.rot.on = true → die < 32 → (s.die die).joined = false → (s.die die).failed = false → (s.die die).full = false →
      (∀ d < die, (s.die d).joined = true ∨ (s.die d).failed = true) →
      (∃ t, exec (.dieBringup die true) s = .next t ∧ Joined t die (s.rot.layout.getD die 0) ∧ ∀ d, d ≠ die → t.die d = s.die d) ∧
      (∃ t, exec (.dieBringup die false) s = .next t ∧ t.mem = s.mem ∧ t.masters = s.masters ∧ (t.die die).failed = true ∧
        (t.die die).joined = false ∧ t.rot.log = (die, 4) :: s.rot.log ∧ ∀ d, d ≠ die → t.die d = s.die d)) ∧
    (∀ die ok, (s.die die).joined = false → exec (.hbmTrainingComplete die ok) s = .next s) ∧
    (∀ die ok, (∃ d < 32, (s.die d).joined = false ∧ (s.die d).failed = false) → exec (.hbmTrainingComplete die ok) s = .next s) ∧
    (∀ die, (s.die die).joined = true → (∀ d < 32, (s.die d).joined = true ∨ (s.die d).failed = true) →
      exec (.hbmTrainingComplete die true) s = .next (s.setDie die { s.die die with full := true }) ∧
      ((s.die die).full = false → (die, 6) ∉ s.rot.log →
        exec (.hbmTrainingComplete die false) s = .next { s with rot := { s.rot with log := (die, 6) :: s.rot.log } })) ∧
    (∃ t, exec .powerLoss s = .next t ∧ t.mem = [] ∧ t.masters = [] ∧ t.launches = [] ∧ t.dies = [] ∧ t.parts = [] ∧ t.rot.on = false ∧
      t.rot.objFuse = s.rot.objFuse ∧ t.rot.floor = s.rot.floor ∧ t.rot.seq = s.rot.seq ∧ t.flash = s.flash ∧
      t.rot.region = s.rot.region ∧ t.rot.rpmb = s.rot.rpmb ∧
      ∀ id p, Tab.find? s.plates id = some p → ∃ p', Tab.find? t.plates id = some p' ∧ p'.st = p.st ∧ p'.gen = p.gen ∧ p'.base = p.base ∧
        p'.top = p.top ∧ ∀ i x, Tab.find? p.slots i = some x → ∃ y, Tab.find? p'.slots i = some y ∧ y.hash = x.hash ∧
          y.struck = min (x.ckS + 2 ^ 20) (2 ^ 64 - 1) ∧ y.spoiled = min (x.ckP + 2 ^ 20) (2 ^ 64 - 1) ∧
          y.carryS = min (x.carryS + 1) 65535 ∧ y.carryP = min (x.carryP + 1) 65535)

/-- R345, R402, R450: a new layout is taken only when every partition it touches is idle, and each joined die is then in its new
partition. A session opens for an authenticated client alone; a measurement is answered with its nonce
and two signatures over the hash of the transcript, which is the request and the answer's content; a closed session is gone.
(The model's readings there: notes/assumptions/58, 62.) -/
def Obligations.PartitionsAndSessions : Prop :=
  ∀ s : State, s.rot.on = true →
    (∀ parts : List Nat, parts.length = 32 → (∀ p ∈ parts, p < 8) → s.dies.Pairwise (fun a b => a.1 < b.1) →
      ((∀ p < 8, s.partIdle p = true) → (∀ e ∈ s.dies, e.2.part < 8) → ∃ t, exec (.partitionChange parts) s = .next t ∧
        t.rot.layout = parts ∧ ∀ e ∈ s.dies, e.2.joined = true → e.2.failed = false → (t.die e.1).joined = true ∧ (t.die e.1).part = parts.getD e.1 0) ∧
      (∀ e ∈ s.dies, e.2.joined = true → e.2.failed = false → e.2.part ≠ parts.getD e.1 0 → s.partIdle e.2.part = false →
        exec (.partitionChange parts) s = .next s)) ∧
    (∀ client part, Config.clientOk client = true → part < 8 → ∃ t, exec (.spdmRequest (.openSession client part)) s = .next t ∧
      t.mem = s.mem ∧ (client, part) ∈ t.rot.sessions ∧ ∀ e ∈ t.rot.sessions, e.1 = client → e.2 = part) ∧
    (∀ client part, Config.clientOk client = false → exec (.spdmRequest (.openSession client part)) s = .next s) ∧
    (∀ (client : Nat) (nonce : BitVec 256),
      let fuses := leBytes 2 s.rot.objFuse ++ leBytes 2 s.rot.floor
      let hash := leBytes 48 (Config.sha384 (leBytes 1 3 ++ leBytes 32 nonce.toNat ++ fuses)).toNat
      exec (.spdmRequest (.measure client 3 nonce)) s = .next { s with rot := { s.rot with
        answers := (3, fuses ++ leBytes 32 nonce.toNat ++ rsaSig hash ++ slhSig hash) :: s.rot.answers } }) ∧
    (∀ client, ∃ t, exec (.spdmRequest (.close client)) s = .next t ∧ t.mem = s.mem ∧ ∀ e ∈ t.rot.sessions, e.1 ≠ client)

/-- R7, R179, R438, R439, R455, R457 to R459: a window, where the root of trust has mapped it, shows a frozen master's registers and of any other its STATE alone, and a
write there of one that runs is ignored; SHARE is clamped to 10 to 90, through a control page of the partition's own map; the host and
other modules write exported IMM memory over a trained port, and the host the record rings of its queues; every kind of port trains at
the generations it has; the power cap is clamped; clock settings wait for the edge; above the cap the supervisors
lower clocks, and with all at their lowest they hold new placements.
(The model's readings there: notes/assumptions/12, 64, 65, 96.) -/
def Obligations.WindowsPortsAndPower : Prop :=
  ∀ s : State,
    (∀ (r : Rdr) (part die idx off : Nat), part < 8 → die < 32 → idx < 4100 → off < 16384 → off % 8 = 0 →
      let m := s.ms (shownBy die idx)
      let key := globKey part (0xFFFFE00000000000 + die * 2 ^ 27 + 16384 * idx + off)
      let w := leNat (s.loadBytes r key 8)
      s.isCtl key = true →
      (m.kind ≠ .empty → m.st = .frozen → WindowShows m off w) ∧
      (off = 0x3B0 → w = if m.kind = .empty then 4 else if m.st = .ready then 0 else if m.st = .parked then 1 else 2) ∧
      (off ≠ 0x3B0 → (m.kind = .empty ∨ m.st ≠ .frozen) → w = 0)) ∧
    (∀ (die idx i : Nat) (va v : W64), die < 32 → idx < 4100 → i < 64 → va.toNat = 0xFFFFE00000000000 + die * 2 ^ 27 + 16384 * idx + 8 * i →
      let pos := shownBy die idx
      ((s.ms pos).kind ≠ .empty → (s.ms pos).st = .frozen →
        ∃ t, exec (.windowWrite die va v) s = .next t ∧ t.mem = s.mem ∧ (t.ms pos).pc = (s.ms pos).pc ∧
          (∀ j, (t.ms pos).rs j = if j.toNat = i ∧ i ≠ 0 then v else (s.ms pos).rs j) ∧ ∀ p, p ≠ pos → t.ms p = s.ms p) ∧
      ((s.ms pos).st ≠ .frozen → exec (.windowWrite die va v) s = .next s)) ∧
    (∀ (part die : Nat) (va v : W64), die < 32 → va.toNat = 0xFFFFF00000000000 + 0x200000 * die + 0x100 →
      (s.ctlRange part va.toNat 8 = true →
        exec (.registerWrite part va v) s = .next (s.setDie die { s.die die with share := max 10 (min 90 (v.toNat % 128)) })) ∧
      (s.ctlRange part va.toNat 8 = false → exec (.registerWrite part va v) s = .next s)) ∧
    (∀ (die : Nat) (v : W32), die < 32 →
      exec (.abucfgWrite die v) s = .next (s.setDie die { s.die die with share := max 10 (min 90 (v.toNat % 128)) })) ∧
    (∀ (part : Nat) (va : W64) (bs : List Byte), part < 8 → va.toNat < 0xFFFFF00000000000 → bs ≠ [] → s.immRange part va.toNat bs.length = true →
      let ring := ∃ (q : Nat) (x : SubQ), Tab.find? (s.part part).sq q = some x ∧ x.log2cap ≠ 0 ∧ x.ring.toNat ≤ va.toNat ∧
        va.toNat + bs.length ≤ x.ring.toNat + 128 * 2 ^ x.log2cap
      (s.ports.host ≠ 0 → (s.exported part va.toNat bs.length true = true ∨ ring) → ∃ t, exec (.hostMemoryWrite part va bs) s = .next t ∧ Arrived s t (globKey part va.toNat) bs) ∧
      (s.exported part va.toNat bs.length true = false → (∀ e ∈ (s.part part).sq, e.2.log2cap = 0) →
        exec (.hostMemoryWrite part va bs) s = .next s) ∧
      (s.ports.host = 0 → s.ports.cxl = 0 → exec (.hostMemoryWrite part va bs) s = .next s) ∧
      (s.exported part va.toNat bs.length true = true → s.ports.scale.any (fun x => x.2 != 0) = true →
        ∃ t, exec (.podAccess part va true bs) s = .next t ∧ Arrived s t (globKey part va.toNat) bs) ∧
      (s.exported part va.toNat bs.length true = false → exec (.podAccess part va true bs) s = .next s) ∧
      exec (.podAccess part va false bs) s = .next s) ∧
    (∀ gen, (5 ≤ gen ∧ gen ≤ 7) → exec (.portTraining .host gen) s = .next { s with ports := { s.ports with host := gen } }) ∧
    (∀ gen, (gen = 2 ∨ gen = 3) → exec (.portTraining .cxl gen) s = .next { s with ports := { s.ports with cxl := gen } }) ∧
    (∀ gen, (gen = 1 ∨ 4 ≤ gen) → exec (.portTraining .cxl gen) s = .next s) ∧
    (∀ n gen, (gen = 2 ∨ gen = 3) →
      exec (.portTraining (.scaleUp n) gen) s = .next { s with ports := { s.ports with scale := Tab.set 0 s.ports.scale n gen } }) ∧
    (∀ n gen, (gen = 1 ∨ 4 ≤ gen) → exec (.portTraining (.scaleUp n) gen) s = .next s) ∧
    (∀ gen, gen ≤ 6 → exec (.portTraining .storage gen) s = .next { s with ports := { s.ports with storage := gen } }) ∧
    (∀ gen, 7 ≤ gen → exec (.portTraining .storage gen) s = .next s) ∧
    (∃ t, exec .powerCapSet s = .next t ∧ t.mem = s.mem ∧ t.masters = s.masters ∧ t.power.capNew = some (max 3000 (min 12000 s.cur))) ∧
    (∀ die k, (s.die die).joined = true →
      (k ≤ 20 → exec (.islandClockSet die k) s = .next (s.setDie die { s.die die with clkNew := some k })) ∧
      (20 < k → exec (.islandClockSet die k) s = .next s)) ∧
    (s.cur ≤ s.power.cap → ∃ t, exec .powerWindow s = .next t ∧ t.power.hold = false ∧ t.dies = s.dies) ∧
    (s.power.cap < s.cur → (∀ e ∈ s.dies, e.2.joined = false ∨ e.2.clk = 0 ∨ (s.part e.2.part).full = false) →
      ∃ t, exec .powerWindow s = .next t ∧ t.power.hold = true ∧ t.dies = s.dies) ∧
    (s.power.cap < s.cur → s.dies.Pairwise (fun a b => a.1 < b.1) → (∃ e ∈ s.dies, e.2.joined = true ∧ e.2.clk ≠ 0 ∧ (s.part e.2.part).full = true) →
      ∃ t, exec .powerWindow s = .next t ∧ t.power.hold = s.power.hold ∧ t.mem = s.mem ∧
        ∀ e ∈ s.dies, e.2.joined = true → e.2.clk ≠ 0 → (s.part e.2.part).full = true → ∃ k < e.2.clk, t.die e.1 = { e.2 with clkNew := some k })

/-! ## Faults and their rings (spec/25, spec/03, spec/19) -/

namespace Sys2Proof.Claims

/-- The master at `cur` has frozen with a fault (R29, R32, R433, R434): its registers, PC, memory and every other master stay,
and one packet, which waits for its posted results, is queued at its die. -/
def Froze (s t : State) (p : Packet) : Prop :=
  t.mem = s.mem ∧ t.me = atFault s s.me.pc ∧ (∀ q, q ≠ s.cur → t.ms q = s.ms q) ∧
  p ∈ (t.die (dieOf s.cur)).pkts ∧ p.pos = some s.cur ∧ p.type = 0 ∧ p.eng = 0 ∧ p.round = round s ∧ p.die = dieOf s.cur ∧
  p.svc = isSvcPos s.cur

/-- The launch slot's launch, as a fault that dooms leaves it (R418). -/
def doomed (l : Launch) : Launch := if l.st = .running then { l with st := .doomed } else l

end Sys2Proof.Claims

/-- R32, R78, R356, R432 to R436, R455: an illegal word freezes its master with ILLEGAL, the word and the step; a failing fetch
with its cause, the packet naming the fetched address; LEASE, UE and SVN doom a task's launch. A die's ring takes its first ready
packet: 64 bytes with the next SEQ at PUTS, which then rises by 1; the packets of a report that it has begun go before others
(R437). A single-bit error is counted; another poisons its block.
(The model's readings there: notes/assumptions/51, 52, 74.) -/
def Obligations.FaultEntryAndRing : Prop :=
  (∀ (s : State) (w : W32) (stage : Nat), s.me.kind ≠ .empty →
    ∃ t p, exec (.unassignedOpcode w stage) s = .next t ∧ Froze s t p ∧ p.cause = 0x01 ∧ p.pc = s.me.pc ∧
      p.d0 = BitVec.ofNat 64 w.toNat ∧ p.d1 = BitVec.ofNat 64 stage ∧ t.launches = s.launches ∧
      (t.die (dieOf s.cur)).pkts = (s.die (dieOf s.cur)).pkts ++ [p]) ∧
  (∀ (s : State) (cause : Nat) (va : W64), s.me.kind ≠ .empty → (cause = 0x05 ∨ cause = 0x07 ∨ cause = 0x0B ∨ cause = 0x0F) →
    ∃ t p, exec (.fetchFault cause va) s = .next t ∧ Froze s t p ∧ p.cause = cause ∧ p.pc = va ∧ p.d0.toNat % 16 = 1 ∧
      t.launch? s.me.lslot = if cause = 0x07 ∨ isSvcPos s.cur = true then s.launch? s.me.lslot else (s.launch? s.me.lslot).map doomed) ∧
  (∀ (s : State) (p : Packet) (rest : List Packet),
    let d := s.die s.cur
    let base := globKey d.part (0xFFFFF00000000000 + 0x200000 * s.cur + 0x10000)
    let puts := s.memNat base 4
    let gets := s.memNat (base + 4) 4
    s.cur < 32 → d.part < 8 → d.pkts = p :: rest → s.packetReady p = true → (p.cont = true ∨ ∀ y ∈ rest, y.cont = false) → (puts + 2 ^ 32 - gets) % 2 ^ 32 < 4096 → p.cause < 256 →
    p.die < 32 → p.clu < 16 → p.core < 16 → p.slot < 16 → p.type < 8 → p.eng < 8 →
    ∃ (t : State) (b : List Byte), exec .faultPacketWrite s = .next t ∧ (t.die s.cur).pkts = rest ∧ (t.die s.cur).seq = (d.seq + 1) % 2 ^ 32 ∧ b.length = 64 ∧
      (∀ i < 64, Tab.get 0 t.mem (base + 64 + 64 * (puts % 4096) + i) = b.getD i 0) ∧
      (∀ i < 4, Tab.get 0 t.mem (base + i) = (leBytes 4 ((puts + 1) % 2 ^ 32)).getD i 0) ∧
      leNat (b.take 4) = d.seq % 2 ^ 32 ∧ b.getD 7 0 = BitVec.ofNat 8 p.cause ∧ (b.drop 48).take 8 = leBytes 8 p.pc.toNat ∧
      (b.drop 16).take 32 = leBytes 8 p.d0.toNat ++ leBytes 8 p.d1.toNat ++ leBytes 8 p.d2.toNat ++ leBytes 8 p.d3.toNat) ∧
  (∀ (s : State) (a : List Packet) (y : Packet) (b : List Packet),
    let d := s.die s.cur
    let base := globKey d.part (0xFFFFF00000000000 + 0x200000 * s.cur + 0x10000)
    d.pkts = a ++ y :: b → y.cont = true → (∀ x ∈ a, x.cont = false ∧ x.type ≠ 2) →
    (s.memNat base 4 + 2 ^ 32 - s.memNat (base + 4) 4) % 2 ^ 32 < 4096 →
    ∃ t, exec .faultPacketWrite s = .next t ∧ (t.die s.cur).pkts = a ++ b) ∧
  (∀ (s : State) (k : Nat),
    (∃ t, exec (.uncorrectableError (.block k) false) s = .next t ∧ Tab.get 0 t.mem (poisonKey k) = 1 ∧ t.masters = s.masters ∧
      ∀ j, j ≠ poisonKey k → Tab.get 0 t.mem j = Tab.get 0 s.mem j) ∧
    (isLs k = true → ∃ t, exec (.uncorrectableError (.block k) true) s = .next t ∧ t.mem = s.mem ∧
      (t.die (coreOfLsKey k / 256)).eSram = min ((s.die (coreOfLsKey k / 256)).eSram + 1) (2 ^ 64 - 1)) ∧
    (∀ core tile, ∃ t, exec (.uncorrectableError (.tile core tile) false) s = .next t ∧ t.mem = s.mem ∧ core * 16 + tile ∈ t.zbad))

/-! ## Reset, decoding and the step (spec/00, spec/01, spec/03, spec/14) -/

/-- R19, R22 to R27, R179, R199, R307, R341: right after reset every register of every master reads 0 with WLIM 0x00100000 and
RLIM 16, no tag is set, every bank is in cache mode and empty, every barrier tag is free with GEN 0, SHARE is 75, the detector is
off with period 4 and stall limit 64; memory has its canonical form. (What an unlisted byte reads as is notes/assumptions/4.)
(The model's readings there: notes/assumptions/4, 5, 7.) -/
def Obligations.ResetState : Prop :=
  let s := State.reset
  Mem.wf s.mem = true ∧ (∀ k, Tab.get 0 s.mem k = 0) ∧
  (∀ pos, let m := s.ms pos
    m.kind = .empty ∧ (∀ i, m.rs i = 0) ∧ (∀ i, m.rv i = 0) ∧ (∀ i, m.rc i = Cap.null) ∧ (∀ i, m.rq i = 0) ∧
    (∀ i, i ≠ 0 → m.rm i = 0) ∧ m.rm 0 = BitVec.allOnes 128 ∧ m.o = 0 ∧ m.wlim = 0x00100000 ∧ m.rlim = 16 ∧ m.tbmask = 0 ∧ m.errst = 0) ∧
  (∀ b, s.bank b = { mode := 0, sw := [], fill := 0, held := 0, free := 0, wpos := 0, rpos := 0, lines := [] }) ∧
  (∀ g, (s.bar g).owner = none ∧ (s.bar g).gen = 0) ∧ (∀ d, (s.die d).share = 75) ∧
  (∀ p, (s.part p).dlEn = false ∧ (s.part p).dlPer = 4 ∧ (s.part p).dlStall = 64) ∧ (∀ i, s.launch? i = none) ∧ (∀ i, s.proof? i = none)

/-- R59, R78, R79, R272, R273: a step in which nothing is placed ahead and the master at `p` is the one that issues: if every word
of the instruction at its PC can be fetched, its first word is in the map with its master permitted, and the words decode to
`i`, the step executes `i` as that master, in the same cycle and with the issue's bookkeeping. A word outside the map, or a
failing fetch, is executed as the fault it is. A step first takes what is placed on the agenda; an event that the machine
chooses is executed as its unit; with nothing to do a cycle passes, at whose end the waits
that have passed WLIM expire (notes/assumptions/107). Before it chooses, the machine settles what follows from
the last step (`ready`), which changes no memory, no register and no PC.
(The model's readings there: notes/assumptions/2, 74, 107.) -/
def Obligations.StepRunsDecodedInstruction : Prop :=
  ∀ s : State,
    let r := s.ready
    (∀ p : Nat, r.agenda = [] → r.move = some (.inr p) →
      let pc := (r.ms p).pc
      let w := r.fetchWord p r.cyc pc
      let fw := FW.ofWord w
      let t := (r.issueMark p).enter p 0
      (∀ c, r.fetchCause p pc = some c → step s = exec (.fetchFault c pc) t) ∧
      (r.fetchCause p pc = none → entryOf fw = none → step s = exec (.unassignedOpcode w 2) t) ∧
      (∀ e i rest, r.fetchCause p pc = none → entryOf fw = some e → e.pre fw = true →
        ({ r.ms p with hcount := (r.ms p).hcount + 1 } : Master).mayIssue (if isHret fw then .handler else entryGrp e) fw.nr = true →
        r.fetchWords p (pc + 4) (2 * fw.len.toNat) = none → decode (r.codeWords p pc fw.words) = .ok i rest → step s = exec i t) ∧
      t.cur = p ∧ t.mem = s.mem ∧ t.cyc = s.cyc ∧ (t.ms p).pc = (s.ms p).pc ∧ SameFiles (t.ms p) (s.ms p)) ∧
    (∀ (a : Act) (rest : List Act), r.agenda = a :: rest →
      step s = exec a.i { r with agenda := rest, cur := a.cur, arg := a.arg, turn := r.turn + 1 }) ∧
    (∀ a : Act, r.agenda = [] → r.move = some (.inl a) → step s = exec a.i { r with cur := a.cur, arg := a.arg, turn := r.turn + 1 }) ∧
    (r.agenda = [] → r.move = none →
      step s = .next { r with cyc := r.cyc + 1, turn := r.turn + 1, agenda := r.expiries ++ r.timers (r.cyc + 1) }) ∧
    r.mem = s.mem ∧ r.vers = s.vers ∧ r.agenda = s.agenda ∧ r.cyc = s.cyc ∧
    ∀ p, SameFiles (r.ms p) (s.ms p) ∧ (r.ms p).pc = (s.ms p).pc ∧ (r.ms p).o = (s.ms p).o

/-- R60 to R78: words written out from the encoding tables decode to the instructions they stand for, and words outside the map
are illegal. -/
def Obligations.WordsDecode : Prop :=
  decode [0x05103020] = .ok (.add { p := false, sd := 3, sa := 4, b := .reg 5 }) [] ∧
  decode [0xFD104100] = .ok (.addi { p := false, sd := 4, sa := 4, imm := 0xFD }) [] ∧
  decode [0x80042700] = .ok (.ldW { h := { p := false, nr := 0, ext := false, tgt := 0 }, sr := 2, ord := 0, scope := 0
                                    mem := { cap := 1, scale := 0, idx := 0, disp := 0 } }) [] ∧
  decode [0x090C7A80] = .ok (.csetb { p := false, cd := 7, cs := 3, sl := 9 }) [] ∧
  decode [0x44146A80] = .ok (.cadd { p := false, cd := 6, cs := 5, b := .reg 4 }) [] ∧
  decode [0x00204200] = .ok (.mfs { h := { p := false, ext := false }, sr := 4, num := 8 }) [] ∧
  decode [0x00005B20] = .ok (.prnew { h := { p := false, nr := 0, ext := false, tgt := 0 }, ra := 5, rb := 0 }) [] ∧
  decode [0xC0006B31, 0xFFFFD000, 0] =
    .ok (.prcan { h := { p := false, nr := 2, ext := true, tgt := 0xFFFFD }, sr := 6 }) [] ∧
  decode [0x801C6AE0] = .ok (.xinv { h := { p := false, nr := 0, ext := false, tgt := 0 }, ra := 6, rb := 7 }) [] ∧
  decode [0x47185B84] = .ok (.resume { h := { p := true, nr := 0, ext := false, tgt := 0 }, sd := 5, sa := 6, sb := 7 }) [] ∧
  decode [0x00000003] = .illegal 2 ∧ decode [0x05103021] = .illegal 2

/-- R60 to R78: whatever follows it, the encoding of each instruction named here, of those of spec/05 (two-source, division and one-source
arithmetic, SEL, SXT and ZXT, BFX and BFI, ADDI, LI, the branches, BZ and BNZ, BR and CALL, CALLI and JMPI, RET, NOP, TRAP and BKPT, MFS,
MTS and RDCYC) decodes to that instruction, with every operand at every value that the encoding admits: of MFS and MTS every
number that is assigned, the others being ILLEGAL at step 6 (R21, R117). -/
def Obligations.ScalarEncodingRoundTrip : Prop :=
  ∀ (rest : List W32),
    (∀ (k : Alu → Instr) (x : Alu), k ∈ twoSource.map Prod.fst ++ divisions.map Prod.fst → decode (encode (k x) ++ rest) = .ok (k x) rest) ∧
    (∀ (k : Alu1 → Instr) (x : Alu1), k ∈ oneSource.map Prod.fst → decode (encode (k x) ++ rest) = .ok (k x) rest) ∧
    (∀ (k : Bcc → Instr) (x : Bcc), k ∈ ([.beq, .bne, .blt, .bge, .bltu, .bgeu] : List (Bcc → Instr)) →
      decode (encode (k x) ++ rest) = .ok (k x) rest) ∧
    (∀ x : Sel, decode (encode (.sel x) ++ rest) = .ok (.sel x) rest) ∧ (∀ x : Xt, decode (encode (.sxt x) ++ rest) = .ok (.sxt x) rest) ∧
    (∀ x : Bf, decode (encode (.bfx x) ++ rest) = .ok (.bfx x) rest) ∧ (∀ x : Bf, decode (encode (.bfi x) ++ rest) = .ok (.bfi x) rest) ∧
    (∀ x : Addi, decode (encode (.addi x) ++ rest) = .ok (.addi x) rest) ∧ (∀ x : Li, decode (encode (.li x) ++ rest) = .ok (.li x) rest) ∧
    (∀ x : Br, decode (encode (.br x) ++ rest) = .ok (.br x) rest ∧ decode (encode (.call x) ++ rest) = .ok (.call x) rest) ∧
    (∀ x : Bz, decode (encode (.bz x) ++ rest) = .ok (.bz x) rest ∧ decode (encode (.bnz x) ++ rest) = .ok (.bnz x) rest) ∧
    (∀ x : Jmpi, decode (encode (.calli x) ++ rest) = .ok (.calli x) rest ∧ decode (encode (.jmpi x) ++ rest) = .ok (.jmpi x) rest) ∧
    (∀ x : S1, decode (encode (.ret x) ++ rest) = .ok (.ret x) rest) ∧ (∀ x : Pl, decode (encode (.nop x) ++ rest) = .ok (.nop x) rest) ∧
    (∀ x : Trap, decode (encode (.trap x) ++ rest) = .ok (.trap x) rest ∧ decode (encode (.bkpt x) ++ rest) = .ok (.bkpt x) rest) ∧
    (∀ x : Rdcyc, decode (encode (.rdcyc x) ++ rest) = .ok (.rdcyc x) rest) ∧
    (∀ x : Mfs, x.num.toNat ≤ 0x14 →
      decode (encode (.mfs x) ++ rest) = .ok (.mfs x) rest ∧ decode (encode (.mts x) ++ rest) = .ok (.mts x) rest) ∧
    (∀ x : Mfs, 0x14 < x.num.toNat → decode (encode (.mfs x) ++ rest) = .illegal 6 ∧ decode (encode (.mts x) ++ rest) = .illegal 6)

/-- R60 to R78: whatever follows it, the encoding of every well-formed instruction of the map decodes to that instruction. (An
event has no encoding.) -/
def Obligations.EveryEncodingRoundTrip : Prop :=
  ∀ (i : Instr) (rest : List W32), encode i ≠ [] → i.wf = true → decode (encode i ++ rest) = .ok i rest

namespace Sys2Proof.Claims

/-- BR, CALL, BZ, BNZ, BEQ, BNE, BLT, BGE, BLTU, BGEU, RET and NOP complete wherever their master may issue (R77, R113, R114,
R116): each answers the state with the PC at the target or the next instruction, and CALL the return address in s63. -/
def BranchesComplete : Prop :=
  ∀ s : State, Issues s →
    (∀ x : Br, exec (.br x) s = .next (stepped s x.p (target s x.off) s.me)) ∧
    (∀ x : Br, exec (.call x) s = .next (stepped s x.p (target s x.off) (s.me.ws 63 (nextPc s (Machine.Off.words x.off))))) ∧
    (∀ x : Bz, exec (.bz x) s = .next (stepped s x.p
      (if s.me.rs x.sa = 0 then target s x.off else nextPc s (Machine.Off.words x.off)) s.me)) ∧
    (∀ x : Bz, exec (.bnz x) s = .next (stepped s x.p
      (if s.me.rs x.sa ≠ 0 then target s x.off else nextPc s (Machine.Off.words x.off)) s.me)) ∧
    (∀ x : Bcc,
      let a := s.me.rs x.sa
      let b := s.me.rs x.sb
      let goes := fun (c : Bool) => stepped s x.p (if c then target s x.off else nextPc s (Machine.Off.words x.off)) s.me
      exec (.beq x) s = .next (goes (a = b)) ∧ exec (.bne x) s = .next (goes (a ≠ b)) ∧
      exec (.blt x) s = .next (goes (a.toInt < b.toInt)) ∧ exec (.bge x) s = .next (goes (b.toInt ≤ a.toInt)) ∧
      exec (.bltu x) s = .next (goes (a.toNat < b.toNat)) ∧ exec (.bgeu x) s = .next (goes (b.toNat ≤ a.toNat))) ∧
    (∀ x : S1, exec (.ret x) s = .next (stepped s x.h.p (s.me.rs x.sr &&& ~~~3) s.me)) ∧
    (∀ x : Pl, exec (.nop x) s = .next (stepped s x.p (nextPc s (Pl.words x)) s.me))

/-- The attention and copy engines' events complete: ATQ_EXECUTE, ABU_REQUEST_ACCEPT, ABU_SLICE_SCAN, ABU_RECORD_LAND, ATM_EXECUTE,
KVAPP_EXECUTE, KVAPP_PUBLISH, KVDESC_EXECUTE, KILLED_KVAPP_COMPLETE and CPE_CHUNK (R177, R179, R182, R184 to R186, R188 to R191,
R224). -/
def EngineEventsComplete : Prop :=
  ∀ s : State,
    (∀ (j : Job) (cR cD cQ : Cap) (ea : W64), AtHead s 3 j → j.k = .atq cR cD cQ ea →
      let d := s.readDesc (s.jobRdr s.cur j) ((physKey s s.cur cD.space cD.cursor.toNat).getD 0)
      s.postFlt s.cur j cR cQ ea d = none →
      ∃ t new, exec .atqExecute s = .next t ∧ t.me.att = popped s s.me.att ∧ t.scans = s.scans ++ new ∧
        new.map (·.slice) = List.range d.np) ∧
    (∀ x : Scan, s.scans.find? (fun y => y.id = s.cur) = some x → x.acc = false →
      (∀ y ∈ s.scans, y.acc = false → y.abu = x.abu → dieOf y.pos = dieOf x.pos → x.id ≤ y.id) →
      (s.scans.filter fun y => y.acc && y.abu = x.abu && y.img.isNone).length < 64 →
      exec .abuRequestAccept s = .next { s with scans := (s.scans.filter fun y => y.id != x.id) ++ [{ x with acc := true }] }) ∧
    (∀ (x : Scan) (p : Post), s.scans.find? (fun y => y.id = s.cur) = some x → s.postOf x = some p → x.acc = true → x.img = none →
      s.scans.find? (fun y => y.acc && y.abu = x.abu && y.img.isNone) = some x → s.waiting x.after = false →
      ∃ t bs, exec .abuSliceScan s = .next t ∧ t.scans = s.scans.map fun y => if y.id = x.id then { y with img := some bs } else y) ∧
    (∀ (x : Scan) (p : Post) (bs : List Byte), s.scans.find? (fun y => y.id = s.cur) = some x → s.postOf x = some p → x.img = some bs →
      ∃ t, exec .abuRecordLand s = .next t ∧ t.scans = s.scans.filter fun y => y.id != x.id) ∧
    (∀ (j : Job) (cR : Cap) (ea : W64), AtHead s 3 j → j.k = .atm cR ea →
      let r := s.jobRdr s.cur j
      let k := lsKey (coreOf s.cur) ea.toNat
      let np := s.rdNat r k 4
      let dim := s.rdNat r (k + 12) 2
      (dim = 64 ∨ dim = 128 ∨ dim = 192 ∨ dim = 256) → ea.toNat + (np + 1) * (64 + 4 * dim) ≤ cR.top →
      ∃ t, exec .atmExecute s = .next t ∧ t.me.att = popped s s.me.att ∧ (t.me.o = 0x0 ∨ t.me.o = 0x8)) ∧
    (∀ (j : Job) (sd : SReg) (cD cS : Cap) (ea n : W64) (p : Nat), AtHead s 3 j → j.k = .kvapp sd.toNat cD ea cS n →
      j.res = some p → j.unit < n.toNat →
      ∃ t ids, exec .kvappExecute s = .next t ∧ t.me.att = { j with unit := j.unit + 1, after := ids } :: s.me.att.tail) ∧
    (∀ (j : Job) (sd : SReg) (cD cS : Cap) (ea n : W64) (p : Nat), AtHead s 3 j → j.k = .kvapp sd.toNat cD ea cS n → j.res = some p →
      n.toNat ≤ j.unit → s.waiting j.after = false → s.msWord ((physKey s s.cur cD.space ea.toNat).getD 0) = p →
      ∃ t, exec .kvappPublish s = .next t ∧ t.me.att = popped s s.me.att ∧ SameFiles t.me (s.me.ws sd (BitVec.ofNat 64 p))) ∧
    (∀ (j : Job) (ea : W64) (cK : Cap) (par : BitVec 128), AtHead s 3 j → j.k = .kvdesc ea cK par → s.applied s.cur = true → j.unit ≠ 0 →
      ∃ t, exec .kvdescExecute s = .next t ∧ t.me.att = popped s s.me.att ∧ t.mem = s.mem ∧ SameFiles t.me s.me) ∧
    (∀ x : Orphaned, s.orphaned.find? (fun y => y.id = s.cur) = some x → s.waiting x.after = false → s.msWord x.desc = x.p →
      ∃ t, exec .killedKvappComplete s = .next t ∧ t.orphaned = s.orphaned.filter fun y => y.id != x.id) ∧
    (∀ (j : Job) (dst src : Opd) (rows len drs srs : Nat), AtHead s 2 j → j.k = .copy dst src rows len drs srs false →
      let o0 := 4096 * j.unit
      let n := min 4096 (rows * len - o0)
      let at' := fun (x : Opd) (stride o : Nat) => physKey s s.cur x.sp ((x.ea.toNat + (o / len * stride + o % len)) % 2 ^ 64)
      o0 < rows * len →
      (∀ o, o0 ≤ o → o < o0 + n → (∃ k, at' src srs o = some k ∧ s.rd8 (s.jobRdr s.cur j) (poisonKey k) = 0) ∧
        ∃ k, at' dst drs o = some k ∧ isGlobKey k = false) →
      ∃ t, exec .cpeChunk s = .next t ∧ SameFiles t.me s.me ∧
        if o0 + n < rows * len then t.me.cpe.head?.map (·.unit) = some (j.unit + 1)
        else t.me.cpe = popped s s.me.cpe ∧ t.me.cDone = s.me.cDone + 1)

/-- The events of messages, banks, halo tiles, replies and waits complete: ACTIVE_MESSAGE_SERVE, HANDLER_START, AMSG_REPLY,
BANK_SWITCH_COMPLETE, HALO_PUSH_APPLY, HALO_COMPLETE, FENCE_PROBE_ECHO, POSTED_RESULT_RETURN, PARK_REREAD, WAITLIM_EXPIRY,
RECORDLESS_REISSUE, BARRIER_GEN_ADVANCE (R200, R206, R209, R211, R227, R230, R251, R280, R283, R288, R302, R309). -/
def WaitEventsComplete : Prop :=
  ∀ s : State,
    (∀ (r : Req) (x : MemS) (key : Nat) (o : Opd) (c : Cap) (a b : W64) (v : W1024), s.nextMsg s.cur = some r → s.turn15 s.cur = true →
      (s.ms r.pos).exiting = false → r.k = .unit (.stD x) key o c a b v →
      ∃ t, exec .activeMessageServe s = .next t ∧ Wrote s t key (leBytes 8 a.toNat) ∧ t.reqs = s.reqs.filter (fun q => q.id != r.id)) ∧
    (∀ (r : Req) (x : AmsgA) (key : Nat) (o : Opd) (ch : Cap) (a b : W64) (v : W1024) (al : Alloc), s.nextMsg s.cur = some r →
      r.k = .unit (.amsg x) key o ch a b v →
      let off := key - (2 ^ 68 + s.cur * 2 ^ 18)
      (s.core s.cur).allocs.find? (fun y => y.lslot = (s.ms r.pos).lslot && y.base ≤ off && off < y.base + y.size) = some al →
      ∃ t, exec .handlerStart s = .next t ∧ t.mem = s.mem ∧
        let h := t.ms (s.cur * 16 + 15)
        h.kind = .handler ∧ h.st = .ready ∧ h.pc = ch.cursor &&& ~~~3 ∧ h.hreq = r.id) ∧
    (∀ (r : Req) (ws : List RegW), s.req? s.cur = some r → (s.ms r.pos).exiting = false → r.k = .done ws →
      ∃ t, exec .amsgReply s = .next t ∧ t.mem = s.mem ∧ t.reqs = s.reqs.filter (fun q => q.id != r.id) ∧
        SameFiles (t.ms r.pos) ((s.ms r.pos).landAll ws)) ∧
    (∀ (id mode : Nat) (rest : List (Nat × Nat)), (s.bank s.cur).sw = (id, mode) :: rest → s.bankUse s.cur = false →
      ∃ t, exec .bankSwitchComplete s = .next t ∧ (t.bank s.cur).mode = mode ∧ (t.bank s.cur).sw = rest.dropWhile (fun y => y.2 = mode)) ∧
    (∀ (b : Batch) (h : Halo) (i : Nat), s.batches.find? (fun y => y.id = s.cur) = some b → b.push = true → s.arg ∈ b.todo →
      s.waiting b.after = false → (∀ y ∈ s.batches, y.push = true → s.arg ∈ y.todo → b.id ≤ y.id) →
      s.haloTile (b.chan / 2 ^ 64) (b.chan % 2 ^ 64) = some (h, i) →
      ∃ t, exec .haloPushApply s = .next t ∧ t.mem = s.mem ∧ ∀ y ∈ t.batches, y.id = b.id → s.arg ∉ y.todo) ∧
    (∀ (r : Req) (x : HaloA) (key : Nat) (o : Opd) (c : Cap) (p b : W64) (v : W1024) (h : Halo), s.req? s.cur = some r →
      r.k = .unit (.halo x) key o c p b v → (s.halosOf r.lslot).find? (fun y => y.lo = key % 2 ^ 64) = some h →
      ∃ t, exec .haloComplete s = .next t ∧ t.mem = s.mem ∧ t.reqs = s.reqs.filter (fun q => q.id != r.id)) ∧
    (∀ scope, s.me.st = .parked → s.me.park = .fence scope → s.me.exiting = false → s.arg < 64 → s.me.probes.getLsbD s.arg = true →
      s.echoes s.cur scope s.arg = true →
      ∃ t, exec .fenceProbeEcho s = .next t ∧ t.mem = s.mem ∧ ∀ b < 64, t.me.probes.getLsbD b = (s.me.probes.getLsbD b && b ≠ s.arg)) ∧
    (∀ (r : Req) (ws : List RegW), s.req? s.cur = some r → (r.k = .done ws ∨ r.k = .ack ∧ ws = []) → s.unapplied r.id = false →
      (s.ms r.pos).exiting = false → ∃ t, exec .postedResultReturn s = .next t ∧ t.mem = s.mem ∧
        t.reqs = s.reqs.filter (fun q => q.id != r.id) ∧ SameFiles (t.ms r.pos) ((s.ms r.pos).landAll ws)) ∧
    (∀ (key : Nat) (v : W32) (h : Pl), IsTask s → s.me.st = .parked → s.me.saving = none → s.me.park = .word key v h →
      s.ueIn (s.rdr s.cur s.me.proof) key 4 = none →
      BitVec.ofNat 32 (leNat (s.loadBytes (s.rdr s.cur s.me.proof) key 4)) ≠ v →
      ∃ t, exec .parkReread s = .next t ∧ t.mem = s.mem ∧ Ends s t s.me (Pl.words h) s.me.o) ∧
    (s.me.kind ≠ .empty → s.me.st = .parked → s.me.park ≠ .reply → s.me.exiting = false → s.me.saving = none →
      s.me.wlim.toNat < s.me.wait + (s.cyc - s.me.since) →
      ∃ t p, exec .waitlimExpiry s = .next t ∧ t.mem = s.mem ∧ t.me.st = .frozen ∧ t.me.pc = s.me.pc ∧
        (t.die (dieOf s.cur)).pkts = (s.die (dieOf s.cur)).pkts ++ [p] ∧ p.cause = 0x09) ∧
    (∀ key c, s.me.kind ≠ .empty → s.me.st = .parked → s.me.saving = none → s.me.park = .fe key c false → 1024 ≤ s.cyc - s.me.since →
      ∃ t, exec .recordlessReissue s = .next t ∧ t.mem = s.mem ∧ t.me.st = .ready ∧ t.me.pc = s.me.pc) ∧
    (∀ (at' : Nat) (rest : List Nat), (s.bar s.cur).closed = at' :: rest →
      at' + (if s.cur < 8192 then 8 else if s.cur < 16384 then 24 else 160) ≤ s.cyc →
      ∃ t, exec .barrierGenAdvance s = .next t ∧ t.mem = s.mem ∧
        t.bar s.cur = { s.bar s.cur with closed := rest, gen := ((s.bar s.cur).gen + 1) % 2 ^ 32 })

/-- The events that perform a request at its unit complete: FIFO_PERFORM, SYNC_REMOTE_PERFORM, AMO_PERFORM, RED_PERFORM,
PROOF_TABLE_REPLY, PLATE_COMPLETE, COLLECTOR_PERFORM and PREEMPT_COMPLETE (R293, R299, R311, R312, R394, R422, R424, R445, R447). -/
def UnitEventsComplete : Prop :=
  ∀ (s : State) (r : Req) (i : Instr) (key : Nat) (o : Opd) (c : Cap) (a b : W64) (v : W1024), r.k = .unit i key o c a b v →
    let m := s.ms r.pos
    (∀ x : RMem, Awaits s r → i = .qcnt x → 2 ^ 69 ≤ key → key < 2 ^ 72 → s.waiting r.after = false → (s.bank (bankOfKey key)).sw = [] →
      (s.bank (bankOfKey key)).mode = 2 → ∃ t, exec .fifoPerform s = .next t ∧ t.mem = s.mem ∧
        Answered s t r (m.ws x.sr (BitVec.ofNat 64 (s.bank (bankOfKey key)).fill)) x.h.words (rdyR s r x.h)) ∧
    (∀ x : MemS, Awaits s r → i = .waiteq x → s.unitReady r = true → s.ueIn Rdr.home key 4 = none →
      (2 ^ 69 ≤ key → key < 2 ^ 72 → (s.bank (bankOfKey key)).sw = [] ∧ (s.bank (bankOfKey key)).mode = 1) →
      s.memNat key 4 = a.toNat % 2 ^ 32 →
      ∃ t, exec .syncRemotePerform s = .next t ∧ t.mem = s.mem ∧ Answered s t r m x.h.words (rdyR s r x.h)) ∧
    (∀ x : AmoA, i = .amoSwp x → s.req? s.cur = some r → r.pos ≠ nowhere → s.unitReady r = true → m.exiting = false → key < 2 ^ 72 →
      s.ueIn Rdr.home key (amoSize x.et) = none →
      ∃ t, exec .amoPerform s = .next t ∧ Wrote s t key (leBytes (amoSize x.et) b.toNat) ∧
        t.reqs = s.reqs.map fun q =>
          if q.id = r.id then { q with k := .done [.s x.sd.toNat (BitVec.ofNat 64 (s.memNat key (amoSize x.et)))] } else q) ∧
    (∀ x : RedA, i = .redAnd x → s.req? s.cur = some r → s.unitReady r = true → m.exiting = false → key < 2 ^ 72 →
      s.ueIn Rdr.home key (amoSize x.et) = none →
      ∃ t, exec .redPerform s = .next t ∧ Wrote s t key (leBytes (amoSize x.et) (s.memNat key (amoSize x.et) &&& b.toNat)) ∧
        (t.ms r.pos).pend = m.pend - 1 ∧ t.reqs = s.reqs.filter (fun q => q.id != r.id)) ∧
    (∀ (x : SH) (q : Proof), Awaits s r → m.kind = .task → i = .prset x → a ≠ 0 → Tab.find? s.proofs a.toNat = some q → q.lslot = m.lslot →
      ∃ t, exec .proofTableReply s = .next t ∧ t.mem = s.mem ∧ t.proofs = s.proofs ∧ Answered s t r m x.h.words (rdyR s r x.h) ∧
        (t.ms r.pos).proof = a.toNat) ∧
    (∀ x : PlateA, Awaits s r → i = .plate x → a.toNat < 4096 → s.plateFails (s.partOf r.pos) a.toNat c.base c.top = false →
      ∃ t d, exec .plateComplete s = .next t ∧ Answered s t r (m.wc x.cd d) x.h.words (rdyR s r x.h) ∧ d.tag = c.tag ∧ d.space = 5 ∧
        d.perms = 0x0400) ∧
    (∀ (x : SSP) (pos : Nat), Awaits s r → m.kind = .svc → i = .freeze x → Target s r a pos → (s.ms pos).await = false → pos ≠ r.pos → s.settled pos = true →
      ∃ t, exec .collectorPerform s = .next t ∧ t.mem = s.mem ∧ Answered s t r (m.ws x.sd (s.ms pos).pc) (Pl.words x.h) m.o ∧
        (t.ms pos).st = .frozen) ∧
    (∀ (x : SSS) (p : Pre), Awaits s r → m.kind = .svc → i = .preempt x →
      (s.part (s.partOf r.pos)).pres.find? (fun p => p.id = r.id) = some p → p.id = r.id → p.done = true →
      (s.masters.filter fun e => e.2.saving = some r.id) = [] → p.kill = true → p.sel = 2 →
      ∃ t, exec .preemptComplete s = .next t ∧ t.mem = s.mem ∧
        Answered s t r (m.ws x.sd (BitVec.ofNat 64 p.count)) x.h.words (rdyR s r x.h))

/-- The events of rounds, of the detector, of plates and of writes complete: ROUND_START, ROUND_MARKER_ARRIVAL, ROUND_EDGE_APPLY,
END_SWEEP, DEADLOCK_EXAMINE, IMPRD_REPORT_WRITE, PLATE_CLOSE_REQUEST, PLATE_CLOSE_FINISH, CHECKPOINT_DURABLE, CHECKPOINT_FAILURE,
WRITE_BATCH_APPLY and WRITEBACK_APPLY (R203, R236, R331, R333, R334, R393, R399 to R401). -/
def RoundEventsComplete : Prop :=
  ∀ s : State,
    (s.rot.on = true → s.round.opened = false → (s.round.demand = true ∨ 65536 ≤ s.cyc - s.round.at') →
      exec .roundStart s = .next { s with round := { num := s.round.num, opened := true, entered := [], demand := false, at' := s.cyc } }) ∧
    (∀ d, Tab.find? s.dies s.cur = some d → d.joined = true → d.failed = false → s.round.opened = true → s.cur ∉ s.round.entered →
      ∃ t, exec .roundMarkerArrival s = .next t ∧ t.round.num = s.round.num ∧ s.cur ∈ t.round.entered) ∧
    (s.edgeReady = true → ∃ t, exec .roundEdgeApply s = .next t ∧ t.round.num = s.round.num + 1 ∧ t.round.opened = false ∧ t.round.entered = []) ∧
    (∀ l, s.launch? s.cur = some l → (l.st = .running ∨ l.st = .doomed) → l.greqs = [] → s.saves = [] → s.ringsEmpty l = true →
      s.launchIdle s.cur = true → s.sentSum s.cur = s.recvSum s.cur → l.sweep = some (s.sentSum s.cur) →
      ∃ t l', exec .endSweep s = .next t ∧ t.mem = s.mem ∧ t.launch? s.cur = some l' ∧ l'.st = if l.st = .running then .ending else .aborting) ∧
    ((s.part s.cur).dlEn = true → (s.part s.cur).dlAt + (s.part s.cur).dlPer ≤ s.round.num →
      ∃ t, exec .deadlockExamine s = .next t ∧ t.mem = s.mem ∧ (t.part s.cur).dlAt = s.round.num ∧
        (t.part s.cur).dlSeen = s.deadlocks s.cur) ∧
    (∀ (q : Report) (b : List Byte), s.reports.find? (fun q => q.id = s.cur) = some q → q.snap = some b →
      ∃ t, exec .imprdReportWrite s = .next t ∧ t.reports = s.reports.filter (fun y => y.id != q.id)) ∧
    ((s.plate s.cur).st = 1 → s.plateLeased (s.plate s.cur) = false →
      exec .plateCloseRequest s = .next (s.setPlate s.cur { s.plate s.cur with st := 2 })) ∧
    (∀ b, (s.plate s.cur).st = 2 → s.platePending s.cur = false → (s.plate s.cur).fin = some b →
      ∃ t, exec .plateCloseFinish s = .next t ∧ (t.plate s.cur).st = 0 ∧ (t.plate s.cur).gen = (s.plate s.cur).gen) ∧
    (∀ vs, (s.plate s.cur).ck = some vs →
      (∃ t, exec .checkpointDurable s = .next t ∧ (t.plate s.cur).ck = none ∧ (t.plate s.cur).ckFail = false) ∧
      (∃ t, exec .checkpointFailure s = .next t ∧ (t.plate s.cur).ck = none ∧ (t.plate s.cur).ckFail = true ∧
        (t.plate s.cur).slots = (s.plate s.cur).slots)) ∧
    (∀ b : Batch, s.batch? s.cur = some b → b.push = false → b.applied = false → s.waiting b.after = false → s.tokensFree b b.home = true →
      s.tokensFree b b.src = true → b.proof = 0 → Distinct b.cells →
      (s.arg = b.home → ∃ t, exec .writeBatchApply s = .next t ∧ ∀ c ∈ b.cells, Tab.get 0 t.mem c.1 = c.2) ∧
      ∃ t, exec .writebackApply s = .next t ∧ ∀ c ∈ b.cells, Tab.get 0 t.mem c.1 = c.2)

end Sys2Proof.Claims

/-- R79, R276, R280: no step of the machine stops: every instruction and every event, on every operand and in every state,
answers a next state, be it the instruction's effect, its wait or its fault. And these forms COMPLETE with their own effect under
conditions on the state and the operands alone, which stand at the five definitions above: BR, CALL, BZ, BNZ, BEQ, BNE, BLT, BGE,
BLTU, BGEU, RET and NOP (R113, R114, R116); ATQ_EXECUTE, ABU_REQUEST_ACCEPT, ABU_SLICE_SCAN, ABU_RECORD_LAND, ATM_EXECUTE,
KVAPP_EXECUTE, KVAPP_PUBLISH, KVDESC_EXECUTE, KILLED_KVAPP_COMPLETE and CPE_CHUNK; ACTIVE_MESSAGE_SERVE, HANDLER_START, AMSG_REPLY,
BANK_SWITCH_COMPLETE, HALO_PUSH_APPLY, HALO_COMPLETE, FENCE_PROBE_ECHO, POSTED_RESULT_RETURN, PARK_REREAD, WAITLIM_EXPIRY,
RECORDLESS_REISSUE and BARRIER_GEN_ADVANCE; FIFO_PERFORM, SYNC_REMOTE_PERFORM, AMO_PERFORM, RED_PERFORM, PROOF_TABLE_REPLY,
PLATE_COMPLETE, COLLECTOR_PERFORM and PREEMPT_COMPLETE; ROUND_START, ROUND_MARKER_ARRIVAL, ROUND_EDGE_APPLY, END_SWEEP,
DEADLOCK_EXAMINE, IMPRD_REPORT_WRITE, PLATE_CLOSE_REQUEST, PLATE_CLOSE_FINISH, CHECKPOINT_DURABLE, CHECKPOINT_FAILURE,
WRITE_BATCH_APPLY and WRITEBACK_APPLY.
(The model's readings there: notes/assumptions/9, 35, 42, 57, 59, 61.) -/
def Obligations.EveryStepAnswersANextState : Prop :=
  (∀ (i : Instr) (s : State), ∃ t, exec i s = .next t) ∧ (∀ s : State, Safe (step s)) ∧
  BranchesComplete ∧ EngineEventsComplete ∧ WaitEventsComplete ∧ UnitEventsComplete ∧ RoundEventsComplete

/-- The memory keeps its canonical form (rising keys, nothing listed that reads 0) through every step, from every state that
has it.
(The model's readings there: notes/assumptions/4, 75.) -/
def Obligations.StepKeepsMemoryCanonical : Prop := ∀ s t : State, Mem.wf s.mem = true → step s = .next t → Mem.wf t.mem = true
end

