-- ==== Sys2Proof/Laws/Issue.lean ====
section
/-! SUPPORT. What the operations that instructions share can do: who passes the gate, what completing an instruction, a
not-ready outcome, a fault, a request and the proof check leave and change. A proof about an instruction cites these and
unfolds none of them. -/

namespace Sys2Proof.Machine

/-! ## The gate (R77, R210) -/

/-- The gate answers a next state: the instruction's, or ILLEGAL's. -/
theorem gate_next (s : State) (g : Grp) (nr : BitVec 2) (k : State → State) :
    s.gate g nr k = .next (if s.me.mayIssue g nr then k s else illegal 2 s) := rfl

theorem gate_of_mayIssue {s : State} {g : Grp} {nr : BitVec 2} (h : s.me.mayIssue g nr = true) (k : State → State) :
    s.gate g nr k = .next (k s) := by rw [State.gate, if_pos h]

theorem gate_of_not_mayIssue {s : State} {g : Grp} {nr : BitVec 2} (h : s.me.mayIssue g nr = false) (k : State → State) :
    s.gate g nr k = .next (illegal 2 s) := by rw [State.gate, h]; rfl

/-- A task may issue every instruction but a supervisor's and a handler's. -/
theorem mayIssue_task {m : Master} (h : m.kind = .task) (g : Grp) (nr : BitVec 2) :
    m.mayIssue g nr = (g != .sup && g != .handler) := by
  unfold Master.mayIssue
  cases g <;> simp_all

/-- A supervisor core issues all but the engines', the proofs' and a handler's. -/
theorem mayIssue_svc {m : Master} (h : m.kind = .svc) (g : Grp) (nr : BitVec 2) :
    m.mayIssue g nr = (g != .engine && g != .handler && g != .task) := by
  unfold Master.mayIssue
  cases g <;> simp_all

/-- A handler issues, up to its 64th instruction, what any slot may, an access without .R, and HRET. -/
theorem mayIssue_handler {m : Master} (h : m.kind = .handler) (g : Grp) (nr : BitVec 2) :
    m.mayIssue g nr = (decide (m.hcount ≤ 64) && (g = .any || g = .access && nr != 3 || g = .handler)) := by
  unfold Master.mayIssue
  cases g <;> simp_all

/-! ## Parking and waking (R282, R283) -/

theorem parkM_eq (s : State) (pos : Nat) (p : Park) (o : BitVec 4) (a : W64) :
    s.parkM pos p o a = { s.setM pos ((s.ms pos).parkOn s.cyc s.nextPlace p o a) with nextPlace := s.nextPlace + 1 } := rfl
@[simp] theorem parkM_mem (s : State) (pos : Nat) (p : Park) (o : BitVec 4) (a : W64) : (s.parkM pos p o a).mem = s.mem := rfl
@[simp] theorem parkM_vers (s : State) (pos : Nat) (p : Park) (o : BitVec 4) (a : W64) : (s.parkM pos p o a).vers = s.vers := rfl
@[simp] theorem parkM_cur (s : State) (pos : Nat) (p : Park) (o : BitVec 4) (a : W64) : (s.parkM pos p o a).cur = s.cur := rfl
@[simp] theorem parkM_reqs (s : State) (pos : Nat) (p : Park) (o : BitVec 4) (a : W64) : (s.parkM pos p o a).reqs = s.reqs := rfl
@[simp] theorem parkM_tiles (s : State) (pos : Nat) (p : Park) (o : BitVec 4) (a : W64) : (s.parkM pos p o a).tiles = s.tiles := rfl
@[simp] theorem parkM_ztag (s : State) (pos : Nat) (p : Park) (o : BitVec 4) (a : W64) : (s.parkM pos p o a).ztag = s.ztag := rfl

/-- The master of another position stays as it is. -/
theorem parkM_ms (s : State) (pos i : Nat) (p : Park) (o : BitVec 4) (a : W64) :
    (s.parkM pos p o a).ms i = if i = pos then (s.ms pos).parkOn s.cyc s.nextPlace p o a else s.ms i := ms_setM s pos _ i

/-- Waking changes masters alone. -/
@[simp] theorem wakeAll_mem (s : State) (f : Nat → Master → Bool) : (s.wakeAll f).mem = s.mem := rfl
@[simp] theorem wakeAll_vers (s : State) (f : Nat → Master → Bool) : (s.wakeAll f).vers = s.vers := rfl
@[simp] theorem wakeAll_cur (s : State) (f : Nat → Master → Bool) : (s.wakeAll f).cur = s.cur := rfl
@[simp] theorem wakeAll_reqs (s : State) (f : Nat → Master → Bool) : (s.wakeAll f).reqs = s.reqs := rfl

theorem wakeOne_cases (s : State) (f : Nat → Master → Bool) :
    s.wakeOne f = s ∨ ∃ k, s.wakeOne f = s.updM k (Master.unpark s.cyc) := by
  unfold State.wakeOne
  cases longest s.masters f with
  | none => exact .inl rfl
  | some k => exact .inr ⟨k, rfl⟩
@[simp] theorem wakeOne_mem (s : State) (f : Nat → Master → Bool) : (s.wakeOne f).mem = s.mem := by
  rcases wakeOne_cases s f with h | ⟨k, h⟩ <;> rw [h]; rfl
@[simp] theorem wakeOne_vers (s : State) (f : Nat → Master → Bool) : (s.wakeOne f).vers = s.vers := by
  rcases wakeOne_cases s f with h | ⟨k, h⟩ <;> rw [h]; rfl
@[simp] theorem wakeOne_cur (s : State) (f : Nat → Master → Bool) : (s.wakeOne f).cur = s.cur := by
  rcases wakeOne_cases s f with h | ⟨k, h⟩ <;> rw [h]; rfl
@[simp] theorem wakeWords_mem (s : State) (ks : List Nat) : (s.wakeWords ks).mem = s.mem := rfl
@[simp] theorem wakeFe_mem (s : State) (k : Nat) (full : Bool) : (s.wakeFe k full).mem = s.mem := by
  unfold State.wakeFe
  split <;> simp

/-! ## Messages sent and received (R333) -/

/-- Counting a message changes the cores alone. -/
@[simp] theorem noteSent_vers (s : State) (pos l : Nat) : (s.noteSent pos l).vers = s.vers := by unfold State.noteSent; split <;> rfl
@[simp] theorem noteSent_reqs (s : State) (pos l : Nat) : (s.noteSent pos l).reqs = s.reqs := by unfold State.noteSent; split <;> rfl
@[simp] theorem noteSent_cur (s : State) (pos l : Nat) : (s.noteSent pos l).cur = s.cur := by unfold State.noteSent; split <;> rfl
@[simp] theorem noteSent_masters (s : State) (pos l : Nat) : (s.noteSent pos l).masters = s.masters := by
  unfold State.noteSent; split <;> rfl
@[simp] theorem noteSent_nextReq (s : State) (pos l : Nat) : (s.noteSent pos l).nextReq = s.nextReq := by
  unfold State.noteSent; split <;> rfl

/-! ## Completion (R274, R275) -/

/-- Completing without the switch marker moves the PC of the issuing master and ends its counts. -/
theorem advance_false (s : State) (pc : W64) : s.advance false pc = s.setM s.cur (s.me.complete pc) := rfl

/-- Whatever completes, the issuing master alone changes: it goes on, or parks as at a marker with its PC gone on. -/
theorem advance_cases (s : State) (p : Bool) (pc : W64) :
    s.advance p pc = s.setM s.cur (s.me.complete pc) ∨
    (p = true ∧ s.advance p pc = (s.setM s.cur (s.me.complete pc)).parkM s.cur .marker 0xF s.me.pc) := by
  unfold State.advance
  rw [upd_eq]
  cases p with
  | false => exact .inl rfl
  | true =>
    refine (Classical.em _).elim (fun hc => .inr ⟨rfl, if_pos hc⟩) fun hc => .inl (if_neg hc)
@[simp] theorem advance_mem (s : State) (p : Bool) (pc : W64) : (s.advance p pc).mem = s.mem := by
  rcases advance_cases s p pc with h | ⟨-, h⟩ <;> rw [h] <;> rfl
@[simp] theorem advance_vers (s : State) (p : Bool) (pc : W64) : (s.advance p pc).vers = s.vers := by
  rcases advance_cases s p pc with h | ⟨-, h⟩ <;> rw [h] <;> rfl
@[simp] theorem advance_cur (s : State) (p : Bool) (pc : W64) : (s.advance p pc).cur = s.cur := by
  rcases advance_cases s p pc with h | ⟨-, h⟩ <;> rw [h] <;> rfl
@[simp] theorem advance_reqs (s : State) (p : Bool) (pc : W64) : (s.advance p pc).reqs = s.reqs := by
  rcases advance_cases s p pc with h | ⟨-, h⟩ <;> rw [h] <;> rfl
@[simp] theorem advance_tiles (s : State) (p : Bool) (pc : W64) : (s.advance p pc).tiles = s.tiles := by
  rcases advance_cases s p pc with h | ⟨-, h⟩ <;> rw [h] <;> rfl
@[simp] theorem advance_ztag (s : State) (p : Bool) (pc : W64) : (s.advance p pc).ztag = s.ztag := by
  rcases advance_cases s p pc with h | ⟨-, h⟩ <;> rw [h] <;> rfl
@[simp] theorem advance_launches (s : State) (p : Bool) (pc : W64) : (s.advance p pc).launches = s.launches := by
  rcases advance_cases s p pc with h | ⟨-, h⟩ <;> rw [h] <;> rfl

theorem advance_ms_ne (s : State) (p : Bool) (pc : W64) {i : Nat} (hi : i ≠ s.cur) : (s.advance p pc).ms i = s.ms i := by
  rcases advance_cases s p pc with h | ⟨-, h⟩ <;> rw [h]
  · rw [ms_setM, if_neg hi]
  · rw [parkM_ms, if_neg hi, ms_setM, if_neg hi]

/-- The completed master: its register files, o and special registers stay, and its PC is the next one. -/
theorem advance_me (s : State) (p : Bool) (pc : W64) :
    (s.advance p pc).me = s.me.complete pc ∨
    (s.advance p pc).me = (s.me.complete pc).parkOn s.cyc s.nextPlace .marker 0xF s.me.pc := by
  rcases advance_cases s p pc with h | ⟨-, h⟩ <;> rw [h]
  · exact .inl (me_setM_cur s _)
  · refine .inr ?_
    show ((s.setM s.cur _).parkM s.cur .marker 0xF s.me.pc).ms s.cur = _
    rw [parkM_ms, if_pos rfl, ms_setM_same]
    rfl
@[simp] theorem advance_me_pc (s : State) (p : Bool) (pc : W64) : (s.advance p pc).me.pc = pc := by
  rcases advance_me s p pc with h | h <;> rw [h] <;> rfl
@[simp] theorem advance_me_o (s : State) (p : Bool) (pc : W64) : (s.advance p pc).me.o = s.me.o := by
  rcases advance_me s p pc with h | h <;> rw [h] <;> rfl

/-- `done` and `final` complete with o written, or left as it is. -/
theorem done_eq (s : State) (h : Hd) (words : Nat) :
    s.done h words = (s.upd fun m => { m with o := if h.nr = 0 then m.o else oRdy }).advance h.p (s.me.next words) ∨
    (h.nr = 0 ∧ s.done h words = s.advance h.p (s.me.next words)) := by
  unfold State.done
  by_cases hn : h.nr = 0
  · exact .inr ⟨hn, by rw [if_pos hn]⟩
  · refine .inl ?_
    rw [if_neg hn]
    simp only [hn, if_false]
@[simp] theorem done_mem (s : State) (h : Hd) (words : Nat) : (s.done h words).mem = s.mem := by
  unfold State.done; split <;> simp [upd_eq]
@[simp] theorem done_vers (s : State) (h : Hd) (words : Nat) : (s.done h words).vers = s.vers := by
  unfold State.done; split <;> simp [upd_eq]
@[simp] theorem done_reqs (s : State) (h : Hd) (words : Nat) : (s.done h words).reqs = s.reqs := by
  unfold State.done; split <;> simp [upd_eq]
@[simp] theorem final_mem (s : State) (h : Hd) (words : Nat) (o : BitVec 4) : (s.final h words o).mem = s.mem := by
  simp [State.final, upd_eq]
@[simp] theorem final_vers (s : State) (h : Hd) (words : Nat) (o : BitVec 4) : (s.final h words o).vers = s.vers := by
  simp [State.final, upd_eq]
@[simp] theorem final_reqs (s : State) (h : Hd) (words : Nat) (o : BitVec 4) : (s.final h words o).reqs = s.reqs := by
  simp [State.final, upd_eq]

/-- A not-ready outcome completes with o written, counts a reissue, or parks on the object. -/
theorem notReady_cases (s : State) (h : Hd) (words : Nat) (o : BitVec 4) (p : Park) (a : W64) :
    (∃ n pc, s.notReady h words o p a = (s.upd fun m => { m with o := n }).advance h.p pc) ∨
    s.notReady h words o p a = (s.upd fun m => { m with tries := m.tries + 1 }) ∨ s.notReady h words o p a = s.parkM s.cur p o a := by
  unfold State.notReady
  dsimp only
  by_cases h1 : h.nr = 2
  · rw [if_pos h1]; exact .inl ⟨_, _, rfl⟩
  rw [if_neg h1]
  by_cases h2 : (decide (h.nr = 1) || decide (s.me.kind = .handler)) = true
  · rw [if_pos h2]; exact .inl ⟨_, _, rfl⟩
  rw [if_neg h2]
  by_cases h3 : (decide (h.nr = 3) && decide (s.me.tries < s.me.rlim.toNat)) = true
  · rw [if_pos h3]; exact .inr (.inl rfl)
  · rw [if_neg h3]; exact .inr (.inr rfl)

/-- A not-ready outcome changes the issuing master alone: no memory, version or request. -/
@[simp] theorem notReady_mem (s : State) (h : Hd) (words : Nat) (o : BitVec 4) (p : Park) (a : W64) :
    (s.notReady h words o p a).mem = s.mem := by
  rcases notReady_cases s h words o p a with ⟨n, pc, e⟩ | e | e <;> rw [e] <;> simp [upd_eq]
@[simp] theorem notReady_vers (s : State) (h : Hd) (words : Nat) (o : BitVec 4) (p : Park) (a : W64) :
    (s.notReady h words o p a).vers = s.vers := by
  rcases notReady_cases s h words o p a with ⟨n, pc, e⟩ | e | e <;> rw [e] <;> simp [upd_eq]
@[simp] theorem notReady_reqs (s : State) (h : Hd) (words : Nat) (o : BitVec 4) (p : Park) (a : W64) :
    (s.notReady h words o p a).reqs = s.reqs := by
  rcases notReady_cases s h words o p a with ⟨n, pc, e⟩ | e | e <;> rw [e] <;> simp [upd_eq]

/-- Outside the try modes a not-ready task parks on the object. -/
theorem notReady_parks {s : State} {h : Hd} (hn : h.nr = 0) (hk : s.me.kind ≠ .handler) (words : Nat) (o : BitVec 4) (p : Park) (a : W64) :
    s.notReady h words o p a = s.parkM s.cur p o a := by
  unfold State.notReady
  simp [hn, hk]

/-! ## Faults (R32, R433) -/

@[simp] theorem queuePacket_mem (s : State) (die : Nat) (p : Packet) : (s.queuePacket die p).mem = s.mem := rfl
@[simp] theorem queuePacket_masters (s : State) (die : Nat) (p : Packet) : (s.queuePacket die p).masters = s.masters := rfl
@[simp] theorem queuePacket_vers (s : State) (die : Nat) (p : Packet) : (s.queuePacket die p).vers = s.vers := rfl
@[simp] theorem queuePacket_reqs (s : State) (die : Nat) (p : Packet) : (s.queuePacket die p).reqs = s.reqs := rfl
@[simp] theorem queuePacket_cur (s : State) (die : Nat) (p : Packet) : (s.queuePacket die p).cur = s.cur := rfl
@[simp] theorem queuePacket_launches (s : State) (die : Nat) (p : Packet) : (s.queuePacket die p).launches = s.launches := rfl
@[simp] theorem doom_mem (s : State) (l : Nat) : (s.doom l).mem = s.mem := by simp [State.doom]
@[simp] theorem doom_vers (s : State) (l : Nat) : (s.doom l).vers = s.vers := by simp [State.doom]
@[simp] theorem doom_masters (s : State) (l : Nat) : (s.doom l).masters = s.masters := by simp [State.doom]
@[simp] theorem doom_reqs (s : State) (l : Nat) : (s.doom l).reqs = s.reqs := by simp [State.doom]
@[simp] theorem doomBy_mem (s : State) (pos : Nat) : (s.doomBy pos).mem = s.mem := by unfold State.doomBy; split <;> simp
@[simp] theorem doomBy_vers (s : State) (pos : Nat) : (s.doomBy pos).vers = s.vers := by unfold State.doomBy; split <;> simp
@[simp] theorem doomBy_masters (s : State) (pos : Nat) : (s.doomBy pos).masters = s.masters := by unfold State.doomBy; split <;> simp
@[simp] theorem doomBy_reqs (s : State) (pos : Nat) : (s.doomBy pos).reqs = s.reqs := by unfold State.doomBy; split <;> simp
@[simp] theorem doom_dies (s : State) (l : Nat) : (s.doom l).dies = s.dies := by simp [State.doom]

/-- A frozen master, as a fault leaves it: its registers stay. -/
def Master.frozenAt (m : Master) (cyc : Nat) (pc : W64) : Master :=
  { m with st := .frozen, park := .none, pc := pc, tries := 0, wait := m.stood cyc, place := 0, resv := none, yield := [], flt := true }

@[simp] theorem logEng_mem (s : State) (pos eng : Nat) (f : Flt) : (s.logEng pos eng f).mem = s.mem := by unfold State.logEng; split <;> rfl
@[simp] theorem logEng_vers (s : State) (pos eng : Nat) (f : Flt) : (s.logEng pos eng f).vers = s.vers := by unfold State.logEng; split <;> rfl
@[simp] theorem logEng_reqs (s : State) (pos eng : Nat) (f : Flt) : (s.logEng pos eng f).reqs = s.reqs := by unfold State.logEng; split <;> rfl
@[simp] theorem logEng_masters (s : State) (pos eng : Nat) (f : Flt) : (s.logEng pos eng f).masters = s.masters := by
  unfold State.logEng; split <;> rfl
/-- Only an error in an engine's state is logged so. -/
theorem logEng_of_ne {f : Flt} (h : f.cause ≠ cEng) (s : State) (pos eng : Nat) : s.logEng pos eng f = s := if_neg h

/-- Freezing stops one master with its packet queued, and dooms the launch where the cause does; nothing else changes, but for the log
of an engine's error. -/
theorem freeze_eq (s : State) (pos eng : Nat) (f : Flt) (pc next : W64) :
    s.freeze pos eng f pc next =
      if f.dooms then (((s.logEng pos eng f).setM pos ((s.ms pos).frozenAt s.cyc next)).queuePacket (dieOf pos) (s.packet pos eng f pc)).doomBy pos
      else ((s.logEng pos eng f).setM pos ((s.ms pos).frozenAt s.cyc next)).queuePacket (dieOf pos) (s.packet pos eng f pc) := by
  unfold State.freeze State.logEng
  split <;> rfl
@[simp] theorem freeze_mem (s : State) (pos eng : Nat) (f : Flt) (pc next : W64) : (s.freeze pos eng f pc next).mem = s.mem := by
  rw [freeze_eq]; split <;> simp
@[simp] theorem freeze_vers (s : State) (pos eng : Nat) (f : Flt) (pc next : W64) : (s.freeze pos eng f pc next).vers = s.vers := by
  rw [freeze_eq]; split <;> simp
@[simp] theorem freeze_reqs (s : State) (pos eng : Nat) (f : Flt) (pc next : W64) : (s.freeze pos eng f pc next).reqs = s.reqs := by
  rw [freeze_eq]; split <;> simp
theorem freeze_ms (s : State) (pos eng : Nat) (f : Flt) (pc next : W64) (i : Nat) :
    (s.freeze pos eng f pc next).ms i = if i = pos then (s.ms pos).frozenAt s.cyc next else s.ms i := by
  rw [freeze_eq, ← ms_setM]
  split <;> simp [State.ms, State.setM]
@[simp] theorem fault_mem (s : State) (f : Flt) : (s.fault f).mem = s.mem := freeze_mem ..
@[simp] theorem fault_vers (s : State) (f : Flt) : (s.fault f).vers = s.vers := freeze_vers ..
@[simp] theorem fault_reqs (s : State) (f : Flt) : (s.fault f).reqs = s.reqs := freeze_reqs ..
/-- A faulting instruction leaves its master frozen with the PC at it. -/
theorem fault_ms (s : State) (f : Flt) (i : Nat) : (s.fault f).ms i = if i = s.cur then s.me.frozenAt s.cyc s.me.pc else s.ms i := freeze_ms ..
@[simp] theorem illegal_mem (s : State) (n : Nat) : (illegal n s).mem = s.mem := fault_mem ..
@[simp] theorem illegal_vers (s : State) (n : Nat) : (illegal n s).vers = s.vers := fault_vers ..

/-! ## Requests (R278, R299) -/

/-- A request takes the next number and stands last; its master's reservation is used, its launch counts it. -/
theorem request_reqs (s : State) (pos key : Nat) (slot mark : Bool) (k : ReqK) (after : List Nat) :
    ∃ r, (s.request pos key slot mark k after).reqs = s.reqs ++ [r] ∧ r.id = s.nextReq ∧ r.pos = pos ∧ r.pc = (s.ms pos).pc ∧
      r.k = k ∧ r.slot = slot ∧ r.mark = mark ∧ r.after = after := by
  refine ⟨{ id := s.nextReq, pos := pos, pc := (s.ms pos).pc, slot := slot, key := key, bank := s.bankOf key, mark := mark, k := k
            due := s.cyc + s.returnBound pos key, lslot := s.party pos, after := after, drop := false, proof := (s.ms pos).proof }, ?_,
    rfl, rfl, rfl, rfl, rfl, rfl, rfl⟩
  unfold State.request
  split <;> simp [State.updM]
@[simp] theorem request_mem (s : State) (pos key : Nat) (slot mark : Bool) (k : ReqK) (after : List Nat) :
    (s.request pos key slot mark k after).mem = s.mem := by unfold State.request; split <;> simp [State.updM]
@[simp] theorem request_vers (s : State) (pos key : Nat) (slot mark : Bool) (k : ReqK) (after : List Nat) :
    (s.request pos key slot mark k after).vers = s.vers := by unfold State.request; split <;> simp [State.updM]
@[simp] theorem request_cur (s : State) (pos key : Nat) (slot mark : Bool) (k : ReqK) (after : List Nat) :
    (s.request pos key slot mark k after).cur = s.cur := by unfold State.request; split <;> simp [State.updM]
@[simp] theorem request_nextReq (s : State) (pos key : Nat) (slot mark : Bool) (k : ReqK) (after : List Nat) :
    (s.request pos key slot mark k after).nextReq = s.nextReq + 1 := by unfold State.request; split <;> simp [State.updM]

/-! ## The proof check (R415) -/

/-- Without a cancelled proof the check passes. -/
theorem proofCheck_of_none {s : State} (h : s.me.orphan = none) (k : State → State) : s.proofCheck k = k s := by
  rw [State.proofCheck, h]

/-- An orphan's instruction has no effect of its own. -/
theorem proofCheck_of_some {s : State} {np : Nat} (h : s.me.orphan = some np) (k : State → State) : s.proofCheck k = s.orphaned1 np := by
  rw [State.proofCheck, h]

end Sys2Proof.Machine
end

