-- ==== Sys2Proof/Laws/MemoryOps.lean ====
section
/-! SUPPORT. Every operation that writes memory outside the stores keeps its canonical form: what memory-side units, the page
map, the control pages and the dispatcher write. -/

namespace Sys2Proof.Machine

theorem unitWrite_wf (s : State) (k : Nat) (bs : List Byte) (w : Mem.wf s.mem = true) : Mem.wf (s.unitWrite k bs).mem = true := wf_setCells _ _ w
theorem devWrite_wf (s : State) (part va : Nat) (bs : List Byte) (w : Mem.wf s.mem = true) : Mem.wf (s.devWrite part va bs).mem = true :=
  unitWrite_wf _ _ _ w
theorem setFe_wf (s : State) (k : Nat) (full : Bool) (w : Mem.wf s.mem = true) : Mem.wf (s.setFe k full).mem = true := Tab.wf_set 0 _ _ _ w
theorem clearPage_wf (s : State) (part va n : Nat) (w : Mem.wf s.mem = true) : Mem.wf (s.clearPage part va n).mem = true := wf_filterCells _ _ w
theorem mapPage_wf (s : State) (part : Nat) (d : DescF) (va : Nat) (w : Mem.wf s.mem = true) : Mem.wf (s.mapPage part d va).mem = true := by
  unfold State.mapPage
  dsimp only
  split
  · exact wf_setCells _ _ (clearPage_wf _ _ _ _ w)
  · exact clearPage_wf _ _ _ _ w
theorem mapImage_wf (s : State) (r : MapReq) (d : DescF) (t : Option Nat) (va : Nat) (w : Mem.wf s.mem = true) :
    Mem.wf (s.mapImage r d t va).mem = true := wf_setCells _ _ (mapPage_wf _ _ _ _ w)
theorem unmap_wf (s : State) (part k : Nat) (p : Page) (w : Mem.wf s.mem = true) : Mem.wf (s.unmap part k p).mem = true := clearPage_wf _ _ _ _ w
theorem clearLs_wf (s : State) (core off n : Nat) (w : Mem.wf s.mem = true) : Mem.wf (s.clearLs core off n).mem = true := wf_filterCells _ _ w
theorem putShape_wf (s : State) (core lslot : Nat) (w : Mem.wf s.mem = true) : Mem.wf (s.putShape core lslot).mem = true := by
  unfold State.putShape
  split
  · split
    · exact wf_setCells _ _ w
    · exact w
  · exact w
theorem grantLs_wf (s : State) (core lslot gang grp off size : Nat) (w : Mem.wf s.mem = true) :
    Mem.wf (s.grantLs core lslot gang grp off size).mem = true := clearLs_wf _ _ _ _ (putShape_wf _ _ _ w)
theorem clearBank_wf (s : State) (b : Nat) (w : Mem.wf s.mem = true) : Mem.wf (s.clearBank b).mem = true := wf_filterCells _ _ w
theorem setMsWord_wf (s : State) (key x : Nat) (w : Mem.wf s.mem = true) : Mem.wf (s.setMsWord key x).mem = true := wf_setCells _ _ w
theorem putLs_wf (s : State) (core off : Nat) (bs : List Byte) (w : Mem.wf s.mem = true) : Mem.wf (s.putLs core off bs).mem = true :=
  wf_setCells _ _ w
theorem putBfd_wf (s : State) (core off n : Nat) (f : BitVec 16) (w : Mem.wf s.mem = true) : Mem.wf (s.putBfd core off n f).mem = true :=
  wf_setCells _ _ w
theorem endPart_wf (s : State) (part : Nat) (w : Mem.wf s.mem = true) : Mem.wf (s.endPart part).mem = true := wf_filterCells _ _ w

/-- A window, a save record and the other control registers hold no memory bytes; the rings and tables do. -/
theorem storeTag_wf (s : State) (part va : Nat) (t : Bool) (w : Mem.wf s.mem = true) : Mem.wf (s.storeTag part va t).mem = true := by
  unfold State.storeTag
  dsimp only
  split
  · split
    · split <;> exact w
    · exact w
  · split
    · split <;> exact w
    · split
      · exact Tab.wf_set 0 _ _ _ w
      · exact w
@[simp] theorem winPut_mem (s : State) (pos off : Nat) (x : W64) : (s.winPut pos off x).mem = s.mem := by
  unfold State.winPut
  dsimp only
  split
  · rfl
  split
  · split <;> rfl
  · rfl
@[simp] theorem winWrite_mem (s : State) (pos off : Nat) (x : W64) : (s.winWrite pos off x).mem = s.mem := by
  unfold State.winWrite
  split <;> first | rfl | exact winPut_mem ..
@[simp] theorem saveWrite_mem (s : State) (key off : Nat) (x : W64) : (s.saveWrite key off x).mem = s.mem := by
  unfold State.saveWrite
  split <;> first | rfl | exact winPut_mem ..
@[simp] theorem setSq_mem (s : State) (part q : Nat) (x : SubQ) : (s.setSq part q x).mem = s.mem := rfl
@[simp] theorem doorbell_mem (s : State) (part q puts : Nat) : (s.doorbell part q puts).mem = s.mem := by
  unfold State.doorbell
  dsimp only
  split
  · rfl
  split <;> rfl
theorem regWrite_wf (s : State) (part va : Nat) (low : Bool) (x : W64) (w : Mem.wf s.mem = true) :
    Mem.wf (s.regWrite part va low x).mem = true := by
  unfold State.regWrite
  dsimp only
  split
  · split
    · simpa using w
    · exact w
  split
  · split
    · simpa using w
    · exact w
  split
  · split
    · split
      · exact w
      split
      · exact wf_setCells _ _ w
      · exact w
    split
    · split
      · split <;> first | exact w | simpa using w | (split <;> simpa using w)
      split
      · exact wf_setCells _ _ w
      · exact w
    · exact w
  · exact w

/-- A fold of operations that keep the form keeps it. -/
theorem foldl_wf {α : Type} (f : State → α → State) (h : ∀ s a, Mem.wf s.mem = true → Mem.wf (f s a).mem = true) (l : List α) (s : State)
    (w : Mem.wf s.mem = true) : Mem.wf (l.foldl f s).mem = true := by
  induction l generalizing s with
  | nil => exact w
  | cons a l ih => exact ih _ (h _ _ w)
theorem ctlStore_wf (s : State) (cells : List Host.Cell) (w : Mem.wf s.mem = true) : Mem.wf (s.ctlStore cells).mem = true :=
  foldl_wf _ (fun _ _ h => regWrite_wf _ _ _ _ _ h) _ _ w
theorem arrive_wf (s : State) (part va : Nat) (bs : List Byte) (w : Mem.wf s.mem = true) : Mem.wf (s.arrive part va bs).mem = true := by
  unfold State.arrive
  split
  · exact w
  · exact devWrite_wf _ _ _ _ w

end Sys2Proof.Machine
end

