-- ==== Sys2Proof/Laws/Regs.lean ====
section
/-! SUPPORT. What each register write leaves and changes of a master, field by field. -/

namespace Sys2Proof.Machine

/-! ## ws -/

@[simp] theorem ws_kind (k : Master) (r : SReg) (x : W64) : (k.ws r x).kind = k.kind := by
  unfold Master.ws; split <;> rfl
@[simp] theorem ws_st (k : Master) (r : SReg) (x : W64) : (k.ws r x).st = k.st := by
  unfold Master.ws; split <;> rfl
@[simp] theorem ws_v (k : Master) (r : SReg) (x : W64) : (k.ws r x).v = k.v := by
  unfold Master.ws; split <;> rfl
@[simp] theorem ws_m (k : Master) (r : SReg) (x : W64) : (k.ws r x).m = k.m := by
  unfold Master.ws; split <;> rfl
@[simp] theorem ws_c (k : Master) (r : SReg) (x : W64) : (k.ws r x).c = k.c := by
  unfold Master.ws; split <;> rfl
@[simp] theorem ws_q (k : Master) (r : SReg) (x : W64) : (k.ws r x).q = k.q := by
  unfold Master.ws; split <;> rfl
@[simp] theorem ws_o (k : Master) (r : SReg) (x : W64) : (k.ws r x).o = k.o := by
  unfold Master.ws; split <;> rfl
@[simp] theorem ws_pc (k : Master) (r : SReg) (x : W64) : (k.ws r x).pc = k.pc := by
  unfold Master.ws; split <;> rfl
@[simp] theorem ws_taskid (k : Master) (r : SReg) (x : W64) : (k.ws r x).taskid = k.taskid := by
  unfold Master.ws; split <;> rfl
@[simp] theorem ws_grpid (k : Master) (r : SReg) (x : W64) : (k.ws r x).grpid = k.grpid := by
  unfold Master.ws; split <;> rfl
@[simp] theorem ws_gangid (k : Master) (r : SReg) (x : W64) : (k.ws r x).gangid = k.gangid := by
  unfold Master.ws; split <;> rfl
@[simp] theorem ws_coord (k : Master) (r : SReg) (x : W64) : (k.ws r x).coord = k.coord := by
  unfold Master.ws; split <;> rfl
@[simp] theorem ws_lslot (k : Master) (r : SReg) (x : W64) : (k.ws r x).lslot = k.lslot := by
  unfold Master.ws; split <;> rfl
@[simp] theorem ws_lgen (k : Master) (r : SReg) (x : W64) : (k.ws r x).lgen = k.lgen := by
  unfold Master.ws; split <;> rfl
@[simp] theorem ws_stage (k : Master) (r : SReg) (x : W64) : (k.ws r x).stage = k.stage := by
  unfold Master.ws; split <;> rfl
@[simp] theorem ws_proof (k : Master) (r : SReg) (x : W64) : (k.ws r x).proof = k.proof := by
  unfold Master.ws; split <;> rfl
@[simp] theorem ws_orphv (k : Master) (r : SReg) (x : W64) : (k.ws r x).orphv = k.orphv := by
  unfold Master.ws; split <;> rfl
@[simp] theorem ws_wlim (k : Master) (r : SReg) (x : W64) : (k.ws r x).wlim = k.wlim := by
  unfold Master.ws; split <;> rfl
@[simp] theorem ws_rlim (k : Master) (r : SReg) (x : W64) : (k.ws r x).rlim = k.rlim := by
  unfold Master.ws; split <;> rfl
@[simp] theorem ws_pend (k : Master) (r : SReg) (x : W64) : (k.ws r x).pend = k.pend := by
  unfold Master.ws; split <;> rfl
@[simp] theorem ws_tbmask (k : Master) (r : SReg) (x : W64) : (k.ws r x).tbmask = k.tbmask := by
  unfold Master.ws; split <;> rfl
@[simp] theorem ws_errst (k : Master) (r : SReg) (x : W64) : (k.ws r x).errst = k.errst := by
  unfold Master.ws; split <;> rfl
@[simp] theorem ws_lsbase (k : Master) (r : SReg) (x : W64) : (k.ws r x).lsbase = k.lsbase := by
  unfold Master.ws; split <;> rfl
@[simp] theorem ws_lssize (k : Master) (r : SReg) (x : W64) : (k.ws r x).lssize = k.lssize := by
  unfold Master.ws; split <;> rfl
@[simp] theorem ws_zbase (k : Master) (r : SReg) (x : W64) : (k.ws r x).zbase = k.zbase := by
  unfold Master.ws; split <;> rfl
@[simp] theorem ws_zcount (k : Master) (r : SReg) (x : W64) : (k.ws r x).zcount = k.zcount := by
  unfold Master.ws; split <;> rfl
@[simp] theorem ws_prio (k : Master) (r : SReg) (x : W64) : (k.ws r x).prio = k.prio := by
  unfold Master.ws; split <;> rfl
@[simp] theorem ws_slice (k : Master) (r : SReg) (x : W64) : (k.ws r x).slice = k.slice := by
  unfold Master.ws; split <;> rfl
@[simp] theorem ws_nslice (k : Master) (r : SReg) (x : W64) : (k.ws r x).nslice = k.nslice := by
  unfold Master.ws; split <;> rfl
@[simp] theorem ws_orphan (k : Master) (r : SReg) (x : W64) : (k.ws r x).orphan = k.orphan := by
  unfold Master.ws; split <;> rfl
@[simp] theorem ws_park (k : Master) (r : SReg) (x : W64) : (k.ws r x).park = k.park := by
  unfold Master.ws; split <;> rfl
@[simp] theorem ws_place (k : Master) (r : SReg) (x : W64) : (k.ws r x).place = k.place := by
  unfold Master.ws; split <;> rfl
@[simp] theorem ws_was (k : Master) (r : SReg) (x : W64) : (k.ws r x).was = k.was := by
  unfold Master.ws; split <;> rfl
@[simp] theorem ws_wait (k : Master) (r : SReg) (x : W64) : (k.ws r x).wait = k.wait := by
  unfold Master.ws; split <;> rfl
@[simp] theorem ws_since (k : Master) (r : SReg) (x : W64) : (k.ws r x).since = k.since := by
  unfold Master.ws; split <;> rfl
@[simp] theorem ws_parkO (k : Master) (r : SReg) (x : W64) : (k.ws r x).parkO = k.parkO := by
  unfold Master.ws; split <;> rfl
@[simp] theorem ws_parkA (k : Master) (r : SReg) (x : W64) : (k.ws r x).parkA = k.parkA := by
  unfold Master.ws; split <;> rfl
@[simp] theorem ws_tries (k : Master) (r : SReg) (x : W64) : (k.ws r x).tries = k.tries := by
  unfold Master.ws; split <;> rfl
@[simp] theorem ws_resv (k : Master) (r : SReg) (x : W64) : (k.ws r x).resv = k.resv := by
  unfold Master.ws; split <;> rfl
@[simp] theorem ws_issued (k : Master) (r : SReg) (x : W64) : (k.ws r x).issued = k.issued := by
  unfold Master.ws; split <;> rfl
@[simp] theorem ws_await (k : Master) (r : SReg) (x : W64) : (k.ws r x).await = k.await := by
  unfold Master.ws; split <;> rfl
@[simp] theorem ws_div (k : Master) (r : SReg) (x : W64) : (k.ws r x).div = k.div := by
  unfold Master.ws; split <;> rfl
@[simp] theorem ws_yield (k : Master) (r : SReg) (x : W64) : (k.ws r x).yield = k.yield := by
  unfold Master.ws; split <;> rfl
@[simp] theorem ws_cAcc (k : Master) (r : SReg) (x : W64) : (k.ws r x).cAcc = k.cAcc := by
  unfold Master.ws; split <;> rfl
@[simp] theorem ws_cDone (k : Master) (r : SReg) (x : W64) : (k.ws r x).cDone = k.cDone := by
  unfold Master.ws; split <;> rfl
@[simp] theorem ws_cFail (k : Master) (r : SReg) (x : W64) : (k.ws r x).cFail = k.cFail := by
  unfold Master.ws; split <;> rfl
@[simp] theorem ws_cRep (k : Master) (r : SReg) (x : W64) : (k.ws r x).cRep = k.cRep := by
  unfold Master.ws; split <;> rfl
@[simp] theorem ws_rRep (k : Master) (r : SReg) (x : W64) : (k.ws r x).rRep = k.rRep := by
  unfold Master.ws; split <;> rfl
@[simp] theorem ws_posts (k : Master) (r : SReg) (x : W64) : (k.ws r x).posts = k.posts := by
  unfold Master.ws; split <;> rfl
@[simp] theorem ws_kept (k : Master) (r : SReg) (x : W64) : (k.ws r x).kept = k.kept := by
  unfold Master.ws; split <;> rfl
@[simp] theorem ws_vxe (k : Master) (r : SReg) (x : W64) : (k.ws r x).vxe = k.vxe := by
  unfold Master.ws; split <;> rfl
@[simp] theorem ws_mxe (k : Master) (r : SReg) (x : W64) : (k.ws r x).mxe = k.mxe := by
  unfold Master.ws; split <;> rfl
@[simp] theorem ws_cpe (k : Master) (r : SReg) (x : W64) : (k.ws r x).cpe = k.cpe := by
  unfold Master.ws; split <;> rfl
@[simp] theorem ws_att (k : Master) (r : SReg) (x : W64) : (k.ws r x).att = k.att := by
  unfold Master.ws; split <;> rfl
@[simp] theorem ws_att8 (k : Master) (r : SReg) (x : W64) : (k.ws r x).att8 = k.att8 := by
  unfold Master.ws; split <;> rfl
@[simp] theorem ws_probes (k : Master) (r : SReg) (x : W64) : (k.ws r x).probes = k.probes := by
  unfold Master.ws; split <;> rfl
@[simp] theorem ws_exiting (k : Master) (r : SReg) (x : W64) : (k.ws r x).exiting = k.exiting := by
  unfold Master.ws; split <;> rfl
@[simp] theorem ws_hcount (k : Master) (r : SReg) (x : W64) : (k.ws r x).hcount = k.hcount := by
  unfold Master.ws; split <;> rfl
@[simp] theorem ws_hreq (k : Master) (r : SReg) (x : W64) : (k.ws r x).hreq = k.hreq := by
  unfold Master.ws; split <;> rfl
@[simp] theorem ws_zsel (k : Master) (r : SReg) (x : W64) : (k.ws r x).zsel = k.zsel := by
  unfold Master.ws; split <;> rfl
@[simp] theorem ws_qbad (k : Master) (r : SReg) (x : W64) : (k.ws r x).qbad = k.qbad := by
  unfold Master.ws; split <;> rfl
@[simp] theorem ws_saving (k : Master) (r : SReg) (x : W64) : (k.ws r x).saving = k.saving := by
  unfold Master.ws; split <;> rfl
@[simp] theorem ws_flt (k : Master) (r : SReg) (x : W64) : (k.ws r x).flt = k.flt := by
  unfold Master.ws; split <;> rfl
@[simp] theorem ws_exam (k : Master) (r : SReg) (x : W64) : (k.ws r x).exam = k.exam := by
  unfold Master.ws; split <;> rfl
@[simp] theorem ws_woke (k : Master) (r : SReg) (x : W64) : (k.ws r x).woke = k.woke := by
  unfold Master.ws; split <;> rfl
@[simp] theorem ws_gno (k : Master) (r : SReg) (x : W64) : (k.ws r x).gno = k.gno := by
  unfold Master.ws; split <;> rfl
@[simp] theorem ws_rv (k : Master) (r : SReg) (x : W64) (i : VReg) : (k.ws r x).rv i = k.rv i := by
  simp only [Master.rv, ws_v]
@[simp] theorem ws_rm (k : Master) (r : SReg) (x : W64) (i : MReg) : (k.ws r x).rm i = k.rm i := by
  simp only [Master.rm, ws_m]
@[simp] theorem ws_rc (k : Master) (r : SReg) (x : W64) (i : CReg) : (k.ws r x).rc i = k.rc i := by
  simp only [Master.rc, ws_c]
@[simp] theorem ws_rq (k : Master) (r : SReg) (x : W64) (i : QReg) : (k.ws r x).rq i = k.rq i := by
  simp only [Master.rq, ws_q]

/-! ## wv -/

@[simp] theorem wv_kind (k : Master) (r : VReg) (x : W1024) : (k.wv r x).kind = k.kind := rfl
@[simp] theorem wv_st (k : Master) (r : VReg) (x : W1024) : (k.wv r x).st = k.st := rfl
@[simp] theorem wv_s (k : Master) (r : VReg) (x : W1024) : (k.wv r x).s = k.s := rfl
@[simp] theorem wv_m (k : Master) (r : VReg) (x : W1024) : (k.wv r x).m = k.m := rfl
@[simp] theorem wv_c (k : Master) (r : VReg) (x : W1024) : (k.wv r x).c = k.c := rfl
@[simp] theorem wv_q (k : Master) (r : VReg) (x : W1024) : (k.wv r x).q = k.q := rfl
@[simp] theorem wv_o (k : Master) (r : VReg) (x : W1024) : (k.wv r x).o = k.o := rfl
@[simp] theorem wv_pc (k : Master) (r : VReg) (x : W1024) : (k.wv r x).pc = k.pc := rfl
@[simp] theorem wv_taskid (k : Master) (r : VReg) (x : W1024) : (k.wv r x).taskid = k.taskid := rfl
@[simp] theorem wv_grpid (k : Master) (r : VReg) (x : W1024) : (k.wv r x).grpid = k.grpid := rfl
@[simp] theorem wv_gangid (k : Master) (r : VReg) (x : W1024) : (k.wv r x).gangid = k.gangid := rfl
@[simp] theorem wv_coord (k : Master) (r : VReg) (x : W1024) : (k.wv r x).coord = k.coord := rfl
@[simp] theorem wv_lslot (k : Master) (r : VReg) (x : W1024) : (k.wv r x).lslot = k.lslot := rfl
@[simp] theorem wv_lgen (k : Master) (r : VReg) (x : W1024) : (k.wv r x).lgen = k.lgen := rfl
@[simp] theorem wv_stage (k : Master) (r : VReg) (x : W1024) : (k.wv r x).stage = k.stage := rfl
@[simp] theorem wv_proof (k : Master) (r : VReg) (x : W1024) : (k.wv r x).proof = k.proof := rfl
@[simp] theorem wv_orphv (k : Master) (r : VReg) (x : W1024) : (k.wv r x).orphv = k.orphv := rfl
@[simp] theorem wv_wlim (k : Master) (r : VReg) (x : W1024) : (k.wv r x).wlim = k.wlim := rfl
@[simp] theorem wv_rlim (k : Master) (r : VReg) (x : W1024) : (k.wv r x).rlim = k.rlim := rfl
@[simp] theorem wv_pend (k : Master) (r : VReg) (x : W1024) : (k.wv r x).pend = k.pend := rfl
@[simp] theorem wv_tbmask (k : Master) (r : VReg) (x : W1024) : (k.wv r x).tbmask = k.tbmask := rfl
@[simp] theorem wv_errst (k : Master) (r : VReg) (x : W1024) : (k.wv r x).errst = k.errst := rfl
@[simp] theorem wv_lsbase (k : Master) (r : VReg) (x : W1024) : (k.wv r x).lsbase = k.lsbase := rfl
@[simp] theorem wv_lssize (k : Master) (r : VReg) (x : W1024) : (k.wv r x).lssize = k.lssize := rfl
@[simp] theorem wv_zbase (k : Master) (r : VReg) (x : W1024) : (k.wv r x).zbase = k.zbase := rfl
@[simp] theorem wv_zcount (k : Master) (r : VReg) (x : W1024) : (k.wv r x).zcount = k.zcount := rfl
@[simp] theorem wv_prio (k : Master) (r : VReg) (x : W1024) : (k.wv r x).prio = k.prio := rfl
@[simp] theorem wv_slice (k : Master) (r : VReg) (x : W1024) : (k.wv r x).slice = k.slice := rfl
@[simp] theorem wv_nslice (k : Master) (r : VReg) (x : W1024) : (k.wv r x).nslice = k.nslice := rfl
@[simp] theorem wv_orphan (k : Master) (r : VReg) (x : W1024) : (k.wv r x).orphan = k.orphan := rfl
@[simp] theorem wv_park (k : Master) (r : VReg) (x : W1024) : (k.wv r x).park = k.park := rfl
@[simp] theorem wv_place (k : Master) (r : VReg) (x : W1024) : (k.wv r x).place = k.place := rfl
@[simp] theorem wv_was (k : Master) (r : VReg) (x : W1024) : (k.wv r x).was = k.was := rfl
@[simp] theorem wv_wait (k : Master) (r : VReg) (x : W1024) : (k.wv r x).wait = k.wait := rfl
@[simp] theorem wv_since (k : Master) (r : VReg) (x : W1024) : (k.wv r x).since = k.since := rfl
@[simp] theorem wv_parkO (k : Master) (r : VReg) (x : W1024) : (k.wv r x).parkO = k.parkO := rfl
@[simp] theorem wv_parkA (k : Master) (r : VReg) (x : W1024) : (k.wv r x).parkA = k.parkA := rfl
@[simp] theorem wv_tries (k : Master) (r : VReg) (x : W1024) : (k.wv r x).tries = k.tries := rfl
@[simp] theorem wv_resv (k : Master) (r : VReg) (x : W1024) : (k.wv r x).resv = k.resv := rfl
@[simp] theorem wv_issued (k : Master) (r : VReg) (x : W1024) : (k.wv r x).issued = k.issued := rfl
@[simp] theorem wv_await (k : Master) (r : VReg) (x : W1024) : (k.wv r x).await = k.await := rfl
@[simp] theorem wv_div (k : Master) (r : VReg) (x : W1024) : (k.wv r x).div = k.div := rfl
@[simp] theorem wv_yield (k : Master) (r : VReg) (x : W1024) : (k.wv r x).yield = k.yield := rfl
@[simp] theorem wv_cAcc (k : Master) (r : VReg) (x : W1024) : (k.wv r x).cAcc = k.cAcc := rfl
@[simp] theorem wv_cDone (k : Master) (r : VReg) (x : W1024) : (k.wv r x).cDone = k.cDone := rfl
@[simp] theorem wv_cFail (k : Master) (r : VReg) (x : W1024) : (k.wv r x).cFail = k.cFail := rfl
@[simp] theorem wv_cRep (k : Master) (r : VReg) (x : W1024) : (k.wv r x).cRep = k.cRep := rfl
@[simp] theorem wv_rRep (k : Master) (r : VReg) (x : W1024) : (k.wv r x).rRep = k.rRep := rfl
@[simp] theorem wv_posts (k : Master) (r : VReg) (x : W1024) : (k.wv r x).posts = k.posts := rfl
@[simp] theorem wv_kept (k : Master) (r : VReg) (x : W1024) : (k.wv r x).kept = k.kept := rfl
@[simp] theorem wv_vxe (k : Master) (r : VReg) (x : W1024) : (k.wv r x).vxe = k.vxe := rfl
@[simp] theorem wv_mxe (k : Master) (r : VReg) (x : W1024) : (k.wv r x).mxe = k.mxe := rfl
@[simp] theorem wv_cpe (k : Master) (r : VReg) (x : W1024) : (k.wv r x).cpe = k.cpe := rfl
@[simp] theorem wv_att (k : Master) (r : VReg) (x : W1024) : (k.wv r x).att = k.att := rfl
@[simp] theorem wv_att8 (k : Master) (r : VReg) (x : W1024) : (k.wv r x).att8 = k.att8 := rfl
@[simp] theorem wv_probes (k : Master) (r : VReg) (x : W1024) : (k.wv r x).probes = k.probes := rfl
@[simp] theorem wv_exiting (k : Master) (r : VReg) (x : W1024) : (k.wv r x).exiting = k.exiting := rfl
@[simp] theorem wv_hcount (k : Master) (r : VReg) (x : W1024) : (k.wv r x).hcount = k.hcount := rfl
@[simp] theorem wv_hreq (k : Master) (r : VReg) (x : W1024) : (k.wv r x).hreq = k.hreq := rfl
@[simp] theorem wv_zsel (k : Master) (r : VReg) (x : W1024) : (k.wv r x).zsel = k.zsel := rfl
@[simp] theorem wv_qbad (k : Master) (r : VReg) (x : W1024) : (k.wv r x).qbad = k.qbad := rfl
@[simp] theorem wv_saving (k : Master) (r : VReg) (x : W1024) : (k.wv r x).saving = k.saving := rfl
@[simp] theorem wv_flt (k : Master) (r : VReg) (x : W1024) : (k.wv r x).flt = k.flt := rfl
@[simp] theorem wv_exam (k : Master) (r : VReg) (x : W1024) : (k.wv r x).exam = k.exam := rfl
@[simp] theorem wv_woke (k : Master) (r : VReg) (x : W1024) : (k.wv r x).woke = k.woke := rfl
@[simp] theorem wv_gno (k : Master) (r : VReg) (x : W1024) : (k.wv r x).gno = k.gno := rfl
@[simp] theorem wv_rs (k : Master) (r : VReg) (x : W1024) (i : SReg) : (k.wv r x).rs i = k.rs i := by
  simp only [Master.rs, wv_s]
@[simp] theorem wv_rm (k : Master) (r : VReg) (x : W1024) (i : MReg) : (k.wv r x).rm i = k.rm i := by
  simp only [Master.rm, wv_m]
@[simp] theorem wv_rc (k : Master) (r : VReg) (x : W1024) (i : CReg) : (k.wv r x).rc i = k.rc i := by
  simp only [Master.rc, wv_c]
@[simp] theorem wv_rq (k : Master) (r : VReg) (x : W1024) (i : QReg) : (k.wv r x).rq i = k.rq i := by
  simp only [Master.rq, wv_q]

@[simp] theorem rv_wv (k : Master) (d r : VReg) (x : W1024) : (k.wv d x).rv r = if r = d then x else k.rv r :=
  (Tab.get_set _ k.v d.toNat r.toNat x).trans (by simp only [BitVec.toNat_inj, Master.rv])

/-! ## wm -/

@[simp] theorem wm_kind (k : Master) (r : MReg) (x : W128) : (k.wm r x).kind = k.kind := by
  unfold Master.wm; split <;> rfl
@[simp] theorem wm_st (k : Master) (r : MReg) (x : W128) : (k.wm r x).st = k.st := by
  unfold Master.wm; split <;> rfl
@[simp] theorem wm_s (k : Master) (r : MReg) (x : W128) : (k.wm r x).s = k.s := by
  unfold Master.wm; split <;> rfl
@[simp] theorem wm_v (k : Master) (r : MReg) (x : W128) : (k.wm r x).v = k.v := by
  unfold Master.wm; split <;> rfl
@[simp] theorem wm_c (k : Master) (r : MReg) (x : W128) : (k.wm r x).c = k.c := by
  unfold Master.wm; split <;> rfl
@[simp] theorem wm_q (k : Master) (r : MReg) (x : W128) : (k.wm r x).q = k.q := by
  unfold Master.wm; split <;> rfl
@[simp] theorem wm_o (k : Master) (r : MReg) (x : W128) : (k.wm r x).o = k.o := by
  unfold Master.wm; split <;> rfl
@[simp] theorem wm_pc (k : Master) (r : MReg) (x : W128) : (k.wm r x).pc = k.pc := by
  unfold Master.wm; split <;> rfl
@[simp] theorem wm_taskid (k : Master) (r : MReg) (x : W128) : (k.wm r x).taskid = k.taskid := by
  unfold Master.wm; split <;> rfl
@[simp] theorem wm_grpid (k : Master) (r : MReg) (x : W128) : (k.wm r x).grpid = k.grpid := by
  unfold Master.wm; split <;> rfl
@[simp] theorem wm_gangid (k : Master) (r : MReg) (x : W128) : (k.wm r x).gangid = k.gangid := by
  unfold Master.wm; split <;> rfl
@[simp] theorem wm_coord (k : Master) (r : MReg) (x : W128) : (k.wm r x).coord = k.coord := by
  unfold Master.wm; split <;> rfl
@[simp] theorem wm_lslot (k : Master) (r : MReg) (x : W128) : (k.wm r x).lslot = k.lslot := by
  unfold Master.wm; split <;> rfl
@[simp] theorem wm_lgen (k : Master) (r : MReg) (x : W128) : (k.wm r x).lgen = k.lgen := by
  unfold Master.wm; split <;> rfl
@[simp] theorem wm_stage (k : Master) (r : MReg) (x : W128) : (k.wm r x).stage = k.stage := by
  unfold Master.wm; split <;> rfl
@[simp] theorem wm_proof (k : Master) (r : MReg) (x : W128) : (k.wm r x).proof = k.proof := by
  unfold Master.wm; split <;> rfl
@[simp] theorem wm_orphv (k : Master) (r : MReg) (x : W128) : (k.wm r x).orphv = k.orphv := by
  unfold Master.wm; split <;> rfl
@[simp] theorem wm_wlim (k : Master) (r : MReg) (x : W128) : (k.wm r x).wlim = k.wlim := by
  unfold Master.wm; split <;> rfl
@[simp] theorem wm_rlim (k : Master) (r : MReg) (x : W128) : (k.wm r x).rlim = k.rlim := by
  unfold Master.wm; split <;> rfl
@[simp] theorem wm_pend (k : Master) (r : MReg) (x : W128) : (k.wm r x).pend = k.pend := by
  unfold Master.wm; split <;> rfl
@[simp] theorem wm_tbmask (k : Master) (r : MReg) (x : W128) : (k.wm r x).tbmask = k.tbmask := by
  unfold Master.wm; split <;> rfl
@[simp] theorem wm_errst (k : Master) (r : MReg) (x : W128) : (k.wm r x).errst = k.errst := by
  unfold Master.wm; split <;> rfl
@[simp] theorem wm_lsbase (k : Master) (r : MReg) (x : W128) : (k.wm r x).lsbase = k.lsbase := by
  unfold Master.wm; split <;> rfl
@[simp] theorem wm_lssize (k : Master) (r : MReg) (x : W128) : (k.wm r x).lssize = k.lssize := by
  unfold Master.wm; split <;> rfl
@[simp] theorem wm_zbase (k : Master) (r : MReg) (x : W128) : (k.wm r x).zbase = k.zbase := by
  unfold Master.wm; split <;> rfl
@[simp] theorem wm_zcount (k : Master) (r : MReg) (x : W128) : (k.wm r x).zcount = k.zcount := by
  unfold Master.wm; split <;> rfl
@[simp] theorem wm_prio (k : Master) (r : MReg) (x : W128) : (k.wm r x).prio = k.prio := by
  unfold Master.wm; split <;> rfl
@[simp] theorem wm_slice (k : Master) (r : MReg) (x : W128) : (k.wm r x).slice = k.slice := by
  unfold Master.wm; split <;> rfl
@[simp] theorem wm_nslice (k : Master) (r : MReg) (x : W128) : (k.wm r x).nslice = k.nslice := by
  unfold Master.wm; split <;> rfl
@[simp] theorem wm_orphan (k : Master) (r : MReg) (x : W128) : (k.wm r x).orphan = k.orphan := by
  unfold Master.wm; split <;> rfl
@[simp] theorem wm_park (k : Master) (r : MReg) (x : W128) : (k.wm r x).park = k.park := by
  unfold Master.wm; split <;> rfl
@[simp] theorem wm_place (k : Master) (r : MReg) (x : W128) : (k.wm r x).place = k.place := by
  unfold Master.wm; split <;> rfl
@[simp] theorem wm_was (k : Master) (r : MReg) (x : W128) : (k.wm r x).was = k.was := by
  unfold Master.wm; split <;> rfl
@[simp] theorem wm_wait (k : Master) (r : MReg) (x : W128) : (k.wm r x).wait = k.wait := by
  unfold Master.wm; split <;> rfl
@[simp] theorem wm_since (k : Master) (r : MReg) (x : W128) : (k.wm r x).since = k.since := by
  unfold Master.wm; split <;> rfl
@[simp] theorem wm_parkO (k : Master) (r : MReg) (x : W128) : (k.wm r x).parkO = k.parkO := by
  unfold Master.wm; split <;> rfl
@[simp] theorem wm_parkA (k : Master) (r : MReg) (x : W128) : (k.wm r x).parkA = k.parkA := by
  unfold Master.wm; split <;> rfl
@[simp] theorem wm_tries (k : Master) (r : MReg) (x : W128) : (k.wm r x).tries = k.tries := by
  unfold Master.wm; split <;> rfl
@[simp] theorem wm_resv (k : Master) (r : MReg) (x : W128) : (k.wm r x).resv = k.resv := by
  unfold Master.wm; split <;> rfl
@[simp] theorem wm_issued (k : Master) (r : MReg) (x : W128) : (k.wm r x).issued = k.issued := by
  unfold Master.wm; split <;> rfl
@[simp] theorem wm_await (k : Master) (r : MReg) (x : W128) : (k.wm r x).await = k.await := by
  unfold Master.wm; split <;> rfl
@[simp] theorem wm_div (k : Master) (r : MReg) (x : W128) : (k.wm r x).div = k.div := by
  unfold Master.wm; split <;> rfl
@[simp] theorem wm_yield (k : Master) (r : MReg) (x : W128) : (k.wm r x).yield = k.yield := by
  unfold Master.wm; split <;> rfl
@[simp] theorem wm_cAcc (k : Master) (r : MReg) (x : W128) : (k.wm r x).cAcc = k.cAcc := by
  unfold Master.wm; split <;> rfl
@[simp] theorem wm_cDone (k : Master) (r : MReg) (x : W128) : (k.wm r x).cDone = k.cDone := by
  unfold Master.wm; split <;> rfl
@[simp] theorem wm_cFail (k : Master) (r : MReg) (x : W128) : (k.wm r x).cFail = k.cFail := by
  unfold Master.wm; split <;> rfl
@[simp] theorem wm_cRep (k : Master) (r : MReg) (x : W128) : (k.wm r x).cRep = k.cRep := by
  unfold Master.wm; split <;> rfl
@[simp] theorem wm_rRep (k : Master) (r : MReg) (x : W128) : (k.wm r x).rRep = k.rRep := by
  unfold Master.wm; split <;> rfl
@[simp] theorem wm_posts (k : Master) (r : MReg) (x : W128) : (k.wm r x).posts = k.posts := by
  unfold Master.wm; split <;> rfl
@[simp] theorem wm_kept (k : Master) (r : MReg) (x : W128) : (k.wm r x).kept = k.kept := by
  unfold Master.wm; split <;> rfl
@[simp] theorem wm_vxe (k : Master) (r : MReg) (x : W128) : (k.wm r x).vxe = k.vxe := by
  unfold Master.wm; split <;> rfl
@[simp] theorem wm_mxe (k : Master) (r : MReg) (x : W128) : (k.wm r x).mxe = k.mxe := by
  unfold Master.wm; split <;> rfl
@[simp] theorem wm_cpe (k : Master) (r : MReg) (x : W128) : (k.wm r x).cpe = k.cpe := by
  unfold Master.wm; split <;> rfl
@[simp] theorem wm_att (k : Master) (r : MReg) (x : W128) : (k.wm r x).att = k.att := by
  unfold Master.wm; split <;> rfl
@[simp] theorem wm_att8 (k : Master) (r : MReg) (x : W128) : (k.wm r x).att8 = k.att8 := by
  unfold Master.wm; split <;> rfl
@[simp] theorem wm_probes (k : Master) (r : MReg) (x : W128) : (k.wm r x).probes = k.probes := by
  unfold Master.wm; split <;> rfl
@[simp] theorem wm_exiting (k : Master) (r : MReg) (x : W128) : (k.wm r x).exiting = k.exiting := by
  unfold Master.wm; split <;> rfl
@[simp] theorem wm_hcount (k : Master) (r : MReg) (x : W128) : (k.wm r x).hcount = k.hcount := by
  unfold Master.wm; split <;> rfl
@[simp] theorem wm_hreq (k : Master) (r : MReg) (x : W128) : (k.wm r x).hreq = k.hreq := by
  unfold Master.wm; split <;> rfl
@[simp] theorem wm_zsel (k : Master) (r : MReg) (x : W128) : (k.wm r x).zsel = k.zsel := by
  unfold Master.wm; split <;> rfl
@[simp] theorem wm_qbad (k : Master) (r : MReg) (x : W128) : (k.wm r x).qbad = k.qbad := by
  unfold Master.wm; split <;> rfl
@[simp] theorem wm_saving (k : Master) (r : MReg) (x : W128) : (k.wm r x).saving = k.saving := by
  unfold Master.wm; split <;> rfl
@[simp] theorem wm_flt (k : Master) (r : MReg) (x : W128) : (k.wm r x).flt = k.flt := by
  unfold Master.wm; split <;> rfl
@[simp] theorem wm_exam (k : Master) (r : MReg) (x : W128) : (k.wm r x).exam = k.exam := by
  unfold Master.wm; split <;> rfl
@[simp] theorem wm_woke (k : Master) (r : MReg) (x : W128) : (k.wm r x).woke = k.woke := by
  unfold Master.wm; split <;> rfl
@[simp] theorem wm_gno (k : Master) (r : MReg) (x : W128) : (k.wm r x).gno = k.gno := by
  unfold Master.wm; split <;> rfl
@[simp] theorem wm_rs (k : Master) (r : MReg) (x : W128) (i : SReg) : (k.wm r x).rs i = k.rs i := by
  simp only [Master.rs, wm_s]
@[simp] theorem wm_rv (k : Master) (r : MReg) (x : W128) (i : VReg) : (k.wm r x).rv i = k.rv i := by
  simp only [Master.rv, wm_v]
@[simp] theorem wm_rc (k : Master) (r : MReg) (x : W128) (i : CReg) : (k.wm r x).rc i = k.rc i := by
  simp only [Master.rc, wm_c]
@[simp] theorem wm_rq (k : Master) (r : MReg) (x : W128) (i : QReg) : (k.wm r x).rq i = k.rq i := by
  simp only [Master.rq, wm_q]

/-- Register 0 of the file reads its constant whatever is written. -/
@[simp] theorem rm_wm (k : Master) (d r : MReg) (x : W128) :
    (k.wm d x).rm r = if r = 0 then BitVec.allOnes 128 else if r = d then x else k.rm r := by
  unfold Master.wm Master.rm
  by_cases hr : r = 0
  · rw [if_pos hr, if_pos hr]
  · rw [if_neg hr, if_neg hr]
    by_cases hd : d = 0
    · rw [if_pos hd, if_neg fun e => hr (e.trans hd), if_neg hr]
    · rw [if_neg hd, if_neg hr]
      exact (Tab.get_set _ k.m d.toNat r.toNat x).trans (by simp only [BitVec.toNat_inj])

/-! ## wc -/

@[simp] theorem wc_kind (k : Master) (r : CReg) (x : Cap) : (k.wc r x).kind = k.kind := by
  unfold Master.wc; split <;> rfl
@[simp] theorem wc_st (k : Master) (r : CReg) (x : Cap) : (k.wc r x).st = k.st := by
  unfold Master.wc; split <;> rfl
@[simp] theorem wc_s (k : Master) (r : CReg) (x : Cap) : (k.wc r x).s = k.s := by
  unfold Master.wc; split <;> rfl
@[simp] theorem wc_v (k : Master) (r : CReg) (x : Cap) : (k.wc r x).v = k.v := by
  unfold Master.wc; split <;> rfl
@[simp] theorem wc_m (k : Master) (r : CReg) (x : Cap) : (k.wc r x).m = k.m := by
  unfold Master.wc; split <;> rfl
@[simp] theorem wc_q (k : Master) (r : CReg) (x : Cap) : (k.wc r x).q = k.q := by
  unfold Master.wc; split <;> rfl
@[simp] theorem wc_o (k : Master) (r : CReg) (x : Cap) : (k.wc r x).o = k.o := by
  unfold Master.wc; split <;> rfl
@[simp] theorem wc_pc (k : Master) (r : CReg) (x : Cap) : (k.wc r x).pc = k.pc := by
  unfold Master.wc; split <;> rfl
@[simp] theorem wc_taskid (k : Master) (r : CReg) (x : Cap) : (k.wc r x).taskid = k.taskid := by
  unfold Master.wc; split <;> rfl
@[simp] theorem wc_grpid (k : Master) (r : CReg) (x : Cap) : (k.wc r x).grpid = k.grpid := by
  unfold Master.wc; split <;> rfl
@[simp] theorem wc_gangid (k : Master) (r : CReg) (x : Cap) : (k.wc r x).gangid = k.gangid := by
  unfold Master.wc; split <;> rfl
@[simp] theorem wc_coord (k : Master) (r : CReg) (x : Cap) : (k.wc r x).coord = k.coord := by
  unfold Master.wc; split <;> rfl
@[simp] theorem wc_lslot (k : Master) (r : CReg) (x : Cap) : (k.wc r x).lslot = k.lslot := by
  unfold Master.wc; split <;> rfl
@[simp] theorem wc_lgen (k : Master) (r : CReg) (x : Cap) : (k.wc r x).lgen = k.lgen := by
  unfold Master.wc; split <;> rfl
@[simp] theorem wc_stage (k : Master) (r : CReg) (x : Cap) : (k.wc r x).stage = k.stage := by
  unfold Master.wc; split <;> rfl
@[simp] theorem wc_proof (k : Master) (r : CReg) (x : Cap) : (k.wc r x).proof = k.proof := by
  unfold Master.wc; split <;> rfl
@[simp] theorem wc_orphv (k : Master) (r : CReg) (x : Cap) : (k.wc r x).orphv = k.orphv := by
  unfold Master.wc; split <;> rfl
@[simp] theorem wc_wlim (k : Master) (r : CReg) (x : Cap) : (k.wc r x).wlim = k.wlim := by
  unfold Master.wc; split <;> rfl
@[simp] theorem wc_rlim (k : Master) (r : CReg) (x : Cap) : (k.wc r x).rlim = k.rlim := by
  unfold Master.wc; split <;> rfl
@[simp] theorem wc_pend (k : Master) (r : CReg) (x : Cap) : (k.wc r x).pend = k.pend := by
  unfold Master.wc; split <;> rfl
@[simp] theorem wc_tbmask (k : Master) (r : CReg) (x : Cap) : (k.wc r x).tbmask = k.tbmask := by
  unfold Master.wc; split <;> rfl
@[simp] theorem wc_errst (k : Master) (r : CReg) (x : Cap) : (k.wc r x).errst = k.errst := by
  unfold Master.wc; split <;> rfl
@[simp] theorem wc_lsbase (k : Master) (r : CReg) (x : Cap) : (k.wc r x).lsbase = k.lsbase := by
  unfold Master.wc; split <;> rfl
@[simp] theorem wc_lssize (k : Master) (r : CReg) (x : Cap) : (k.wc r x).lssize = k.lssize := by
  unfold Master.wc; split <;> rfl
@[simp] theorem wc_zbase (k : Master) (r : CReg) (x : Cap) : (k.wc r x).zbase = k.zbase := by
  unfold Master.wc; split <;> rfl
@[simp] theorem wc_zcount (k : Master) (r : CReg) (x : Cap) : (k.wc r x).zcount = k.zcount := by
  unfold Master.wc; split <;> rfl
@[simp] theorem wc_prio (k : Master) (r : CReg) (x : Cap) : (k.wc r x).prio = k.prio := by
  unfold Master.wc; split <;> rfl
@[simp] theorem wc_slice (k : Master) (r : CReg) (x : Cap) : (k.wc r x).slice = k.slice := by
  unfold Master.wc; split <;> rfl
@[simp] theorem wc_nslice (k : Master) (r : CReg) (x : Cap) : (k.wc r x).nslice = k.nslice := by
  unfold Master.wc; split <;> rfl
@[simp] theorem wc_orphan (k : Master) (r : CReg) (x : Cap) : (k.wc r x).orphan = k.orphan := by
  unfold Master.wc; split <;> rfl
@[simp] theorem wc_park (k : Master) (r : CReg) (x : Cap) : (k.wc r x).park = k.park := by
  unfold Master.wc; split <;> rfl
@[simp] theorem wc_place (k : Master) (r : CReg) (x : Cap) : (k.wc r x).place = k.place := by
  unfold Master.wc; split <;> rfl
@[simp] theorem wc_was (k : Master) (r : CReg) (x : Cap) : (k.wc r x).was = k.was := by
  unfold Master.wc; split <;> rfl
@[simp] theorem wc_wait (k : Master) (r : CReg) (x : Cap) : (k.wc r x).wait = k.wait := by
  unfold Master.wc; split <;> rfl
@[simp] theorem wc_since (k : Master) (r : CReg) (x : Cap) : (k.wc r x).since = k.since := by
  unfold Master.wc; split <;> rfl
@[simp] theorem wc_parkO (k : Master) (r : CReg) (x : Cap) : (k.wc r x).parkO = k.parkO := by
  unfold Master.wc; split <;> rfl
@[simp] theorem wc_parkA (k : Master) (r : CReg) (x : Cap) : (k.wc r x).parkA = k.parkA := by
  unfold Master.wc; split <;> rfl
@[simp] theorem wc_tries (k : Master) (r : CReg) (x : Cap) : (k.wc r x).tries = k.tries := by
  unfold Master.wc; split <;> rfl
@[simp] theorem wc_resv (k : Master) (r : CReg) (x : Cap) : (k.wc r x).resv = k.resv := by
  unfold Master.wc; split <;> rfl
@[simp] theorem wc_issued (k : Master) (r : CReg) (x : Cap) : (k.wc r x).issued = k.issued := by
  unfold Master.wc; split <;> rfl
@[simp] theorem wc_await (k : Master) (r : CReg) (x : Cap) : (k.wc r x).await = k.await := by
  unfold Master.wc; split <;> rfl
@[simp] theorem wc_div (k : Master) (r : CReg) (x : Cap) : (k.wc r x).div = k.div := by
  unfold Master.wc; split <;> rfl
@[simp] theorem wc_yield (k : Master) (r : CReg) (x : Cap) : (k.wc r x).yield = k.yield := by
  unfold Master.wc; split <;> rfl
@[simp] theorem wc_cAcc (k : Master) (r : CReg) (x : Cap) : (k.wc r x).cAcc = k.cAcc := by
  unfold Master.wc; split <;> rfl
@[simp] theorem wc_cDone (k : Master) (r : CReg) (x : Cap) : (k.wc r x).cDone = k.cDone := by
  unfold Master.wc; split <;> rfl
@[simp] theorem wc_cFail (k : Master) (r : CReg) (x : Cap) : (k.wc r x).cFail = k.cFail := by
  unfold Master.wc; split <;> rfl
@[simp] theorem wc_cRep (k : Master) (r : CReg) (x : Cap) : (k.wc r x).cRep = k.cRep := by
  unfold Master.wc; split <;> rfl
@[simp] theorem wc_rRep (k : Master) (r : CReg) (x : Cap) : (k.wc r x).rRep = k.rRep := by
  unfold Master.wc; split <;> rfl
@[simp] theorem wc_posts (k : Master) (r : CReg) (x : Cap) : (k.wc r x).posts = k.posts := by
  unfold Master.wc; split <;> rfl
@[simp] theorem wc_kept (k : Master) (r : CReg) (x : Cap) : (k.wc r x).kept = k.kept := by
  unfold Master.wc; split <;> rfl
@[simp] theorem wc_vxe (k : Master) (r : CReg) (x : Cap) : (k.wc r x).vxe = k.vxe := by
  unfold Master.wc; split <;> rfl
@[simp] theorem wc_mxe (k : Master) (r : CReg) (x : Cap) : (k.wc r x).mxe = k.mxe := by
  unfold Master.wc; split <;> rfl
@[simp] theorem wc_cpe (k : Master) (r : CReg) (x : Cap) : (k.wc r x).cpe = k.cpe := by
  unfold Master.wc; split <;> rfl
@[simp] theorem wc_att (k : Master) (r : CReg) (x : Cap) : (k.wc r x).att = k.att := by
  unfold Master.wc; split <;> rfl
@[simp] theorem wc_att8 (k : Master) (r : CReg) (x : Cap) : (k.wc r x).att8 = k.att8 := by
  unfold Master.wc; split <;> rfl
@[simp] theorem wc_probes (k : Master) (r : CReg) (x : Cap) : (k.wc r x).probes = k.probes := by
  unfold Master.wc; split <;> rfl
@[simp] theorem wc_exiting (k : Master) (r : CReg) (x : Cap) : (k.wc r x).exiting = k.exiting := by
  unfold Master.wc; split <;> rfl
@[simp] theorem wc_hcount (k : Master) (r : CReg) (x : Cap) : (k.wc r x).hcount = k.hcount := by
  unfold Master.wc; split <;> rfl
@[simp] theorem wc_hreq (k : Master) (r : CReg) (x : Cap) : (k.wc r x).hreq = k.hreq := by
  unfold Master.wc; split <;> rfl
@[simp] theorem wc_zsel (k : Master) (r : CReg) (x : Cap) : (k.wc r x).zsel = k.zsel := by
  unfold Master.wc; split <;> rfl
@[simp] theorem wc_qbad (k : Master) (r : CReg) (x : Cap) : (k.wc r x).qbad = k.qbad := by
  unfold Master.wc; split <;> rfl
@[simp] theorem wc_saving (k : Master) (r : CReg) (x : Cap) : (k.wc r x).saving = k.saving := by
  unfold Master.wc; split <;> rfl
@[simp] theorem wc_flt (k : Master) (r : CReg) (x : Cap) : (k.wc r x).flt = k.flt := by
  unfold Master.wc; split <;> rfl
@[simp] theorem wc_exam (k : Master) (r : CReg) (x : Cap) : (k.wc r x).exam = k.exam := by
  unfold Master.wc; split <;> rfl
@[simp] theorem wc_woke (k : Master) (r : CReg) (x : Cap) : (k.wc r x).woke = k.woke := by
  unfold Master.wc; split <;> rfl
@[simp] theorem wc_gno (k : Master) (r : CReg) (x : Cap) : (k.wc r x).gno = k.gno := by
  unfold Master.wc; split <;> rfl
@[simp] theorem wc_rs (k : Master) (r : CReg) (x : Cap) (i : SReg) : (k.wc r x).rs i = k.rs i := by
  simp only [Master.rs, wc_s]
@[simp] theorem wc_rv (k : Master) (r : CReg) (x : Cap) (i : VReg) : (k.wc r x).rv i = k.rv i := by
  simp only [Master.rv, wc_v]
@[simp] theorem wc_rm (k : Master) (r : CReg) (x : Cap) (i : MReg) : (k.wc r x).rm i = k.rm i := by
  simp only [Master.rm, wc_m]
@[simp] theorem wc_rq (k : Master) (r : CReg) (x : Cap) (i : QReg) : (k.wc r x).rq i = k.rq i := by
  simp only [Master.rq, wc_q]

/-- Register 0 of the file reads its constant whatever is written. -/
@[simp] theorem rc_wc (k : Master) (d r : CReg) (x : Cap) :
    (k.wc d x).rc r = if r = 0 then Cap.null else if r = d then x else k.rc r := by
  unfold Master.wc Master.rc
  by_cases hr : r = 0
  · rw [if_pos hr, if_pos hr]
  · rw [if_neg hr, if_neg hr]
    by_cases hd : d = 0
    · rw [if_pos hd, if_neg fun e => hr (e.trans hd), if_neg hr]
    · rw [if_neg hd, if_neg hr]
      exact (Tab.get_set _ k.c d.toNat r.toNat x).trans (by simp only [BitVec.toNat_inj])

/-! ## wq -/

@[simp] theorem wq_kind (k : Master) (r : QReg) (x : W64) : (k.wq r x).kind = k.kind := rfl
@[simp] theorem wq_st (k : Master) (r : QReg) (x : W64) : (k.wq r x).st = k.st := rfl
@[simp] theorem wq_s (k : Master) (r : QReg) (x : W64) : (k.wq r x).s = k.s := rfl
@[simp] theorem wq_v (k : Master) (r : QReg) (x : W64) : (k.wq r x).v = k.v := rfl
@[simp] theorem wq_m (k : Master) (r : QReg) (x : W64) : (k.wq r x).m = k.m := rfl
@[simp] theorem wq_c (k : Master) (r : QReg) (x : W64) : (k.wq r x).c = k.c := rfl
@[simp] theorem wq_o (k : Master) (r : QReg) (x : W64) : (k.wq r x).o = k.o := rfl
@[simp] theorem wq_pc (k : Master) (r : QReg) (x : W64) : (k.wq r x).pc = k.pc := rfl
@[simp] theorem wq_taskid (k : Master) (r : QReg) (x : W64) : (k.wq r x).taskid = k.taskid := rfl
@[simp] theorem wq_grpid (k : Master) (r : QReg) (x : W64) : (k.wq r x).grpid = k.grpid := rfl
@[simp] theorem wq_gangid (k : Master) (r : QReg) (x : W64) : (k.wq r x).gangid = k.gangid := rfl
@[simp] theorem wq_coord (k : Master) (r : QReg) (x : W64) : (k.wq r x).coord = k.coord := rfl
@[simp] theorem wq_lslot (k : Master) (r : QReg) (x : W64) : (k.wq r x).lslot = k.lslot := rfl
@[simp] theorem wq_lgen (k : Master) (r : QReg) (x : W64) : (k.wq r x).lgen = k.lgen := rfl
@[simp] theorem wq_stage (k : Master) (r : QReg) (x : W64) : (k.wq r x).stage = k.stage := rfl
@[simp] theorem wq_proof (k : Master) (r : QReg) (x : W64) : (k.wq r x).proof = k.proof := rfl
@[simp] theorem wq_orphv (k : Master) (r : QReg) (x : W64) : (k.wq r x).orphv = k.orphv := rfl
@[simp] theorem wq_wlim (k : Master) (r : QReg) (x : W64) : (k.wq r x).wlim = k.wlim := rfl
@[simp] theorem wq_rlim (k : Master) (r : QReg) (x : W64) : (k.wq r x).rlim = k.rlim := rfl
@[simp] theorem wq_pend (k : Master) (r : QReg) (x : W64) : (k.wq r x).pend = k.pend := rfl
@[simp] theorem wq_tbmask (k : Master) (r : QReg) (x : W64) : (k.wq r x).tbmask = k.tbmask := rfl
@[simp] theorem wq_errst (k : Master) (r : QReg) (x : W64) : (k.wq r x).errst = k.errst := rfl
@[simp] theorem wq_lsbase (k : Master) (r : QReg) (x : W64) : (k.wq r x).lsbase = k.lsbase := rfl
@[simp] theorem wq_lssize (k : Master) (r : QReg) (x : W64) : (k.wq r x).lssize = k.lssize := rfl
@[simp] theorem wq_zbase (k : Master) (r : QReg) (x : W64) : (k.wq r x).zbase = k.zbase := rfl
@[simp] theorem wq_zcount (k : Master) (r : QReg) (x : W64) : (k.wq r x).zcount = k.zcount := rfl
@[simp] theorem wq_prio (k : Master) (r : QReg) (x : W64) : (k.wq r x).prio = k.prio := rfl
@[simp] theorem wq_slice (k : Master) (r : QReg) (x : W64) : (k.wq r x).slice = k.slice := rfl
@[simp] theorem wq_nslice (k : Master) (r : QReg) (x : W64) : (k.wq r x).nslice = k.nslice := rfl
@[simp] theorem wq_orphan (k : Master) (r : QReg) (x : W64) : (k.wq r x).orphan = k.orphan := rfl
@[simp] theorem wq_park (k : Master) (r : QReg) (x : W64) : (k.wq r x).park = k.park := rfl
@[simp] theorem wq_place (k : Master) (r : QReg) (x : W64) : (k.wq r x).place = k.place := rfl
@[simp] theorem wq_was (k : Master) (r : QReg) (x : W64) : (k.wq r x).was = k.was := rfl
@[simp] theorem wq_wait (k : Master) (r : QReg) (x : W64) : (k.wq r x).wait = k.wait := rfl
@[simp] theorem wq_since (k : Master) (r : QReg) (x : W64) : (k.wq r x).since = k.since := rfl
@[simp] theorem wq_parkO (k : Master) (r : QReg) (x : W64) : (k.wq r x).parkO = k.parkO := rfl
@[simp] theorem wq_parkA (k : Master) (r : QReg) (x : W64) : (k.wq r x).parkA = k.parkA := rfl
@[simp] theorem wq_tries (k : Master) (r : QReg) (x : W64) : (k.wq r x).tries = k.tries := rfl
@[simp] theorem wq_resv (k : Master) (r : QReg) (x : W64) : (k.wq r x).resv = k.resv := rfl
@[simp] theorem wq_issued (k : Master) (r : QReg) (x : W64) : (k.wq r x).issued = k.issued := rfl
@[simp] theorem wq_await (k : Master) (r : QReg) (x : W64) : (k.wq r x).await = k.await := rfl
@[simp] theorem wq_div (k : Master) (r : QReg) (x : W64) : (k.wq r x).div = k.div := rfl
@[simp] theorem wq_yield (k : Master) (r : QReg) (x : W64) : (k.wq r x).yield = k.yield := rfl
@[simp] theorem wq_cAcc (k : Master) (r : QReg) (x : W64) : (k.wq r x).cAcc = k.cAcc := rfl
@[simp] theorem wq_cDone (k : Master) (r : QReg) (x : W64) : (k.wq r x).cDone = k.cDone := rfl
@[simp] theorem wq_cFail (k : Master) (r : QReg) (x : W64) : (k.wq r x).cFail = k.cFail := rfl
@[simp] theorem wq_cRep (k : Master) (r : QReg) (x : W64) : (k.wq r x).cRep = k.cRep := rfl
@[simp] theorem wq_rRep (k : Master) (r : QReg) (x : W64) : (k.wq r x).rRep = k.rRep := rfl
@[simp] theorem wq_posts (k : Master) (r : QReg) (x : W64) : (k.wq r x).posts = k.posts := rfl
@[simp] theorem wq_kept (k : Master) (r : QReg) (x : W64) : (k.wq r x).kept = k.kept := rfl
@[simp] theorem wq_vxe (k : Master) (r : QReg) (x : W64) : (k.wq r x).vxe = k.vxe := rfl
@[simp] theorem wq_mxe (k : Master) (r : QReg) (x : W64) : (k.wq r x).mxe = k.mxe := rfl
@[simp] theorem wq_cpe (k : Master) (r : QReg) (x : W64) : (k.wq r x).cpe = k.cpe := rfl
@[simp] theorem wq_att (k : Master) (r : QReg) (x : W64) : (k.wq r x).att = k.att := rfl
@[simp] theorem wq_att8 (k : Master) (r : QReg) (x : W64) : (k.wq r x).att8 = k.att8 := rfl
@[simp] theorem wq_probes (k : Master) (r : QReg) (x : W64) : (k.wq r x).probes = k.probes := rfl
@[simp] theorem wq_exiting (k : Master) (r : QReg) (x : W64) : (k.wq r x).exiting = k.exiting := rfl
@[simp] theorem wq_hcount (k : Master) (r : QReg) (x : W64) : (k.wq r x).hcount = k.hcount := rfl
@[simp] theorem wq_hreq (k : Master) (r : QReg) (x : W64) : (k.wq r x).hreq = k.hreq := rfl
@[simp] theorem wq_zsel (k : Master) (r : QReg) (x : W64) : (k.wq r x).zsel = k.zsel := rfl
@[simp] theorem wq_qbad (k : Master) (r : QReg) (x : W64) : (k.wq r x).qbad = k.qbad := rfl
@[simp] theorem wq_saving (k : Master) (r : QReg) (x : W64) : (k.wq r x).saving = k.saving := rfl
@[simp] theorem wq_flt (k : Master) (r : QReg) (x : W64) : (k.wq r x).flt = k.flt := rfl
@[simp] theorem wq_exam (k : Master) (r : QReg) (x : W64) : (k.wq r x).exam = k.exam := rfl
@[simp] theorem wq_woke (k : Master) (r : QReg) (x : W64) : (k.wq r x).woke = k.woke := rfl
@[simp] theorem wq_gno (k : Master) (r : QReg) (x : W64) : (k.wq r x).gno = k.gno := rfl
@[simp] theorem wq_rs (k : Master) (r : QReg) (x : W64) (i : SReg) : (k.wq r x).rs i = k.rs i := by
  simp only [Master.rs, wq_s]
@[simp] theorem wq_rv (k : Master) (r : QReg) (x : W64) (i : VReg) : (k.wq r x).rv i = k.rv i := by
  simp only [Master.rv, wq_v]
@[simp] theorem wq_rm (k : Master) (r : QReg) (x : W64) (i : MReg) : (k.wq r x).rm i = k.rm i := by
  simp only [Master.rm, wq_m]
@[simp] theorem wq_rc (k : Master) (r : QReg) (x : W64) (i : CReg) : (k.wq r x).rc i = k.rc i := by
  simp only [Master.rc, wq_c]

@[simp] theorem rq_wq (k : Master) (d r : QReg) (x : W64) : (k.wq d x).rq r = if r = d then x else k.rq r :=
  (Tab.get_set _ k.q d.toNat r.toNat x).trans (by simp only [BitVec.toNat_inj, Master.rq])

end Sys2Proof.Machine
end

