-- ==== Sys2Proof/Laws/Step.lean ====
section
/-! SUPPORT. What a step can do: it makes the state ready, and then executes what is upcoming or lets a cycle pass. Making ready and
choosing change who waits and who acts, and no memory, version, batch or request, so a proof about a step is one about `exec`. -/

namespace Sys2Proof.Machine

/-- A request slot freed, or given, wakes one master at most. -/
theorem slotFreed_eq (s : State) (pool : Nat) : ∃ ms, s.slotFreed pool = { s with masters := ms } := by
  unfold State.slotFreed
  split
  · exact ⟨s.masters, rfl⟩
  split
  · exact ⟨_, rfl⟩
  · exact ⟨s.masters, rfl⟩
theorem grantSlots_eq (s : State) : ∃ ms, s.grantSlots = { s with masters := ms } := by
  have go : ∀ (l : List Nat) (s : State), ∃ ms, l.foldl (fun s k => s.slotFreed (slotPool k)) s = { s with masters := ms } := by
    intro l
    induction l with
    | nil => exact fun s => ⟨s.masters, rfl⟩
    | cons k l ih =>
      intro s
      obtain ⟨ms, e⟩ := slotFreed_eq s (slotPool k)
      obtain ⟨ms', e'⟩ := ih (s.slotFreed (slotPool k))
      exact ⟨ms', by rw [List.foldl_cons, e', e]⟩
  exact go _ s

/-- What follows from the last step changes masters and the launches' stalls alone. -/
theorem ready_eq (s : State) : ∃ ms ls, s.ready = { s with masters := ms, launches := ls } := by
  obtain ⟨ms, e⟩ : ∃ ms, s.examine.settle = { s.examine with masters := ms } := by
    obtain ⟨ms, e⟩ := grantSlots_eq { s.examine with masters := s.examine.masters.map fun ((k, m) : Nat × Master) => (k, s.examine.settled1 m) }
    exact ⟨ms, e⟩
  refine ⟨ms, (s.examine.settle.stalls).launches, ?_⟩
  unfold State.ready State.stalls
  rw [e]
  rfl
@[simp] theorem ready_mem (s : State) : s.ready.mem = s.mem := by obtain ⟨_, _, e⟩ := ready_eq s; rw [e]
@[simp] theorem ready_vers (s : State) : s.ready.vers = s.vers := by obtain ⟨_, _, e⟩ := ready_eq s; rw [e]
@[simp] theorem ready_batches (s : State) : s.ready.batches = s.batches := by obtain ⟨_, _, e⟩ := ready_eq s; rw [e]
@[simp] theorem ready_reqs (s : State) : s.ready.reqs = s.reqs := by obtain ⟨_, _, e⟩ := ready_eq s; rw [e]
@[simp] theorem ready_agenda (s : State) : s.ready.agenda = s.agenda := by obtain ⟨_, _, e⟩ := ready_eq s; rw [e]

/-- An issue's bookkeeping and a passing cycle leave memory as it is. -/
@[simp] theorem issueMark_mem (s : State) (pos : Nat) : (s.issueMark pos).mem = s.mem := by
  unfold State.issueMark
  dsimp only
  split <;> rfl
@[simp] theorem enter_mem (s : State) (cur arg : Nat) : (s.enter cur arg).mem = s.mem := rfl
@[simp] theorem tick_mem (s : State) : s.tick.mem = s.mem := rfl

/-- What is upcoming is executed with the memory as it stands. -/
theorem upcoming_mem {s t : State} {i : Instr} (h : s.upcoming = some (i, t)) : t.mem = s.mem := by
  unfold State.upcoming at h
  split at h
  · cases h; rfl
  · split at h
    · cases h; rfl
    · cases h; simp
    · cases h

/-- A step that answers a next state executes what is upcoming, or lets a cycle pass. -/
theorem step_cases {s t : State} (h : step s = .next t) :
    (∃ i u, s.ready.upcoming = some (i, u) ∧ exec i u = .next t) ∨ (s.ready.upcoming = none ∧ t = s.ready.tick) := by
  unfold step at h
  split at h
  · exact .inl ⟨_, _, ‹_›, h⟩
  · cases h; exact .inr ⟨‹_›, rfl⟩

/-- An instruction that is held parks its task and changes nothing else. -/
theorem hold_eq (s : State) : s.hold = s.parkM s.cur .release 0xF 0 := rfl
@[simp] theorem hold_mem (s : State) : s.hold.mem = s.mem := rfl
@[simp] theorem hold_reqs (s : State) : s.hold.reqs = s.reqs := rfl

end Sys2Proof.Machine
end

