-- ==== Sys2Proof/Laws/Task.lean ====
section
/-! SUPPORT. A choice among several things is free, but that there is one is not: a choice answers exactly when its list is not
empty, and answers a member of it. -/

namespace Sys2Proof.Machine

/-- A free choice answers exactly when there is something to choose. -/
theorem isSome_pickOf (s : State) (l : List Nat) : (s.pickOf l).isSome = !l.isEmpty := by
  cases l with
  | nil => simp [State.pickOf]
  | cons a r =>
    have h : Config.freeNat s.free % (a :: r).length < (a :: r).length := Nat.mod_lt _ (by simp)
    simp only [State.pickOf, List.getElem?_eq_getElem h, Option.isSome_some, List.isEmpty_cons, Bool.not_false]

/-- What a free choice answers is a member of its list. -/
theorem mem_of_pickOf {s : State} {l : List Nat} {a : Nat} (h : s.pickOf l = some a) : a ∈ l := by
  simpa [State.pickOf] using List.mem_of_getElem? h

/-- A list that is not empty has its choice. -/
theorem pickOf_of_isEmpty {s : State} {l : List Nat} (h : l.isEmpty = false) : ∃ a, s.pickOf l = some a := by
  rw [← Option.isSome_iff_exists, isSome_pickOf, h]; rfl

/-- Drawing a free value changes the counter alone. -/
@[simp] theorem drew_free (s : State) : s.drew.free = s.free + 1 := rfl
@[simp] theorem drew_mem (s : State) : s.drew.mem = s.mem := rfl
@[simp] theorem drew_masters (s : State) : s.drew.masters = s.masters := rfl

/-- Tiles, an LS offset, a proof id, a range index and a saved record can be chosen exactly when one is free. -/
theorem isSome_freeTiles (s : State) (core n : Nat) : (s.freeTiles core n).isSome =
    !((List.range (17 - n)).filter fun b => (List.range n).all fun i => Tab.get 0 (s.core core).tiles (b + i) = 0).isEmpty :=
  isSome_pickOf s _
theorem isSome_anyOff (s : State) (core size : Nat) (compat : Bool) : (s.anyOff core size compat).isSome =
    !(((List.range 4096).map (· * 64)).filter fun o => s.lsFree core o size compat).isEmpty := isSome_pickOf s _
theorem isSome_freeProof (s : State) : s.freeProof.isSome =
    !(((List.range 65535).map (· + 1)).filter fun i => (Tab.find? s.proofs i).isNone && (Tab.find? s.retired i).isNone).isEmpty :=
  isSome_pickOf s _
theorem isSome_freeRange (s : State) (part : Nat) : (s.freeRange part).isSome =
    !((List.range 4096).filter fun i => !(s.rangeIds part).contains i).isEmpty := isSome_pickOf s _
theorem isSome_freeRecord (s : State) (part : Nat) : (s.freeRecord part).isSome =
    !((List.range 16384).filter fun i =>
      (Tab.find? s.saves (part * 16384 + i)).isNone && (s.savingAt (part * 16384 + i)).isNone).isEmpty := isSome_pickOf s _

end Sys2Proof.Machine
end

