-- ==== Sys2Proof/Tests/Slice0.lean ====
section
/-! SUPPORT. The model's own tests: words written out from the encoding tables, ill-formed terms, small meaning tests with
values from the specification's own examples, and for each statement states that meet its hypotheses. -/

namespace Sys2Proof.Tests

-- Each theorem is checked before the next one: the pending ones would hold a thread each.
set_option Elab.async false

open Sys2Proof Sys2Proof.Machine Sys2Proof.Claims

/-! ## Decoding: the words are written out from R59 to R78 and the entries' encoding lines -/

/-- A head of a base word with no switch marker. -/
def hd : Hd := ⟨false, 0, false, 0⟩
/-- A head of a three-word form. -/
def hx : Hd := ⟨false, 0, true, 0⟩
/-- A memory operand [cN]. -/
def at' (c : CReg) : MemOp := ⟨c, 0, 0, 0⟩

theorem test_decode_ld_w : decodeTableWord 32 0x80042700 = some (.ldW ⟨hd, 0, 0, 2, at' 1⟩) := by decide
theorem test_decode_ld_w_marked : decodeTableWord 96 0x000000040000000080043705 =
    some (.ldW ⟨⟨true, 0, true, 0⟩, 0, 0, 3, ⟨1, 0, 0, 4⟩⟩) := by decide
theorem test_decode_ld_w_try : decodeTableWord 96 0x00000004FFFFC00080043711 =
    some (.ldW ⟨⟨false, 2, true, 0xFFFFC⟩, 0, 0, 3, ⟨1, 0, 0, 4⟩⟩) := by decide
theorem test_decode_addi : decodeTableWord 32 0xFD104100 = some (.addi ⟨false, 4, 4, 0xFD⟩) := by decide
theorem test_decode_li : decodeTableWord 160 0x0000000123456789000000000000000000005122 =
    some (.li ⟨false, 5, .lit 0x123456789⟩) := by decide
theorem test_decode_add : decodeTableWord 32 0x05103020 = some (.add ⟨false, 3, 4, .reg 5⟩) := by decide
theorem test_decode_sel : decodeTableWord 96 0x1000000000000000430810E1 = some (.sel ⟨false, 1, 2, 3, 4⟩) := by decide
theorem test_decode_bfx : decodeTableWord 96 0x0000000000000B0880185161 = some (.bfx ⟨false, 5, 6, .const 8 11⟩) := by decide
theorem test_decode_boc : decodeTableWord 32 0x00083800 = some (.boc ⟨false, 3, .base 2⟩) := by decide
theorem test_decode_trap : decodeTableWord 32 0x8002A1E0 = some (.trap ⟨false, .base 0x2A⟩) := by decide
theorem test_decode_mfs : decodeTableWord 32 0x00204200 = some (.mfs ⟨⟨false, false⟩, 4, 8⟩) := by decide
theorem test_decode_vadd : decodeTableWord 96 0x000000000000010003081401 =
    some (.vadd ⟨hx, 1, 0, 0, 1, 2, 3⟩) := by decide
theorem test_decode_vfma : decodeTableWord 96 0x0C00000000000900C2044481 =
    some (.vfma ⟨hx, 9, 0, 0, 4, 1, 2, 3⟩) := by decide
theorem test_decode_mand : decodeTableWord 32 0x03081540 = some (.mand ⟨hd, 1, 2, 3⟩) := by decide
theorem test_decode_mma : decodeTableWord 224 0x000000000408201C0000008023000080000000000000000000000603 =
    some (.mma ⟨hx, 0, ⟨2, 3, false, 128, false, 128, false, 32, false, 32, true, 7, false, false, 0, 0, false, 0⟩⟩) := by decide
theorem test_decode_atq : decodeTableWord 32 0x000C2680 = some (.atq ⟨hd, at' 3, 2, 0⟩) := by decide
theorem test_decode_kvapp : decodeTableWord 32 0xC0084680 = some (.kvapp ⟨hd, 4, at' 2, 0⟩) := by decide
theorem test_decode_ldc : decodeTableWord 32 0x02445760 = some (.ldc ⟨hd, 0, 0, 5, ⟨1, 1, 2, 0⟩⟩) := by decide
theorem test_decode_cpy : decodeTableWord 96 0x100000400000000002843781 = some (.cpy ⟨hx, 1, 2, 2, 3, 64, 4⟩) := by decide
theorem test_decode_amsg : decodeTableWord 32 0x000817A0 = some (.amsg ⟨hd, 1, at' 2, 0⟩) := by decide
theorem test_decode_fence : decodeTableWord 32 0x000007E4 = some (.fence ⟨false, 0, 0⟩) := by decide
theorem test_decode_park : decodeTableWord 32 0x40045820 = some (.park ⟨⟨false, false⟩, 0, 5, at' 1⟩) := by decide
theorem test_decode_qput : decodeTableWord 32 0x00046840 = some (.qput ⟨hd, 6, at' 1⟩) := by decide
theorem test_decode_ldsy : decodeTableWord 32 0x000C2880 = some (.ldsy ⟨hd, 0, 0, 2, at' 3⟩) := by decide
theorem test_decode_amo_add : decodeTableWord 96 0x1800000000000300000C58E1 =
    some (.amoAdd ⟨hx, 3, 0, 0, 5, at' 3, 6⟩) := by decide
theorem test_decode_gang : decodeTableWord 32 0x03081A00 = some (.gang ⟨hd, 1, 2, 3⟩) := by decide
theorem test_decode_exit : decodeTableWord 32 0xC0000A00 = some (.exit ⟨false, false⟩) := by decide
theorem test_decode_csetb : decodeTableWord 32 0x090C7A80 = some (.csetb ⟨false, 7, 3, 9⟩) := by decide
theorem test_decode_cadd : decodeTableWord 96 0x000FFFC00000000040104A81 = some (.cadd ⟨false, 4, 4, .imm 0xFFFC0⟩) := by decide
theorem test_decode_lease : decodeTableWord 32 0x00083AE4 = some (.lease ⟨⟨true, 0, false, 0⟩, 3, at' 2⟩) := by decide
theorem test_decode_icsync : decodeTableWord 32 0xC0045AE0 = some (.icsync ⟨⟨false, false⟩, 0, 5, at' 1⟩) := by decide
theorem test_decode_plate : decodeTableWord 32 0x440C2B00 = some (.plate ⟨hd, 2, 3, 4⟩) := by decide
theorem test_decode_prcan_try : decodeTableWord 96 0x00000000FFFFD000C0006B31 =
    some (.prcan ⟨⟨false, 2, true, 0xFFFFD⟩, 6⟩) := by decide
theorem test_decode_prorv : decodeTableWord 96 0x0000000A0000000040000B41 = some (.prorv ⟨⟨false, true⟩, 0, 10⟩) := by decide
theorem test_decode_preempt : decodeTableWord 32 0x07185B80 = some (.preempt ⟨hd, 5, 6, 7⟩) := by decide
theorem test_decode_freeze : decodeTableWord 32 0x80248B80 = some (.freeze ⟨⟨false, false⟩, 8, 9⟩) := by decide
/-- An unassigned opcode, and a reserved bit set in NOP, decode to nothing (R74, R78). -/
theorem test_decode_unassigned : decodeTableWord 32 0x00000FE0 = none ∧ decodeTableWord 32 0x410001E0 = none := by decide
/-- The encoder writes the words that the specification prints (R59, R112). -/
theorem test_encode_li : encode (.li ⟨false, 5, .lit 0x123456789⟩) = [0x00005122, 0, 0, 0x23456789, 1] := by decide

/-! ## Well-formedness: one ill-formed term for each check -/

theorem test_refuses_target_without_try : (Instr.ldW ⟨⟨false, 0, true, 5⟩, 0, 0, 1, at' 1⟩).wf = false := by decide
theorem test_refuses_try_in_base_word : (Instr.ldW ⟨⟨false, 2, false, 0⟩, 0, 0, 1, at' 1⟩).wf = false := by decide
theorem test_refuses_displacement_in_base_word : (Instr.ldW ⟨hd, 0, 0, 1, ⟨1, 0, 0, 4⟩⟩).wf = false := by decide
theorem test_refuses_release_load : (Instr.ldW ⟨hx, 2, 0, 1, at' 1⟩).wf = false := by decide
theorem test_refuses_scope_without_order : (Instr.ldW ⟨hx, 0, 2, 1, at' 1⟩).wf = false := by decide
theorem test_refuses_reserved_scope : (Instr.ldW ⟨hx, 1, 6, 1, at' 1⟩).wf = false := by decide
theorem test_refuses_outcome_code_12 : (Instr.boc ⟨false, 12, .base 0⟩).wf = false := by decide
theorem test_refuses_special_register_21 : (Instr.mfs ⟨⟨false, false⟩, 1, 0x15⟩).wf = false := by decide
theorem test_refuses_float_type_on_vadd : (Instr.vadd ⟨hx, 9, 0, 0, 1, 2, 3⟩).wf = false := by decide
theorem test_refuses_type_in_base_word : (Instr.vadd ⟨hd, 2, 0, 0, 1, 2, 3⟩).wf = false := by decide
theorem test_refuses_rounding_on_vadd : (Instr.vadd ⟨hx, 1, 1, 0, 1, 2, 3⟩).wf = false := by decide
theorem test_refuses_mask_in_base_word : (Instr.vadd ⟨hd, 0, 0, 1, 1, 2, 3⟩).wf = false := by decide
theorem test_refuses_rounding_on_vex2_f : (Instr.vex2 ⟨hx, 9, 1, 0, 1, 2⟩).wf = false := by decide
theorem test_refuses_vc_in_base_word : (Instr.vfma ⟨hd, 0, 0, 0, 1, 2, 3, 4⟩).wf = false := by decide
theorem test_refuses_vcmp_condition : (Instr.vcmp ⟨hx, 1, 0, 1, 2, 3, 6⟩).wf = false ∧ (Instr.vfcmp ⟨hx, 9, 0, 1, 2, 3, 10⟩).wf = false := by
  decide
theorem test_refuses_vcvt_to_itself : (Instr.vcvt ⟨hx, 9, 0, false, 0, 1, 2, false, false, 0, 9⟩).wf = false := by decide
theorem test_refuses_vcvt_part : (Instr.vcvt ⟨hx, 9, 0, false, 0, 1, 2, false, false, 2, 7⟩).wf = false := by decide
theorem test_refuses_vdsx_type : (Instr.vdsx ⟨hx, 1, 0, false, 0, 1, 2, 3, false, 0⟩).wf = false := by decide
theorem test_refuses_vred_op_3 : (Instr.vred ⟨hx, 3, 0, 0, 1, 2, 3⟩).wf = false := by decide
theorem test_refuses_rounding_on_integer_vred : (Instr.vred ⟨hx, 3, 1, 0, 1, 2, 0⟩).wf = false := by decide
/-- A tensor block with constants within their limits. -/
def tp0 : TP :=
  { acap := 2, bcap := 3, sas := false, sa := 128, sbs := false, sb := 128, ms := false, m := 32, ns := false, n := 32, ks := false
    k := 64, ta := false, tb := false, mcm := 0, mc := 0, qe := false, q := 0 }
theorem test_refuses_tensor_block : (Instr.mma ⟨hx, 0, tp0⟩).wf = true ∧ (Instr.mma ⟨hx, 0, { tp0 with acap := 0 }⟩).wf = false ∧
    (Instr.mma ⟨hx, 0, { tp0 with sa := 100 }⟩).wf = false ∧ (Instr.mma ⟨hx, 0, { tp0 with m := 33 }⟩).wf = false ∧
    (Instr.mma ⟨hx, 0, { tp0 with k := 1025 }⟩).wf = false ∧ (Instr.mma ⟨hx, 0, { tp0 with mcm := 3 }⟩).wf = false ∧
    (Instr.mma ⟨hx, 0, { tp0 with q := 1 }⟩).wf = false := by decide
theorem test_refuses_mmas_of_two_capabilities : (Instr.mmas ⟨hx, 0, tp0⟩).wf = false := by decide
theorem test_refuses_zcvt_saturation_to_integer : (Instr.zcvt ⟨hx, 3, 0, true, 0, 1, 0⟩).wf = false := by decide
theorem test_refuses_rounding_on_plain_ldv : (Instr.ldv ⟨hx, 1, 0, 0, 1, false, 0, 1, at' 1⟩).wf = false := by decide
theorem test_refuses_float_type_on_stv : (Instr.stv ⟨hx, 9, 0, 0, 0, false, 0, 1, at' 1⟩).wf = false := by decide
theorem test_refuses_gather_index_in_base_word : (Instr.ldg ⟨hd, 0, 0, 1, 2, at' 1⟩).wf = false := by decide
theorem test_refuses_barrier_span : (Instr.bara ⟨hx, 0, 1, 1, 0⟩).wf = false ∧ (Instr.bara ⟨hx, 1, 0, 1, 0⟩).wf = false ∧
    (Instr.barc ⟨hx, 2, 0, 1, 0⟩).wf = false ∧ (Instr.bart ⟨hd, 0, 0, 1, 1⟩).wf = false := by decide
theorem test_refuses_amo : (Instr.amoAdd ⟨hd, 3, 0, 0, 1, at' 1, 2⟩).wf = false ∧ (Instr.amoAdd ⟨hx, 2, 0, 0, 1, at' 1, 2⟩).wf = false := by
  decide
theorem test_refuses_red : (Instr.redFadd ⟨hx, 3, 1, at' 1⟩).wf = false ∧ (Instr.redAdd ⟨hd, 3, 1, at' 1⟩).wf = false ∧
    (Instr.redw ⟨hd, 1⟩).wf = false ∧ (Instr.cbfree ⟨hd, 1, at' 1, 2⟩).wf = false := by decide
theorem test_refuses_long_only_fields : (Instr.qset ⟨hd, 0, at' 1, 2⟩).wf = false ∧ (Instr.atq ⟨hd, at' 1, 2, 3⟩).wf = false ∧
    (Instr.kvapp ⟨hd, 1, at' 2, 3⟩).wf = false ∧ (Instr.kvdesc ⟨hd, at' 1, 2, 3⟩).wf = false ∧
    (Instr.cpy ⟨hd, 1, 0, 0, 2, 0, 3⟩).wf = false ∧ (Instr.amsg ⟨hd, 1, at' 2, 3⟩).wf = false ∧
    (Instr.waitge ⟨hd, 0, 0, 1, 2, at' 1⟩).wf = false ∧ (Instr.engwait ⟨hd, 1⟩).wf = false ∧
    (Instr.spawn ⟨hd, 1, 2⟩).wf = false ∧ (Instr.prorv ⟨⟨false, false⟩, 1, 2⟩).wf = false ∧
    (Instr.vbcast ⟨hd, 0, 1, 1, 2⟩).wf = false ∧ (Instr.vslide ⟨hd, 0, 1, 1, 2, 3⟩).wf = false := by decide
theorem test_refuses_other_forms : (Instr.mmaBgs ⟨hd, 0⟩).wf = false ∧ (Instr.bankmode ⟨hd, at' 1, 3⟩).wf = false ∧
    (Instr.fence ⟨false, 0, 2⟩).wf = false ∧ (Instr.geto ⟨⟨false, true⟩, 1⟩).wf = false ∧
    (Instr.park ⟨⟨false, true⟩, 1, 1, at' 1⟩).wf = false ∧ (Instr.icsync ⟨⟨false, true⟩, 5, 1, at' 1⟩).wf = false ∧
    (Instr.govcfg ⟨⟨false, 3, false, 0⟩, 1, 2⟩).wf = false ∧ (Instr.plate ⟨⟨false, 2, true, 0⟩, 1, 2, 3⟩).wf = false ∧
    (Instr.imprd ⟨hd, at' 1, 2, 3⟩).wf = false := by decide

/-! ## Meanings: one step each, with values from the specification's own examples -/

/-- The state after an instruction, or the state itself if it has none. -/
def after (i : Instr) (s : State) : State := match exec i s with | .next t => t | _ => s

/-- A task with the given s registers. -/
def withS (l : Tab W64) : State := oneTask { aTask with s := l }

/-- R107's table: -7 / 2 is -3 with remainder -1. -/
theorem test_div_truncates : (after (.div ⟨false, 3, 1, .reg 2⟩) (withS [(1, -7), (2, 2)])).me.div = some (3, -3) := by decide +kernel
theorem test_rem_has_dividends_sign : (after (.rem ⟨false, 3, 1, .reg 2⟩) (withS [(1, -7), (2, 2)])).me.div = some (3, -1) := by
  decide +kernel
/-- R107's table: the overflowing quotient. -/
theorem test_div_overflow : (after (.div ⟨false, 3, 1, .imm 0xFFFFFFFF⟩) (withS [(1, 0x8000000000000000)])).me.div =
    some (3, 0x8000000000000000) := by decide +kernel
/-- R107's table: 7 / 0, unsigned. -/
theorem test_divu_by_zero : (after (.divu ⟨false, 3, 1, .reg 2⟩) (withS [(1, 7)])).me.div = some (3, 0xFFFFFFFFFFFFFFFF) := by
  decide +kernel
/-- R107's table: MULHU of all ones by all ones. -/
theorem test_mulhu : (after (.mulhu ⟨false, 3, 1, .reg 1⟩) (withS [(1, 0xFFFFFFFFFFFFFFFF)])).me.rs 3 = 0xFFFFFFFFFFFFFFFE := by
  decide +kernel
/-- R107's table: SRA by 63 of the most negative number. -/
theorem test_sra : (after (.sra ⟨false, 3, 1, .imm 63⟩) (withS [(1, 0x8000000000000000)])).me.rs 3 = 0xFFFFFFFFFFFFFFFF := by
  decide +kernel
/-- R106: a shift count of 64 in a register reads as 0. -/
theorem test_shl_by_64 : (after (.shl ⟨false, 3, 1, .reg 2⟩) (withS [(1, 5), (2, 64)])).me.rs 3 = 5 := by decide +kernel
/-- R17: a write to s0 is discarded. -/
theorem test_s0_stays_zero : (after (.add ⟨false, 0, 1, .reg 1⟩) (withS [(1, 5)])).me.rs 0 = 0 := by decide +kernel
/-- R113: a taken branch goes to its first word's address plus four times the offset. -/
theorem test_branch_back : (after (.beq ⟨false, 1, 1, .base 0x3F⟩) (withS [])).me.pc = 0xFFC := by decide +kernel
/-- R114: CALL links the next instruction, and RET masks the low two bits. -/
theorem test_call_links : (after (.call ⟨false, .base 4⟩) (withS [])).me.rs 63 = 0x1004 := by decide +kernel
theorem test_ret_masks : (after (.ret ⟨⟨false, false⟩, 63⟩) (withS [(63, 0x1237)])).me.pc = 0x1234 := by decide +kernel
/-- R117, R22: WLIM below 256 is stored as 256. -/
theorem test_mts_wlim : (after (.mts ⟨⟨false, false⟩, 1, 8⟩) (withS [(1, 5)])).me.wlim = 256 := by decide +kernel
/-- R120: TRAP freezes with the PC at the next instruction and queues its packet. -/
theorem test_trap : (after (.trap ⟨false, .base 42⟩) (withS [])).me.st = .frozen ∧
    ((after (.trap ⟨false, .base 42⟩) (withS [])).die 0).pkts.map (fun p => (p.cause, p.d0)) = [(0x0C, 42)] := by decide +kernel

/-- R362's example: a GLOB capability over [0x40000000, 0x60000000) at 0x50000000, with 0x30001 bytes asked for. -/
def capExample : Cap := (Cap.over 3 0x3F 0x40000000 0x20000000 0).withCursor 0x50000000
theorem test_csetb_example :
    let r := (after (.csetb ⟨false, 7, 3, 9⟩) (oneTask { aTask with s := [(9, 0x30001)], c := [(3, capExample)] })).me.rc 7
    r.scl = 4 ∧ r.glen = 0x3001 ∧ r.base = 0x50000000 ∧ r.top = 0x50030010 ∧ r.tag = true := by decide +kernel
/-- R362's example: a cursor at 0x2FFFF0 beyond keeps the tag, and at 0x300000 loses it. -/
theorem test_cadd_reach :
    let c := (after (.csetb ⟨false, 7, 3, 9⟩) (oneTask { aTask with s := [(9, 0x30001)], c := [(3, capExample)] })).me.rc 7
    let go := fun (x : W64) => ((after (.cadd ⟨false, 6, 7, .reg 8⟩) (oneTask { aTask with s := [(8, x)], c := [(7, c)] })).me.rc 6).tag
    go 0x2FFFF0 = true ∧ go 0x300000 = false := by decide +kernel
/-- R98: NaN converts to integer 0, and an infinity to the bound of the range. -/
theorem test_to_integer : roundInt 0 (-128) 127 .nan = 0 ∧ roundInt 0 (-128) 127 (.inf true) = -128 := by decide +kernel

/-- R129: VADD.B wraps in each byte. -/
theorem test_vadd_b : ((aTask.wv 2 0x1FF).wv 3 0x101 |>.vxeRun (.vadd ⟨hx, 1, 0, 0, 1, 2, 3⟩) 0 0).rv 1 = 0x200 := by decide +kernel
/-- R136's example: 2^24, 0, 1 and 1 sum to 2^24 + 2, and without element 2 to 2^24. -/
theorem test_vred_example : let m := (aTask.wv 2 (0x4B800000 + 0x3F800000 * 2 ^ 64 + 0x3F800000 * 2 ^ 96)).wm 1 (~~~0xF00)
    (m.vxeRun (.vred ⟨hx, 9, 0, 0, 1, 2, 0⟩) 0 0).rv 1 = 0x4B800001 ∧ (m.vxeRun (.vred ⟨hx, 9, 0, 1, 1, 2, 0⟩) 0 0).rv 1 = 0x4B800000 := by
  decide +kernel
/-- R135's table: 0x0A under scale -3 is 0.09375 in FP16. -/
theorem test_vdsx_example : vElem (((aTask.wv 2 0x0A).vxeRun (.vdsx ⟨hx, 7, 0, false, 0, 1, 2, 3, false, 0⟩) 0 0xFD).rv 1) 16 0 = 0x2E00 := by
  decide +kernel
/-- R134's example: VCVT.HF v1, v2, F, 1 writes elements 32 to 63 and leaves the others. -/
theorem test_vcvt_example : let r := (((aTask.wv 1 0x1234).wv 2 0x3F800000).vxeRun (.vcvt ⟨hx, 7, 0, false, 0, 1, 2, false, false, 1, 9⟩) 0 0).rv 1
    vElem r 16 0 = 0x1234 ∧ vElem r 16 32 = 0x3C00 := by decide +kernel
/-- R138: MPOP counts active elements. -/
theorem test_mpop : ((aTask.wm 1 0x10F).vxeRun (.mpop ⟨hx, 1, 2, 1⟩) 0 0).rs 2 = 5 := by decide +kernel

/-- R383's words: both forms of the region's start and its end, each ILLEGAL where it is executed. -/
theorem test_region_markers : pword [0x00185FC0] = .pfor 5 6 1 ∧ pword [0x00005FC1, 0x40, 0] = .pfor 5 0 3 ∧ pword [0x40000FC0] = .endp ∧
    decode [0x00185FC0] = .illegal 2 ∧ decode [0x00005FC1, 0x40, 0] = .illegal 2 ∧ decode [0x40000FC0] = .illegal 2 := by decide +kernel
/-- R379's example: three images of one object, with the fuse counter at 4 and at 3. -/
def fatExample : List FatEntry :=
  [{ kind := 1, svn := 5, revid := 0x0003000000000002, featreq := 0x3F, offset := 0, length := 0 },
   { kind := 1, svn := 3, revid := 0x0003000000000001, featreq := 0x0F, offset := 0, length := 0 },
   { kind := 2, svn := 5, revid := 0, featreq := 0, offset := 0, length := 0 }]
theorem test_fat_example_fuse_3 : ({ State.reset with rot := { State.reset.rot with objFuse := 3 } } : State).fatChoose fatExample (fun _ => 0) 0 = .native 1 := by
  decide +kernel
theorem test_fat_example_fuse_4 : (fatLive 4 fatExample).map Prod.fst = [0, 2] ∧ (fatLive 4 fatExample).find? (fun x => x.2.kind = 1 && x.2.revid = revid) = none ∧
    fatFamily (fatLive 4 fatExample) = none ∧ ((fatLive 4 fatExample).find? (fun x => x.2.kind = 2)).map Prod.fst = some 2 := by
  decide +kernel

/-! ## A step runs what stands at the PC -/

/-- The first instruction after reset, ADDI s4, s4, -3, placed by `withFetchWord`, is fetched and executed. -/
theorem test_step_runs_addi :
    (match step (State.reset.withFetchWord 32 0xFD104100) with | .next t => t.me.rs 4 | _ => 0) = 0xFFFFFFFFFFFFFFFD := by
  decide +kernel
/-- An unassigned first word freezes its master with ILLEGAL. -/
theorem test_step_illegal :
    (match step (State.reset.withFetchWord 32 0x00000FE0) with
     | .next t => (t.die 0).pkts.map fun p => p.cause | _ => []) = [1] := by decide +kernel
/-- The first step from reset is POWER_ON. -/
theorem test_reset_powers_on : State.reset.upcoming.map Prod.fst = some .powerOn := by decide +kernel

/-! ## Witnesses: states and operands that meet the hypotheses of each statement, clause by clause -/

/-- Every permission over a whole space. -/
def whole (sp : Nat) : Cap := Cap.make 0 0x3FF sp 0 63 0 0 true
/-- A code capability over [0, 2^18). -/
def codeCap : Cap := Cap.over 4 4 0 0x40000 0
/-- An mapped page of partition 0: transactional, writable. -/
def page0 : Page := { psz := 0, w := true, x := false, pl := false, imm := false, ms := false, abu := false, file := false, hpin := false, tier := 0, home := 0, nsid := 0, flba := 0, t2 := false, wb := 0, again := false, dord := 0, svn := 0, stale := false, tsvn := none, ctl := false, fwd := [], hdrs := [] }
/-- A running launch with a shadow budget. -/
def launch0 : Launch :=
  { st := .running, gen := 1, part := 0, sq := 0, usertag := 0, compat := true, lease := 0, prio := 5, arg := Cap.null, entry := 0, root := 1
    gx := 1, gy := 1, gpg := 1, tpg := 1, pmode := 0, pdie := 0, pclu := 0, pcore := 0, stage := 0, nslice := 1, slots := 1, lsb := 1
    zacc := 2, hash := 0, foot := [], budget := 0x10000, use := 0, gangs := 1, greqs := [], stages := [], clu := some 0, gov := false, govNew := [], defers := []
    halos := [], pend := [], bound := [], ord := 0, endAt := 0, sweep := none, stall := 0, stallRep := none, prioAt := none }
/-- A task with capabilities over its LS (c1), GLOB (c2), CLU (c3), CODE (c4) and keys (c5), an LS allocation and two tiles. -/
def aTask2 : Master :=
  { aTask with c := [(1, whole 1), (2, whole 3), (3, whole 2), (4, codeCap), (5, whole 0), (6, whole 5)], lsbase := 0, lssize := 0x10000, zcount := 2, proof := 1 }
/-- The task in a module with its launch, its proof, an IMM page at 0x100000, a transactional one at 0x110000, a memory-side one at
0x120000, an ABU-placed one at 0x130000, all leased, and the banks of its cluster in scratchpad mode but bank 1, a FIFO. -/
def world (m : Master) : State :=
  { State.reset with
    agenda := [], masters := [(0, m)], launches := [(1, launch0)], proofs := [(1, { lslot := 1, parent := 0, depth := 0, st := 0, ord := 0 })]
    cores := [(0, { Core.empty with allocs := [{ lslot := 1, gang := 0, grp := 0, base := 0, size := 0x10000, pinned := false }], tiles := [(0, 1), (1, 1)] })]
    pages := [(pageKey 0 0x100000 0, { page0 with imm := true }), (pageKey 0 0x110000 0, page0), (pageKey 0 0x120000 0, { page0 with imm := true, ms := true })
              , (pageKey 0 0x130000 0, { page0 with imm := true, abu := true })]
    ranges := [(0, { lease := 0, base := 0x100000, len := 0x40000, rev := false })]
    banks := [(0, { Bank.empty with mode := 1 }), (1, { Bank.empty with mode := 2, free := 100 })]
    parts := [(0, { Part.empty with dies := [0], full := true })], dies := [(0, { Die.empty with joined := true, full := true })] }
def w0 : State := world aTask2

theorem test_meets_issues : Issues w0 ∧ IsTask w0 ∧ NoHandler w0 := by unfold Issues IsTask NoHandler; decide +kernel
/-- A handler at its last permitted instruction issues too. -/
theorem test_meets_issues_handler : Issues (oneTask { aTask with kind := .handler, hcount := 64 }) := by unfold Issues; decide +kernel
theorem test_meets_DivisionResults : let s := oneTask { aTask with div := some ((5 : SReg).toNat, 7) }
    s.me.kind ≠ .empty ∧ s.me.exiting = false ∧ s.me.div = some ((5 : SReg).toNat, 7) := by decide +kernel
theorem test_meets_JumpsThroughCodeCapabilities : CodeOk (w0.me.rc 4) ((0x3FFFC : W64) &&& ~~~3) ∧
    (w0.me.rc 0).tag = false ∧ ((w0.me.rc 4).withSeal 3).sealT ≠ 0 ∧ (w0.me.rc 2).has [pExec] = true ∧ (w0.me.rc 2).space ≠ 4 ∧
    (w0.me.rc 4).top < ((0x40000 : W64) &&& ~~~3).toNat + 4 := by unfold CodeOk; decide +kernel
theorem test_meets_SpecialRegisters : (0x14 : BitVec 6).toNat ≤ 0x14 ∧ 0x14 < (0x15 : BitVec 6).toNat ∧
    ((0x08 : Nat), (aTask2.wlim.setWidth 64 : W64)) ∈ launchFields aTask2 ∧ (oneTask { aTask with kind := .handler }).me.kind = .handler := by decide +kernel
theorem test_meets_VectorAcceptance : vxeForm (.vins ⟨hx, 3, 1, 2, 3⟩) w0.me = some (hx, w0.me.rs 2, w0.me.rs 3) ∧ w0.me.vxe.length < 2 := by
  decide +kernel
/-- A job of an engine queue, ready for its first step. -/
def job (k : JobK) : Job :=
  { k := k, pc := 0x1000, ord := 0, proof := 1, acc := 1, dead := false, unit := 0, held := false, bad := false, rd := [], wr := [], seen := [], res := none, kd := none, after := [], at' := 0 }
theorem test_meets_VectorExecution : let j := job (.vxe (.vadd ⟨hx, 1, 0, 0, 1, 2, 3⟩) 0 0)
    let s := world { aTask2 with vxe := [j] }
    IsTask s ∧ s.me.exiting = false ∧ s.me.saving = none ∧ s.me.vxe.head? = some j ∧ j.bad = false := by unfold IsTask; decide +kernel
theorem test_meets_element_types : ((0 : BitVec 4), 32) ∈ intTypes ∧ ((1 : BitVec 4), 8) ∈ intTypes ∧ ((2 : BitVec 4), 16) ∈ intTypes ∧ ((4 : BitVec 4), 64) ∈ intTypes ∧
    ((0 : BitVec 4), 32, ffF) ∈ fpTypes ∧ ((9 : BitVec 4), 32, ffF) ∈ fpTypes ∧ ((7 : BitVec 4), 16, ffHF) ∈ fpTypes ∧ ((8 : BitVec 4), 16, ffBF) ∈ fpTypes := by decide
theorem test_meets_vector_operations : laneOps.length = 14 ∧ fpOps.length = 3 ∧ intConds.map Prod.fst = [0, 1, 2, 3, 4, 5, 10, 11, 12, 13] ∧
    fpConds.map Prod.fst = [0, 1, 2, 3, 4, 5, 6, 7] ∧ (intRed 32).map Prod.fst = [0, 1, 2] ∧ (fpRed ffF 0).map Prod.fst = [0, 1, 2] ∧
    8 * 2 ^ 7 = 1024 ∧ 16 * 2 ^ 6 = 1024 ∧ 32 * 2 ^ 5 = 1024 ∧ 64 * 2 ^ 4 = 1024 := by decide
/-- Lanes of NaN, -inf, +inf, 0, 2, -1, -150, 128 and -149, all active. -/
theorem test_meets_special_lanes :
    let l := [0x7FC00000, 0xFF800000, 0x7F800000, 0, 0x40000000, 0xBF800000, 0xC3160000, 0x43000000, 0xC3150000]
    let m := aTask.wv 2 (BitVec.ofNat 1024 (l.foldr (fun x a => x + 2 ^ 32 * a) 0))
    let a := fun (e : Nat) => ffF.num (vElem (m.rv 2) 32 e)
    (∀ e < 9, (m.rm 0).getLsbD (e * 4) = true) ∧ a 0 = .nan ∧ a 1 = .inf true ∧ a 2 = .inf false ∧ a 3 = .fin false 0 (-149) ∧
    a 4 = .fin false (2 ^ 23) (-22) ∧ a 5 = .fin true (0x7FFFFF + 1) (-23) ∧ Machine.Num.lt (Machine.Num.ofInt (-150)) (a 6) = false ∧
    Machine.Num.lt (a 7) (Machine.Num.ofInt 128) = false ∧ vElem (m.rv 2) 32 8 = ffF.round 0 true (Machine.Num.ofInt (-149)) := by decide +kernel
/-- A conversion that widens, one that narrows and one of equal widths; insertions inside and outside. -/
theorem test_meets_VectorMovementAndMasks : (⟨hx, 9, 0, false, 0, 1, 2, false, false, 1, 7⟩ : VCvtA).ok = true ∧
    (⟨hx, 7, 0, false, 0, 1, 2, false, false, 1, 9⟩ : VCvtA).ok = true ∧ (⟨hx, 1, 0, false, 0, 1, 2, true, false, 0, 1⟩ : VCvtA).ok = true ∧
    (31 : W64).toNat < 1024 / 32 ∧ 1024 / 32 ≤ (32 : W64).toNat ∧ (7 : BitVec 4) ≠ 0 := by decide +kernel

/-- Tensor block over the task's own LS. -/
def tpLs : TP := { tp0 with acap := 1, bcap := 1 }
theorem test_meets_free_entry : FreeEntry w0 0 ∧ FreeEntry w0 1 ∧ FreeEntry w0 2 ∧ FreeEntry w0 3 := by
  unfold FreeEntry IsTask; decide +kernel
theorem test_meets_mma : MmaOk w0 ⟨hx, 1, tpLs⟩ := by unfold MmaOk TpOk OpOk; decide +kernel
theorem test_meets_mma_without_steps : MmaOk (world { aTask2 with s := [] }) ⟨hx, 1, { tpLs with ks := true, k := 0 }⟩ := by unfold MmaOk TpOk OpOk; decide +kernel
theorem test_meets_mmas : MmasOk w0 ⟨hx, 1, { tpLs with k := 2 }⟩ := by unfold MmasOk TpOk OpOk; decide +kernel

/-- A shape record: version 1, capabilities c1, 32 by 32, 64 steps, one partition each way, strides of 128 bytes. -/
def shapeRec : List Host.Cell :=
  bytesAt (lsKey 0 0) (leBytes 64 (1 + 2 ^ 32 + 2 ^ 36 + 32 * 2 ^ 48 + 32 * 2 ^ 56 + 64 * 2 ^ 64 + 2 ^ 80 + 2 ^ 96 + 2 ^ 112 + 128 * 2 ^ 128 + 128 * 2 ^ 160))
def bgsWorld (slice : Nat) : State := { world { aTask2 with slice := slice } with mem := setCells [] shapeRec }
theorem test_meets_mma_bgs : let s := bgsWorld 0
    s.me.noTile 1 = false ∧ s.launch? s.me.lslot = some launch0 ∧ launch0.compat = true ∧ shapeOk s.shapeRecord = true ∧
    s.me.slice / (shape s 80 16 * shape s 96 16) < shape s 112 16 ∧
    OpOk s 0 (s.me.rc 1) (s.me.rc 1).cursor (opExtent 32 64 128 false) false none ∧
    OpOk s 1 (s.me.rc 1) (s.me.rc 1).cursor (opExtent 32 64 128 false) false none := by unfold OpOk; decide +kernel
theorem test_meets_mma_bgs_beyond : let s := bgsWorld 1
    shapeOk s.shapeRecord = true ∧ shape s 112 16 ≤ s.me.slice / (shape s 80 16 * shape s 96 16) := by decide +kernel
theorem test_meets_TileInstructionAcceptance : let m := at' 1
    w0.me.noTile 1 = false ∧ OpOk w0 0 (w0.me.rc m.cap) (w0.me.ea m) 4096 false none ∧
    OpOk w0 0 (w0.me.rc m.cap) (w0.me.ea m) 4096 true none := by unfold OpOk; decide +kernel
theorem test_meets_qset : let s := world { aTask2 with s := [(4, 8)] }
    let c := s.me.rc 1
    let a : Acc := { cap := c, perms := [pLoad], sp := { own := true }, ea := (s.me.ea (at' 1)).toNat, len := 2 * ((s.me.rs 4).toNat % 2 ^ 18), align := 2 }
    c.space = 1 ∧ (s.me.ea (at' 1)).toNat < 0x40000 ∧ (s.me.rs 4).toNat < 2 ^ 18 ∧
      a.permFlt = none ∧ s.spaceFlt s.cur a = none ∧ a.alignFlt = none ∧ a.boundFlt = none := by decide +kernel
/-- The world with a job at the head of engine queue 1, 2, 3. -/
def withMxe (k : JobK) : State := world { aTask2 with mxe := [job k] }
def withAtt (k : JobK) : State := world { aTask2 with att := [job k] }
theorem test_meets_TileJobResults :
    (let k : JobK := .tile (.zzero ⟨hx, 3, 1⟩) 1 0 ⟨0, 0⟩ 0; AtHead (withMxe k) 1 (job k)) ∧
    (let k : JobK := .tile (.zcvt ⟨hx, 3, 0, false, 1, 0, 0⟩) 1 0 ⟨0, 0⟩ 0; AtHead (withMxe k) 1 (job k) ∧ (withMxe k).mxeBad 0 (job k) [0] [] = none) ∧
    (let k : JobK := .tile (.qpos ⟨hx, 3, 1⟩) 1 0 ⟨0, 0⟩ 0; AtHead (withMxe k) 1 (job k) ∧ (withMxe k).mxeBad 0 (job k) [] [1] = none) ∧
    (let k : JobK := .tile (.zld ⟨hx, 1, at' 1⟩) 1 0 ⟨1, 0x1000⟩ 0; AtHead (withMxe k) 1 (job k) ∧
      ∀ b < 64, (withMxe k).rd8 ((withMxe k).jobRdr 0 (job k)) (poisonKey ((physKey (withMxe k) 0 1 (((0x1000 : W64).toNat + 64 * b) % 2 ^ 64)).getD 0)) = 0) ∧
    (let k : JobK := .tile (.zst ⟨hx, 1, at' 1⟩) 0 1 ⟨1, 0x3F000⟩ 0; AtHead (withMxe k) 1 (job k) ∧ (withMxe k).mxeBad 0 (job k) [1] [] = none ∧
      (0x3F000 : W64).toNat % 64 = 0 ∧ (0x3F000 : W64).toNat + 4096 ≤ 0x40000) ∧
    (let k : JobK := .tile (.qset ⟨hx, 1, at' 1, 4⟩) 1 0 ⟨1, 0x1000⟩ 3; AtHead (withMxe k) 1 (job k)) := by
  unfold AtHead IsTask; decide +kernel
/-- One row of A and one of B in the own LS, in FP16 blocks, for two K-steps; and 8-bit ones for the other size. -/
def mmaK : JobK := .mma 1 ⟨1, 0⟩ ⟨1, 0x1000⟩ 256 256 1 1 2 false false 0 0 none false
def fmtWorld (f : BitVec 16) : State :=
  { withMxe mmaK with mem := setCells [] ([0, 64, 128, 192, 0x1000, 0x1040, 0x1080, 0x10C0].flatMap fun k => bfdCells (lsKey 0 k) f) }
theorem test_meets_kstep : let s := fmtWorld 0x0600
    let A : Mop := { o := ⟨1, 0⟩, st := 256, tr := false, rows := 1 }
    let B : Mop := { o := ⟨1, 0x1000⟩, st := 256, tr := false, rows := 1 }
    let rd := s.jobRdr s.cur (job mmaK)
    AtHead s 1 (job mmaK) ∧ s.mxeBad s.cur (job mmaK) [1] [] = none ∧ s.stepSizes rd s.cur A B 0 = some (4, 4) ∧
    s.isInt (coreOf s.cur) (s.me.phys 1) = false ∧
    (∀ c ∈ A.blocks 4 (kOf 4 4) 0, s.rd8 rd (poisonKey (A.key s s.cur c)) = 0) ∧
    (∀ c ∈ B.blocks 4 (kOf 4 4) 0, s.rd8 rd (poisonKey (B.key s s.cur c)) = 0) := by
  unfold AtHead IsTask; decide +kernel
theorem test_meets_kstep_bytes : (fmtWorld 0x0400).stepSizes ((fmtWorld 0x0400).jobRdr 0 (job mmaK)) 0
    { o := ⟨1, 0⟩, st := 256, tr := false, rows := 1 } { o := ⟨1, 0x1000⟩, st := 256, tr := false, rows := 1 } 0 = some (2, 2) := by decide +kernel
/-- The same world with an INT32 tile: INT8 blocks of zeros, and blocks that it rejects. -/
def intWorld (f : BitVec 16) : State := { fmtWorld f with ztag := [1] }
theorem test_meets_kstep_integer : let s := intWorld 0x0100
    let A : Mop := { o := ⟨1, 0⟩, st := 256, tr := false, rows := 1 }
    let B : Mop := { o := ⟨1, 0x1000⟩, st := 256, tr := false, rows := 1 }
    let rd := s.jobRdr s.cur (job mmaK)
    let okInt := fun (s : State) (x : Mop) (c : Nat) => 1 ≤ bfdFmt (s.blockBfd rd s.cur x c) ∧ bfdFmt (s.blockBfd rd s.cur x c) ≤ 3 ∧ bfdScale (s.blockBfd rd s.cur x c) = 0
    AtHead s 1 (job mmaK) ∧ s.isInt (coreOf s.cur) (s.me.phys 1) = true ∧ s.stepSizes rd s.cur A B 0 = some (2, 2) ∧
    (∀ c ∈ A.blocks 2 (kOf 2 2) 0, okInt s A c) ∧ (∀ c ∈ B.blocks 2 (kOf 2 2) 0, okInt s B c) ∧
    (∀ i < 1, ∀ x ∈ (List.range (kOf 2 2)).map (0 * kOf 2 2 + ·), s.mopElem rd s.cur A 1 2 i x = Machine.Num.ofInt 0) ∧
    (∃ c ∈ A.blocks 2 (kOf 2 2) 0, ¬ okInt (intWorld 0x0400) A c) ∧ (intWorld 0x0400).stepSizes rd 0 A B 0 = some (2, 2) := by
  unfold AtHead IsTask; decide +kernel
/-- An MMA with a skip stream in q0, in a run of two steps to omit or to perform, or at its end. -/
def skipK : JobK := .mma 1 ⟨1, 0⟩ ⟨1, 0x1000⟩ 256 256 1 1 2 false false 0 0 (some 0) false
def skipWorld (rem : Nat) (kind : Bool) : State :=
  world ({ aTask2 with mxe := [job skipK] }.wq 0 (qMake 0x3006 0x3006 rem kind))
theorem test_no_poison (s : State) (r : Rdr) (k : Nat) (h : s.mem = [] ∧ s.vers = [] ∧ s.batches = [] ∧ s.halo = [] ∧ s.stale = []) :
    s.rd8 r k = 0 := by
  obtain ⟨h1, h2, h3, h4, h5⟩ := h
  have h : verByte [] [] [] r.die r.pos k r.chain = none := by
    induction r.chain with
    | nil => rfl
    | cons a l ih => simpa [verByte, batchByte, dieVer, Tab.get, Tab.find?] using ih
  simp [State.rd8, State.view, State.dieByte, batchByte, h1, h2, h3, h4, h5, h, Tab.get]
theorem test_meets_walks_reads : AtHead (skipWorld 2 true) 1 (job skipK) ∧ AtHead (skipWorld 2 false) 1 (job skipK) ∧
    (∀ k, (skipWorld 2 k).mxeBad (skipWorld 2 k).cur (job skipK) [] [0] = none ∧ (skipWorld 2 k).me.rq (BitVec.ofNat 2 0) = qMake 0x3006 0x3006 2 k) ∧
    qAddr (qMake 0x3006 0x3006 2 true) = 0x3006 ∧ qEnd (qMake 0x3006 0x3006 2 true) = 0x3006 ∧ qRem (qMake 0x3006 0x3006 2 true) = 2 ∧
    qKind (qMake 0x3006 0x3006 2 true) = true ∧ qAddr (qMake 0x3006 0x3006 2 false) = 0x3006 ∧ qEnd (qMake 0x3006 0x3006 2 false) = 0x3006 ∧
    qRem (qMake 0x3006 0x3006 2 false) = 2 ∧ qKind (qMake 0x3006 0x3006 2 false) = false := by unfold AtHead IsTask; decide +kernel
theorem test_meets_walk_in_run (rd16 : Nat → Nat) (k : Bool) : Walk rd16 (qMake 0x3006 0x3006 2 k) (qMake 0x3006 0x3006 1 k) k := by
  obtain ⟨-, -, -, a, b, c, d, a', b', c', d'⟩ := test_meets_walks_reads
  have w := Walk.inRun (rd16 := rd16) (qMake 0x3006 0x3006 2 k)
  cases k
  · rw [a', b', c', d'] at w; exact w (by decide)
  · rw [a, b, c, d] at w; exact w (by decide)
theorem test_meets_walks (kind : Bool) : WalksTo (skipWorld 2 kind) (job skipK) (some 0) (qMake 0x3006 0x3006 1 kind) kind := by
  obtain ⟨-, -, h, -⟩ := test_meets_walks_reads
  refine ⟨(h kind).1, fun off _ => test_no_poison _ _ _ ⟨rfl, rfl, rfl, rfl, rfl⟩, ?_⟩
  rw [(h kind).2]; exact test_meets_walk_in_run _ kind
theorem test_meets_walk_exhausted : WalksTo (skipWorld 0 false) (job skipK) (some 0) (qMake 0x3006 0x3006 0 false) true :=
  ⟨by decide +kernel, fun off _ => test_no_poison _ _ _ ⟨rfl, rfl, rfl, rfl, rfl⟩, Walk.exhausted _ (by decide +kernel) (by decide +kernel)⟩
theorem test_meets_mmas_slice : let k : JobK := .mmas 1 ⟨1, 0⟩ 4096 2 2 2 128
    let s := withMxe k
    AtHead s 1 (job k) ∧ s.mxeBad s.cur (job k) [1] [] = none ∧ s.isInt (coreOf s.cur) (s.me.phys 1) = false ∧
    (∀ i < 2, ∀ b ∈ blocksOf ((0 : W64).toNat + 0 * 4096 + i * 128) (4 * 2), s.rd8 (s.jobRdr s.cur (job k)) (poisonKey ((physKey s s.cur 1 (b % 2 ^ 64)).getD 0)) = 0) := by
  unfold AtHead IsTask; decide +kernel
/-- R146's sum: a zero product, a NaN, both infinities, one of them, and finite terms whose greatest is 3. -/
theorem test_meets_step_sum : (∀ p ∈ [Machine.Num.fin true 0 0], p.isZero = true) ∧ ¬ (∀ p ∈ [ffF.num 0x3F800000], p.isZero = true) ∧
    Num.nan ∈ [ffF.num 0, .nan] ∧ Num.inf false ∈ [ffF.num 0x7F800000, ffF.num 0xFF800000] ∧ Num.inf true ∈ [ffF.num 0x7F800000, ffF.num 0xFF800000] ∧
    Num.nan ∉ [ffF.num 0x7F800000, ffF.num 0x3F800000] ∧ Num.inf true ∉ [ffF.num 0x7F800000, ffF.num 0x3F800000] ∧
    Num.inf false ∈ [ffF.num 0x7F800000, ffF.num 0x3F800000] ∧ Num.inf true ∈ [ffF.num 0xFF800000, ffF.num 0x3F800000] ∧
    Num.inf false ∉ [ffF.num 0xFF800000, ffF.num 0x3F800000] := by decide +kernel
theorem test_meets_greatest : (∀ t ∈ [ffF.num 0x3F800000, ffF.num 0x40400000], ∃ neg m e, t = .fin neg m e) ∧
    Greatest [ffF.num 0x3F800000, ffF.num 0x40400000] 1 := by
  refine ⟨?_, ?_⟩
  · intro t ht
    simp only [List.mem_cons, List.not_mem_nil, or_false] at ht
    rcases ht with rfl | rfl
    · exact ⟨false, _, _, rfl⟩
    · exact ⟨false, _, _, rfl⟩
  · unfold Greatest; decide +kernel

/-- A descriptor of one slice of 16 tokens in the ABU-placed page, with 16 tokens published or none. -/
def kvCap : Cap := (whole 3).withCursor 0x130000
def params : Nat := 65536 + 2 ^ 32 + 16 * 2 ^ 48 + 2 ^ 64 + 2 ^ 72 + 64 * 2 ^ 80 + 0x3F800000 * 2 ^ 96
def descCells (len : Nat) : List Host.Cell :=
  bytesAt (globKey 0 0x100000) (leBytes 4 len ++ leBytes 4 len ++ List.replicate 24 0 ++ leBytes 16 params ++ leBytes 16 kvCap.bits.toNat) ++
  [(tagKey (globKey 0 0x100030), 1)]
/-- The query's blocks in FP16, a parameter block at LS 0x3000, and a result area of one record at LS 0x4000. -/
def attWorld (m : Master) (len err : Nat) : State :=
  { world m with
    mem := setCells [] (descCells len ++ ([0x2000, 0x2040].flatMap fun k => bfdCells (lsKey 0 k) 0x0600) ++
      bytesAt (lsKey 0 0x3000) (leBytes 16 params) ++
      bytesAt (lsKey 0 0x4000) (leBytes 4 1 ++ leBytes 4 1 ++ leBytes 4 16 ++ leBytes 2 64) ++ [(lsKey 0 (0x4000 + 320 + 16), BitVec.ofNat 8 err)]) }
/-- c7 names the descriptor, c8 the query, c9 the parameters, c10 the result area, c11 the slice storage. -/
def attTask : Master := { aTask2 with c := aTask2.c ++ [(7, (whole 3).withCursor 0x100000), (8, (whole 1).withCursor 0x2000),
  (9, (whole 1).withCursor 0x3000), (10, (whole 1).withCursor 0x4000), (11, kvCap)] }
theorem test_meets_AttentionAcceptance : let s := attWorld attTask 16 0
    s.areaFlt s.cur 0 (s.me.rc 10) [pStore] (s.me.ea (at' 10)).toNat 64 64 true = none ∧
    s.descAreaFlt s.cur 1 (s.me.rc 7) [pLoad, pLdcap] (s.me.rc 7).cursor.toNat spGlobAny false = none ∧
    s.areaFlt s.cur 2 (s.me.rc 8) [pLoad] (s.me.rc 8).cursor.toNat 64 64 false = none ∧ s.me.postCount < 4 ∧
    s.areaFlt s.cur 0 (s.me.rc 10) [pLoad, pStore] (s.me.ea (at' 10)).toNat 64 64 true = none ∧ s.me.posts = [] ∧ s.me.att = [] ∧
    s.descAreaFlt s.cur 0 (s.me.rc 7) [pLoad, pStore] (s.me.ea (at' 7)).toNat spImm true = none ∧
    s.areaFlt s.cur 1 (s.me.rc 8) [pLoad] (s.me.rc 8).cursor.toNat 0 64 false = none := by decide +kernel
theorem test_meets_kvdesc_acceptance : let s := attWorld attTask 0 0
    let d := Desc.ofParams (s.me.rc 11) (BitVec.ofNat 128 (s.rdNat (s.rdr s.cur s.me.proof) (lsKey (coreOf s.cur) (s.me.rc 9).cursor.toNat) 16)) 0 0
    s.descAreaFlt s.cur 0 (s.me.rc 7) [pStore, pStcap] (s.me.ea (at' 7)).toNat spImm true = none ∧
    s.areaFlt s.cur 2 (s.me.rc 9) [pLoad] (s.me.rc 9).cursor.toNat 16 16 false = none ∧
    s.unitAhead s.cur (lsKey (coreOf s.cur) (s.me.rc 9).cursor.toNat) 16 = [] ∧ d.ok = true ∧
    s.descFlt s.cur 1 d (s.illegalFlt s.cur s.me.pc) = none := by decide +kernel
theorem test_meets_atc : let s := attWorld attTask 16 0
    s.me.orphan = none ∧ s.areaFlt s.cur 0 (s.me.rc 10) [pLoad] (s.me.ea (at' 10)).toNat 64 64 false = none ∧
    s.unitAhead s.cur (lsKey 0 0x4000) 8 = [] ∧ s.ueIn (s.rdr s.cur s.me.proof) (lsKey 0 0x4000) 8 = none ∧
    s.rdNat (s.rdr s.cur s.me.proof) (lsKey 0 0x4000) 4 = s.rdNat (s.rdr s.cur s.me.proof) (lsKey 0 0x4004) 4 := by decide +kernel
/-- The attention world with a job at the head of the task's queue. -/
def attJob (j : Job) (len err : Nat) : State := attWorld { attTask with att := [j] } len err
def atqJ : Job := job (.atq ((whole 1).withCursor 0x4000) ((whole 3).withCursor 0x100000) ((whole 1).withCursor 0x2000) 0x4000)
theorem test_meets_atq_execute : let s := attJob atqJ 16 0
    AtHead s 3 atqJ ∧ s.postFlt s.cur atqJ ((whole 1).withCursor 0x4000) ((whole 1).withCursor 0x2000) 0x4000
      (s.readDesc (s.jobRdr s.cur atqJ) ((physKey s s.cur 3 0x100000).getD 0)) = none ∧
    (s.readDesc (s.jobRdr s.cur atqJ) ((physKey s s.cur 3 0x100000).getD 0)).np = 1 := by
  unfold AtHead IsTask; decide +kernel
def atmJ : Job := job (.atm ((whole 1).withCursor 0x4000) 0x4000)
theorem test_meets_atm_execute : let s := attJob atmJ 16 0
    AtHead s 3 atmJ ∧ s.rdNat (s.jobRdr s.cur atmJ) (lsKey 0 0x400C) 2 = 64 ∧ s.rdNat (s.jobRdr s.cur atmJ) (lsKey 0 0x4000) 4 = 1 ∧
    (0x4000 : W64).toNat + (1 + 1) * (64 + 4 * 64) ≤ ((whole 1).withCursor 0x4000).top ∧
    s.rdNat (s.jobRdr s.cur atmJ) (lsKey 0 (0x4000 + 320 + 16)) 2 = 0 ∧
    (attJob atmJ 16 1).rdNat ((attJob atmJ 16 1).jobRdr 0 atmJ) (lsKey 0 (0x4000 + 320 + 16)) 2 ≠ 0 := by
  unfold AtHead IsTask; decide +kernel
def kvappJ (n : W64) : Job := job (.kvapp (5 : SReg).toNat ((whole 3).withCursor 0x100000) 0x100000 ((whole 1).withCursor 0x2000) n)
theorem test_meets_kvapp_execute : let s := attJob (kvappJ 2) 0 0
    let d := s.readDesc (s.jobRdr s.cur (kvappJ 2)) ((physKey s s.cur 3 (0x100000 : W64).toNat).getD 0)
    AtHead s 3 (kvappJ 2) ∧ (kvappJ 2).res = none ∧ s.descFlt s.cur 3 d (s.illegalFlt s.cur (kvappJ 2).pc) = none ∧
    ((whole 1).withCursor 0x2000).base ≤ 0x2000 ∧ 0x2000 + 2 * (d.krow + d.vrow) ≤ ((whole 1).withCursor 0x2000).top ∧
    s.msWord (globKey 0 0x100004) + 2 ≤ d.nsl * d.cap ∧
    (∀ i < 2, (s.haloForeign s.cur (d.keyRow (0 + i)) d.krow || s.haloForeign s.cur (d.valRow (0 + i)) d.vrow) = false) ∧
    (let h : Halo := { lo := 0x130000, hi := 0x140000, ts := 0x10000, hw := 1, own := [1] }
     let s' : State := { s with launches := [(1, { launch0 with halos := [h] })] }
     (s'.haloForeign s'.cur (d.keyRow 0) d.krow || s'.haloForeign s'.cur (d.valRow 0) d.vrow) = true) ∧
    d.nsl * d.cap < (attJob (kvappJ 2) 16 0).msWord (globKey 0 0x100004) + 2 := by
  unfold AtHead IsTask; decide +kernel
theorem test_meets_kvapp_publish : let j := { kvappJ 2 with res := some 0, unit := 2 }
    let s := attJob j 0 0
    s.me.exiting = false ∧ s.headJob s.cur 3 = some j ∧ j.held = false ∧ (2 : W64).toNat ≤ j.unit ∧ s.waiting j.after = false ∧ s.msWord ((physKey s s.cur 3 0x100000).getD 0) = 0 := by decide +kernel
/-- The append with two tokens reserved at 0 and its descriptor kept stores its first row. -/
theorem test_meets_kvapp_row : let d := (attJob (kvappJ 2) 0 0).readDesc (Rdr.home) (globKey 0 0x100000)
    let j := { kvappJ 2 with res := some 0, kd := some d }
    AtHead (attJob j 0 0) 3 j ∧ j.unit < (2 : W64).toNat ∧ d.krow = 64 := by unfold AtHead IsTask; decide +kernel
def kvdescJ (u : Nat) : Job := { job (.kvdesc 0x100000 kvCap (BitVec.ofNat 128 params)) with unit := u }
theorem test_meets_kvdesc_execute : AtHead (attJob (kvdescJ 0) 0 0) 3 (kvdescJ 0) ∧ AtHead (attJob (kvdescJ 1) 0 0) 3 (kvdescJ 1) ∧
    (attJob (kvdescJ 0) 0 0).applied 0 = true ∧ (attJob (kvdescJ 1) 0 0).applied 0 = true := by
  unfold AtHead IsTask; decide +kernel
/-- A post of one slice, with its scan waiting, accepted, and done. -/
def post0 : Post := { id := 7, ea := 0x4000, lim := 0x8000, d := Desc.ofParams kvCap (BitVec.ofNat 128 params) 16 16, np := 1, q := List.replicate 128 0,
                      qfmt := [0x0600, 0x0600], landed := [], ord := 0 }
def scan0 : Scan := { id := 0, pos := 0, post := 7, slice := 0, abu := 19, acc := false, after := [], img := none }
def scanWorld (x : Scan) : State := { attWorld { attTask with posts := [post0] } 16 0 with scans := [x] }
theorem test_meets_scans :
    (let s := scanWorld scan0
     s.scans.find? (fun y => y.id = s.cur) = some scan0 ∧
     (∀ y ∈ s.scans, y.acc = false → y.abu = scan0.abu → dieOf y.pos = dieOf scan0.pos → scan0.id ≤ y.id) ∧
     (s.scans.filter fun y => y.acc && y.abu = scan0.abu && y.img.isNone).length < 64) ∧
    (let x := { scan0 with acc := true }
     (scanWorld x).scans.find? (fun y => y.acc && y.abu = x.abu && y.img.isNone) = some x ∧ (scanWorld x).postOf x = some post0 ∧ (scanWorld x).waiting x.after = false) ∧
    (let x := { scan0 with acc := true, img := some (List.replicate 320 0) }
     (scanWorld x).scans.find? (fun y => y.id = 0) = some x ∧ (scanWorld x).postOf x = some post0) := by decide +kernel
theorem test_meets_killed_kvapp : let x : Orphaned := { id := 0, lnch := 1, part := 0, desc := globKey 0 0x100000, d := post0.d, p := 0, count := 2, rows := 1, after := [] }
    let s := { attWorld attTask 0 0 with orphaned := [x] }
    s.orphaned.find? (fun y => y.id = s.cur) = some x ∧ s.waiting x.after = false ∧ s.msWord x.desc = x.p ∧
    x.desc < 2 ^ 72 ∧ (s.pageOfKey x.desc).map (fun y => y.2.home) = some 0 ∧ x.rows < x.count := by decide +kernel

/-- An access of the own LS at offset 0 through c1, and one of GLOB at s4 through c2. -/
def glob : MemOp := ⟨2, 0, 4, 0⟩
def gw (a : W64) : State := world { aTask2 with s := [(4, a)] }
theorem test_meets_own_ls_loads : ownLs 0 (lsKey 0 0) = true ∧ May w0 .access 0 ∧ May w0 .noHandler 0 ∧
    Clear w0 (loadAcc w0 (at' 1) [pLoad] 8 1 true) (lsKey 0 0) ∧ Clear w0 (loadAcc w0 (at' 1) [pLoad] 128 1 false) (lsKey 0 0) ∧
    Clear w0 (loadAcc w0 (at' 1) [pLoad, pLdcap] 16 16 false) (lsKey 0 0) ∧ w0.ueIn (w0.rdr 0 1) (lsKey 0 0) 128 = none := by
  unfold May Clear loadAcc; decide +kernel
theorem test_meets_converting_ldv : let s := fmtWorld 0x0600
    let r := s.rdr s.cur s.me.proof
    let a : Acc := loadAcc { s with masters := w0.masters } (at' 1) [pLoad] 64 64 false
    Clear w0 a (lsKey 0 0) ∧ bfdFmt (s.rdBfd r (lsKey 0 0)) = 6 ∧ s.ueIn r (lsKey 0 0) 128 = none ∧
    (∀ b ∈ blocksOf (lsKey 0 0) 128, bfdFmt (s.rdBfd r b) = 6) ∧ w0.check 0 (loadAcc w0 (at' 1) [pLoad] 128 1 false) = none ∧
    s.me.overlaps s.cur (s.me.rc 1).space (s.me.ea (at' 1)).toNat 128 false = false ∧
    s.switching s.cur (s.me.rc 1).space (s.me.ea (at' 1)).toNat 128 = false ∧ w0.loadAhead 0 [(lsKey 0 0, 128)] = [] := by
  unfold Clear loadAcc; decide +kernel
theorem test_meets_glob_load : let s := gw 0x110000
    isLs (globKey 0 0x110000) = false ∧ Clear s (loadAcc s glob [pLoad] 8 1 true) (globKey 0 0x110000) ∧
    s.ueIn (s.rdr s.cur s.me.proof) (globKey 0 0x110000) 8 = none := by unfold Clear loadAcc; decide +kernel
/-- A posted request of the task. -/
def req0 (k : ReqK) : Req :=
  { id := 0, pos := 0, pc := 0x1000, slot := true, key := match k with | .unit _ key .. => key | _ => 0, bank := 0, mark := false, k := k
    due := 100, lslot := 1, after := [], drop := false }
def reqWorld (k : ReqK) : State := { w0 with reqs := [req0 k] }
theorem test_meets_load_return : let s := reqWorld (.land [.s 3 5] none false)
    s.req? s.cur = some (req0 (.land [.s 3 5] none false)) ∧ s.unapplied (req0 (.land [.s 3 5] none false)).id = false ∧ (s.ms 0).exiting = false := by
  decide +kernel
/-- Two active elements, at offsets 0 and 4 (the second index register is 4). -/
theorem test_meets_gather : let s := world ((aTask2.wv 2 (4 * 2 ^ 32)).wm 1 0xFF)
    let x : MemG := ⟨hx, 3, 1, 1, 2, at' 1⟩
    (Instr.ldg x).wf = true ∧ (Instr.sts x).wf = true ∧ GatherClear s x false ∧ GatherClear s x true ∧ elems s x = [0, 1] ∧
    (∀ j ∈ 0 :: elems s x, ownLs s.cur (elemKey s x j) = true) ∧
    (∀ j ∈ elems s x, s.ueIn (s.rdr s.cur s.me.proof) (elemKey s x j) (etBytes 3 x.et) = none) := by
  unfold GatherClear May; decide +kernel
theorem test_meets_own_ls_stores : Clear w0 (storeAcc w0 (at' 1) [pStore] 8 1 true) (lsKey 0 0) ∧
    Clear w0 (storeAcc w0 (at' 1) [pStore] 128 1 false) (lsKey 0 0) ∧ Clear w0 (storeAcc w0 (at' 1) [pStore, pStcap] 16 16 false) (lsKey 0 0) ∧
    w0.earlier 0 0 = [] ∧ (Instr.stv ⟨hx, 3, 0, 0, 0, false, 1, 2, at' 1⟩).wf = true := by
  unfold Clear storeAcc loadAcc; decide +kernel
theorem test_meets_imm_store : let s := gw 0x100000
    let key := globKey 0 0x100000
    isGlobKey key = true ∧ s.pageOfKey key = some (pageKey 0 0x100000 0, { page0 with imm := true }) ∧
    Clear s (storeAcc s glob [pStore] 8 1 true) key ∧ s.batches.any Batch.begun = false ∧ dieOf s.cur = 0 := by
  unfold Clear storeAcc loadAcc; decide +kernel
theorem test_meets_tagged_store : let s := gw 0x110000
    let key := globKey 0 0x110000
    isGlobKey key = true ∧ s.pageOfKey key = some (pageKey 0 0x110000 0, page0) ∧ Clear s (storeAcc s glob [pStore] 8 1 true) key ∧
    s.me.proof ≠ 0 ∧ page0.home = dieOf s.cur ∧ s.observed s.cur = [] ∧ s.launch? s.me.lslot = some launch0 ∧ launch0.use + 64 ≤ launch0.budget ∧
    hasVersion (Tab.get [] s.vers s.me.proof) (key / 64) = false ∧ ({ launch0 with use := 0x10000 } : Launch).budget < 0x10000 + 64 := by
  unfold Clear storeAcc loadAcc; decide +kernel
/-- The same page homed on die 1. -/
theorem test_meets_far_tagged_store : let p := { page0 with home := 1 }
    let s := { gw 0x110000 with pages := [(pageKey 0 0x110000 0, p)] }
    let key := globKey 0 0x110000
    s.pageOfKey key = some (pageKey 0 0x110000 0, p) ∧ Clear s (storeAcc s glob [pStore] 8 1 true) key ∧ p.imm = false ∧ s.me.proof ≠ 0 ∧
    p.home ≠ dieOf s.cur := by unfold Clear storeAcc loadAcc; decide +kernel
/-- PREF of a leased GLOB line, and of one that is not. -/
theorem test_meets_pref : (gw 0x110000).check 0 (loadAcc (gw 0x110000) glob [pLoad] 1 1 false) = none ∧
    (gw 0x900000).check 0 (loadAcc (gw 0x900000) glob [pLoad] 1 1 false) ≠ none ∧ isSvcPos 0 = false ∧
    (gw 0x110000).canTake (l1Of 0) (globKey 0 0x110000 / 64) true = true ∧ (gw 0x110000).canTake (l1Of 0) (globKey 0 0x110000 / 64) false = true := by unfold loadAcc; decide +kernel
/-- 8,192 bytes from LS 0 to bank 0, flat, and as two rows of 64 blocks. -/
def cpyTask (n : W64) : Master := { aTask2 with s := [(5, n)] }
theorem test_meets_cpy : CopyOk (world (cpyTask 8192)) ⟨hx, 3, 0, 0, 1, 0, 5⟩ 1 8192 0 0 1 := by
  unfold CopyOk copyDst copySrc; decide +kernel
theorem test_meets_cpyt : let s := world (cpyTask (4096 * 2 ^ 44 + 4096 * 2 ^ 24 + 2 * 2 ^ 12 + 64))
    CopyOk s ⟨hx, 3, 0, 0, 1, 0, 5⟩ ((s.me.rs 5).extractLsb' 12 12).toNat (((s.me.rs 5).extractLsb' 0 12).toNat * 64)
      ((s.me.rs 5).extractLsb' 44 20).toNat ((s.me.rs 5).extractLsb' 24 20).toNat 64 := by
  unfold CopyOk copyDst copySrc; decide +kernel
theorem test_meets_cpyw : let s := world { aTask2 with cAcc := 2, s := [(5, 2)] }
    s.me.cAcc - s.me.cDone - s.me.cFail ≤ (s.me.rs 5).toNat := by decide +kernel
/-- A chunk of a copy of 128 bytes from LS 0 to LS 0x100, with and without an error in its first block. -/
def copyJ : Job := job (.copy ⟨1, 0x100⟩ ⟨1, 0⟩ 1 128 0 0 true)
def copyWorld : State := world { aTask2 with cpe := [copyJ], cAcc := 1 }
theorem test_meets_cpe_chunk : AtHead copyWorld 2 copyJ ∧
    (∀ o < 128, (physKey copyWorld 0 1 ((0 + (o / 128 * 0 + o % 128)) % 2 ^ 64)).isSome ∧
      (physKey copyWorld 0 1 ((0x100 + (o / 128 * 0 + o % 128)) % 2 ^ 64)).isSome ∧
      isGlobKey ((physKey copyWorld 0 1 ((0x100 + (o / 128 * 0 + o % 128)) % 2 ^ 64)).getD 0) = false ∧
      copyWorld.rd8 (copyWorld.jobRdr 0 copyJ) (poisonKey (lsKey 0 o)) = 0) := by
  unfold AtHead IsTask; decide +kernel
theorem test_meets_cpe_chunk_error : let s := { copyWorld with mem := [⟨poisonKey (lsKey 0 0), 1⟩] }
    AtHead s 2 copyJ ∧ s.rd8 (s.jobRdr 0 copyJ) (poisonKey (lsKey 0 0)) ≠ 0 := by unfold AtHead IsTask; decide +kernel

/-- A code capability with its cursor at an address. -/
def handlerCap : Cap := codeCap.withCursor 0x2000
def amsgTask : Master := { aTask2 with c := aTask2.c ++ [(7, handlerCap)] }
/-- AMSG needs an LS of its cluster: the remote form names core 0 too. -/
theorem test_meets_amsg : let s := world amsgTask
    let c := s.me.rc 1
    s.check s.cur { cap := c, perms := [pLoad, pStore], sp := spAmsg, ea := (s.me.ea (at' 1)).toNat, len := 1 } = none ∧
    CodeOk (s.me.rc 7) ((s.me.rc 7).cursor &&& ~~~3) ∧ physKey s s.cur 1 (s.me.ea (at' 1)).toNat = some (lsKey 0 0) ∧
    s.slotFull s.cur (lsKey 0 0) = false := by unfold CodeOk; decide +kernel
def amsgK : ReqK := .unit (.amsg ⟨hx, 5, at' 1, 7⟩) (lsKey 0 0x40) ⟨1, 0x40⟩ handlerCap 9 0 0
theorem test_meets_handler_start : (reqWorld amsgK).nextMsg 0 = some (req0 amsgK) ∧
    ((reqWorld amsgK).core 0).allocs.find? (fun y => y.lslot = ((reqWorld amsgK).ms 0).lslot && y.base ≤ 0x40 && 0x40 < y.base + y.size) =
      some { lslot := 1, gang := 0, grp := 0, base := 0, size := 0x10000, pinned := false } := by decide +kernel
def hretTask : Master := { aTask with kind := .handler, hcount := 64, hreq := 0 }
theorem test_meets_hret : let s := { reqWorld amsgK with cur := 15, masters := [(0, aTask2), (15, hretTask)] }
    s.me.kind = .handler ∧ s.me.hcount ≤ 64 ∧ s.req? s.me.hreq = some (req0 amsgK) := by decide +kernel
theorem test_meets_amsg_reply : (reqWorld (.done [.s 5 1])).req? 0 = some (req0 (.done [.s 5 1])) ∧
    (let s := { reqWorld amsgK with masters := [(0, aTask2), (15, { hretTask with st := .frozen, flt := true })] }
     s.req? s.cur = some (req0 amsgK) ∧ (s.ms 0).exiting = false ∧ (s.ms (coreOfLsKey (lsKey 0 0x40) * 16 + 15)).kind = .handler ∧
     (s.ms 15).hreq = (req0 amsgK).id ∧ (s.ms 15).st = .frozen ∧ (s.ms 15).flt = true) := by decide +kernel
/-- A load and a store of another core that wait at core 1. -/
def msgK (i : Instr) : ReqK := .unit i (lsKey 1 0x40) ⟨1, 0x440040⟩ (whole 1) 9 0 0
theorem test_meets_message_served :
    (reqWorld (msgK (.ldW ⟨hx, 0, 0, 5, at' 1⟩))).nextMsg 1 = some (req0 (msgK (.ldW ⟨hx, 0, 0, 5, at' 1⟩))) ∧
    (reqWorld (msgK (.stW ⟨hx, 0, 0, 5, at' 1⟩))).nextMsg 1 = some (req0 (msgK (.stW ⟨hx, 0, 0, 5, at' 1⟩))) ∧
    (reqWorld (msgK (.ldW ⟨hx, 0, 0, 5, at' 1⟩))).turn15 1 = true ∧ (reqWorld (msgK (.stW ⟨hx, 0, 0, 5, at' 1⟩))).turn15 1 = true ∧
    w0.ueIn (w0.rdr 0 0) (lsKey 1 0x40) 4 = none ∧
    (let d := { req0 (msgK (.ldW ⟨{ hx with nr := 1 }, 0, 0, 5, at' 1⟩)) with drop := true }
     ({ w0 with reqs := [d] } : State).nextMsg 1 = some d ∧ ({ w0 with reqs := [d] } : State).turn15 1 = true) := by decide +kernel
theorem test_meets_bankmode : let s := w0
    let a : Acc := { cap := s.me.rc 3, perms := [pLoad, pStore], sp := {}, ea := 0, len := 2 ^ 19 }
    (s.bank 0).mode = 1 ∧ (s.me.rc 3).space = 2 ∧ (s.me.ea (at' 3)).toNat < 0x800000 ∧ a.permFlt = none ∧ a.boundFlt = none ∧
    s.slotFull s.cur (cluKey 0 0) = false ∧ (s.bank 0).sw = [] := by decide +kernel
theorem test_meets_bank_switch : ({ w0 with banks := [(0, { Bank.empty with mode := 1, sw := [(5, 2)] })] } : State).bank 0 =
      { Bank.empty with mode := 1, sw := [(5, 2)] } ∧
    ({ w0 with banks := [(0, { Bank.empty with mode := 1, sw := [(5, 2)] })] } : State).bankUse 0 = false ∧ (2 ≠ ({ Bank.empty with mode := 1 } : Bank).mode) := by decide +kernel
/-- A region of two tiles on dies 0 and 1. -/
def halo0 : Halo := { lo := 0x100000, hi := 0x120000, ts := 0x10000, hw := 2, own := [0, 1] }
def svcHaloTask : Master := { aTask2 with kind := .svc, proof := 0, c := aTask2.c ++ [(7, (Cap.over 3 0x3FF 0x100000 0x10000 0).withCursor 0x100000)], s := [(4, 0x10000 + 2 ^ 32)] }
def svcHalo : State := { world { aTask2 with kind := .empty } with masters := [(svcBase, svcHaloTask)], cur := svcBase }
def regionCap : Cap := (Cap.over 3 0x3FF 0x100000 0x10000 0).withCursor 0x100000
theorem test_meets_halo : let s := world { aTask2 with c := aTask2.c ++ [(7, regionCap)], s := [(4, 0x10000 + 2 ^ 32)] }
    let c := s.me.rc 7
    let p := s.me.rs 4
    let a : Acc := { cap := c, perms := [pLoad, pStore], sp := spImm, write := true, tile := false, ea := c.base, len := c.top - c.base }
    isSvcPos s.cur = false ∧ isSvcPos s.me.lslot = false ∧ s.launch? s.me.lslot = some launch0 ∧ launch0.halos.length < 8 ∧
    (s.part (s.partOf s.cur)).halos = [] ∧ p.toNat % 2 ^ 32 = 65536 ∧ 1 ≤ p.toNat / 2 ^ 32 ∧
    p.toNat / 2 ^ 32 ≤ p.toNat % 2 ^ 32 / 128 ∧ a.permFlt = none ∧ c.space = 3 ∧ s.spaceFlt s.cur a = none ∧
    (∀ k ∈ s.launches, k.2.part = s.partOf s.cur → ∀ h ∈ k.2.halos, ¬ (h.lo < c.top ∧ c.base < h.hi)) ∧
    c.base % 65536 = 0 ∧ (c.top - c.base) % (p.toNat % 2 ^ 32) = 0 ∧ s.leaseFlt s.cur a = none ∧ s.slotFull s.cur (globKey 0 c.base) = false := by
  decide +kernel
/-- A supervisor core declares the same region for its partition. -/
theorem test_meets_halo_of_svc : let s := svcHalo
    let c := s.me.rc 7
    let a : Acc := { cap := c, perms := [pLoad, pStore], sp := spImm, write := true, tile := false, ea := c.base, len := c.top - c.base }
    NoHandler s ∧ isSvcPos s.cur = true ∧ (s.part (s.partOf s.cur)).halos.length < 8 ∧ a.permFlt = none ∧ s.spaceFlt s.cur a = none ∧
    s.leaseFlt s.cur a = none ∧ s.slotFull s.cur (globKey 0 c.base) = false := by unfold NoHandler; decide +kernel
def haloWorld : State := { gw 0x100000 with launches := [(1, { launch0 with halos := [halo0] })] }
def haloK : ReqK := .unit (.halo ⟨hx, 7, 4⟩) (globKey 0 0x100000) ⟨3, 0x100000⟩ regionCap 0x200010000 0 0
theorem test_meets_halo_complete : let s := { haloWorld with reqs := [req0 haloK] }
    s.req? s.cur = some (req0 haloK) ∧ s.halosOf (req0 haloK).lslot = [halo0] ∧
    halo0.replicas 0 ≠ [] ∧ halo0.replicas 1 ≠ [] := by decide +kernel
theorem test_meets_halopush : let s := haloWorld
    let c := s.me.rc 2
    let ea := s.me.ea glob
    let a : Acc := { cap := c, perms := [pStore], sp := spImm, write := true, ea := ea.toNat, len := 1 }
    s.haloTile (s.partOf s.cur) ea.toNat = some (halo0, 0) ∧ halo0.owner 0 = dieOf s.cur ∧ c.space = 3 ∧ a.permFlt = none ∧
    s.spaceFlt s.cur a = none ∧ a.boundFlt = none ∧ s.leaseFlt s.cur a = none ∧ s.slotFull s.cur (globKey 0 0x100000) = false := by decide +kernel
def push0 : Batch := { id := 0, src := 0, pos := 0, lslot := 1, home := 0, chan := globKey 0 0x100000, cells := [], proof := 0, after := [], hold := false,
                       applied := false, todo := [1], req := 0, push := true }
theorem test_meets_halo_push_apply : let s := { haloWorld with batches := [push0], arg := 1 }
    s.batches.find? (fun y => y.id = s.cur) = some push0 ∧ s.arg ∈ push0.todo ∧
    s.waiting push0.after = false ∧ (∀ y ∈ s.batches, y.push = true → y.home = push0.home → push0.id ≤ y.id) ∧
    s.haloTile (push0.chan / 2 ^ 64) (push0.chan % 2 ^ 64) = some (halo0, 0) ∧ halo0.lo % 64 = 0 ∧ halo0.ts % 64 = 0 := by decide +kernel
/-- A FENCE that completes now, one that waits for a request, and a probe that echoes. -/
theorem test_meets_fence : w0.outstanding w0.cur = false ∧ w0.me.writing = false ∧ w0.me.tbmask = 0 ∧ w0.earlier 0 3 = [] ∧
    (world { aTask2 with posts := [post0] }).me.writing = true := by decide +kernel
theorem test_meets_probe_echo : let s := { world { aTask2 with st := .parked, park := .fence 3, probes := 2 ^ 16, tbmask := 2 ^ 16 } with arg := 16 }
    s.me.st = .parked ∧ s.me.park = .fence 3 ∧ s.me.exiting = false ∧ s.me.probes.getLsbD s.arg = true ∧ s.echoes s.cur 3 s.arg = true := by decide +kernel
/-- PARK on a word of the own LS, and on one of an IMM page. -/
def parkAcc (s : State) (m : MemOp) : Acc :=
  { cap := s.me.rc m.cap, perms := [pLoad], sp := { own := true, clu := true, imm := true, ms := true }, ea := (s.me.ea m).toNat, len := 4, align := 4 }
theorem test_meets_park : Clear w0 (parkAcc w0 (at' 1)) (lsKey 0 0) ∧ ownLs 0 (lsKey 0 0) = true ∧ w0.ueIn (w0.rdr 0 1) (lsKey 0 0) 4 = none ∧
    Clear (gw 0x100000) (parkAcc (gw 0x100000) glob) (globKey 0 0x100000) ∧ ownLs 0 (globKey 0 0x100000) = false := by
  unfold Clear parkAcc; decide +kernel
/-- A task that awaits the reply of a request at a unit. -/
def awaiting : Master := { aTask2 with st := .parked, park := .reply, await := true }
def unitWorld (k : ReqK) : State := { world awaiting with reqs := [req0 k] }
def parkK : ReqK := .unit (.park ⟨⟨false, false⟩, 0, 5, glob⟩) (globKey 0 0x100000) ⟨3, 0x100000⟩ (whole 3) 7 0 0
theorem test_meets_park_reply : let s := unitWorld parkK
    Awaits s (req0 parkK) ∧ s.unapplied (req0 parkK).id = false ∧ s.ueIn (s.rdr 0 (s.ms 0).proof) (globKey 0 0x100000) 4 = none ∧
    BitVec.ofNat 32 (leNat (s.loadBytes (s.rdr 0 (s.ms 0).proof) (globKey 0 0x100000) 4)) ≠ (7 : W64).setWidth 32 := by
  unfold Awaits; decide +kernel
theorem test_meets_park_reread : let s := world { aTask2 with st := .parked, park := .word (lsKey 0 0) 7 ⟨false, false⟩ }
    s.me.st = .parked ∧ s.me.saving = none ∧ s.me.park = .word (lsKey 0 0) 7 ⟨false, false⟩ ∧ s.ueIn (s.rdr s.cur s.me.proof) (lsKey 0 0) 4 = none ∧
    BitVec.ofNat 32 (leNat (s.loadBytes (s.rdr s.cur s.me.proof) (lsKey 0 0) 4)) ≠ 7 := by
  decide +kernel
theorem test_meets_reply_returns : let s := reqWorld (.done [.s 5 1])
    s.unapplied 0 = false ∧ (s.ms 0).exiting = false ∧ (reqWorld .ack).req? 0 = some (req0 .ack) := by decide +kernel
theorem test_meets_waitlim : let s := world { aTask2 with st := .parked, park := .gang, wait := 0x100001 }
    let t := world { aTask2 with st := .parked, park := .marker, wait := 0x100001 }
    s.me.park ≠ .reply ∧ s.me.exiting = false ∧ s.me.saving = none ∧ s.me.wlim.toNat < s.me.wait + (s.cyc - s.me.since) ∧ t.me.park = .marker := by decide +kernel
theorem test_meets_recordless : let s := { world { aTask2 with st := .parked, park := .fe 0 0 false } with cyc := 1024 }
    s.me.st = .parked ∧ s.me.saving = none ∧ s.me.park = .fe 0 0 false ∧ 1024 ≤ s.cyc - s.me.since := by decide +kernel

/-- A queue of capacity 2 at LS 0, with PUTS, GETS and its first entry. -/
def queueWorld (puts gets : Nat) : State :=
  { w0 with mem := setCells [] (bytesAt (lsKey 0 0) (leBytes 4 gets ++ leBytes 4 puts ++ leBytes 2 2) ++ bytesAt (lsKey 0 64) (leBytes 8 77)) }
def qx : RMem := ⟨hx, 5, at' 1⟩
theorem test_meets_queue_with_item_and_space : let s := queueWorld 1 0
    QueueOk s qx [pLoad, pStore, pSync] true (lsKey 0 0) ∧ s.memNat (lsKey 0 4) 4 = 1 ∧ s.memNat (lsKey 0 8) 2 = 2 ∧ s.earlier s.cur 1 = [] ∧
    s.ueIn Rdr.home (lsKey 0 64) 8 = none := by unfold QueueOk Clear NoHandler; decide +kernel
theorem test_meets_queue_read : let s := queueWorld 1 0
    QueueOk s qx [pLoad, pStore, pSync] false (lsKey 0 0) ∧ QueueOk s qx [pLoad, pSync] false (lsKey 0 0) := by unfold QueueOk Clear NoHandler; decide +kernel
theorem test_meets_full_and_empty_queue : QueueOk (queueWorld 2 0) qx [pLoad, pStore, pSync] true (lsKey 0 0) ∧
    QueueOk (queueWorld 2 2) qx [pLoad, pStore, pSync] true (lsKey 0 0) := by unfold QueueOk Clear NoHandler; decide +kernel
/-- Bank 1 is a FIFO; s4 points into it. -/
def fifoMem : MemOp := ⟨3, 0, 4, 0⟩
theorem test_meets_fifo_issue : let s := gw 0x80000
    let c := s.me.rc 3
    let acc : Acc := { cap := c, perms := [pLoad, pStore, pSync], sp := spFifo, ea := (s.me.ea fifoMem).toNat, len := 1 }
    fifoForm (.qput ⟨hx, 5, fifoMem⟩) s.me = some (hx, fifoMem, [pLoad, pStore, pSync], 0, 0) ∧ c.space = 2 ∧ acc.permFlt = none ∧
    s.spaceFlt s.cur acc = none ∧ c.base ≤ 0x80000 ∧ 0x80000 + 2 ^ 19 ≤ c.top ∧ s.slotFull s.cur (cluKey 0 0x80000) = false ∧
    s.switching s.cur 2 0x80000 1 = false := by decide +kernel
/-- Twenty entries filled and sixteen held in bank 1. -/
def fifoK (i : Instr) : ReqK := .unit i (cluKey 0 0x80000) ⟨2, 0x80000⟩ (whole 2) 1 0 0
def fifoWorld (i : Instr) : State :=
  { unitWorld (fifoK i) with banks := [(1, { mode := 2, sw := [], fill := 20, held := 16, free := 0, wpos := 36, rpos := 16, lines := [] })] }
theorem test_meets_fifo_perform : let s := fifoWorld (.qget ⟨hx, 5, fifoMem⟩)
    let bk := s.bank (bankOfKey (cluKey 0 0x80000))
    Awaits s (req0 (fifoK (.qget ⟨hx, 5, fifoMem⟩))) ∧ 2 ^ 69 ≤ cluKey 0 0x80000 ∧ cluKey 0 0x80000 < 2 ^ 72 ∧ s.waiting [] = false ∧ bk.sw = [] ∧
    bk.mode = 2 ∧ bk.wpos < 65536 ∧ bk.rpos < 65536 ∧ bk.fill < 65536 - bk.held ∧ bk.fill ≠ 0 ∧ 16 ≤ 65536 - bk.fill - bk.held ∧ 16 ≤ bk.fill ∧
    (∀ e < 16, s.ueIn Rdr.home (entryKey 1 (bk.rpos + e)) 8 = none) := by unfold Awaits; decide +kernel
theorem test_meets_fifo_other_requests : Awaits (fifoWorld (.cbfree ⟨hx, 5, fifoMem, 6⟩)) (req0 (fifoK (.cbfree ⟨hx, 5, fifoMem, 6⟩))) ∧
    Awaits (fifoWorld (.cbput ⟨hx, 5, fifoMem⟩)) (req0 (fifoK (.cbput ⟨hx, 5, fifoMem⟩))) := by unfold Awaits; decide +kernel
/-- A word of the own LS, full and empty. -/
def feWorld (full : Bool) (v : W64) : State :=
  { world { aTask2 with s := [(5, v)] } with mem := if full then [⟨feKey (lsKey 0 0), 1⟩] else [] }
theorem test_meets_FullEmptyWords : ownLs 0 (lsKey 0 0) = true ∧ w0.ueIn Rdr.home (lsKey 0 0) 4 = none ∧
    Clear w0 (syncAcc w0 (at' 1) false true) (lsKey 0 0) ∧ Clear w0 (syncAcc w0 (at' 1) true true) (lsKey 0 0) ∧
    Clear w0 (syncAcc w0 (at' 1) false false) (lsKey 0 0) ∧ w0.earlier 0 0 = [] ∧ Full (feWorld true 0) (lsKey 0 0) ∧
    ¬ Full (feWorld false 0) (lsKey 0 0) ∧ Clear (feWorld true 0) (syncAcc (feWorld true 0) (at' 1) true true) (lsKey 0 0) := by
  unfold Clear syncAcc Full; decide +kernel
/-- The word is 0: it has reached 0, and not 1; it equals 0, and not 1. -/
theorem test_meets_wait_words : Claims.reached ((feWorld true 0).memNat (lsKey 0 0) 4) ((feWorld true 0).me.rs 5) 0 ∧
    ¬ Claims.reached ((feWorld true 1).memNat (lsKey 0 0) 4) ((feWorld true 1).me.rs 5) 0 ∧
    (feWorld true 0).memNat (lsKey 0 0) 4 = ((feWorld true 0).me.rs 5).toNat % 2 ^ 32 ∧
    (feWorld true 1).memNat (lsKey 0 0) 4 ≠ ((feWorld true 1).me.rs 5).toNat % 2 ^ 32 := by unfold Claims.reached; decide +kernel
theorem test_meets_word_form : wordForm (.ldsy ⟨hx, 0, 0, 5, glob⟩) (gw 0x120000).me = some (glob, false, true, 0, 0) := by rfl
theorem test_meets_word_sent : let s := gw 0x120000
    Clear s (syncAcc s glob false true) (globKey 0 0x120000) ∧
    Clear s (syncAcc s glob true true) (globKey 0 0x120000) ∧ Clear s (syncAcc s glob false false) (globKey 0 0x120000) ∧ ownLs 0 (globKey 0 0x120000) = false := by unfold Clear syncAcc; decide +kernel
def wordK (i : Instr) : ReqK := .unit i (globKey 0 0x120000) ⟨3, 0x120000⟩ (whole 3) 0 0 0
theorem test_meets_word_performed : let i := Instr.ldsy ⟨hx, 0, 0, 5, glob⟩
    let s := { unitWorld (wordK i) with mem := [⟨feKey (globKey 0 0x120000), 1⟩] }
    Awaits s (req0 (wordK i)) ∧ s.unitReady (req0 (wordK i)) = true ∧ s.ueIn Rdr.home (globKey 0 0x120000) 4 = none ∧
    globKey 0 0x120000 < 2 ^ 72 ∧ globKey 0 0x120000 % 4 = 0 ∧ Full s (globKey 0 0x120000) ∧
    (let j := Instr.stsy ⟨hx, 0, 0, 5, glob⟩
     Awaits (unitWorld (wordK j)) (req0 (wordK j)) ∧ (unitWorld (wordK j)).unitReady (req0 (wordK j)) = true ∧ ¬ Full (unitWorld (wordK j)) (globKey 0 0x120000)) ∧
    (let j := Instr.waiteq ⟨hx, 0, 0, 5, glob⟩
     Awaits (unitWorld (wordK j)) (req0 (wordK j)) ∧ (unitWorld (wordK j)).unitReady (req0 (wordK j)) = true ∧ (unitWorld (wordK j)).memNat (globKey 0 0x120000) 4 = 0) := by
  unfold Awaits Full; decide +kernel
/-- A tag of the device span that launch 1 holds, with its ticket old or current. -/
def barInst0 : Nat := w0.barInst 0 4 2
def barWorld (gen : Nat) : State := { w0 with bars := [(barInst0, { Bar.empty with owner := some 1, count := 2, gen := gen })] }
theorem test_meets_barriers : ((barWorld 0).bar ((barWorld 0).barInst 0 4 2)).owner = some ((barWorld 0).party 0) ∧ (barWorld 0).unitAhead 0 (2 ^ 80 + barInst0) 0 = [] ∧
    ((barWorld 1).bar barInst0).gen ≠ ((barWorld 1).me.rs 5).toNat % 2 ^ 32 ∧ ((barWorld 0).bar barInst0).gen = ((barWorld 0).me.rs 5).toNat % 2 ^ 32 := by
  decide +kernel
def barK (i : Instr) (a : W64) : ReqK := .unit i (2 ^ 80 + barInst0) ⟨0, 0⟩ Cap.null a 0 0
theorem test_meets_barrier_unit : let c := barK (.barc ⟨hx, 0, 0, 5, 2⟩) 2
    Awaits (unitWorld c) (req0 c) ∧ (unitWorld c).unitReady (req0 c) = true ∧ ((unitWorld c).bar barInst0).owner = none ∧ (unitWorld c).barTaken barInst0 = false ∧
    (let a := barK (.bara ⟨hx, 0, 0, 5, 2⟩) 0
     ({ barWorld 0 with reqs := [req0 a] } : State).req? 0 = some (req0 a) ∧ ({ barWorld 0 with reqs := [req0 a] } : State).unitReady (req0 a) = true) := by
  unfold Awaits; decide +kernel
theorem test_meets_gen_advance : let s : State := { w0 with bars := [(barInst0, { Bar.empty with closed := [0] })], cur := barInst0, cyc := 160 }
    (s.bar s.cur).closed = [0] ∧ 0 + (if s.cur < 8192 then 8 else if s.cur < 16384 then 24 else 160) ≤ s.cyc := by decide +kernel
theorem test_meets_own_ls_atomics : ClearAmo w0 (amoAcc w0 (at' 1) [pLoad, pStore, pAtomic] 8) (lsKey 0 0) ∧
    ClearAmo w0 (amoAcc w0 (at' 1) [pStore, pAtomic] 4) (lsKey 0 0) ∧ ownLs 0 (lsKey 0 0) = true ∧ w0.ueIn Rdr.home (lsKey 0 0) 8 = none ∧
    w0.me.pend < 16 ∧ w0.memNat (lsKey 0 0) 4 = (w0.me.rs 5).toNat % 2 ^ 32 ∧
    (feWorld true 1).memNat (lsKey 0 0) 4 ≠ ((feWorld true 1).me.rs 5).toNat % 2 ^ 32 := by unfold ClearAmo amoAcc; decide +kernel
theorem test_meets_posted_atomics : let s := gw 0x120000
    ClearAmo s (amoAcc s glob [pLoad, pStore, pAtomic] 8) (globKey 0 0x120000) ∧ ClearAmo s (amoAcc s glob [pStore, pAtomic] 4) (globKey 0 0x120000) ∧
    ownLs 0 (globKey 0 0x120000) = false := by unfold ClearAmo amoAcc; decide +kernel
theorem test_meets_atomics_performed : let i := Instr.amoMax ⟨hx, 4, 0, 0, 5, glob, 6⟩
    let r := Instr.redFadd ⟨hx, 9, 6, glob⟩
    (reqWorld (wordK i)).req? 0 = some (req0 (wordK i)) ∧ (reqWorld (wordK i)).unitReady (req0 (wordK i)) = true ∧
    (reqWorld (wordK r)).req? 0 = some (req0 (wordK r)) ∧ (reqWorld (wordK r)).unitReady (req0 (wordK r)) = true ∧
    w0.ueIn Rdr.home (globKey 0 0x120000) 8 = none ∧ (req0 (wordK i)).pos ≠ nowhere ∧ globKey 0 0x120000 < 2 ^ 72 := by decide +kernel
/-- AMOCAS at the unit over a datum that equals its s[sd], and over another. -/
theorem test_meets_amocas_performed : let k := wordK (.amocas ⟨hx, 4, 0, 0, 5, glob, 6⟩)
    let s := reqWorld k
    s.req? 0 = some (req0 k) ∧ s.unitReady (req0 k) = true ∧ (s.ms 0).exiting = false ∧ s.memNat (globKey 0 0x120000) 8 = (0 : W64).toNat % 2 ^ 64 ∧
    ({ s with mem := [⟨globKey 0 0x120000, 1⟩] } : State).memNat (globKey 0 0x120000) 8 ≠ (0 : W64).toNat % 2 ^ 64 := by decide +kernel
theorem test_meets_redw : ({ aTask2 with pend := 2, s := [(5, 2)] } : Master).pend ≤ (({ aTask2 with pend := 2, s := [(5, 2)] } : Master).rs 5).toNat := by decide

/-! ### Tasks, rounds and capabilities -/

/-- Supervisor core 0 of die 0 with the registers of the task. -/
def svcWorld (m : Master) : State := { world { m with kind := .empty } with masters := [(svcBase, { m with kind := .svc, proof := 0 })], cur := svcBase }
/-- A queue stage at GLOB 0x120000 and a FIFO stage at CLU 0x80000. -/
def stage0 : Stage := { addr := 0x120000, kind := 2, cores := 1, high := 8, low := 4, w := 1, above := 0, got := 0 }
def stage1 : Stage := { stage0 with addr := 0x80000, kind := 1 }
def stagedLaunch : Launch := { launch0 with stages := [stage0, stage1] }
def stagedWorld (k : Nat) : State :=
  { gw 0x120000 with
    launches := [(1, stagedLaunch)], masters := [(0, { aTask2 with stage := k })]
    mem := setCells [] (bytesAt (globKey 0 0x120000) (leBytes 4 0 ++ leBytes 4 1 ++ leBytes 2 2)) }
/-- The first leased page. -/
def leasedCap : Cap := Cap.over 3 0x3FF 0x100000 0x10000 0x100000
theorem test_meets_gang : let s := world { aTask2 with s := [(4, 2)], c := [(3, leasedCap)] }
    let c := s.me.rc 3
    let n := (s.me.rs 4).toNat
    IsTask s ∧ s.me.orphan = none ∧ s.launch? s.me.lslot = some launch0 ∧ 1 ≤ n ∧ launch0.gangs + n ≤ 2 ^ 32 - 1 ∧
    (launch0.gangs + n - 1) / (launch0.gx * launch0.gy) ≤ 65535 ∧ c.tag = true ∧ s.leased launch0.part launch0.lease c.base c.top = true ∧
    (launch0.greqs.filter fun g => !g.own).length < 16 := by unfold IsTask; decide +kernel
theorem test_meets_stage_instructions : StageOk (stagedWorld 0) stagedLaunch stage0 0 ∧ StageOk (stagedWorld 1) stagedLaunch stage1 1 ∧
    (stagedWorld 1).me.stage = 1 := by unfold StageOk IsTask; decide +kernel
theorem test_meets_stage_fifo : let i := Instr.spawn ⟨hx, 5, 1⟩
    let j := Instr.sqget ⟨hx, 5⟩
    let s := fifoWorld j
    let bk := s.bank (bankOfKey (cluKey 0 0x80000))
    Awaits (fifoWorld i) (req0 (fifoK i)) ∧ Awaits s (req0 (fifoK j)) ∧ 2 ^ 69 ≤ cluKey 0 0x80000 ∧ cluKey 0 0x80000 < 2 ^ 72 ∧
    s.waiting [] = false ∧ bk.sw = [] ∧ bk.mode = 2 ∧ bk.wpos < 65536 ∧ bk.rpos < 65536 ∧ bk.fill < 65536 - bk.held ∧ bk.fill ≠ 0 ∧
    s.ueIn Rdr.home (entryKey 1 bk.rpos) 8 = none := by unfold Awaits; decide +kernel
theorem test_meets_exit : IsTask w0 ∧ w0.me.div = none ∧ w0.me.vxe = [] ∧ w0.me.mxe = [] ∧ w0.me.cpe = [] ∧ w0.me.att = [] ∧ w0.me.posts = [] ∧
    (∀ r ∈ w0.reqs, r.pos ≠ w0.cur) := by unfold IsTask; decide +kernel
theorem test_meets_lnch : Clear w0 (loadAcc w0 (at' 1) [pLoad, pLdcap] 128 64 false) (lsKey 0 0) ∧ w0.ueIn (w0.rdr 0 1) (lsKey 0 0) 128 = none ∧
    (recOf 0).prio ≤ w0.me.prio ∧ launch0.defers.length < 256 := by unfold Clear loadAcc; decide +kernel
/-- A gang of the launch to place on core 1. -/
def gang0 : GangReq := { own := true, first := 0, count := 1, arg := whole 3 }
def gangLaunch : Launch := { launch0 with greqs := [gang0] }
def gangWorld : State := { w0 with launches := [(1, gangLaunch)] }
/-- The launch's turn comes, in the drain of bin 0 that this dispatch begins. -/
theorem test_meets_gang_dispatch : let s := { gangWorld with nextReq := 7 }
    s.launch? 1 = some gangLaunch ∧ s.nextInLevel 0 5 = some (1, 0, 7) ∧ s.higherPlaceable gangLaunch = false ∧ isSvcPos (1 * 16 + 255) = false ∧
    s.gangFits gangLaunch 1 [64] = true := by
  refine ⟨by decide +kernel, by decide +kernel, by decide +kernel, by decide +kernel, ?_⟩
  simp only [State.gangFits, State.groupFits, isSome_freeTiles]
  decide +kernel
/-- Core 1 is assigned to the queue stage of launch 1, with a group there or none. -/
def itemWorld (allocs : List Alloc) : State :=
  { stagedWorld 0 with cur := 1, arg := 1, cores := [(1, { Core.empty with allocs := allocs, stage := [(1, 0)] })] }
def alloc1 : Alloc := { lslot := 1, gang := 0xFFFFFFFF, grp := 0, base := 64, size := 64, pinned := false }
theorem test_meets_stage_item : ∀ s ∈ [itemWorld [alloc1], itemWorld []],
    s.launch? s.cur = some stagedLaunch ∧ (s.core s.arg).stage.find? (fun x => x.1 = s.cur) = some (s.cur, 0) ∧
    stagedLaunch.stages[0]? = some stage0 ∧ (s.freeSlots s.arg).head? = some 0 ∧ (s.freeTiles s.arg stagedLaunch.zacc).isSome ∧
    stagedLaunch.reaches stage0 s.arg = true ∧ s.promised 0 s.arg stagedLaunch.prio = false ∧ s.power.hold = false ∧
    s.stageRing (stageKey stagedLaunch stage0) = true ∧ s.qCount (stageKey stagedLaunch stage0) ≠ 0 := by
  simp only [isSome_freeTiles]
  decide +kernel
theorem test_meets_stage_item_group : (∃ a ∈ ((itemWorld [alloc1]).core 1).allocs.filter fun a => a.lslot = 1,
      ((itemWorld [alloc1]).taskIds 1 1 a).length < 15) ∧ (((itemWorld []).core 1).allocs.filter fun a => a.lslot = 1) = [] ∧
    (itemWorld []).compatFits stagedLaunch 1 = true ∧ ((itemWorld []).drew.anyOff 1 1 true).isSome := by
  simp only [isSome_anyOff]
  decide +kernel
/-- A submission queue with one record, a kernel of one instruction, and no launch. -/
def sq0 : SubQ := { puts := 1, gets := 0, cputs := 0, log2cap := 4, ring := 0x100000, cring := 0x110000, hidx := 0 }
def record (prio : Nat) : Nat := 0x140000 * 2 ^ 832 + 2 ^ 656 + 2 ^ 640 + 2 ^ 14 + 2 ^ 10 + prio
def header : List Byte := leBytes 4 0x4C41564B ++ leBytes 2 3 ++ leBytes 2 0 ++ leBytes 8 1 ++ leBytes 4 96 ++ [1, 0] ++ leBytes 2 0 ++ leBytes 4 64 ++
  List.replicate 16 0 ++ leBytes 4 4
def queueOf (prio : Nat) : State :=
  { w0 with
    launches := [], ranges := [(0, { lease := 0, base := 0x100000, len := 0x50000, rev := false })]
    pages := w0.pages ++ [(pageKey 0 0x140000 0, { page0 with x := true, w := false, seg := some (0x140000, 0x150000) })]
    parts := [(0, { Part.empty with dies := [0], full := true, sq := [(0, sq0)] })]
    mem := setCells [] (bytesAt (globKey 0 0x100000) (leBytes 128 (record prio)) ++ bytesAt (globKey 0 0x140000) header) }
/-- PUTS 1 over GETS 0 is in range, PUTS 17 is not. -/
theorem test_meets_doorbell : (1 + 2 ^ 32 - sq0.gets) % 2 ^ 32 ≤ 2 ^ sq0.log2cap ∧ 2 ^ sq0.log2cap < (17 + 2 ^ 32 - sq0.gets) % 2 ^ 32 ∧
    Tab.get SubQ.empty ((queueOf 5).part 0).sq 0 = sq0 ∧ (Tab.get SubQ.empty ((queueOf 5).part 0).sq 1).log2cap = 0 := by decide +kernel
theorem test_meets_record_taken : let s := queueOf 5
    let img := BitVec.ofNat 1024 (s.memNat (globKey 0 0x100000) 128)
    (s.part s.cur).waiting = [] ∧ s.arg < 16 ∧ (sq0.cputs + 2 ^ 32 - sq0.hidx) % 2 ^ 32 + 0 < 2 ^ sq0.log2cap ∧
    s.refusal s.cur img false true = none ∧ (List.range 64).find? (fun i => (s.launch? i).isNone) = some 0 ∧ s.proofs.length < 16384 := by
  decide +kernel
theorem test_meets_record_proof : ∃ root, (queueOf 5).freeProof = some root := by
  rw [← Option.isSome_iff_exists, isSome_freeProof]
  simp only [Bool.not_eq_true', List.isEmpty_eq_false_iff]
  exact List.ne_nil_of_mem (List.mem_filter.2 ⟨List.mem_map.2 ⟨1, List.mem_range.2 (by decide), rfl⟩, by decide +kernel⟩)
/-- The record reserves no shadow, so that any pool holds it. -/
theorem test_meets_record_budget : (queueOf 5).shadowUsed 0 + 0 * 4096 ≤ Config.shadowPool 0 := by
  have h : (queueOf 5).shadowUsed 0 = 0 := by decide +kernel
  omega
theorem test_meets_record_refused : let s := queueOf 11
    s.refusal s.cur (BitVec.ofNat 1024 (s.memNat (globKey 0 0x100000) 128)) false true = some 1 ∧ isGlobKey (globKey 0 0x110000) = true := by decide +kernel
/-- Launch 1's gang fits core 0 alone, whose LS a task of lower PRIO holds. -/
def stalled : Launch := { gangLaunch with pmode := 3 }
theorem test_meets_stall_report :
    let s := { w0 with
      cur := 1, arg := 0, cyc := 2 ^ 30, masters := [(0, { aTask2 with lslot := 2, prio := 1 })], launches := [(1, stalled), (2, { launch0 with prio := 1 })]
      cores := [(0, { Core.empty with allocs := [{ alloc1 with lslot := 2, base := 0, size := 262144 }] })] }
    s.launch? s.cur = some stalled ∧ s.waitingGang stalled = true ∧ stalled.stallRep = none ∧
    (s.part stalled.part).dlStall * 1024 < s.cyc - stalled.stall ∧ s.place stalled = none ∧ s.stallAt stalled = some 0 := by
  simp only [State.stallAt, State.offsAt, State.gangFits, State.groupFits, isSome_freeTiles]
  decide +kernel
theorem test_meets_setprio : (w0.me.rs 5).toNat ≤ w0.me.prio ∧
    (let s := svcWorld { aTask2 with s := [(5, BitVec.ofNat 64 (lnchid 1 1 + 11 * 2 ^ 32))] }
     let a := (s.me.rs 5).toNat
     s.me.kind = .svc ∧ a % 2 ^ 22 = lnchid launch0.gen 1 ∧ a / 2 ^ 22 % 2 ^ 10 = 0 ∧ a / 2 ^ 32 ≤ 11 ∧ s.launch? 1 = some launch0) := by decide +kernel
/-- HIGH 8, LOW 4, W 1 for stage 1 of launch 1, and for no live launch. -/
def govTask (id : Nat) : Master := { aTask2 with s := [(4, BitVec.ofNat 64 (id + 2 ^ 24)), (5, BitVec.ofNat 64 (8 * 2 ^ 32 + 4 * 2 ^ 16 + 2 ^ 8 + 1))] }
theorem test_meets_govcfg : let s := { svcWorld (govTask (lnchid 1 1)) with launches := [(1, stagedLaunch)] }
    let a := (s.me.rs 4).toNat
    let b := (s.me.rs 5).toNat
    a / 2 ^ 22 % 4 = 0 ∧ a / 2 ^ 24 < 16 ∧ b / 2 ^ 32 < 2 ^ 16 ∧ b / 2 % 2 ^ 7 = 0 ∧ b / 2 ^ 16 % 2 ^ 16 < b / 2 ^ 32 ∧ b / 2 ^ 8 % 2 ^ 8 ≠ 0 ∧
    a % 2 ^ 22 = lnchid stagedLaunch.gen 1 ∧ s.launch? 1 = some stagedLaunch ∧ stagedLaunch.stages[a / 2 ^ 24]? = some stage1 ∧
    s.byLnchid (((govTask (lnchid 1 2)).rs 4).toNat % 2 ^ 22) = none := by decide +kernel
theorem test_meets_dlcfg : let a := 1 + 2 ^ 8 + 2 ^ 16 + 3 * 2 ^ 40
    a / 2 % 2 ^ 7 = 0 ∧ a / 2 ^ 8 % 2 ^ 8 ≠ 0 ∧ a / 2 ^ 16 % 2 ^ 24 ≠ 0 ∧ a / 2 ^ 42 % 2 = 0 ∧ a < 2 ^ 48 := by decide
/-- At die 31. -/
theorem test_meets_dlcfg_die : let a := 1 + 2 ^ 8 + 2 ^ 16 + 31 * 2 ^ 43
    a / 2 % 2 ^ 7 = 0 ∧ a / 2 ^ 42 % 2 = 0 ∧ a < 2 ^ 48 := by decide
def dlWorld : State := { w0 with parts := [(0, { Part.empty with dies := [0], full := true, dlEn := true, dlPer := 1 })], round := { w0.round with num := 1 } }
theorem test_meets_deadlock_examine : (dlWorld.part dlWorld.cur).dlEn = true ∧ (dlWorld.part 0).dlAt + (dlWorld.part 0).dlPer ≤ dlWorld.round.num ∧
    (∀ c ∈ dlWorld.deadlocks 0, c ∈ (dlWorld.part 0).dlSeen → c ∈ (dlWorld.part 0).dlRep) := by decide +kernel
/-- Groups 1 and 2 each wait to take from a ring that the other put to last, which the examination before saw too. -/
def cycleWorld : State :=
  let waiter := fun (g k : Nat) => { aTask2 with st := .parked, park := .queue k false, parkO := 4, gno := g }
  let s := { dlWorld with
    masters := [(0, waiter 1 (globKey 0 0x120000)), (16, waiter 2 (globKey 0 0x120040))]
    rings := [(globKey 0 0x120000, { puts := [2], takes := [] }), (globKey 0 0x120040, { puts := [1], takes := [] })] }
  s.updPart 0 fun p => { p with dlSeen := s.deadlocks 0 }
theorem test_meets_deadlock_report : let s := cycleWorld
    let p := s.part s.cur
    p.dlEn = true ∧ p.dlAt + p.dlPer ≤ s.round.num ∧
    (s.deadlocks s.cur).filter (fun c => p.dlSeen.contains c && !p.dlRep.contains c) = [[[1, 0], [2, 0]]] := by decide +kernel

/-- Die 0 has entered the round; launch 1 ends or runs, alone or with a child proof 7. -/
def edgeWorld (st : LSt) (kids : List (Nat × Proof)) : State :=
  { w0 with
    round := { w0.round with opened := true, entered := [0] }, launches := [(1, { launch0 with st := st })]
    proofs := (1, { lslot := 1, parent := 0, depth := 0, st := 0, ord := 0 }) :: kids, vers := [(1, [(globKey 0 0x110000, 7)])] }
def child (st : Nat) : List (Nat × Proof) := [(7, { lslot := 1, parent := 1, depth := 1, st := st, ord := 3 })]
theorem test_meets_round : w0.rot.on = false ∧ (let s := { w0 with rot := { w0.rot with on := true }, round := { w0.round with demand := true } }
    s.rot.on = true ∧ s.round.opened = false ∧ s.round.demand = true) ∧
    (let s := { w0 with round := { w0.round with opened := true } }
     Tab.find? s.dies s.cur = some { Die.empty with joined := true, full := true } ∧ s.round.opened = true ∧ s.cur ∉ s.round.entered ∧
     s.round.entered = [] ∧ s.reqs = [] ∧ s.batches = [] ∧ s.scans = []) ∧
    (0 : Nat) ∉ ({ w0.round with opened := true, entered := [3] } : Round).entered := by
  decide +kernel
theorem test_meets_edges : ∀ x ∈ [(LSt.ending, []), (LSt.aborting, []), (LSt.running, child 1), (LSt.running, child 2)],
    QuietEdge (edgeWorld x.1 x.2) ∧ OneLaunch (edgeWorld x.1 x.2) 1 { launch0 with st := x.1 } x.2 ∧
    (Tab.get [] (edgeWorld x.1 x.2).vers 1).Pairwise (fun a b => a.1 < b.1) ∧
    (Tab.get SubQ.empty ((edgeWorld x.1 x.2).part 0).sq 0).log2cap = 0 ∧
    (∀ c ∈ Tab.get [] (edgeWorld x.1 x.2).vers 1, ((edgeWorld x.1 x.2).pageOfKey c.1).all (fun p => !p.2.file) = true) := by
  unfold QuietEdge OneLaunch; decide +kernel
/-- A launch of a queue with a completion ring at 0x110000, with a submission deferred under its root. -/
theorem test_meets_completion_entry : ∀ st ∈ [LSt.ending, LSt.aborting],
    let sq : SubQ := { puts := 1, gets := 1, cputs := 0, log2cap := 4, ring := 0x100000, cring := 0x110000, hidx := 0 }
    let l := { launch0 with st := st, defers := [{ proof := 1, img := 5, tag := false }] }
    let s := { edgeWorld st [] with launches := [(1, l)], parts := [(0, { w0.part 0 with sq := [(0, sq)] })] }
    QuietEdge s ∧ OneLaunch s 1 l [] ∧ l.pend = [] ∧ Tab.get SubQ.empty (s.part l.part).sq l.sq = sq ∧ sq.log2cap ≠ 0 ∧
    isGlobKey (globKey l.part (sq.cring.toNat + 16 * (sq.cputs % 2 ^ sq.log2cap))) = true ∧ (l.defers.filter fun d => d.proof = l.root) ≠ [] := by
  unfold QuietEdge OneLaunch; decide +kernel
/-- Proof 7's versions, in order, and its task. -/
theorem test_meets_edge_child : ((child 1).map Prod.fst) = [7] ∧ launch0.root < 7 ∧ launch0.pend = [] ∧ launch0.stages = [] ∧
    (let s := { edgeWorld .running (child 1) with masters := [(0, { aTask2 with proof := 7 })] }
     (s.ms 0).kind = .task ∧ (s.ms 0).orphan = none ∧ (s.ms 0).proof = 7) := by decide +kernel
theorem test_meets_end_sweep : let l : Launch := { launch0 with sweep := some 0 }
    let s := { w0 with cur := 1, masters := [], launches := [(1, l)] }
    s.launch? s.cur = some l ∧ l.greqs = [] ∧ s.saves = [] ∧ s.ringsEmpty l = true ∧ s.launchIdle s.cur = true ∧ s.sentSum s.cur = s.recvSum s.cur ∧
    l.sweep = some (s.sentSum s.cur) := by decide +kernel

/-- CSETB over 4,096 bytes from 0x100000: the least scale is 0; over all of the space: no scale up to 50 holds it. -/
def fitsAt (b len e : Nat) : Prop := up (b + len) e - b / 2 ^ e ≤ 16383
theorem test_meets_csetb : fitsAt 0x100000 4096 0 ∧ (∀ e' < 1, ¬ fitsAt 0x100000 (4 * 4096) e') ∧ fitsAt 0x100000 (4 * 4096) 1 ∧
    (let c := (whole 3).withCursor 0x100000
     c.tag = true ∧ c.sealT = 0 ∧ c.base ≤ 0x100000 / 2 ^ 1 * 2 ^ 1 ∧ up (0x100000 + 4 * 4096) 1 * 2 ^ 1 ≤ c.top) ∧
    (let c := (Cap.over 3 0x3FF 0x100000 0x1000 0).withCursor 0x100000
     c.tag = true ∧ c.sealT = 0 ∧ c.top < up (0x100000 + 4 * 4096) 1 * 2 ^ 1) := by
  unfold fitsAt up; decide +kernel
theorem test_meets_csetb_whole : (∀ e ≤ 50, ¬ fitsAt 0 (2 ^ 64 - 1) e) ∧ (whole 3).scl = 63 ∧ codeCap.scl ≠ 63 ∧ codeCap.tag = true := by
  unfold fitsAt up; decide +kernel
theorem test_meets_csetb_stops : Cap.null.tag = false ∧ (codeCap.withSeal 3).tag = true ∧ (codeCap.withSeal 3).sealT ≠ 0 ∧
    2 ^ 64 < ((whole 3).withCursor 0xFFFFFFFFFFFFFFFF).cursor.toNat + 2 := by decide +kernel
/-- CADD within the reach, with base and top kept. -/
theorem test_meets_cadd : codeCap.tag = true ∧ codeCap.sealT = 0 ∧ codeCap.scl ≤ 50 ∧ codeCap.representable (codeCap.cursor + 4) = true := by
  decide +kernel
/-- A key for seal type 3, its uses, and each failing check. -/
def sealKey : Cap := Cap.over 0 0x60 3 1 3
theorem test_meets_seal : KeyOk sealKey 5 ∧ KeyOk sealKey 6 ∧ codeCap.sealT = 0 ∧ (codeCap.withSeal 3).sealT = sealKey.base ∧
    (codeCap.withSeal 3).tag = true ∧ codeCap.sealT ≠ sealKey.base := by unfold KeyOk; decide +kernel
theorem test_meets_seal_stops : Cap.null.tag = false ∧ (whole 3).tag = true ∧ (whole 3).space ≠ 0 ∧
    (let k := (whole 0)
     k.tag = true ∧ k.space = 0 ∧ k.sealT = 0 ∧ k.has [5] = true ∧ ¬ (k.top = k.base + 1 ∧ 1 ≤ k.base ∧ k.base ≤ 14)) ∧
    (Cap.over 0 0x20 3 1 3).has [6] = false ∧ (Cap.over 0 0x20 3 1 3).space = 0 := by decide +kernel

/-- A descriptor of one transactional page at 0x200000 for lease 0; of a FILE page; of a page
mapped otherwise. -/
def desc0 : BitVec 512 := BitVec.ofNat 512 (0x200000 * 2 ^ 448 + 0x10000 * 2 ^ 384 + 2 ^ 13)
def descFile : BitVec 512 := desc0 + BitVec.ofNat 512 (2 ^ 18)
def descFileX : BitVec 512 := BitVec.ofNat 512 (0x200000 * 2 ^ 448 + 0x10000 * 2 ^ 384 + 2 ^ 14 + 2 ^ 18)
def descClash : BitVec 512 := BitVec.ofNat 512 (0x100000 * 2 ^ 448 + 0x10000 * 2 ^ 384 + 2 ^ 13)
def svcGlob (a : W64) (d : BitVec 512) : State :=
  { svcWorld { aTask2 with s := [(4, a)] } with mem := setCells [] (bytesAt (globKey 0 a.toNat) (leBytes 64 d.toNat)) }
def rm : RMem := ⟨hx, 5, glob⟩
theorem test_meets_lease : let s := svcGlob 0x100000 desc0
    s.me.kind = .svc ∧ Clear s (loadAcc s glob [pLoad] 64 64 false) (globKey 0 0x100000) ∧ s.ueIn (s.rdr s.cur 0) (globKey 0 0x100000) 64 = none ∧
    BitVec.ofNat 512 (leNat (s.loadBytes (s.rdr s.cur 0) (globKey 0 0x100000) 64)) = desc0 ∧ (descF desc0).ok (s.part (s.partOf s.cur)).dies = true ∧
    (descF (desc0 + 1)).ok (s.part (s.partOf s.cur)).dies = false := by unfold Clear loadAcc; decide +kernel
theorem test_meets_free_range : ∃ i, w0.freeRange 0 = some i := by
  rw [← Option.isSome_iff_exists, isSome_freeRange]
  decide +kernel
def svcUnit (k : ReqK) : State :=
  { svcWorld { awaiting with wait := 0 } with reqs := [{ req0 k with pos := svcBase }] }
def leaseK (d : BitVec 512) : ReqK := .unit (.lease rm) (globKey 0 0x100000) ⟨3, 0x100000⟩ (whole 3) 0 0 (d.setWidth 1024)
def sreq (k : ReqK) : Req := { req0 k with pos := svcBase }
/-- The four outcomes of a completion; reduced service has no room for a first-tier page. -/
theorem test_meets_lease_complete : let s := { svcUnit (leaseK desc0) with cur := 0 }
    Awaits s (sreq (leaseK desc0)) ∧ Awaits { svcUnit (leaseK descClash) with cur := 0 } (sreq (leaseK descClash)) ∧
    s.partOf svcBase = 0 ∧ (descF ((desc0.setWidth 1024).setWidth 512)).ok (s.part 0).dies = true ∧ (descF descClash).ok (s.part 0).dies = true ∧
    (descF descFile).ok (s.part 0).dies = true ∧ (descF descFileX).ok (s.part 0).dies = true ∧ (descF descFileX).x = true ∧ (descF descFileX).file = true ∧
    s.pageClash 0 (descF descClash) = true ∧ ({ s with parts := [(0, { s.part 0 with full := false })] } : State).noRoom 0 (descF desc0) = true ∧
    s.pageClash 0 (descF descFile) = false ∧ s.noRoom 0 (descF descFile) = false ∧ (descF descFile).file = true ∧ (descF descFile).x = false ∧
    0x200000 ∈ (descF descFile).pages ∧ s.pageMapped 0 (descF descFile) 0x200000 = false ∧
    (let t := { s with pages := s.pages ++ [(pageKey 0 0x200000 0, (descF descFile).page 0x200000 true)] }
     t.pageClash 0 (descF descFile) = false ∧ t.noRoom 0 (descF descFile) = false ∧ ∀ va ∈ (descF descFile).pages, t.pageMapped 0 (descF descFile) va = true) ∧
    s.pageClash 0 (descF desc0) = false ∧ s.noRoom 0 (descF desc0) = false ∧ s.pageMapped 0 (descF desc0) 0x200000 = false ∧
    0x200000 ∈ (descF desc0).pages := by unfold Awaits; decide +kernel
def svcSS (a b : W64) : State := svcWorld { aTask2 with s := [(4, a), (5, b)] }
def ss : SS := ⟨hx, 4, 5⟩
theorem test_meets_lrev_xinv : (svcSS 0 0).me.kind = .svc ∧ ((svcSS 0 0).me.rs 4).toNat < 2 ^ 16 ∧ ((svcSS 0 0).me.rs 5).toNat < 4096 ∧
    ¬ (((svcSS 65536 0).me.rs 4).toNat < 2 ^ 16) ∧ ((svcSS 0x120000 0x10000).me.rs 4).toNat % 65536 = 0 ∧
    ((svcSS 0x120000 0x10000).me.rs 5).toNat % 65536 = 0 ∧ ((svcSS 0 1).me.rs 5).toNat % 65536 ≠ 0 := by decide +kernel
def lrevK (a : W64) : ReqK := .unit (.lrev ss) ctlKey ⟨3, 0⟩ Cap.null a 0 0
def revoked (k : ReqK) : State := { svcUnit k with cur := 0, ranges := [(0, { lease := 0, base := 0x100000, len := 0x40000, rev := true })] }
/-- Range 0 of lease 0 is revoked with no job on it; of lease 9 there is none. -/
theorem test_meets_lrev_complete : let s := revoked (lrevK 0)
    let t := revoked (lrevK 9)
    Awaits s (sreq (lrevK 0)) ∧ s.ranges.any (fun e => lrevNames 0 0 0 e.1 e.2 && e.2.rev) = true ∧
    (∀ e ∈ s.ranges, s.jobsMeet 0 e.2.base (e.2.base + e.2.len) = false) ∧
    Awaits t (sreq (lrevK 9)) ∧ t.ranges.any (fun e => lrevNames 0 9 0 e.1 e.2 && e.2.rev) = false := by unfold Awaits; decide +kernel
def xinvK : ReqK := .unit (.xinv ss) ctlKey ⟨3, 0x110000⟩ Cap.null 0x110000 0x10000 0
/-- A page that a lease holds, and the same page with no lease left. -/
theorem test_meets_xinv_complete : let s := { svcUnit xinvK with cur := 0 }
    let t := { s with ranges := [] }
    let ps := (s.pagesIn 0 0x110000 0x10000).filter fun e => !e.2.ctl
    Awaits s (sreq xinvK) ∧ ps ≠ [] ∧ (∃ e ∈ ps, s.pageLeased 0 e.1 e.2 = true) ∧
    Awaits t (sreq xinvK) ∧ (∀ e ∈ ps, t.pageLeased 0 e.1 e.2 = false ∧ e.2.file = false ∧ t.pageBusy e.1 = false) := by
  unfold Awaits; decide +kernel

/-! ### Code, plates, proofs and pre-emption -/

/-- A task with a code capability over a page of code at 0x140000. -/
def codeMem : MemOp := ⟨7, 0, 0, 0⟩
def codeTask (n : W64) : Master := { aTask2 with c := aTask2.c ++ [(7, (Cap.over 4 5 0x140000 0x10000 0).withCursor 0x140000)], s := [(5, n)] }
def xPages : Tab Page := w0.pages ++ [(pageKey 0 0x140000 0, { page0 with x := true, w := false, svn := 3 })]
def xWorld (m : Master) : State :=
  { world m with pages := xPages, ranges := [(0, { lease := 0, base := 0x100000, len := 0x50000, rev := false })] }
theorem test_meets_icsync : ∀ n ∈ [(0 : W64), 64], let s := xWorld (codeTask n)
    NoHandler s ∧ (s.me.rs 5).toNat < 2 ^ 32 ∧
    s.check s.cur { cap := s.me.rc 7, perms := [pLoad], sp := { code := true }, ea := (s.me.ea codeMem).toNat, len := (s.me.rs 5).toNat } = none := by
  intro n hn
  simp only [List.mem_cons, List.not_mem_nil, or_false] at hn
  unfold NoHandler
  rcases hn with rfl | rfl <;> decide +kernel
def icK : ReqK := .unit (.icsync ⟨⟨false, false⟩, 0, 5, codeMem⟩) ctlKey ⟨4, 0x140000⟩ (whole 4) 64 0 0
theorem test_meets_icsync_complete : Awaits (unitWorld icK) (req0 icK) := by unfold Awaits; decide +kernel
/-- With a kernel's header at 0x140000: words in it and behind it. -/
theorem test_meets_code_patch : let p := { page0 with x := true, w := false, svn := 3, hdrs := [0x140000] }
    let s := { w0 with pages := [(pageKey 0 0x140000 0, p)], rot := { w0.rot with sessions := [(9, 0)] } }
    (0x140004 : W64).toNat % 4 = 0 ∧ s.pageAt 0 (0x140004 : W64).toNat = some (pageKey 0 0x140000 0, p) ∧ p.x = true ∧
    s.pageAt 0 (0x140060 : W64).toNat = some (pageKey 0 0x140000 0, p) ∧ s.rot.sessions.any (fun x => x.2 = 0) = true ∧
    (∃ h ∈ p.hdrs, h < (0x140004 : W64).toNat + 4 ∧ (0x140004 : W64).toNat < h + 96) ∧
    (∀ h ∈ p.hdrs, (0x140060 : W64).toNat + 4 ≤ h ∨ h + 96 ≤ (0x140060 : W64).toNat) := by decide +kernel
/-- An image of 64 bytes staged at 0x100000, with the format of its first block, to map at 0x200000. Whether the service refuses it is settled by signatures and
hashes of the device; every other hypothesis of the mapping clauses holds. -/
def mapReq : MapReq :=
  { part := 0, stage := 0x100000, bytes := 64, descs := [(0, 0x0600)], base := 0x200000, lease := 0, svn := 3, record := false, revid := 0x0003000000000000, featreq := 0 }
theorem test_meets_map_executable : let s := { w0 with rot := { w0.rot with on := true } }
    let d := MapReq.desc mapReq ((s.part 0).dies.headD 0)
    s.rot.on = true ∧ d.ok (s.part 0).dies = true ∧ s.noRoom 0 d = false ∧ s.pageAt 0 mapReq.base.toNat = none ∧
    mapReq.stage.toNat + mapReq.bytes ≤ mapReq.base.toNat ∧ mapReq.stage.toNat + mapReq.bytes ≤ 2 ^ 64 ∧ 0 < mapReq.bytes ∧ mapReq.bytes ≤ 65536 ∧
    (∀ x ∈ mapReq.descs, x.1 < mapReq.bytes ∧ ∀ y ∈ mapReq.descs, y.1 / 64 = x.1 / 64 → y = x) := by decide +kernel
theorem test_meets_map_answer (s : State) (r : MapReq) : (∃ c, s.mapRefusal r = some c) ∨ s.mapRefusal r = none := by
  cases s.mapRefusal r <;> simp
/-- The second tier is full at 2^42 bytes. -/
theorem test_meets_map_no_room : let d := MapReq.desc mapReq 0
    let p := { page0 with tier := 2, t2 := true, psz := 2 }
    pageBytes 2 = 2 ^ 30 ∧ ({ w0 with pages := (List.range 4096).map fun i => (pageKey 0 (2 ^ 40 + i * 2 ^ 30) 2, p)
                                      parts := [(0, { w0.part 0 with full := false })] } : State).noRoom 0 d = true := by decide +kernel
theorem test_meets_fuse_raise : let s := { xWorld aTask2 with rot := { w0.rot with on := true, objFuse := 3 } }
    s.rot.on = true ∧ 3 ≤ s.rot.objFuse ∧ s.rot.objFuse < 4 ∧ 4 ≤ 65535 := by decide +kernel
/-- A key that this module has not translated, asked for 2^26 cycles ago. Which module leads, what the translator gives and
which records verify are the device's: each clause's other hypotheses hold. -/
def tkey : TransKey := { src := 1, tver := 1, trev := 0x0003000000000000, tfeat := 0x1F }
theorem test_meets_translation_cases (k : TransKey) :
    let src := Config.portable k.src
    (portableFails src = true ∨ Config.sha384 src ≠ k.src ∨ (∃ h ∈ imgHeaders src, imgNat src (h + 22) 2 ≠ imgSvn src) ∨
      ∀ img, Config.translate k.src k.tver k.trev k.tfeat = some img → translates src img (k.trev.toNat % 64) = false) ∨
    ∃ img, portableFails src = false ∧ Config.sha384 src = k.src ∧ (∀ h ∈ imgHeaders src, imgNat src (h + 22) 2 = imgSvn src) ∧
      Config.translate k.src k.tver k.trev k.tfeat = some img ∧ translates src img (k.trev.toNat % 64) = true := by
  intro src
  by_cases hs : Config.sha384 src = k.src <;> by_cases hh : ∀ h ∈ imgHeaders src, imgNat src (h + 22) 2 = imgSvn src
  · cases portableFails src <;> cases ht : Config.translate k.src k.tver k.trev k.tfeat with
    | none => simp
    | some img => cases htr : translates src img (k.trev.toNat % 64) <;> simp_all
  · exact .inl (.inr (.inr (.inl (by simpa using hh))))
  · exact .inl (.inr (.inl hs))
  · exact .inl (.inr (.inl hs))
theorem test_meets_translation : let s := { w0 with rot := { w0.rot with on := true } }
    let t := { s with cyc := 2 ^ 26, rot := { s.rot with asked := [(tkey, 0)] } }
    s.rot.on = true ∧ s.rot.cached tkey = none ∧ s.rot.asked.any (fun x => x.1 = tkey) = false ∧
    t.rot.asked.find? (fun x => x.1 = tkey) = some (tkey, 0) ∧ 0 + 2 ^ 26 ≤ t.cyc := by decide +kernel

/-- A plate over a plate page at 0x150000. -/
def platePages : Tab Page := w0.pages ++ [(pageKey 0 0x150000 0, { page0 with pl := true, w := false })]
def plateCap : Cap := (Cap.over 3 1 0x150000 0x10000 0).withCursor 0x150000
def svcC (c : Cap) (a : W64) : State := svcWorld { aTask2 with c := [(7, c)], s := [(5, a)] }
theorem test_meets_plate : let s := svcC plateCap 7
    let c := s.me.rc 7
    s.me.kind = .svc ∧ c.tag = true ∧ c.sealT = 0 ∧ c.has [pLoad] = true ∧ c.space = 3 ∧ c.base % 65536 = 0 ∧ c.top % 65536 = 0 ∧
    c.base < c.top ∧ (s.me.rs 5).toNat < 4096 ∧ 4096 ≤ ((svcC plateCap 4096).me.rs 5).toNat := by decide +kernel
theorem test_meets_plate_stops : Cap.null.tag = false ∧ (plateCap.withSeal 2).sealT ≠ 0 ∧ (plateCap.withSeal 2).tag = true ∧
    (whole 2).space ≠ 3 ∧ (whole 2).has [pLoad] = true ∧ (whole 2).sealT = 0 ∧
    (let c := Cap.over 3 1 0x150000 0x8000 0x150000
     c.tag = true ∧ c.sealT = 0 ∧ c.has [pLoad] = true ∧ c.space = 3 ∧ c.top % 65536 ≠ 0) := by decide +kernel
def plateK (a : W64) : ReqK := .unit (.plate ⟨hx, 6, 7, 5⟩) ctlKey ⟨3, 0⟩ plateCap a 0 0
def plate0 (st : Nat) : Plate := { Plate.empty with st := st, gen := 4, base := 0x150000, top := 0x160000 }
/-- A FREE id, the same id OPEN over the range, and a range that another plate meets. -/
theorem test_meets_plate_complete : let s := { svcUnit (plateK 7) with cur := 0, pages := platePages }
    let t := { s with plates := [(7, plate0 1)] }
    Awaits s (sreq (plateK 7)) ∧ Awaits t (sreq (plateK 7)) ∧ s.plateFails 0 7 plateCap.base plateCap.top = false ∧ (s.plate 7).st = 0 ∧
    t.plateFails 0 7 plateCap.base plateCap.top = false ∧ (t.plate 7).st = 1 ∧ t.plateFails 0 8 plateCap.base plateCap.top = true := by
  unfold Awaits; decide +kernel
def imprdWorld : State :=
  { gw 0x100000 with
    masters := [(0, { aTask2 with s := [(4, 0x100000), (5, 99)], c := aTask2.c ++ [(7, (Cap.over 5 0x400 0x150000 0x10000 0).withCursor 0x150000)] })]
    plates := [(7, plate0 1)] }
def imprdX : ImprdA := ⟨hx, glob, 7, 5⟩
theorem test_meets_imprd : let s := imprdWorld
    let c := s.me.rc 7
    NoHandler s ∧ c.tag = true ∧ c.sealT = 0 ∧ c.has [pPlateRead] = true ∧ c.space = 5 ∧ s.openAt 0 c.cursor.toNat = some 7 ∧
    Clear s (reportAcc s imprdX) (globKey 0 0x100000) ∧ (s.reports.filter fun q => q.part = 0).length < 16 := by
  unfold NoHandler Clear reportAcc; decide +kernel
def report0 (dst : Nat) : Report := { id := 0, part := 0, dst := dst, lslot := 1, gang := 0, grp := 0, plate := 7, nonce := 99, snap := some [0], snapAt := 0 }
/-- A report to a mapped page, and one whose page is gone. -/
theorem test_meets_report_write : (({ w0 with reports := [report0 (globKey 0 0x100000)] } : State).reports.find? fun q => q.id = 0) =
      some (report0 (globKey 0 0x100000)) ∧ w0.reportKey (report0 (globKey 0 0x100000)) = some (globKey 0 0x100000) ∧
    w0.reportKey (report0 (globKey 0 0x900000)) = none ∧ globKey 0 0x100000 < 2 ^ 71 := by decide +kernel
/-- A report goes where its LS allocation stood, be it there still, ended by a kill, or held by another group now (R399), and one to an
allocation in a save record goes into the record (R441). -/
theorem test_report_follows_its_allocation :
    let a : Alloc := { lslot := 1, gang := 0, grp := 0, base := 0x100, size := 0x8000, pinned := false }
    let q := report0 (lsKey 5 0x140)
    let r : Save := { m := Master.empty, core := 5, edge := 0, pinned := false, res := [], alloc := some a, ls := [], tiles := [], ztags := [], zbad := [] }
    ({ State.reset with cores := [(5, { Core.empty with allocs := [a] })] } : State).reportKey q = some (lsKey 5 0x140) ∧
    State.reset.reportKey q = some (lsKey 5 0x140) ∧
    ({ State.reset with cores := [(5, { Core.empty with allocs := [{ a with lslot := 2 }] })] } : State).reportKey q = some (lsKey 5 0x140) ∧
    (({ State.reset with saves := [(3, r)] } : State).reportSaved q [9]).saves = [(3, { r with ls := [(lsKey 0 0x140, 9)] })] := by
  decide +kernel
theorem test_meets_report_bytes (s : List Byte) (h : s.length = 6272) : 8 ≤ (Machine.signed s).length := by
  simp only [Machine.signed, List.length_append]
  omega
theorem test_meets_plate_close : let s := { w0 with plates := [(0, plate0 1)] }
    (s.plate 0).st = 1 ∧ s.plateLeased (s.plate 0) = false ∧
    ({ s with ranges := [(0, { lease := 0, base := 0x150000, len := 0x10000, rev := false })] } : State).plateLeased (s.plate 0) = true ∧
    (let t := { w0 with plates := [(0, plate0 2)] }
     (t.plates.map Prod.fst).Nodup ∧ (t.plate 0).st = 2 ∧ t.platePending 0 = false ∧ (t.plate 0).fin = none ∧
     (({ w0 with plates := [(0, { plate0 2 with fin := some [1] })] } : State).plate 0).fin = some [1] ∧
     ({ t with launches := [(1, { launch0 with pend := [(3, 1)] })] } : State).platePending 0 = true) := by decide +kernel
/-- A checkpoint of slot 3 in flight, at its first failure and at a later one. -/
def ckWorld (fail : Bool) : State :=
  { w0 with
    cyc := 5
    plates := [(0, { plate0 1 with ck := some [(3, 1, 2)], ckFail := fail, ckRep := 4
                                   slots := [(3, { hash := 1, struck := 1, spoiled := 2, carryS := 0, carryP := 0, sat := false, ckS := 0, ckP := 0 })] })] }
theorem test_meets_checkpoints : ((ckWorld false).plate 0).ck = some [(3, 1, 2)] ∧
    ([(3, 1, 2)] : List (Nat × Nat × Nat)).Pairwise (fun a b => a.1 ≠ b.1) ∧ ((ckWorld false).plate 0).ckFail = false ∧
    ((ckWorld true).plate 0).ckFail = true ∧ (ckWorld true).cyc < ((ckWorld true).plate 0).ckRep + 2 ^ 30 := by decide +kernel

/-- The proof table's instructions: proof ids of 16 bits. -/
theorem test_meets_proof_instructions : let s := world { aTask2 with s := [(5, 0xFFFF), (6, 0x1FFFF)] }
    IsTask s ∧ NoHandler s ∧ s.me.orphan = none ∧ (s.me.rs 5).toNat < 2 ^ 16 ∧ (s.me.rs 6).toNat < 2 ^ 17 := by
  unfold IsTask NoHandler; decide +kernel
def proofK (i : Instr) (a : W64) : ReqK := .unit i ctlKey ⟨3, 0⟩ Cap.null a 0 0
/-- A root, an OPEN and a CANCELLING child, and a proof at depth 8, of launch 1. -/
def proofWorld (i : Instr) (a : W64) : State :=
  { unitWorld (proofK i a) with
    proofs := [(1, { lslot := 1, parent := 0, depth := 0, st := 0, ord := 0 }), (7, { lslot := 1, parent := 1, depth := 1, st := 0, ord := 0 })
               , (8, { lslot := 1, parent := 1, depth := 1, st := 2, ord := 0 }), (9, { lslot := 1, parent := 7, depth := 8, st := 0, ord := 0 })] }
theorem test_meets_proof_table : ∀ i ∈ [Instr.prnew ss, .prset ⟨hx, 5⟩, .prpass ⟨hx, 5⟩, .prcan ⟨hx, 5⟩, .prst ⟨⟨false, false⟩, 4, 5⟩],
    ∀ a ∈ [(0 : W64), 7, 8, 9, 5], Awaits (proofWorld i a) (req0 (proofK i a)) ∧ ((proofWorld i a).ms 0).kind = .task ∧ a.toNat < 2 ^ 17 := by
  intro i hi a ha
  simp only [List.mem_cons, List.not_mem_nil, or_false] at hi ha
  unfold Awaits
  rcases hi with rfl | rfl | rfl | rfl | rfl <;> rcases ha with rfl | rfl | rfl | rfl | rfl <;> decide +kernel
theorem test_meets_proof_clauses : let s := proofWorld (.prnew ss) 0
    namedBy (s.ms 0) 0 = 1 ∧ namedBy (s.ms 0) 9 = 9 ∧ Tab.find? s.proofs 5 = none ∧ s.launch? (s.ms 0).lslot = some launch0 ∧ launch0.root = 1 ∧
    s.liveProofs 1 < 1024 ∧ s.proofs.length < 16384 ∧ (s.reqs.filter fun q => q.lslot = 1 && q.k = .resolve).length < 64 := by decide +kernel
theorem test_meets_proof_id : ∃ n, (proofWorld (.prnew ss) 0).freeProof = some n := by
  rw [← Option.isSome_iff_exists, isSome_freeProof]
  simp only [Bool.not_eq_true', List.isEmpty_eq_false_iff]
  exact List.ne_nil_of_mem (List.mem_filter.2 ⟨List.mem_map.2 ⟨1, List.mem_range.2 (by decide), rfl⟩, by decide +kernel⟩)

/-- A target of selector 0: the task in slot 0 of core 0, of generation 1 of launch 1. -/
def tgt : W64 := BitVec.ofNat 64 (lnchid 1 1)
/-- Selector 2: every task of the launch. -/
def tgtAll : W64 := tgt + 0x8000000000000000
theorem test_meets_preempt_issue : preemptOk tgt 0 = true ∧ preemptOk tgtAll 1 = true ∧ preemptOk tgt 1 = false ∧ resumeOk tgt 0 = true ∧
    resumeOk tgt 2 = false ∧ freezeOk tgt = true ∧ freezeOk tgtAll = false ∧ (svcSS tgt 0).me.kind = .svc := by decide +kernel
def sss : SSS := ⟨hx, 6, 4, 5⟩
def colK (i : Instr) (a b : W64) : ReqK := .unit i ctlKey ⟨3, 0⟩ Cap.null a b 0
/-- The collector with the supervisor core's request, over a task at position 0. -/
def colWorld (m : Master) (i : Instr) (a b : W64) : State :=
  { svcUnit (colK i a b) with cur := 0, masters := [(0, m), (svcBase, { awaiting with kind := .svc, proof := 0 })] }
theorem test_meets_preempt_collector : ∀ b ∈ [(0 : W64), 1], let s := colWorld aTask2 (.preempt sss) tgtAll b
    let part := s.partOf svcBase
    Awaits s (sreq (colK (.preempt sss) tgtAll b)) ∧ (s.ms svcBase).kind = .svc ∧ s.byLnchid (tgtF tgtAll).lnch = some 1 ∧
    s.launch? 1 = some launch0 ∧ launch0.part = part ∧ (s.part part).pres = [] ∧ launch0.st = .running ∧ s.selected part 2 0 1 = [0] ∧
    1 ≤ s.freeSaves part ∧ ({ s with masters := [] } : State).selected part 2 0 1 = [] := by
  intro b hb
  simp only [List.mem_cons, List.not_mem_nil, or_false] at hb
  unfold Awaits
  rcases hb with rfl | rfl <;> decide +kernel
theorem test_meets_resume_frozen : let s := colWorld { aTask2 with st := .frozen } (.resume sss) tgt 0
    let r := sreq (colK (.resume sss) tgt 0)
    Awaits s r ∧ Target s r tgt 0 ∧ (s.ms 0).st = .frozen ∧ (s.ms 0).mxe = [] ∧ (s.ms 0).cpe = [] ∧ (s.ms 0).att = [] ∧ 0 ≠ r.pos ∧ s.packetHeld 0 = false := by
  unfold Awaits Target; decide +kernel
/-- Behind a full ring and 64 held packets the master's own waits. -/
theorem test_meets_packet_held :
    let p : Packet := { pos := none, type := 1, eng := 0, cause := 0x10, pc := 0, d0 := 1, d1 := 2, d2 := 3, d3 := 4, proof := 0, lnch := 0, round := 0
                        die := 0, clu := 0, core := 0, slot := 0, svc := false }
    let s := { colWorld { aTask2 with st := .frozen } (.resume sss) tgt 0 with
      dies := [(0, { Die.empty with joined := true, pkts := List.replicate 64 p ++ [{ p with pos := some 0, type := 0 }] })]
      mem := setCells [] (bytesAt (globKey 0 (0xFFFFF00000000000 + 0x10000)) (leBytes 4 4096)) }
    let r := sreq (colK (.resume sss) tgt 0)
    Awaits s r ∧ Target s r tgt 0 ∧ (s.ms 0).st = .frozen ∧ s.packetHeld 0 = true := by
  unfold Awaits Target; decide +kernel
/-- Record 3 holds a task of core 0 whose group stayed there. -/
def save0 : Save := { m := { aTask2 with zcount := 2 }, core := 0, edge := 0, pinned := true, res := [], alloc := none, ls := [], tiles := [], ztags := [false, false], zbad := [] }
def saveParked : Save := { save0 with m := { save0.m with st := .parked, park := .gang, wait := 5 } }
def tgtSave : W64 := 0x4003000000000000
theorem test_meets_resume_saved : let r := { sreq (colK (.resume sss) tgtSave 0) with slot := false }
    let s := { colWorld Master.empty (.resume sss) tgtSave 0 with saves := [(3, save0)], cores := [], reqs := [r] }
    Awaits s r ∧ r.slot = false ∧ (tgtF tgtSave).sel = 1 ∧ (tgtF tgtSave).saveid = 3 ∧ resumeOk tgtSave 0 = true ∧
    s.launch? save0.m.lslot = some launch0 ∧ s.promised launch0.part save0.core launch0.prio = false ∧ (s.freeSlots 0).head? = some 0 ∧
    ((List.range 15).find? fun b => (List.range 2).all fun i => Tab.get 0 (s.core 0).tiles (b + i) = 0) = some 0 ∧
    (∀ e ∈ s.masters, e.2.saving = none) ∧ saveParked.m.st = .parked ∧ saveParked.m.park ≠ .preempt ∧ saveParked.m.exiting = false ∧ save0.res = [] ∧ save0.m.vxe = [] ∧ save0.m.mxe = [] ∧ save0.m.cpe = [] ∧ save0.m.att = [] ∧ save0.m.posts = [] ∧ save0.m.kind = .task := by
  unfold Awaits; decide +kernel
def frz : SSP := ⟨⟨false, false⟩, 6, 4⟩
theorem test_meets_freeze : let s := colWorld aTask2 (.freeze frz) tgt 0
    let r := sreq (colK (.freeze frz) tgt 0)
    Awaits s r ∧ Target s r tgt 0 ∧ (s.ms 0).await = false ∧ s.settled 0 = true ∧
    (colWorld { aTask2 with div := some (5, 1) } (.freeze frz) tgt 0).settled 0 = false ∧
    ((colWorld Master.empty (.freeze frz) tgt 0).ms (tgtF tgt).pos).kind = .empty ∧
    Awaits (colWorld Master.empty (.freeze frz) tgt 0) r := by unfold Awaits Target; decide +kernel
/-- A kill that retired two tasks, a PREEMPT that selected none any more, and one that saves the task at position 0. -/
def pre0 (kill : Bool) : Pre := { id := 0, sel := if kill then 2 else 0, kill := kill, pos := 0, lslot := 1, done := true, edge := 0, count := 2 }
def preWorld (kill : Bool) (m : Master) : State :=
  { colWorld m (.preempt sss) tgt 0 with parts := [(0, { w0.part 0 with pres := [pre0 kill] })] }
theorem test_meets_preempt_complete : ∀ k ∈ [false, true], let s := preWorld k aTask2
    Awaits s (sreq (colK (.preempt sss) tgt 0)) ∧ (s.part 0).pres.find? (fun p => p.id = 0) = some (pre0 k) ∧ (pre0 k).done = true ∧
    (s.masters.filter fun e => e.2.saving = some 0) = [] := by unfold Awaits; decide +kernel
/-- The task of slot 0 of core 0, which a SAVE's edge has taken out of it for record 5 of partition 0. -/
def savedWorld : State :=
  { preWorld false Master.empty with masters := [(svcBase, { awaiting with kind := .svc, proof := 0 }), (savePos 5 0, { aTask2 with saving := some 0, gangid := 0xFFFFFFFF })] }
theorem test_meets_preempt_saves : let s := savedWorld
    let pos := savePos (0 * 16384 + 5) 0
    Awaits s (sreq (colK (.preempt sss) tgt 0)) ∧ (s.masters.filter fun e => e.2.saving = some 0).map Prod.fst = [pos] ∧ (s.ms pos).kind = .task ∧
    s.quiet pos = true ∧ (∀ y ∈ s.reqs, y.pos ≠ pos) ∧ s.gangLeaves pos = false := by
  unfold Awaits; decide +kernel
theorem test_meets_save_edge : let s := preWorld false aTask2
    s.launch? 1 = some launch0 ∧ launch0.st = .running ∧ s.selected 0 0 0 1 = [0] ∧ ∃ n, s.freeRecord 0 = some n := by
  refine ⟨by decide +kernel, by decide, by decide +kernel, ?_⟩
  rw [← Option.isSome_iff_exists, isSome_freeRecord]
  decide +kernel
/-- A resumed task whose marker's results are still on their way, and one whose have landed. -/
theorem test_meets_examine : let m : Master := { aTask2 with st := .parked, park := .red 0, exam := true, pend := 1 }
    Tab.find? (world m).masters 0 = some m ∧ (world m).unmet 0 m = true ∧
      (world { m with pend := 0 }).unmet 0 { m with pend := 0 } = false := by decide +kernel

/-! ### Lines, start-up, ports, faults and the step -/

/-- A batch of core 0 to the page at 0x100000, on its way or applied at its home, with a copy on die 1. -/
def batch0 (applied : Bool) (va proof : Nat) : Batch :=
  { push0 with push := false, chan := 0, cells := [⟨globKey 0 va, 5⟩], proof := proof, applied := applied, todo := if applied then [1] else [] }
def batchWorld (b : Batch) : State := { w0 with batches := [b], copies := [(globKey 0 0x100000 / 64, [1])] }
theorem test_meets_write_batch : let b := batch0 false 0x100000 0
    let s := batchWorld b
    s.batch? s.cur = some b ∧ b.push = false ∧ s.arg = b.home ∧ b.applied = false ∧ s.waiting b.after = false ∧
    ((b.cells.head?).map Prod.fst).getD 0 = globKey 0 0x100000 ∧ isGlobKey (globKey 0 0x100000) = true ∧
    s.tokensFree b b.home = true ∧ s.tokensFree b b.src = true ∧ b.proof = 0 ∧ Tab.get [] s.halo b.src = [] ∧ Distinct b.cells ∧ s.copyDies b.home b.cells = [1] := by
  unfold Distinct; decide +kernel
theorem test_meets_tagged_batch : let b := batch0 false 0x110000 1
    let s := batchWorld b
    s.batch? s.cur = some b ∧ b.push = false ∧ s.arg = b.home ∧ b.applied = false ∧ s.waiting b.after = false ∧ s.tokensFree b b.home = true ∧
    s.tokensFree b b.src = true ∧ b.proof ≠ 0 ∧ (∀ c ∈ b.cells, c.1 < 2 ^ 95) ∧
    (let s := { s with copies := [(globKey 0 0x110000 / 64, [0, 1])] }
     1 ∈ s.copyDies b.home b.cells ∧ 1 ≠ b.src ∧ globKey 0 0x110000 < 2 ^ 95 ∧ s.copied 1 (globKey 0 0x110000) = true) := by decide +kernel
theorem test_meets_copied_batch : ∀ proof ∈ [0, 1], let b := batch0 true 0x100000 proof
    let s := { batchWorld b with arg := 1 }
    s.batch? s.cur = some b ∧ b.applied = true ∧ s.tokensFree b s.arg = true ∧ s.arg ∈ b.todo ∧ s.copyBehind b s.arg = false ∧ Tab.get [] s.halo s.arg = [] ∧
    (s.batches.dropWhile fun y => y.id != b.id).tail = [] := by decide +kernel
/-- A fill of a line, and a line held for a persistent request, on the home die and on another one. -/
def lineWorld (core : Nat) (c : Core) : State := { w0 with cur := core, arg := globKey 0 0x110000 / 64, cores := [(core, c)], cyc := 300 }
theorem test_meets_line_fill : ∀ core ∈ [0, 256], ∀ w ∈ [false, true],
    let s := lineWorld core { Core.empty with fills := [(globKey 0 0x110000 / 64, w, 400)] }
    let c := s.core s.cur
    (∃ e ∈ c.fills, e.1 = s.arg) ∧ c.landing s.arg = [s.arg] ∧ s.outranked s.cur s.arg = false ∧ s.canTake s.cur s.arg (c.asksAll s.arg) = true ∧
    c.asksAll s.arg = w ∧ (s.pageOfKey (s.arg * 64)).map (fun x => x.2.home) = some 0 := by decide +kernel
/-- An access asks persistently for two lines, which land together. -/
theorem test_meets_joint_fill : let line := globKey 0 0x110000 / 64
    let s := lineWorld 0 { Core.empty with
      fills := [(line, false, 400), (line + 1, false, 420)]
      pers := [{ line := line, pos := 0, at' := 44, got := false }, { line := line + 1, pos := 0, at' := 44, got := false }] }
    let c := s.core s.cur
    (∃ e ∈ c.fills, e.1 = s.arg) ∧ c.landing s.arg = [line, line + 1] ∧ c.oldest s.arg = some { line := line, pos := 0, at' := 44, got := false } ∧
    (∀ l ∈ c.landing s.arg, s.outranked s.cur l = false ∧ s.canTake s.cur l (c.asksAll l) = true) := by decide +kernel
theorem test_meets_token_release : let line := globKey 0 0x110000 / 64
    let s := lineWorld 0 { Core.empty with l1 := [(line, 256)], pers := [{ line := line, pos := 0, at' := 44, got := true }] }
    (∃ x ∈ (s.core s.cur).pers, x.line = s.arg ∧ x.got = true ∧ x.at' + 256 ≤ s.cyc) ∧
    ∀ x ∈ (s.core s.cur).pers, x.line = s.arg → x.got = true → x.at' + 256 ≤ s.cyc := by decide +kernel
/-- Die 1 has made 3 of 4 writes to the page at 0x110000. -/
def homeWorld (p : Page) : State :=
  { w0 with
    arg := 0x11, pages := [(pageKey 0 0x110000 0, p)], wcount := [(pageKey 0 0x110000 0 * 32 + 0, 1), (pageKey 0 0x110000 0 * 32 + 1, 3)]
    dies := w0.dies ++ [(1, { Die.empty with joined := true, full := true })] }
theorem test_meets_home_window : let s := homeWorld page0
    Tab.find? s.pages (pageNo s.cur s.arg) = some page0 ∧ 1 ≠ page0.home ∧
    ((List.range 32).map fun d => Tab.get 0 s.wcount (pageNo s.cur s.arg * 32 + d)).sum = 4 ∧
    4 < 2 * Tab.get 0 s.wcount (pageNo s.cur s.arg * 32 + 1) ∧ s.movable s.cur (pageNo s.cur s.arg) page0 = true ∧
    s.movable s.cur (pageNo s.cur s.arg) { page0 with hpin := true } = false ∧ (s.die 1).joined = true ∧ (s.die 1).part = 0 ∧
    (s.die 1).full = true ∧ pageBytes page0.psz ≤ s.roomIn false 1 ∧ (s.die 2).full = false ∧ page0.t2 = false ∧
    Tab.find? s.hlt (pageNo 0 0x11 * 32 + 1) = none := by decide +kernel
theorem test_meets_request_forward : let p := { page0 with home := 1, fwd := [0] }
    Tab.find? (homeWorld p).pages (pageNo 0 0x11) = some p ∧ 0 ∈ p.fwd := by decide +kernel
theorem test_meets_tiers : ∀ p ∈ [{ page0 with tier := 2 }, { page0 with tier := 2, t2 := true }, page0, { page0 with file := true, wb := 2 }],
    Tab.find? (homeWorld p).pages (pageNo (homeWorld p).cur (homeWorld p).arg) = some p ∧ pageBytes p.psz ≤ (homeWorld p).roomIn (!p.t2) p.home := by
  decide +kernel
/-- A stack that 64 pages of 1 GiB fill has no room. -/
theorem test_meets_no_tier_room :
    ({ w0 with pages := (List.range 64).map fun i => (pageKey 0 (2 ^ 40 + i * 2 ^ 30) 2, { page0 with psz := 2 }) } : State).roomIn false 0 = 0 := by
  decide +kernel
/-- The page with no block in error, and with its first block in error. -/
theorem test_meets_writeback_error : let s := homeWorld { page0 with file := true, wb := 2 }
    (∀ i < 1024, s.rd8 Rdr.home (poisonKey (globKey 0 (pageBase (pageNo 0 0x11)) + 64 * i)) = 0) ∧
    ({ s with mem := [⟨poisonKey (globKey 0 0x110000), 1⟩] } : State).rd8 Rdr.home (poisonKey (globKey 0 (pageBase (pageNo 0 0x11)) + 64 * 0)) ≠ 0 := by
  decide +kernel
theorem test_meets_writeback : ∀ again ∈ [true, false], let p := { page0 with file := true, wb := 3, again := again }
    let s := { homeWorld p with staging := [(pageKey 0 0x110000 0, [1, 2])] }
    Tab.find? s.pages (pageNo 0 0x11) = some p ∧ Tab.find? s.staging (pageNo 0 0x11) = some [1, 2] ∧ (s.part 0).full = true := by decide +kernel

/-- Right after reset nothing is on. Which step of start-up fails is the device's: its four cases are the clauses', and each case's other
hypotheses hold. -/
theorem test_meets_power_on : State.reset.rot.on = false ∧ State.reset.dies = [] := by decide
theorem test_meets_boot_steps (d : Nat) :
    Config.bootFails d % 4 = 0 ∨ Config.bootFails d % 4 = 2 ∨ Config.bootFails d % 4 = 1 ∨ Config.bootFails d % 4 = 3 := by omega
/-- With every die up, the stack of die 0 trains; with die 1 not yet up, none does. -/
theorem test_meets_hbm_training : let up := { Die.empty with joined := true }
    let s := { w0 with dies := (List.range 32).map fun i => (i, up) }
    (s.die 0).joined = true ∧ (∀ d < 32, (s.die d).joined = true ∨ (s.die d).failed = true) ∧ (s.die 0).full = false ∧ (0, 6) ∉ s.rot.log ∧
    (∃ d < 32, (w0.die d).joined = false ∧ (w0.die d).failed = false) ∧ (w0.die 1).joined = false := by decide +kernel
theorem test_meets_bringup : let s := { w0 with rot := { w0.rot with on := true } }
    s.rot.on = true ∧ (s.die 1).joined = false ∧ (s.die 1).failed = false ∧ (s.die 1).full = false ∧ (∀ d < 1, (s.die d).joined = true) := by
  decide +kernel
/-- Die 0 alone, with nothing under way; and with a task. -/
def idleWorld : State := { w0 with rot := { w0.rot with on := true }, masters := [], launches := [] }
theorem test_meets_partition_change : let ps := List.replicate 32 3
    ps.length = 32 ∧ (∀ p ∈ ps, p < 8) ∧ idleWorld.dies.Pairwise (fun a b => a.1 < b.1) ∧ (∀ p < 8, idleWorld.partIdle p = true) ∧
    (∀ e ∈ idleWorld.dies, e.2.part < 8 ∧ e.2.joined = true ∧ e.2.failed = false ∧ e.2.part ≠ ps.getD e.1 0) ∧ w0.partIdle 0 = false := by
  decide +kernel
/-- Which clients authenticate is the device's. -/
theorem test_meets_session (c : Nat) : idleWorld.rot.on = true ∧ (Config.clientOk c = true ∨ Config.clientOk c = false) := by
  refine ⟨by decide, ?_⟩
  cases Config.clientOk c <;> simp
/-- The windows of the first and of the last master, over a frozen task. -/
theorem test_meets_windows : (0xFFFFE00000000000 : W64).toNat = 0xFFFFE00000000000 + 0 * 2 ^ 27 + 16384 * 0 + 8 * 0 ∧
    (0xFFFFE000FBFFC1F8 : W64).toNat = 0xFFFFE00000000000 + 31 * 2 ^ 27 + 16384 * 4095 + 8 * 63 ∧
    (0xFFFFE000FC00C000 : W64).toNat = 0xFFFFE00000000000 + 31 * 2 ^ 27 + 16384 * 4099 + 8 * 0 ∧ shownBy 31 4099 = 131199 ∧
    shownBy 31 4095 = 131071 ∧
    (let s := world { aTask2 with st := .frozen }
     (s.ms 0).kind ≠ .empty ∧ (s.ms 0).st = .frozen ∧ (w0.ms 0).st ≠ .frozen ∧
     ({ s with pages := [(pageKey 0 0xFFFFE00000000000 1, { page0 with imm := true, psz := 1, ctl := true })] } : State).isCtl (globKey 0 0xFFFFE00000000000) = true) := by decide +kernel
theorem test_meets_share : (0xFFFFF00000000100 : W64).toNat = 0xFFFFF00000000000 + 0x200000 * 0 + 0x100 ∧
    (0xFFFFF00003E00100 : W64).toNat = 0xFFFFF00000000000 + 0x200000 * 31 + 0x100 := by decide
/-- A control page of the partition's map, and of another's. -/
theorem test_meets_control_page : let s := { w0 with pages := [(pageKey 0 0xFFFFF00000000000 1, { page0 with imm := true, psz := 1, ctl := true })] }
    s.ctlRange 0 0xFFFFF00000000100 8 = true ∧ s.ctlRange 1 0xFFFFF00000000100 8 = false := by decide +kernel
/-- The record ring of queue 0 at 0x100000, and no queue enabled. -/
theorem test_meets_host_ring : Tab.find? ((queueOf 5).part 0).sq 0 = some sq0 ∧ sq0.log2cap ≠ 0 ∧ sq0.ring.toNat ≤ 0x100000 ∧
    0x100000 + 4 ≤ sq0.ring.toNat + 128 * 2 ^ sq0.log2cap ∧ (queueOf 5).immRange 0 0x100000 4 = true ∧
    (∀ e ∈ (w0.part 0).sq, e.2.log2cap = 0) := by decide +kernel
theorem test_meets_host_write : let s := { w0 with ports := { host := 5, cxl := 0, scale := [(0, 1)], storage := 1 } }
    (0x100000 : W64).toNat < 0xFFFFF00000000000 ∧ s.immRange 0 0x100000 4 = true ∧ s.ports.host ≠ 0 ∧
    s.ports.scale.any (fun x => x.2 != 0) = true ∧ (w0.ports.host = 0 ∧ w0.ports.cxl = 0) := by decide +kernel
/-- What a pod window entry covers is the device's: a range of the table that holds the access is exported. -/
theorem test_meets_pod_write (s : State) (e : BitVec 128) (part va n : Nat) (he : e ∈ s.podTable part) (hb : Config.podBase e ≤ va)
    (hl : va + n ≤ Config.podBase e + Config.podLen e) (hw : Config.podWrite e = true) : s.exported part va n true = true := by
  simp only [State.exported, List.any_eq_true]
  exact ⟨e, he, by simp [hb, hl, hw]⟩
theorem test_meets_power : (let s := { w0 with cur := 5000, power := { w0.power with cap := 6000 } }
      s.cur ≤ s.power.cap) ∧
    (let s := { w0 with cur := 7000, power := { w0.power with cap := 6000 }, dies := [(0, { Die.empty with joined := true, clk := 20 })] }
     s.power.cap < s.cur ∧ s.dies.Pairwise (fun a b => a.1 < b.1) ∧ (∃ e ∈ s.dies, e.2.joined = true ∧ e.2.clk ≠ 0 ∧ (s.part e.2.part).full = true)) ∧
    (∀ e ∈ ([(0, { Die.empty with joined := true, clk := 0 })] : Tab Die), e.2.joined = false ∨ e.2.clk = 0 ∨ (w0.part e.2.part).full = false) := by
  decide +kernel
/-- A packet with no master to wait for, over an empty ring and a ring with 4,095 packets. -/
def packet0 : Packet :=
  { pos := none, type := 1, eng := 0, cause := 0x10, pc := 0, d0 := 1, d1 := 2, d2 := 3, d3 := 4, proof := 0, lnch := 0, round := 0, die := 0, clu := 0
    core := 0, slot := 0, svc := false }
def ringKey0 : Nat := globKey 0 (0xFFFFF00000000000 + 0x10000)
theorem test_meets_fault_ring : ∀ puts ∈ [0, 4095], let s := { w0 with
      dies := [(0, { Die.empty with joined := true, pkts := [packet0] })], mem := setCells [] (bytesAt ringKey0 (leBytes 4 puts)) }
    (s.die s.cur).pkts = [packet0] ∧ s.packetReady packet0 = true ∧ (s.memNat ringKey0 4 + 2 ^ 32 - s.memNat (ringKey0 + 4) 4) % 2 ^ 32 < 4096 := by
  decide +kernel
/-- The second packet of a report stands behind another die's packet that came first. -/
theorem test_meets_report_in_ring : let y := { packet0 with type := 2, cont := true }
    let s := { w0 with dies := [(0, { Die.empty with joined := true, pkts := [packet0] ++ y :: [] })] }
    (s.die s.cur).pkts = [packet0] ++ y :: [] ∧ y.cont = true ∧ (∀ x ∈ [packet0], x.cont = false ∧ x.type ≠ 2) ∧
    (s.memNat ringKey0 4 + 2 ^ 32 - s.memNat (ringKey0 + 4) 4) % 2 ^ 32 < 4096 ∧ packet0.cont = false := by decide +kernel
theorem test_meets_faults : w0.me.kind ≠ .empty ∧ isLs (lsKey 3 0) = true := by decide +kernel
/-- A state in which the task that a load placed is the one that issues: ADD, a word outside the map, and an unmapped PC. -/
def placed (w : Nat) : State := State.reset.withFetchWord 32 w
theorem test_meets_step : let s := placed 0x05103020
    s.ready.agenda = [] ∧ s.ready.move = some (.inr 0) ∧ s.ready.fetchCause 0 (s.ready.ms 0).pc = none ∧
    (∃ e, entryOf (FW.ofWord (s.ready.fetchWord 0 s.ready.cyc (s.ready.ms 0).pc)) = some e ∧ e.pre (FW.ofWord 0x05103020) = true ∧
      ({ s.ready.ms 0 with hcount := (s.ready.ms 0).hcount + 1 } : Master).mayIssue (entryGrp e) 0 = true) ∧
    s.ready.fetchWords 0 ((s.ready.ms 0).pc + 4) 0 = none := by
  refine ⟨by decide +kernel, by decide +kernel, by decide +kernel, ⟨_, rfl, ?_⟩, by decide +kernel⟩
  decide +kernel
theorem test_meets_step_decodes : decode ((placed 0x05103020).ready.codeWords 0 ((placed 0x05103020).ready.ms 0).pc 1) = .ok (.add ⟨false, 3, 4, .reg 5⟩) [] := by
  rfl
theorem test_meets_step_faults : (let s := placed 3
     s.ready.agenda = [] ∧ s.ready.move = some (.inr 0) ∧ s.ready.fetchCause 0 (s.ready.ms 0).pc = none ∧
     (entryOf (FW.ofWord (s.ready.fetchWord 0 s.ready.cyc (s.ready.ms 0).pc))).isNone = true) ∧
    (let s : State := { placed 3 with pages := [] }
     s.ready.agenda = [] ∧ s.ready.move = some (.inr 0) ∧ s.ready.fetchCause 0 (s.ready.ms 0).pc = some cLease) := by decide +kernel
theorem test_meets_step_agenda : ∃ a r, State.reset.ready.agenda = a :: r := ⟨_, _, rfl⟩
theorem test_meets_idle : let s : State := { State.reset with agenda := [] }
    s.ready.agenda = [] ∧ s.ready.move = none := by decide +kernel
/-- A result whose latest cycle has passed returns in the next step. -/
theorem test_meets_step_event : let s : State := { reqWorld .ack with cyc := 101 }
    s.ready.agenda = [] ∧ s.ready.move = some (.inl (actAt .postedResultReturn 0)) := by decide +kernel
/-- Well-formed instructions with encodings, of one word and of three; and a memory in canonical form through a step. -/
theorem test_meets_round_trip : Instr.wf (.add ⟨false, 3, 4, .reg 5⟩) = true ∧ encode (.add ⟨false, 3, 4, .reg 5⟩) ≠ [] ∧
    Instr.wf (.ldW ⟨hx, 0, 0, 2, at' 1⟩) = true ∧ encode (.ldW ⟨hx, 0, 0, 2, at' 1⟩) ≠ [] := by decide
theorem test_meets_canonical : Mem.wf (placed 0x05103020).mem = true ∧
    (match step (placed 0x05103020) with | .next t => decide (t.me.pc = 0x10004) | _ => false) = true := by decide +kernel
end Sys2Proof.Tests
end

section
/-! SUPPORT. Windows, control blocks, ports and power (spec/08, spec/25, spec/26): where a window's address leads and what its
doubleword reads as, what a write to a control block changes, what bytes that arrive from outside change of memory, and what a
power window does to the clocks. -/

namespace Sys2Proof.Tab
variable {α : Type}

/-- What a table gives at a key is one of its pairs. -/
theorem mem_of_find?_eq_some {t : Tab α} {k : Nat} {v : α} (h : find? t k = some v) : (k, v) ∈ t := by
  induction t with
  | nil => simp at h
  | cons p t ih =>
    obtain ⟨j, w⟩ := p
    rw [find?_cons] at h
    split at h
    · next e => cases h; subst e; exact List.mem_cons_self
    · exact List.mem_cons_of_mem _ (ih h)

/-- A table with rising keys gives at a pair's key the pair's value. -/
theorem find?_eq_some_of_mem {t : Tab α} (hs : t.Pairwise fun a b => a.1 < b.1) {e : Nat × α} (he : e ∈ t) :
    find? t e.1 = some e.2 := by
  induction t with
  | nil => simp at he
  | cons p t ih =>
    obtain ⟨hp, ht⟩ := List.pairwise_cons.1 hs
    rw [find?_cons]
    rcases List.mem_cons.1 he with rfl | he
    · exact if_pos rfl
    · rw [if_neg (Nat.ne_of_lt (hp e he)), ih ht he]

end Sys2Proof.Tab

namespace Sys2Proof.Machine

open Sys2Proof.Claims

/-! ## Where a window stands (R438) -/

/-- The window number of a die leads to the master that it shows. -/
theorem winPos_eq_shownBy {die idx : Nat} (hi : idx < 4100) : winPos die idx = some (shownBy die idx) := by
  unfold winPos shownBy svcBase
  by_cases h : idx < 4096
  · rw [if_pos h, if_pos h, Nat.mul_comm]
  · rw [if_neg h, if_neg h, if_pos hi, Nat.mul_comm]

/-- An address in a window names its die, its number and its offset, and stands in the range of all windows. -/
theorem window_place {die idx off : Nat} (hd : die < 32) (hi : idx < 4100) (ho : off < 16384) :
    (winBase 0 ≤ winBase die + 16384 * idx + off && winBase die + 16384 * idx + off < winBase 32) = true ∧
    (winBase die + 16384 * idx + off - winBase 0) / 2 ^ 27 = die ∧ (winBase die + 16384 * idx + off - winBase die) / 16384 = idx ∧
    (winBase die + 16384 * idx + off) % 16384 = off := by
  simp only [Bool.and_eq_true, decide_eq_true_eq]
  simp only [winBase]
  omega

/-- The doubleword of a master's window (R438): STATE always, and all else only while the master is frozen. -/
def State.windowWord (s : State) (pos off : Nat) : W64 :=
  if off = 0x3B0 then BitVec.ofNat 64 (s.ms pos).stateCode
  else if (s.ms pos).kind ≠ .empty ∧ (s.ms pos).st = .frozen then winWord s (s.ms pos) (coreOf pos) (s.ms pos).stateCode none off
  else 0

/-- A control doubleword at a window address is the window's. -/
theorem ctlWord_window (s : State) (part : Nat) {die idx off : Nat} (hd : die < 32) (hi : idx < 4100) (ho : off < 16384) :
    s.ctlWord part (winBase die + 16384 * idx + off) = some (s.windowWord (shownBy die idx) (off / 8 * 8)) := by
  obtain ⟨hr, hdie, hidx, hoff⟩ := window_place hd hi ho
  unfold State.ctlWord State.windowWord
  rw [if_pos hr]
  simp only [hdie, hidx, hoff, winPos_eq_shownBy hi, Bool.and_eq_true, bne_iff_ne, decide_eq_true_eq]
  split
  · rfl
  · split <;> rfl

/-- A write of a control doubleword at a window address is a write of the window. -/
theorem regWrite_window (s : State) (part : Nat) (low : Bool) (x : W64) {die idx off : Nat} (hd : die < 32) (hi : idx < 4100)
    (ho : off < 16384) :
    s.regWrite part (winBase die + 16384 * idx + off) low x = s.winWrite (shownBy die idx) (off / 8 * 8) x := by
  obtain ⟨hr, hdie, hidx, hoff⟩ := window_place hd hi ho
  unfold State.regWrite
  rw [if_pos hr]
  simp only [hdie, hidx, hoff, winPos_eq_shownBy hi]

/-! ## What a window's doubleword reads as (R438) -/

/-- A control page keeps to whole doublewords: every byte of one is on it with its first. -/
theorem isCtl_add {s : State} {k i : Nat} (hk : k % 8 = 0) (hi : i < 8) (h : s.isCtl k = true) : s.isCtl (k + i) = true := by
  have hmod : (k + i) % 2 ^ 64 = k % 2 ^ 64 + i := by omega
  have hdiv : (k + i) / 2 ^ 64 = k / 2 ^ 64 := by omega
  have hkey : ∀ psz, pageKey (k / 2 ^ 64) (k % 2 ^ 64 + i) psz = pageKey (k / 2 ^ 64) (k % 2 ^ 64) psz := by
    intro psz
    have : (k % 2 ^ 64 + i) / pageBytes psz = k % 2 ^ 64 / pageBytes psz := by
      unfold pageBytes
      split
      · omega
      · split <;> omega
    simp only [pageKey, this]
  have hpage : s.pageOfKey (k + i) = s.pageOfKey k := by
    simp only [State.pageOfKey, State.pageAt, hmod, hdiv, hkey]
  simp only [State.isCtl, isGlobKey, Bool.and_eq_true, decide_eq_true_eq, hpage, hmod] at h ⊢
  obtain ⟨⟨hglob, hbase⟩, hctl⟩ := h
  exact ⟨⟨by omega, by omega⟩, hctl⟩

/-- A byte of a control page is that byte of its doubleword. -/
theorem loadByte_of_ctlWord {s : State} {r : Rdr} {k : Nat} {w : W64} (hc : s.isCtl k = true)
    (hw : s.ctlWord (k / 2 ^ 64) (k % 2 ^ 64) = some w) : s.loadByte r k = w.extractLsb' (8 * (k % 8)) 8 := by
  rw [State.loadByte, if_pos hc, hw]

/-- The bytes from the `j`-th on of a control doubleword are its number from there on. -/
theorem leNat_loadBytes_from {s : State} {r : Rdr} {k : Nat} {w : W64} (hk : k % 8 = 0) (hc : s.isCtl k = true)
    (hw : ∀ i < 8, s.ctlWord ((k + i) / 2 ^ 64) ((k + i) % 2 ^ 64) = some w) (n j : Nat) (hj : j + n ≤ 8) :
    leNat (s.loadBytes r (k + j) n) = w.toNat / 256 ^ j % 256 ^ n := by
  induction n generalizing j with
  | zero => simp [State.loadBytes, leNat, Nat.mod_one]
  | succ n ih =>
    have hbyte : (s.loadByte r (k + j)).toNat = w.toNat / 256 ^ j % 256 := by
      rw [loadByte_of_ctlWord (isCtl_add hk (by omega) hc) (hw j (by omega)), show (k + j) % 8 = j by omega,
        BitVec.extractLsb'_toNat, Nat.shiftRight_eq_div_pow, Nat.pow_mul]
    rw [State.loadBytes, leNat, hbyte, Nat.add_assoc, ih (j + 1) (by omega), Nat.pow_succ 256 n, Nat.mul_comm (256 ^ n), Nat.mod_mul,
      Nat.pow_succ, Nat.div_div_eq_div_mul]

/-- The eight bytes of a control doubleword are its number. -/
theorem leNat_loadBytes_ctl {s : State} {r : Rdr} {k : Nat} {w : W64} (hk : k % 8 = 0) (hc : s.isCtl k = true)
    (hw : ∀ i < 8, s.ctlWord ((k + i) / 2 ^ 64) ((k + i) % 2 ^ 64) = some w) : leNat (s.loadBytes r k 8) = w.toNat := by
  have h := leNat_loadBytes_from (r := r) hk hc hw 8 0 (by omega)
  rw [Nat.add_zero, Nat.pow_zero, Nat.div_one] at h
  exact h.trans (Nat.mod_eq_of_lt w.isLt)

/-- A load of the doubleword at `off` of a mapped window gives the window's doubleword. -/
theorem leNat_loadBytes_window {s : State} {r : Rdr} {part die idx off : Nat} (hd : die < 32) (hi : idx < 4100) (ho : off < 16384)
    (h8 : off % 8 = 0) (hc : s.isCtl (globKey part (winBase die + 16384 * idx + off)) = true) :
    leNat (s.loadBytes r (globKey part (winBase die + 16384 * idx + off)) 8) = (s.windowWord (shownBy die idx) off).toNat := by
  refine leNat_loadBytes_ctl ?_ hc fun i hi8 => ?_
  · simp only [globKey, winBase]
    omega
  · have hbyte : winBase die + 16384 * idx + off + i = winBase die + 16384 * idx + (off + i) := Nat.add_assoc ..
    have hdiv : (globKey part (winBase die + 16384 * idx + off) + i) / 2 ^ 64 = part := by
      simp only [globKey, winBase]
      omega
    have hmod : (globKey part (winBase die + 16384 * idx + off) + i) % 2 ^ 64 = winBase die + 16384 * idx + off + i := by
      simp only [globKey, winBase]
      omega
    rw [hdiv, hmod, hbyte, ctlWord_window s part hd hi (by omega), show (off + i) / 8 * 8 = off by omega]

/-- STATE of a window is its code. -/
theorem windowWord_state (s : State) (pos : Nat) : (s.windowWord pos 0x3B0).toNat =
    if (s.ms pos).kind = .empty then 4 else if (s.ms pos).st = .ready then 0 else if (s.ms pos).st = .parked then 1 else 2 := by
  rw [State.windowWord, if_pos rfl, Master.stateCode]
  cases (s.ms pos).kind <;> cases (s.ms pos).st <;> rfl

/-- Beside STATE a window of an empty slot or of a master that runs reads 0. -/
theorem windowWord_of_not_frozen {s : State} {pos off : Nat} (ho : off ≠ 0x3B0)
    (h : (s.ms pos).kind = .empty ∨ (s.ms pos).st ≠ .frozen) : s.windowWord pos off = 0 := by
  rw [State.windowWord, if_neg ho, if_neg fun hf => h.elim hf.1 (· hf.2)]

/-- The window of a frozen master reads as its image. -/
theorem windowWord_of_frozen {s : State} {pos : Nat} (off : Nat) (hk : (s.ms pos).kind ≠ .empty)
    (hf : (s.ms pos).st = .frozen) :
    s.windowWord pos off = winWord s (s.ms pos) (coreOf pos) (s.ms pos).stateCode none off := by
  unfold State.windowWord
  split
  · next hst => subst hst; rfl
  · exact if_pos ⟨hk, hf⟩

section WinWord
variable (s : State) (m : Master) (core st : Nat) (save : Option Save)

theorem winWord_s {i : Nat} (hi : i < 64) : winWord s m core st save (8 * i) = m.rs (BitVec.ofNat 6 i) := by
  have hidx : 8 * i / 8 = i := by omega
  simp (disch := omega) only [winWord, if_pos, hidx]

theorem winWord_c {i h : Nat} (hi : i < 16) (hh : h < 2) : winWord s m core st save (0x200 + 16 * i + 8 * h) =
    BitVec.ofNat 64 ((m.rc (BitVec.ofNat 4 i)).bits.toNat / 2 ^ (64 * h)) := by
  have hidx : (0x200 + 16 * i + 8 * h - 0x200) / 16 = i := by omega
  have hword : (0x200 + 16 * i + 8 * h) / 8 % 2 = h := by omega
  simp (disch := omega) only [winWord, if_neg, if_pos, hidx, hword]

theorem winWord_m {i h : Nat} (hi : i < 8) (hh : h < 2) : winWord s m core st save (0x300 + 16 * i + 8 * h) =
    BitVec.ofNat 64 ((m.rm (BitVec.ofNat 3 i)).toNat / 2 ^ (64 * h)) := by
  have hidx : (0x300 + 16 * i + 8 * h - 0x300) / 16 = i := by omega
  have hword : (0x300 + 16 * i + 8 * h) / 8 % 2 = h := by omega
  simp (disch := omega) only [winWord, if_neg, if_pos, hidx, hword]

theorem winWord_q {i : Nat} (hi : i < 4) : winWord s m core st save (0x380 + 8 * i) = m.rq (BitVec.ofNat 2 i) := by
  have hidx : (0x380 + 8 * i - 0x380) / 8 = i := by omega
  simp (disch := omega) only [winWord, if_neg, if_pos, hidx]

theorem winWord_v {i j : Nat} (hi : i < 32) (hj : j < 16) : winWord s m core st save (0x400 + 128 * i + 8 * j) =
    BitVec.ofNat 64 ((m.rv (BitVec.ofNat 5 i)).toNat / 2 ^ (64 * j)) := by
  have hidx : (0x400 + 128 * i + 8 * j - 0x400) / 128 = i := by omega
  have hword : (0x400 + 128 * i + 8 * j) / 8 % 16 = j := by omega
  simp (disch := omega) only [winWord, if_neg, if_pos, hidx, hword]

@[simp] theorem winWord_pc : winWord s m core st save 0x3A0 = m.pc := rfl
@[simp] theorem winWord_o : winWord s m core st save 0x3A8 = m.o.setWidth 64 := rfl
@[simp] theorem winWord_wait : winWord s m core st save 0x3B8 = BitVec.ofNat 64 m.wait := rfl
@[simp] theorem winWord_orphv : winWord s m core st save 0x3C0 = m.orphv := rfl
@[simp] theorem winWord_wlim : winWord s m core st save 0x3C8 = m.wlim.setWidth 64 := rfl
@[simp] theorem winWord_rlim : winWord s m core st save 0x3D0 = m.rlim.setWidth 64 := rfl
@[simp] theorem winWord_errst : winWord s m core st save 0x3D8 = m.errst.setWidth 64 := rfl
@[simp] theorem winWord_proof : winWord s m core st save 0x3E0 = BitVec.ofNat 64 m.proof := rfl
@[simp] theorem winWord_engst : winWord s m core st save 0x3E8 = m.engst := rfl
@[simp] theorem winWord_zsel : winWord s m core st save 0x1400 = BitVec.ofNat 64 m.zsel := rfl

/-- The window image of a master shows its registers, each at its offset. -/
theorem windowShows_winWord (off : Nat) : WindowShows m off (winWord s m core st save off).toNat := by
  refine ⟨?sRegs, ?cRegs, ?mRegs, ?qRegs, ?pc, ?o, ?wait, ?orphv, ?wlim, ?rlim, ?errst, ?proof, ?qst, ?vRegs, ?zsel⟩
  case sRegs =>
    rintro i hi rfl
    rw [winWord_s s m core st save hi]
  case cRegs =>
    rintro i hi h hh rfl
    rw [winWord_c s m core st save hi hh, BitVec.toNat_ofNat]
  case mRegs =>
    rintro i hi h hh rfl
    rw [winWord_m s m core st save hi hh, BitVec.toNat_ofNat]
  case qRegs =>
    rintro i hi rfl
    rw [winWord_q s m core st save hi]
  case vRegs =>
    rintro i hi j hj rfl
    rw [winWord_v s m core st save hi hj, BitVec.toNat_ofNat]
  -- the registers of one doubleword, the narrow ones widened
  all_goals
    rintro rfl
    simp [BitVec.toNat_setWidth_of_le, -BitVec.toNat_setWidth]

end WinWord

/-! ## What a write to a control block changes (R7, R179, R439) -/

/-- A window of a master that is not frozen takes no write. -/
theorem winWrite_of_not_frozen {s : State} {pos : Nat} (h : (s.ms pos).st ≠ .frozen) (off : Nat) (x : W64) :
    s.winWrite pos off x = s := by
  rw [State.winWrite, if_pos (by simp [h])]

/-- A frozen master's s register takes what is written at its offset of the window. -/
theorem winWrite_s {s : State} {pos i : Nat} (hk : (s.ms pos).kind ≠ .empty) (hf : (s.ms pos).st = .frozen) (hi : i < 64) (x : W64) :
    s.winWrite pos (8 * i) x = s.setM pos ((s.ms pos).ws (BitVec.ofNat 6 i) x) := by
  have htag : ¬ (decide (8 * i = 0x1408) && decide ((s.ms pos).zsel < (s.ms pos).zcount)) = true := by
    simp only [Bool.and_eq_true, decide_eq_true_eq]; omega
  have htile : ¬ (decide (0x2000 ≤ 8 * i) && decide (8 * i < 0x3000)) = true := by
    simp only [Bool.and_eq_true, decide_eq_true_eq]; omega
  rw [State.winWrite, if_neg (by simp [hk, hf]), State.winPut]
  dsimp only
  rw [if_neg htag, if_neg htile, Master.winSet, if_pos (by omega), show 8 * i / 8 = i by omega]

/-- A read of s registers after a write of the one with number `i`. -/
theorem rs_ws_ofNat (m : Master) {i : Nat} (hi : i < 64) (x : W64) (j : SReg) :
    (m.ws (BitVec.ofNat 6 i) x).rs j = if j.toNat = i ∧ i ≠ 0 then x else m.rs j := by
  have hj : j = BitVec.ofNat 6 i ↔ j.toNat = i := by
    rw [← BitVec.toNat_inj, BitVec.toNat_ofNat, Nat.mod_eq_of_lt hi]
  have h0 : j = 0 ↔ j.toNat = 0 := by rw [← BitVec.toNat_inj]; rfl
  rw [rs_ws]
  by_cases hz : j = 0
  · have : j.toNat = 0 := h0.1 hz
    rw [if_pos hz, if_neg (by omega), Master.rs, if_pos hz]
  · have : j.toNat ≠ 0 := fun e => hz (h0.2 e)
    rw [if_neg hz]
    exact if_congr (hj.trans ⟨fun e => ⟨e, by omega⟩, And.left⟩) rfl rfl

theorem exec_windowWrite (die : Nat) (va v : W64) (s : State) : exec (.windowWrite die va v) s = execWindowWrite die va v s := rfl

/-- WINDOW_WRITE at an s register's offset is the window's write. -/
theorem exec_windowWrite_s (s : State) {die idx i : Nat} {va : W64} (v : W64) (hd : die < 32) (hi : idx < 4100) (hr : i < 64)
    (hva : va.toNat = winBase die + 16384 * idx + 8 * i) :
    exec (.windowWrite die va v) s = .next (s.winWrite (shownBy die idx) (8 * i) v) := by
  have ho : 8 * i < 16384 := by omega
  have hin : (decide (saveBase ≤ va.toNat) && decide (va.toNat < winBase 32)) = true := by
    simp only [hva, Bool.and_eq_true, decide_eq_true_eq, saveBase, winBase]; omega
  rw [exec_windowWrite, execWindowWrite, if_pos hin, hva, regWrite_window s _ _ v hd hi ho, show 8 * i / 8 * 8 = 8 * i by omega]

theorem clamp_eq_max_min {lo hi : Nat} (h : lo ≤ hi) (x : Nat) : clamp lo hi x = max lo (min hi x) := by
  unfold clamp
  split
  · omega
  · split <;> omega

/-- SHARE's register takes what is written, clamped to 10 to 90. -/
theorem regWrite_share (s : State) (part : Nat) (low : Bool) (x : W64) {die : Nat} (hd : die < 32) :
    s.regWrite part (ctlBase + 0x200000 * die + 0x100) low x =
      s.setDie die { s.die die with share := max 10 (min 90 (x.toNat % 128)) } := by
  have hwin : ¬ (decide (winBase 0 ≤ ctlBase + 0x200000 * die + 0x100) && decide (ctlBase + 0x200000 * die + 0x100 < winBase 32)) = true := by
    simp only [Bool.and_eq_true, decide_eq_true_eq]; simp only [winBase, ctlBase]; omega
  have hsave : ¬ (decide (saveBase ≤ ctlBase + 0x200000 * die + 0x100) && decide (ctlBase + 0x200000 * die + 0x100 < saveBase + 2 ^ 30)) = true := by
    simp only [Bool.and_eq_true, decide_eq_true_eq]; simp only [saveBase, ctlBase]; omega
  have hdie : (ctlBase + 0x200000 * die + 0x100 - ctlBase) / 0x200000 = die := by omega
  have hoff : (ctlBase + 0x200000 * die + 0x100 - ctlBase) % 0x200000 / 8 * 8 = 0x100 := by omega
  unfold State.regWrite
  rw [if_neg hwin, if_neg hsave, if_pos (by omega)]
  simp only [hdie, hoff, if_pos hd, if_pos, State.updDie, clamp_eq_max_min (show 10 ≤ 90 by omega)]

theorem exec_registerWrite (part : Nat) (va v : W64) (s : State) : exec (.registerWrite part va v) s = execRegisterWrite part va v s := rfl

/-- REGISTER_WRITE of an aligned doubleword writes a control page of the partition's map, and nothing else. -/
theorem exec_registerWrite_aligned (s : State) (part : Nat) {va : W64} (v : W64) (h8 : va.toNat % 8 = 0) :
    exec (.registerWrite part va v) s = .next (if s.ctlRange part va.toNat 8 then s.regWrite part va.toNat true v else s) := by
  rw [exec_registerWrite, execRegisterWrite, show va.toNat / 8 * 8 = va.toNat by omega]

theorem exec_abucfgWrite (die : Nat) (v : W32) (s : State) : exec (.abucfgWrite die v) s = execAbucfgWrite die v s := rfl

/-! ## Bytes from outside (R457, R458) -/

/-- A key that cells name takes their value, when they all name the same. -/
theorem get_setCells_of_mem {m : Tab Byte} {cs : List Host.Cell} {k : Nat} {v : Byte} (hk : ∃ c ∈ cs, c.1 = k)
    (hv : ∀ c ∈ cs, c.1 = k → c.2 = v) : Tab.get 0 (setCells m cs) k = v := by
  induction cs generalizing m with
  | nil => obtain ⟨c, hc, -⟩ := hk; simp at hc
  | cons c cs ih =>
    rw [setCells_cons]
    by_cases hl : ∃ d ∈ cs, d.1 = k
    · exact ih hl fun d hd => hv d (List.mem_cons_of_mem c hd)
    · obtain ⟨d, hd, hdk⟩ := hk
      have hdc : d = c := (List.mem_cons.1 hd).resolve_right fun h => hl ⟨d, h, hdk⟩
      subst hdc
      rw [get_setCells_of_notMem _ _ _ fun e he hek => hl ⟨e, he, hek⟩, ← hdk, Tab.get_set_same, hv d hd hdk]

/-- The cells beside the bytes of a data write stand in the planes above all data bytes, and clear what they name. -/
theorem tagClears_poisonClears_cell {k n : Nat} {c : Host.Cell} (h : c ∈ tagClears k n ++ poisonClears k n) :
    2 * 2 ^ 72 ≤ c.1 ∧ c.2 = 0 := by
  rcases List.mem_append.1 h with h | h
  · unfold tagClears at h
    split at h
    · simp at h
    · obtain ⟨i, -, rfl⟩ := List.mem_map.1 h
      exact ⟨Nat.le_add_right .., rfl⟩
  · obtain ⟨b, -, hb⟩ := List.mem_filterMap.1 h
    split at hb
    · cases hb
      refine ⟨?_, rfl⟩
      simp only [poisonKey]
      omega
    · simp at hb

/-- A data write clears the tag of every granule that it touches. -/
theorem tagKey_mem_tagClears {k n i : Nat} (hi : i < n) : ∃ c ∈ tagClears k n, c.1 = tagKey (k + i) := by
  have hn : ¬ n = 0 := by omega
  refine ⟨(tagKey (k + i), 0), ?_, rfl⟩
  rw [tagClears, if_neg hn, List.mem_map]
  refine ⟨(k + i) / 16 - k / 16, List.mem_range.2 (by omega), ?_⟩
  rw [tagKey, show k / 16 + ((k + i) / 16 - k / 16) = (k + i) / 16 by omega]

@[simp] theorem unitWrite_mem (s : State) (k : Nat) (bs : List Byte) : (s.unitWrite k bs).mem = setCells s.mem (dataCells k bs) := rfl

/-- A unit's write of data bytes has them arrive: the bytes stand, their tags are clear, and no other data byte changes. -/
theorem unitWrite_arrived (s : State) {k : Nat} {bs : List Byte} (h : k + bs.length ≤ 2 ^ 72) : Arrived s (s.unitWrite k bs) k bs := by
  have hcells : dataCells k bs = bytesAt k bs ++ (tagClears k bs.length ++ poisonClears k bs.length) := List.append_assoc ..
  refine ⟨fun i hi => ⟨?_, ?_⟩, fun j hj hout => ?_⟩
  · have hbeside : ∀ c ∈ tagClears k bs.length ++ poisonClears k bs.length, c.1 ≠ k + i := fun c hc => by
      have := (tagClears_poisonClears_cell hc).1
      omega
    rw [unitWrite_mem, hcells, setCells_append, get_setCells_of_notMem _ _ _ hbeside, get_setCells_bytesAt _ _ _ _ hi,
      List.getD_eq_getElem _ _ hi]
  · obtain ⟨c, hc, hck⟩ := tagKey_mem_tagClears (k := k) hi
    rw [unitWrite_mem, hcells, setCells_append]
    exact get_setCells_of_mem ⟨c, List.mem_append_left _ hc, hck⟩ fun d hd _ => (tagClears_poisonClears_cell hd).2
  · rw [unitWrite_mem, hcells]
    refine get_setCells_of_notMem _ _ _ fun c hc => ?_
    rcases List.mem_append.1 hc with hc | hc
    · have := bytesAt_key hc
      omega
    · have := (tagClears_poisonClears_cell hc).1
      omega

/-- Bytes on IMM pages of a partition arrive at their keys. -/
theorem arrive_arrived (s : State) {part va : Nat} {bs : List Byte} (hp : part < 8) (hb : bs ≠ [])
    (h : s.immRange part va bs.length = true) : Arrived s (s.arrive part va bs) (globKey part va) bs := by
  have hend : va + bs.length ≤ 2 ^ 64 := by
    simp only [State.immRange, Bool.and_eq_true, decide_eq_true_eq] at h
    exact h.1
  have hkey : globKey part va + bs.length ≤ 2 ^ 72 := by
    simp only [globKey]
    omega
  rw [State.arrive, if_neg (by simpa using hb), State.devWrite]
  exact unitWrite_arrived s hkey

/-- Below the control pages no address is on one of them. -/
theorem ctlRange_eq_false {s : State} {part va n : Nat} (h : va < ctlBase) : s.ctlRange part va n = false := by
  simp only [State.ctlRange, show ¬ ctlBase ≤ va by omega, decide_false, Bool.false_and]

theorem exec_hostMemoryWrite (part : Nat) (va : W64) (bs : List Byte) (s : State) :
    exec (.hostMemoryWrite part va bs) s = execHostMemoryWrite part va bs s := rfl

/-- With both ports to the host down the host writes nothing. -/
theorem exec_hostMemoryWrite_down {s : State} (part : Nat) (va : W64) (bs : List Byte) (hh : s.ports.host = 0) (hc : s.ports.cxl = 0) :
    exec (.hostMemoryWrite part va bs) s = .next s := by
  rw [exec_hostMemoryWrite, execHostMemoryWrite, if_pos (by simp [hh, hc])]

/-- Below the control pages, over a port that is up, what arrives is what the host may write. -/
theorem exec_hostMemoryWrite_memory {s : State} (part : Nat) {va : W64} (bs : List Byte) (hva : va.toNat < ctlBase)
    (hport : s.ports.host ≠ 0) : exec (.hostMemoryWrite part va bs) s =
      .next (if s.hostRange part va.toNat bs.length then s.arrive part va.toNat bs else s) := by
  rw [exec_hostMemoryWrite, execHostMemoryWrite, if_neg (by simp [hport]), ctlRange_eq_false hva]
  rfl

/-- What the host may not write stays, whatever its ports. -/
theorem exec_hostMemoryWrite_refused {s : State} (part : Nat) {va : W64} (bs : List Byte) (hva : va.toNat < ctlBase)
    (h : s.hostRange part va.toNat bs.length = false) : exec (.hostMemoryWrite part va bs) s = .next s := by
  rw [exec_hostMemoryWrite, execHostMemoryWrite, ctlRange_eq_false hva, h]
  simp

/-- A range of the record ring of an enabled queue, as the host may write it (R457). -/
theorem hostRange_of_ring {s : State} {part va n q : Nat} {x : SubQ} (him : s.immRange part va n = true)
    (hq : Tab.find? (s.part part).sq q = some x) (hcap : x.log2cap ≠ 0) (hlo : x.ring.toNat ≤ va)
    (hhi : va + n ≤ x.ring.toNat + 128 * 2 ^ x.log2cap) : s.hostRange part va n = true := by
  simp only [State.hostRange, him, Bool.true_and, Bool.or_eq_true, List.any_eq_true]
  exact .inr ⟨(q, x), Tab.mem_of_find?_eq_some hq, by simp [hcap, hlo, hhi]⟩

theorem hostRange_of_exported {s : State} {part va n : Nat} (him : s.immRange part va n = true)
    (he : s.exported part va n true = true) : s.hostRange part va n = true := by
  simp [State.hostRange, him, he]

/-- With no range exported and no queue enabled the host may write nothing of memory. -/
theorem hostRange_eq_false {s : State} {part va n : Nat} (he : s.exported part va n true = false)
    (hq : ∀ e ∈ (s.part part).sq, e.2.log2cap = 0) : s.hostRange part va n = false := by
  have hnone : ((s.part part).sq.any fun ((_, q) : Nat × SubQ) =>
      q.log2cap != 0 && q.ring.toNat ≤ va && va + n ≤ q.ring.toNat + 128 * 2 ^ q.log2cap) = false := by
    rw [List.any_eq_false]
    intro e hmem
    simp [hq e hmem]
  rw [State.hostRange, he, hnone, Bool.or_false, Bool.and_false]

theorem exec_podAccess (part : Nat) (va : W64) (wr : Bool) (bs : List Byte) (s : State) :
    exec (.podAccess part va wr bs) s = execPodAccess part va wr bs s := rfl

theorem exec_podAccess_write {s : State} {part : Nat} {va : W64} {bs : List Byte} (he : s.exported part va.toNat bs.length true = true)
    (him : s.immRange part va.toNat bs.length = true) (hport : s.ports.scale.any (fun x => x.2 != 0) = true) :
    exec (.podAccess part va true bs) s = .next (s.arrive part va.toNat bs) := by
  rw [exec_podAccess, execPodAccess, he, him, hport]
  rfl

/-- Another module changes nothing by a read, and nothing outside the exported ranges. -/
theorem exec_podAccess_refused {s : State} {part : Nat} {va : W64} {wr : Bool} {bs : List Byte}
    (h : wr = false ∨ s.exported part va.toNat bs.length true = false) : exec (.podAccess part va wr bs) s = .next s := by
  rw [exec_podAccess, execPodAccess]
  rcases h with h | h <;> simp [h]

theorem exec_portTraining (port : Port) (gen : Nat) (s : State) : exec (.portTraining port gen) s = execPortTraining port gen s := rfl

/-! ## Clocks and power (R459) -/

theorem exec_powerCapSet (s : State) :
    exec .powerCapSet s = .next { s with power := { s.power with capNew := some (clamp 3000 12000 s.cur) } } := rfl

theorem exec_islandClockSet (die k : Nat) (s : State) : exec (.islandClockSet die k) s = execIslandClockSet die k s := rfl

theorem exec_powerWindow (s : State) : exec .powerWindow s = execPowerWindow s := rfl

/-- A die's island stands at its lowest clock by its setting, or in reduced service. -/
theorem lowest_iff (s : State) (d : Die) : s.lowest d = true ↔ d.clk = 0 ∨ (s.part d.part).full = false := by
  simp [State.lowest]

theorem lowest_eq_false_iff (s : State) (d : Die) : s.lowest d = false ↔ d.clk ≠ 0 ∧ (s.part d.part).full = true := by
  rw [← Bool.not_eq_true, lowest_iff, not_or, Bool.not_eq_false]

/-- What a power window above the cap does for one die that it lists: the clock of a joined die that is not at its lowest is set to a
freely chosen lower one from the next edge on (R459). -/
def State.lowerClock (s : State) (e : Nat × Die) : State :=
  if e.2.joined && !s.lowest e.2 then s.drew.updDie e.1 fun d => { d with clkNew := some (Config.freeNat s.free % d.clk) } else s

/-- Below the cap, placements go on. -/
theorem exec_powerWindow_below {s : State} (h : s.cur ≤ s.power.cap) :
    exec .powerWindow s = .next { s with power := { s.power with watts := s.cur, hold := false } } := by
  rw [exec_powerWindow, execPowerWindow]
  exact congrArg Host.Outcome.next (if_pos h)

/-- Above the cap with every joined die at its lowest clock, new placements are held. -/
theorem exec_powerWindow_hold {s : State} (h : s.power.cap < s.cur) (hl : ∀ e ∈ s.dies, e.2.joined = true → s.lowest e.2 = true) :
    exec .powerWindow s = .next { s with power := { s.power with watts := s.cur, hold := true } } := by
  have hall : (s.dies.all fun ((_, d) : Nat × Die) => !d.joined || s.lowest d) = true := by
    rw [List.all_eq_true]
    intro e he
    by_cases hj : e.2.joined = true
    · simp [hl e he hj]
    · simp [hj]
  rw [exec_powerWindow, execPowerWindow]
  dsimp only
  rw [if_neg (by omega), if_pos hall]

/-- Above the cap with a die left to lower, the listed dies' clocks are lowered one after another. -/
theorem exec_powerWindow_lower {s : State} (h : s.power.cap < s.cur) {e : Nat × Die} (he : e ∈ s.dies) (hj : e.2.joined = true)
    (hl : s.lowest e.2 = false) :
    exec .powerWindow s = .next (s.dies.foldl State.lowerClock { s with power := { s.power with watts := s.cur } }) := by
  have hall : ¬ (s.dies.all fun ((_, d) : Nat × Die) => !d.joined || s.lowest d) = true := by
    rw [List.all_eq_true]
    intro ha
    have := ha e he
    simp [hj, hl] at this
  rw [exec_powerWindow, execPowerWindow]
  dsimp only
  rw [if_neg (by omega), if_neg hall]
  rfl

/-- Lowering one die's clock changes that die and the count of free values alone. -/
theorem lowerClock_cases (s : State) (e : Nat × Die) :
    s.lowerClock e = s ∨ s.lowerClock e = s.drew.updDie e.1 fun d => { d with clkNew := some (Config.freeNat s.free % d.clk) } := by
  unfold State.lowerClock
  split
  · exact .inr rfl
  · exact .inl rfl
@[simp] theorem lowerClock_mem (s : State) (e : Nat × Die) : (s.lowerClock e).mem = s.mem := by
  rcases lowerClock_cases s e with h | h <;> rw [h]; rfl
@[simp] theorem lowerClock_power (s : State) (e : Nat × Die) : (s.lowerClock e).power = s.power := by
  rcases lowerClock_cases s e with h | h <;> rw [h]; rfl
@[simp] theorem lowerClock_part (s : State) (e : Nat × Die) (p : Nat) : (s.lowerClock e).part p = s.part p := by
  rcases lowerClock_cases s e with h | h <;> rw [h]; rfl
@[simp] theorem lowerClock_lowest (s : State) (e : Nat × Die) (d : Die) : (s.lowerClock e).lowest d = s.lowest d := by
  simp [State.lowest]

theorem lowerClock_die_ne (s : State) {e : Nat × Die} {i : Nat} (h : i ≠ e.1) : (s.lowerClock e).die i = s.die i := by
  rcases lowerClock_cases s e with hc | hc <;> rw [hc]
  exact (die_setDie _ _ _ _).trans (if_neg h)

/-- The clock of a joined die that is not at its lowest is lowered. -/
theorem lowerClock_die_same {s : State} {e : Nat × Die} (hj : e.2.joined = true) (hl : s.lowest e.2 = false) (he : s.die e.1 = e.2) :
    ∃ k < e.2.clk, (s.lowerClock e).die e.1 = { e.2 with clkNew := some k } := by
  have hclk : e.2.clk ≠ 0 := ((lowest_eq_false_iff s e.2).1 hl).1
  refine ⟨Config.freeNat s.free % e.2.clk, Nat.mod_lt _ (by omega), ?_⟩
  rw [State.lowerClock, if_pos (by simp [hj, hl]), State.updDie, die_setDie_same, show s.drew.die e.1 = e.2 from he]

@[simp] theorem foldl_lowerClock_power (l : List (Nat × Die)) (s : State) : (l.foldl State.lowerClock s).power = s.power := by
  induction l generalizing s with
  | nil => rfl
  | cons a l ih => rw [List.foldl_cons, ih, lowerClock_power]

theorem foldl_lowerClock_die_ne {l : List (Nat × Die)} (s : State) {i : Nat} (h : ∀ e ∈ l, i ≠ e.1) :
    (l.foldl State.lowerClock s).die i = s.die i := by
  induction l generalizing s with
  | nil => rfl
  | cons a l ih =>
    rw [List.foldl_cons, ih _ fun e he => h e (List.mem_cons_of_mem a he), lowerClock_die_ne s (h a List.mem_cons_self)]

/-- Lowering the clocks of dies with rising numbers lowers each joined one's that is not at its lowest. -/
theorem foldl_lowerClock_die {l : List (Nat × Die)} {s : State} (hs : l.Pairwise fun a b => a.1 < b.1) (hd : ∀ e ∈ l, s.die e.1 = e.2)
    {e : Nat × Die} (he : e ∈ l) (hj : e.2.joined = true) (hl : s.lowest e.2 = false) :
    ∃ k < e.2.clk, (l.foldl State.lowerClock s).die e.1 = { e.2 with clkNew := some k } := by
  induction l generalizing s with
  | nil => simp at he
  | cons a l ih =>
    obtain ⟨ha, hs'⟩ := List.pairwise_cons.1 hs
    rw [List.foldl_cons]
    rcases List.mem_cons.1 he with rfl | hmem
    · rw [foldl_lowerClock_die_ne _ fun b hb => Nat.ne_of_lt (ha b hb)]
      exact lowerClock_die_same hj hl (hd e he)
    · refine ih hs' (fun b hb => ?_) hmem ((lowerClock_lowest s a e.2).trans hl)
      rw [lowerClock_die_ne s (Nat.ne_of_gt (ha b hb)), hd b (List.mem_cons_of_mem a hb)]

/-- The die of a number is the one that rising dies list there. -/
theorem die_of_mem {s : State} (hs : s.dies.Pairwise fun a b => a.1 < b.1) {e : Nat × Die} (he : e ∈ s.dies) : s.die e.1 = e.2 := by
  rw [State.die, Tab.get, Tab.find?_eq_some_of_mem hs he, Option.getD_some]

/-- Settles O52: every clause is one of the lemmas above about the window, the write or the unit that it speaks of. -/
theorem windowsPortsAndPower : Obligations.WindowsPortsAndPower := by
  unfold Obligations.WindowsPortsAndPower
  intro s
  refine ⟨?windowRead, ?windowWrite, ?share, ?abucfg, ?outside, ?host, ?cxl, ?cxlNot, ?scale, ?scaleNot, ?storage, ?storageNot, ?cap,
    ?clock, ?below, ?hold, ?lower⟩
  case windowRead =>
    intro r part die idx off _ hd hi ho h8 m key w hc
    have hw : w = (s.windowWord (shownBy die idx) off).toNat := leNat_loadBytes_window hd hi ho h8 hc
    rw [hw]
    refine ⟨fun hk hf => ?_, ?_, fun hne hrun => ?_⟩
    · rw [windowWord_of_frozen off hk hf]
      exact windowShows_winWord ..
    · rintro rfl
      exact windowWord_state s _
    · rw [windowWord_of_not_frozen hne hrun]
      rfl
  case windowWrite =>
    intro die idx i va v hd hi hr hva pos
    rw [exec_windowWrite_s s v hd hi hr hva]
    refine ⟨fun hk hf => ⟨_, rfl, winWrite_mem .., ?_⟩, fun hf => by rw [winWrite_of_not_frozen hf]⟩
    rw [winWrite_s hk hf hr, ms_setM_same]
    exact ⟨ws_pc .., rs_ws_ofNat _ hr v, fun p hp => (ms_setM ..).trans (if_neg hp)⟩
  case share =>
    intro part die va v hd hva
    rw [exec_registerWrite_aligned s part v (by omega)]
    refine ⟨fun h => ?_, fun h => by rw [h]; rfl⟩
    rw [if_pos h, hva]
    exact congrArg Host.Outcome.next (regWrite_share s part true v hd)
  case abucfg =>
    intro die v hd
    rw [exec_abucfgWrite, execAbucfgWrite, if_pos hd, clamp_eq_max_min (by omega), State.updDie]
  case outside =>
    intro part va bs hp hva hb him ring
    refine ⟨fun hport hmay => ?_, fun he hq => ?_, exec_hostMemoryWrite_down part va bs, fun he hport => ?_,
      fun he => exec_podAccess_refused (.inr he), exec_podAccess_refused (.inl rfl)⟩
    · have hrange : s.hostRange part va.toNat bs.length = true := by
        rcases hmay with he | ⟨q, x, hq, hcap, hlo, hhi⟩
        · exact hostRange_of_exported him he
        · exact hostRange_of_ring him hq hcap hlo hhi
      rw [exec_hostMemoryWrite_memory part bs hva hport, if_pos hrange]
      exact ⟨_, rfl, arrive_arrived s hp hb him⟩
    · exact exec_hostMemoryWrite_refused part bs hva (hostRange_eq_false he hq)
    · exact ⟨_, exec_podAccess_write he him hport, arrive_arrived s hp hb him⟩
  case host =>
    intro gen hg
    simp [exec_portTraining, execPortTraining, hg]
  case cxl =>
    rintro gen (rfl | rfl) <;> rfl
  case cxlNot =>
    intro gen hg
    rw [exec_portTraining, execPortTraining]
    exact congrArg Host.Outcome.next (if_neg (by simp; omega))
  case scale =>
    rintro n gen (rfl | rfl) <;> rfl
  case scaleNot =>
    intro n gen hg
    rw [exec_portTraining, execPortTraining]
    exact congrArg Host.Outcome.next (if_neg (by simp; omega))
  case storage =>
    intro gen hg
    exact congrArg Host.Outcome.next (if_pos hg)
  case storageNot =>
    intro gen hg
    exact congrArg Host.Outcome.next (if_neg (by omega))
  case cap =>
    exact ⟨_, exec_powerCapSet s, rfl, rfl, congrArg some (clamp_eq_max_min (by omega) _)⟩
  case clock =>
    intro die k hj
    rw [exec_islandClockSet, execIslandClockSet, hj]
    refine ⟨fun hk => ?_, fun hk => ?_⟩
    · simp [hk, State.updDie]
    · simp [show ¬ k ≤ 20 by omega]
  case below =>
    exact fun h => ⟨_, exec_powerWindow_below h, rfl, rfl⟩
  case hold =>
    intro h hlow
    refine ⟨_, exec_powerWindow_hold h fun e he hj => ?_, rfl, rfl⟩
    exact (lowest_iff s e.2).2 ((hlow e he).resolve_left (by simp [hj]))
  case lower =>
    rintro h hs ⟨e, he, hj, hclk, hfull⟩
    refine ⟨_, exec_powerWindow_lower h he hj ((lowest_eq_false_iff s e.2).2 ⟨hclk, hfull⟩), ?_, foldl_mem _ lowerClock_mem _ _, ?_⟩
    · rw [foldl_lowerClock_power]
    · intro a ha haj haclk hafull
      exact foldl_lowerClock_die (s := { s with power := { s.power with watts := s.cur } }) hs (fun b hb => die_of_mem hs hb) ha haj ((lowest_eq_false_iff s a.2).2 ⟨haclk, hafull⟩)

end Sys2Proof.Machine
end

section
/-! SUPPORT. Special registers (spec/05, spec/14): an instruction that changes its issuing master alone completes as `stepped` says,
and what MFS reads, what MTS writes, and who may do either. -/

namespace Sys2Proof.Machine

open Sys2Proof.Claims

/-! ## Instructions that change their master alone (R103, R274) -/

theorem mayIssue_any {s : State} (h : Issues s) : s.me.mayIssue .any 0 = true := by
  obtain ⟨hk, hc⟩ := h
  cases e : s.me.kind with
  | empty => exact absurd e hk
  | task => rw [mayIssue_task e]; rfl
  | svc => rw [mayIssue_svc e]; rfl
  | handler => simp [mayIssue_handler e, hc e]

theorem mayIssue_noHandler {s : State} (h : NoHandler s) : s.me.mayIssue .noHandler 0 = true := by
  rcases h with h | h
  · rw [mayIssue_task h]; rfl
  · rw [mayIssue_svc h]; rfl

theorem not_mayIssue_noHandler {m : Master} (h : m.kind = .handler) : m.mayIssue .noHandler 0 = false := by
  simp [mayIssue_handler h]

theorem kind_ne_empty_of_noHandler {s : State} (h : NoHandler s) : s.me.kind ≠ .empty := by
  rcases h with h | h <;> simp [h]

/-- Completing after a change of the issuing master, which has kept its PC, is a step of that master alone. -/
theorem advance_setM_cur (s : State) {m : Master} (hk : m.kind ≠ .empty) (hpc : m.pc = s.me.pc) (p : Bool) (pc : W64) :
    (s.setM s.cur m).advance p pc = stepped s p pc m := by
  have hdone : (s.setM s.cur m).upd (fun m => m.complete pc) = s.setM s.cur (m.complete pc) := by
    rw [upd_eq, me_setM_cur]
    exact setM_setM _ _ _ _ (Master.ne_empty m hk)
  have hpark : (s.setM s.cur (m.complete pc)).parkM s.cur .marker 0xF s.me.pc =
      { s.setM s.cur ((m.complete pc).parkOn s.cyc s.nextPlace .marker 0xF s.me.pc) with nextPlace := s.nextPlace + 1 } := by
    rw [parkM_eq, ms_setM_same, setM_setM _ _ _ _ (Master.ne_empty (m.complete pc) hk)]
    rfl
  unfold State.advance
  rw [hdone, me_setM_cur, hpc]
  exact congrArg (fun t => if (p && (s.setM s.cur (m.complete pc)).outstanding s.cur) = true then t else s.setM s.cur (m.complete pc)) hpark

/-- An immediate instruction steps its master by what it does to it. -/
theorem imm_eq_stepped {s : State} (h : Issues s) {f : Master → Master} (hk : (f s.me).kind = s.me.kind) (hpc : (f s.me).pc = s.me.pc)
    (p : Bool) (words : Nat) : s.imm p words f = .next (stepped s p (nextPc s words) (f s.me)) := by
  rw [State.imm, gate_of_mayIssue (mayIssue_any h), upd_eq, advance_setM_cur s (by rw [hk]; exact h.1) hpc]
  rfl

/-- The same for one that a handler may not issue. -/
theorem taskI_eq_stepped {s : State} (h : NoHandler s) {f : Master → Master} (hk : (f s.me).kind = s.me.kind)
    (hpc : (f s.me).pc = s.me.pc) (x : Pl) : taskI x f s = .next (stepped s x.p (nextPc s x.words) (f s.me)) := by
  rw [taskI, gate_of_mayIssue (mayIssue_noHandler h), upd_eq, advance_setM_cur s (by rw [hk]; exact kind_ne_empty_of_noHandler h) hpc]
  rfl

theorem taskI_of_handler {s : State} (h : s.me.kind = .handler) (f : Master → Master) (x : Pl) :
    taskI x f s = .next (illegal 2 s) := by
  rw [taskI, gate_of_not_mayIssue (not_mayIssue_noHandler h)]

theorem exec_rdcyc (x : Rdcyc) (s : State) : exec (.rdcyc x) s = execRdcyc x s := rfl
theorem exec_geto (x : S1) (s : State) : exec (.geto x) s = execGeto x s := rfl
theorem exec_engst (x : S1) (s : State) : exec (.engst x) s = execEngst x s := rfl

/-! ## MFS and MTS (R21 to R27, R117) -/

theorem exec_mfs {s : State} (h : Issues s) {x : Mfs} (hn : x.num.toNat ≤ 0x14) :
    exec (.mfs x) s = .next (stepped s x.h.p (nextPc s x.h.words) (s.me.ws x.sr (s.special s.cur x.num.toNat))) := by
  have hassigned : ¬ x.num.toNat > 0x14 := by omega
  rw [show exec (.mfs x) s = execMfs x s from rfl, execMfs, gate_of_mayIssue (mayIssue_any h), if_neg hassigned, upd_eq,
    advance_setM_cur s (by rw [ws_kind]; exact h.1) (ws_pc ..)]
  rfl

theorem exec_mfs_unassigned {s : State} (h : Issues s) {x : Mfs} (hn : 0x14 < x.num.toNat) :
    exec (.mfs x) s = .next (illegal 6 s) := by
  rw [show exec (.mfs x) s = execMfs x s from rfl, execMfs, gate_of_mayIssue (mayIssue_any h), if_pos hn]

/-- MTS writes one field at most, and neither the kind nor the PC. -/
theorem writeSpecial_kind_pc (m : Master) (n : Nat) (v : W64) : (m.writeSpecial n v).kind = m.kind ∧ (m.writeSpecial n v).pc = m.pc := by
  unfold Master.writeSpecial
  split <;> exact ⟨rfl, rfl⟩

theorem exec_mts {s : State} (h : Issues s) {x : Mfs} (hn : x.num.toNat ≤ 0x14) :
    exec (.mts x) s = .next (stepped s x.h.p (nextPc s x.h.words) (s.me.writeSpecial x.num.toNat (s.me.rs x.sr))) := by
  have hassigned : ¬ x.num.toNat > 0x14 := by omega
  obtain ⟨hk, hpc⟩ := writeSpecial_kind_pc s.me x.num.toNat (s.me.rs x.sr)
  rw [show exec (.mts x) s = execMts x s from rfl, execMts, gate_of_mayIssue (mayIssue_any h), if_neg hassigned, upd_eq,
    advance_setM_cur s (by rw [hk]; exact h.1) hpc]
  rfl

theorem exec_mts_unassigned {s : State} (h : Issues s) {x : Mfs} (hn : 0x14 < x.num.toNat) :
    exec (.mts x) s = .next (illegal 6 s) := by
  rw [show exec (.mts x) s = execMts x s from rfl, execMts, gate_of_mayIssue (mayIssue_any h), if_pos hn]

/-- CYC and ROUND are the counts that R22 names. -/
theorem cycOf_cur (s : State) : s.cycOf s.cur = cycles s := rfl
theorem roundOf_cur (s : State) : s.roundOf s.cur = BitVec.ofNat 64 (Claims.round s) := by
  simp [State.roundOf, Claims.round]

/-- The launch's fields read as R22 to R27 lay them out, and as 0 in a handler. -/
theorem special_launchFields {s : State} {f : Nat × W64} (hf : f ∈ launchFields s.me) :
    s.special s.cur f.1 = if s.me.kind = .handler then 0 else f.2 := by
  have hz : 16 * s.me.zcount + s.me.zbase = s.me.zcount * 16 + s.me.zbase := by omega
  simp only [launchFields, List.mem_cons, List.not_mem_nil, or_false, hz] at hf
  rcases hf with rfl | rfl | rfl | rfl | rfl | rfl | rfl | rfl | rfl | rfl | rfl | rfl | rfl | rfl | rfl | rfl | rfl | rfl | rfl <;> rfl

/-- A field of the launch has an assigned number. -/
theorem launchFields_num_le {m : Master} {f : Nat × W64} (hf : f ∈ launchFields m) : f.1 ≤ 0x14 := by
  have hnums : ∀ n ∈ (launchFields m).map Prod.fst, n ≤ 0x14 := by
    simp only [launchFields, List.map_cons, List.map_nil]
    decide
  exact hnums _ (List.mem_map_of_mem hf)

/-- What MTS leaves, by the number as the instruction holds it (R7, R22, R26). -/
theorem writeSpecial_eq (m : Master) (n : BitVec 6) (v : W64) : m.writeSpecial n.toNat v =
    if n = 0x07 then { m with orphv := v &&& ~~~3 }
    else if n = 0x08 then { m with wlim := if v.toNat % 2 ^ 32 < 256 then 256 else BitVec.ofNat 32 v.toNat }
    else if n = 0x09 then { m with rlim := BitVec.ofNat 8 v.toNat }
    else if n = 0x0D then { m with errst := m.errst &&& ~~~(BitVec.ofNat 4 v.toNat) }
    else m := by
  have hnum : ∀ k : BitVec 6, n = k ↔ n.toNat = k.toNat := fun k => BitVec.toNat_inj.symm
  unfold Master.writeSpecial
  split
  · next h => rw [if_pos ((hnum 0x07).2 h)]; rfl
  · next h => obtain rfl := (hnum 0x08).2 h; rfl
  · next h => obtain rfl := (hnum 0x09).2 h; rfl
  · next h => obtain rfl := (hnum 0x0D).2 h; rfl
  · next h7 h8 h9 hd =>
    rw [if_neg (mt (hnum 0x07).1 h7), if_neg (mt (hnum 0x08).1 h8), if_neg (mt (hnum 0x09).1 h9), if_neg (mt (hnum 0x0D).1 hd)]

/-- Settles O6: each instruction is a step of its master by what it reads or writes, or ILLEGAL. -/
theorem specialRegisters : Obligations.SpecialRegisters := by
  unfold Obligations.SpecialRegisters
  refine ⟨fun s => ⟨?launch, ?clock, ?mts, ?rdcyc, ?geto, ?engst⟩, ?handler, ?unassigned⟩
  case launch =>
    intro x f hf hn h
    rw [exec_mfs h (hn ▸ launchFields_num_le hf), hn, special_launchFields hf]
  case clock =>
    intro x h hn
    have hread : s.special s.cur x.num.toNat = if x.num = 0x0C then cycles s else BitVec.ofNat 64 (Claims.round s) := by
      rcases hn with hn | hn <;> rw [hn]
      · rfl
      · exact roundOf_cur s
    rw [exec_mfs h (by rcases hn with hn | hn <;> simp [hn]), hread]
  case mts =>
    intro x h hn v
    rw [exec_mts h hn, writeSpecial_eq]
  case rdcyc =>
    intro x h
    rw [exec_rdcyc, execRdcyc, imm_eq_stepped h (by simp) (by simp), cycOf_cur, roundOf_cur]
  case geto =>
    intro x h
    rw [exec_geto, execGeto, taskI_eq_stepped h (ws_kind ..) (ws_pc ..), ← BitVec.ofNat_toNat]
  case engst =>
    intro x h posts
    rw [exec_engst, execEngst, taskI_eq_stepped h (ws_kind ..) (ws_pc ..)]
    simp only [Master.engst, Nat.mul_comm]
    rfl
  case handler =>
    exact fun s x h => ⟨taskI_of_handler h _ _, taskI_of_handler h _ _⟩
  case unassigned =>
    exact fun s x h hn => ⟨exec_mfs_unassigned h hn, exec_mts_unassigned h hn⟩

end Sys2Proof.Machine
end

section
/-! SUPPORT. The packet of a fault (spec/25): its ROUND is a field of 64 bits, and it stands last of its die's packets. -/

namespace Sys2Proof.Machine

open Sys2Proof.Claims

/-- A packet's ROUND holds the low 64 bits of the round that its master's core is in (R434). -/
theorem packet_round (s : State) (eng : Nat) (f : Flt) (pc : W64) :
    (s.packet s.cur eng f pc).round = Claims.round s % 2 ^ 64 := by
  rw [show (s.packet s.cur eng f pc).round = (s.roundOf s.cur).toNat from rfl, State.roundOf, BitVec.toNat_ofNat]
  simp [Claims.round]

theorem queuePacket_pkts (s : State) (die : Nat) (p : Packet) : ((s.queuePacket die p).die die).pkts = (s.die die).pkts ++ [p] := by
  rw [State.queuePacket, State.updDie, die_setDie_same]

/-- A fault that neither dooms nor is logged beside queues its master's packet last. -/
theorem fault_pkts (s : State) {f : Flt} (hdoom : f.dooms = false) :
    ((s.fault f).die (dieOf s.cur)).pkts = (s.die (dieOf s.cur)).pkts ++ [s.packet s.cur 0 f s.me.pc] := by
  have heng : f.cause ≠ cEng := fun e => by simp [Flt.dooms, e] at hdoom
  rw [State.fault, freeze_eq, logEng_of_ne heng, hdoom]
  exact queuePacket_pkts ..

theorem exec_unassignedOpcode (w : W32) (stage : Nat) (s : State) : exec (.unassignedOpcode w stage) s =
    .next (s.fault { cause := cIllegal, d0 := w.setWidth 64, d1 := BitVec.ofNat 64 stage }) := rfl

/-- A machine in its round 2^64, the first whose number the 64 bits of a packet's ROUND do not hold. -/
def lateRound : State := { oneTask aTask with round := { num := 2 ^ 64, opened := false, entered := [], demand := false, at' := 0 } }

/-- Refutes O53, in the clause of an illegal word: the claim bounds no round, and has the packet name the master's round as a number;
a packet's ROUND has 64 bits (R434), so the packet of a fault in round 2^64 names round 0. -/
theorem not_faultEntryAndRing : ¬ Obligations.FaultEntryAndRing := by
  unfold Obligations.FaultEntryAndRing
  rintro ⟨hillegal, -⟩
  obtain ⟨t, p, hexec, ⟨-, -, -, -, -, -, -, hround, -⟩, -, -, -, -, -, hpkts⟩ := hillegal lateRound 0 2 (by decide)
  rw [exec_unassignedOpcode] at hexec
  cases hexec
  rw [fault_pkts lateRound (by decide)] at hpkts
  obtain rfl := List.singleton_inj.1 (List.append_cancel_left hpkts)
  rw [packet_round] at hround
  exact absurd hround (by decide)

end Sys2Proof.Machine
end

section
/-! SUPPORT. Reset (spec/00, spec/01). -/

namespace Sys2Proof.Machine

/-- An empty slot's registers read 0, but for m0 and c0 as in every master (R17, R19). -/
theorem Master.empty_registers : let m := Master.empty
    (∀ i, m.rs i = 0) ∧ (∀ i, m.rv i = 0) ∧ (∀ i, m.rc i = Cap.null) ∧ (∀ i, m.rq i = 0) ∧ ∀ i, i ≠ 0 → m.rm i = 0 :=
  ⟨fun _ => ite_self _, fun _ => rfl, fun _ => ite_self _, fun _ => rfl, fun _ h => if_neg h⟩

/-- Settles O54: reset lists nothing, so every table reads as its default. -/
theorem resetState : Obligations.ResetState := by
  unfold Obligations.ResetState
  refine ⟨reset_mem_wf, fun _ => rfl, fun pos => ?master, fun _ => rfl, fun _ => ⟨rfl, rfl⟩, fun _ => rfl, fun _ => ⟨rfl, rfl, rfl⟩,
    fun _ => rfl, fun _ => rfl⟩
  case master =>
    intro m
    obtain ⟨hs, hv, hc, hq, hm⟩ := Master.empty_registers
    exact ⟨rfl, hs, hv, hc, hq, hm, rfl, rfl, rfl, rfl, rfl, rfl⟩

end Sys2Proof.Machine
end

section
/-! SUPPORT. Placement (spec/18): what creating a task, placing a group and taking a ring's item change of masters, cores and
launches, and that a placed task stands as R19 and R323 say and owns its tiles. -/

namespace Sys2Proof.Tab
variable {α : Type}

/-- A table read after all its values have changed, each by its key. -/
theorem find?_mapValues (g : Nat → α → α) (t : Tab α) (k : Nat) :
    find? (t.map fun e => (e.1, g e.1 e.2)) k = (find? t k).map (g k) := by
  induction t with
  | nil => rfl
  | cons e t ih =>
    obtain ⟨j, v⟩ := e
    rw [List.map_cons, find?_cons, find?_cons, ih]
    split
    · next h => rw [h]; rfl
    · rfl

/-- A table read after one value has been put at `n` keys from `base` on. -/
theorem get_foldl_put (d : α) (base : Nat) (v : α) (n : Nat) (t : Tab α) (j : Nat) :
    get d ((List.range n).foldl (fun t i => put t (base + i) v) t) j = if base ≤ j ∧ j < base + n then v else get d t j := by
  induction n with
  | zero => rw [if_neg (by omega)]; rfl
  | succ n ih =>
    rw [List.range_succ, List.foldl_append, List.foldl_cons, List.foldl_nil, get]
    by_cases h : j = base + n
    · subst h
      rw [find?_put_same, if_pos (by omega)]
      rfl
    · rw [find?_put_ne _ _ h, ← get, ih]
      exact if_congr (by omega) rfl rfl

end Sys2Proof.Tab

namespace Sys2Proof.Machine

open Sys2Proof.Claims

/-! ## The new task (R19, R323) -/

section NewTask
variable (s : State) (slot : Nat) (l : Launch) (arg : Cap) (gang grp task stage off z : Nat)

/-- A new task stands as R19 and R323 say, once its s registers hold the item in s2 and 0 elsewhere. -/
theorem newTask_fresh_of_s {r : Tab W64} {item : W64} (hr : ∀ i : SReg, (if i = 0 then 0 else Tab.get 0 r i.toNat) = if i = 2 then item else 0) :
    Fresh { s.newTask slot l arg gang grp task stage off z with s := r } slot l arg gang grp task item := by
  refine ⟨rfl, rfl, rfl, rfl, rfl, rfl, rfl, rfl, rfl, rfl, rfl, rfl, rfl, rfl, rfl, rfl, rfl, rfl, rfl, fun h => if_pos h, rfl, rfl,
    hr, fun i => ?_, fun _ => rfl, fun _ => rfl⟩
  show (s.newTask slot l arg gang grp task stage off z).rc i = _
  rw [State.newTask, rc_wc]
  by_cases h0 : i = 0
  · subst h0; rfl
  · rw [if_neg h0]
    exact if_congr Iff.rfl rfl (if_neg h0)

/-- A gang's task has every s register 0. -/
theorem newTask_fresh : Fresh (s.newTask slot l arg gang grp task stage off z) slot l arg gang grp task 0 :=
  newTask_fresh_of_s s slot l arg gang grp task stage off z (r := []) fun _ => (ite_self _).trans (ite_self _).symm

/-- A stage task has its item in s2. -/
theorem newTask_item_fresh (item : W64) :
    Fresh ((s.newTask slot l arg gang grp task stage off z).ws 2 item) slot l arg gang grp task item := by
  refine newTask_fresh_of_s s slot l arg gang grp task stage off z (r := Tab.set 0 [] 2 item) fun i => ?_
  have hread : ((s.newTask slot l arg gang grp task stage off z).ws 2 item).rs i = if i = 2 then item else 0 := by
    rw [rs_ws]
    by_cases h0 : i = 0
    · subst h0; rfl
    · rw [if_neg h0]
      exact if_congr Iff.rfl rfl (if_neg h0)
  exact hread

end NewTask

/-- Becoming READY leaves all that makes a task fresh. -/
theorem fresh_unpark {m : Master} {slot : Nat} {l : Launch} {arg : Cap} {gang grp task : Nat} {item : W64}
    (h : Fresh m slot l arg gang grp task item) (cyc : Nat) : Fresh (m.unpark cyc) slot l arg gang grp task item := by
  obtain ⟨hkind, -, hrest⟩ := h
  exact ⟨hkind, rfl, hrest⟩

/-! ## Waking -/

/-- Waking leaves every master that is not parked. -/
theorem wakeAll_ms_of_not_parked {s : State} (f : Nat → Master → Bool) {i : Nat} (h : (s.ms i).st ≠ .parked) :
    (s.wakeAll f).ms i = s.ms i := by
  have hfind : Tab.find? (s.wakeAll f).masters i =
      (Tab.find? s.masters i).map fun m => if m.isParked && f i m then m.unpark s.cyc else m :=
    Tab.find?_mapValues (fun k (m : Master) => if m.isParked && f k m then m.unpark s.cyc else m) s.masters i
  unfold State.ms Tab.get at h ⊢
  rw [hfind]
  cases e : Tab.find? s.masters i with
  | none => rfl
  | some m =>
    rw [e] at h
    exact if_neg (by simp [Master.isParked, show m.st ≠ .parked from h])

theorem wakeAll_core (s : State) (f : Nat → Master → Bool) (i : Nat) : (s.wakeAll f).core i = s.core i := rfl
theorem wakeAll_launch? (s : State) (f : Nat → Master → Bool) (i : Nat) : (s.wakeAll f).launch? i = s.launch? i := rfl

/-- The waiter that a ring wakes is one at most. -/
theorem wakeOne_ms (s : State) (f : Nat → Master → Bool) (i : Nat) :
    (s.wakeOne f).ms i = s.ms i ∨ (s.wakeOne f).ms i = (s.ms i).unpark s.cyc := by
  rcases wakeOne_cases s f with h | ⟨k, h⟩
  · exact .inl (by rw [h])
  · rw [h, State.updM, ms_setM]
    split
    · next e => exact .inr (by rw [e])
    · exact .inl rfl
theorem wakeOne_core (s : State) (f : Nat → Master → Bool) (i : Nat) : (s.wakeOne f).core i = s.core i := by
  rcases wakeOne_cases s f with h | ⟨k, h⟩ <;> rw [h]; rfl
theorem wakeOne_bank (s : State) (f : Nat → Master → Bool) (i : Nat) : (s.wakeOne f).bank i = s.bank i := by
  rcases wakeOne_cases s f with h | ⟨k, h⟩ <;> rw [h]; rfl

/-! ## Launches -/

theorem setLaunch_launch? (s : State) (slot : Nat) (l : Launch) (i : Nat) :
    (s.setLaunch slot l).launch? i = if i = slot then some l else s.launch? i := by
  by_cases h : i = slot
  · rw [if_pos h, h]
    exact Tab.find?_put_same ..
  · rw [if_neg h]
    exact Tab.find?_put_ne _ _ h

theorem updLaunch_of_some {s : State} {slot : Nat} {l : Launch} (h : s.launch? slot = some l) (f : Launch → Launch) :
    s.updLaunch slot f = s.setLaunch slot (f l) := by
  rw [State.updLaunch, h]

/-- A change of a launch takes none away. -/
theorem isSome_updLaunch {s : State} {slot : Nat} (h : (s.launch? slot).isSome = true) (i : Nat) (f : Launch → Launch) :
    ((s.updLaunch i f).launch? slot).isSome = true := by
  unfold State.updLaunch
  split
  · rw [setLaunch_launch?]
    split
    · rfl
    · exact h
  · exact h

/-! ## What placing a group grants (R324, R328) -/

/-- The shape record changes memory alone. -/
theorem putShape_eq (s : State) (core slot : Nat) : ∃ mem, s.putShape core slot = { s with mem := mem } := by
  unfold State.putShape
  split
  · split
    · exact ⟨_, rfl⟩
    · exact ⟨s.mem, rfl⟩
  · exact ⟨s.mem, rfl⟩

/-- An LS allocation is added to its core, and memory is cleared; nothing else changes but the count of groups. -/
theorem grantLs_eq (s : State) (core slot gang grp off size : Nat) :
    ∃ mem as, s.grantLs core slot gang grp off size =
      { s.setCore core { s.core core with allocs := as } with mem := mem, nextReq := s.nextReq + 1 } := by
  obtain ⟨mem, h⟩ := putShape_eq s core slot
  unfold State.grantLs
  rw [h]
  exact ⟨_, _, rfl⟩

/-- Joining its launch's pool assigns a core to a stage at most. -/
theorem joinPool_cases (s : State) (slot core : Nat) :
    s.joinPool slot core = s ∨ ∃ st, s.joinPool slot core = s.setCore core { s.core core with stage := st } ∨
      ∃ f, s.joinPool slot core = (s.setCore core { s.core core with stage := st }).updLaunch slot f := by
  unfold State.joinPool
  split
  · exact .inl rfl
  · dsimp only
    split
    · exact .inl rfl
    · split
      · exact .inr ⟨_, .inr ⟨_, rfl⟩⟩
      · split
        · exact .inr ⟨_, .inl rfl⟩
        · exact .inl rfl

/-- No master, no tile and no launch's being there differs: what tasks stand where is the same. -/
def KeepsTasks (slot : Nat) (s t : State) : Prop :=
  (∀ i, t.ms i = s.ms i) ∧ (∀ c, (t.core c).tiles = (s.core c).tiles) ∧ ((s.launch? slot).isSome = true → (t.launch? slot).isSome = true)

theorem keepsTasks_trans {slot : Nat} {s t u : State} (h : KeepsTasks slot s t) (h' : KeepsTasks slot t u) : KeepsTasks slot s u := by
  obtain ⟨hms, htiles, hl⟩ := h
  obtain ⟨hms', htiles', hl'⟩ := h'
  exact ⟨fun i => (hms' i).trans (hms i), fun c => (htiles' c).trans (htiles c), fun hs => hl' (hl hs)⟩

theorem keepsTasks_drew (slot : Nat) (s : State) : KeepsTasks slot s s.drew := ⟨fun _ => rfl, fun _ => rfl, id⟩

/-- A change of a core that leaves its tiles. -/
theorem keepsTasks_setCore (slot : Nat) (s : State) {core : Nat} {c : Core} (h : c.tiles = (s.core core).tiles) :
    KeepsTasks slot s (s.setCore core c) := by
  refine ⟨fun _ => rfl, fun i => ?_, id⟩
  rw [core_setCore]
  split
  · next e => rw [e, h]
  · rfl

theorem keepsTasks_updLaunch (slot : Nat) (s : State) (i : Nat) (f : Launch → Launch) : KeepsTasks slot s (s.updLaunch i f) :=
  ⟨updLaunch_ms s i f, fun c => by rw [updLaunch_core], fun hs => isSome_updLaunch hs i f⟩

theorem keepsTasks_grantLs (s : State) (core slot gang grp off size : Nat) : KeepsTasks slot s (s.grantLs core slot gang grp off size) := by
  obtain ⟨mem, as, h⟩ := grantLs_eq s core slot gang grp off size
  rw [h]
  exact keepsTasks_setCore slot s rfl

theorem keepsTasks_joinPool (s : State) (slot core : Nat) : KeepsTasks slot s (s.joinPool slot core) := by
  rcases joinPool_cases s slot core with h | ⟨st, h | ⟨f, h⟩⟩
  · rw [h]; exact ⟨fun _ => rfl, fun _ => rfl, id⟩
  · rw [h]; exact keepsTasks_setCore slot s rfl
  · have hcore : KeepsTasks slot s (s.setCore core { s.core core with stage := st }) := keepsTasks_setCore slot s rfl
    rw [h]
    exact keepsTasks_trans hcore (keepsTasks_updLaunch ..)

/-! ## Placing one task of a group -/

/-- Tiles granted to a task are its own, and every other tile keeps its owner. -/
theorem grantTiles_tiles (s : State) (core pos z n c j : Nat) : Tab.get 0 ((s.grantTiles core pos z n).core c).tiles j =
    if c = core ∧ z ≤ j ∧ j < z + n then pos + 1 else Tab.get 0 (s.core c).tiles j := by
  rw [State.grantTiles, State.updCore, core_setCore]
  by_cases h : c = core
  · rw [if_pos h, Tab.get_foldl_put, h]
    exact if_congr (by simp) rfl rfl
  · rw [if_neg h, if_neg fun hc => h hc.1]
    rfl

/-- A group on its way onto a core: the launch and c1 of its tasks, its numbers, the core and its offset there, the first of its
tiles, and its number among all groups. -/
structure Placing where
  slot : Nat
  l : Launch
  arg : Cap
  gang : Nat
  grp : Nat
  core : Nat
  off : Nat
  base : Nat
  gno : Nat

section Placing
variable (p : Placing)

/-- Task `x.1` of the group takes slot `x.2` of the core, and its share of the group's tiles begins at `tile`. -/
def Placing.pos (x : Nat × Nat) : Nat := p.core * 16 + x.2
def Placing.tile (x : Nat × Nat) : Nat := p.base + x.1 * p.l.zacc
def Placing.task (s : State) (x : Nat × Nat) : Master :=
  { s.newTask p.slot p.l p.arg p.gang p.grp x.1 p.l.stage p.off (p.tile x) with gno := p.gno }

/-- What the dispatcher does for one task of the group. -/
def Placing.place (s : State) (x : Nat × Nat) : State :=
  (s.grantTiles p.core (p.pos x) (p.tile x) p.l.zacc).setM (p.pos x) (p.task s x)

theorem place_ms (s : State) (x : Nat × Nat) (i : Nat) : (p.place s x).ms i = if i = p.pos x then p.task s x else s.ms i := ms_setM ..
theorem place_tiles (s : State) (x : Nat × Nat) (c j : Nat) : Tab.get 0 ((p.place s x).core c).tiles j =
    if c = p.core ∧ p.tile x ≤ j ∧ j < p.tile x + p.l.zacc then p.pos x + 1 else Tab.get 0 (s.core c).tiles j := grantTiles_tiles ..

/-- Task `x.1` stands in its slot as it was created, and its share of the group's tiles is its own. -/
def Placing.Stands (t : State) (x : Nat × Nat) : Prop :=
  (∃ s, t.ms (p.pos x) = p.task s x) ∧ ∀ i < p.l.zacc, Tab.get 0 (t.core p.core).tiles (p.tile x + i) = p.pos x + 1

theorem stands_place (s : State) (x : Nat × Nat) : p.Stands (p.place s x) x := by
  refine ⟨⟨s, ?_⟩, fun i hi => ?_⟩
  · rw [place_ms, if_pos rfl]
  · rw [place_tiles, if_pos ⟨rfl, by omega, by omega⟩]

variable {p}

/-- Shares of different tasks do not meet. -/
theorem tile_disjoint {x y : Nat × Nat} (h : x.1 ≠ y.1) {i : Nat} (hi : i < p.l.zacc) :
    ¬ (p.tile y ≤ p.tile x + i ∧ p.tile x + i < p.tile y + p.l.zacc) := by
  unfold Placing.tile
  rintro ⟨hlo, hhi⟩
  rcases Nat.lt_or_gt_of_ne h with h | h
  all_goals
    have := Nat.mul_le_mul_right p.l.zacc (Nat.succ_le_of_lt h)
    rw [Nat.succ_mul] at this
    omega

/-- Creating another task of the group leaves one that stands. -/
theorem stands_place_ne {s : State} {x y : Nat × Nat} (h1 : x.1 ≠ y.1) (h2 : x.2 ≠ y.2) (h : p.Stands s x) : p.Stands (p.place s y) x := by
  obtain ⟨⟨s', hms⟩, htiles⟩ := h
  refine ⟨⟨s', ?_⟩, fun i hi => ?_⟩
  · have hpos : p.pos x ≠ p.pos y := by unfold Placing.pos; omega
    rw [place_ms, if_neg hpos, hms]
  · rw [place_tiles, if_neg fun hin => tile_disjoint h1 hi hin.2, htiles i hi]

/-- Tasks created one after another, with different numbers in different slots, all stand. -/
theorem stands_foldl_place {xs : List (Nat × Nat)} (hd : xs.Pairwise fun a b => a.1 ≠ b.1 ∧ a.2 ≠ b.2) (s : State) {x : Nat × Nat}
    (hx : x ∈ xs) : p.Stands (xs.foldl p.place s) x := by
  induction xs generalizing s with
  | nil => simp at hx
  | cons y xs ih =>
    obtain ⟨hy, hd'⟩ := List.pairwise_cons.1 hd
    rcases List.mem_cons.1 hx with rfl | hx
    · exact List.foldlRecOn (motive := fun t => p.Stands t x) xs p.place (stands_place p s x)
        fun t ht z hz => stands_place_ne (hy z hz).1 (hy z hz).2 ht
    · exact ih hd' _ hx

/-- What placing on a core leaves: the masters and the tiles of other cores, and that its launch is there. -/
def KeepsElsewhere (slot core : Nat) (s t : State) : Prop :=
  (∀ i, i / 16 ≠ core → t.ms i = s.ms i) ∧ (∀ c, c ≠ core → ∀ j, Tab.get 0 (t.core c).tiles j = Tab.get 0 (s.core c).tiles j) ∧
    ((s.launch? slot).isSome = true → (t.launch? slot).isSome = true)

theorem keepsElsewhere_trans {slot core : Nat} {s t u : State} (h : KeepsElsewhere slot core s t) (h' : KeepsElsewhere slot core t u) :
    KeepsElsewhere slot core s u := by
  obtain ⟨hms, htiles, hl⟩ := h
  obtain ⟨hms', htiles', hl'⟩ := h'
  exact ⟨fun i hi => (hms' i hi).trans (hms i hi), fun c hc j => (htiles' c hc j).trans (htiles c hc j), fun hs => hl' (hl hs)⟩

theorem keepsElsewhere_of_keepsTasks {slot : Nat} (core : Nat) {s t : State} (h : KeepsTasks slot s t) : KeepsElsewhere slot core s t := by
  obtain ⟨hms, htiles, hl⟩ := h
  exact ⟨fun i _ => hms i, fun c _ j => congrArg (Tab.get 0 · j) (htiles c), hl⟩

theorem keepsElsewhere_foldl_place {xs : List (Nat × Nat)} (hs : ∀ x ∈ xs, x.2 < 16) (slot : Nat) (s : State) :
    KeepsElsewhere slot p.core s (xs.foldl p.place s) := by
  refine List.foldlRecOn (motive := KeepsElsewhere slot p.core s) xs p.place ⟨fun _ _ => rfl, fun _ _ _ => rfl, id⟩ ?_
  rintro t ⟨hms, htiles, hl⟩ x hx
  have hslot := hs x hx
  refine ⟨fun i hi => ?_, fun c hc j => ?_, hl⟩
  · have hpos : i ≠ p.pos x := by unfold Placing.pos; omega
    rw [place_ms, if_neg hpos, hms i hi]
  · rw [place_tiles, if_neg fun h => hc h.1, htiles c hc j]

end Placing

/-! ## Placing a group -/

/-- Free slots are among the 15 of tasks, each once, and empty. -/
theorem mem_freeSlots {s : State} {core a : Nat} (h : a ∈ s.freeSlots core) : a < 15 ∧ (s.ms (core * 16 + a)).kind = .empty := by
  simpa [State.freeSlots] using h
theorem nodup_freeSlots (s : State) (core : Nat) : (s.freeSlots core).Nodup := List.nodup_range.filter _

/-- Numbering a list of different members pairs different numbers with different members. -/
theorem pairwise_zip_range {xs : List Nat} (h : xs.Nodup) :
    ((List.range xs.length).zip xs).Pairwise fun a b => a.1 ≠ b.1 ∧ a.2 ≠ b.2 := by
  rw [List.pairwise_iff_getElem]
  intro i j hi hj hij
  simp only [List.getElem_zip, List.getElem_range]
  exact ⟨by omega, fun e => absurd ((h.getElem_inj_iff).1 e) (by omega)⟩

theorem mem_zip_range {xs : List Nat} {k : Nat} (h : k < xs.length) : (k, xs[k]) ∈ (List.range xs.length).zip xs := by
  rw [List.mem_iff_getElem]
  exact ⟨k, by simpa using h, by simp⟩

/-- Task `k` of a group stands at `pos` as R19 and R323 say, and owns its tiles. -/
def PlacedAt (t : State) (slot : Nat) (l : Launch) (arg : Cap) (gang grp core off k pos : Nat) : Prop :=
  Fresh (t.ms pos) slot l arg gang grp k 0 ∧ (t.ms pos).lsbase = off ∧ (t.ms pos).stage = l.stage ∧
    ∀ i < l.zacc, Tab.get 0 (t.core core).tiles ((t.ms pos).zbase + i) = pos + 1

theorem placedAt_of_stands {p : Placing} {t : State} {x : Nat × Nat} (h : p.Stands t x) :
    PlacedAt t p.slot p.l p.arg p.gang p.grp p.core p.off x.1 (p.pos x) := by
  obtain ⟨⟨s, hms⟩, htiles⟩ := h
  unfold PlacedAt
  rw [hms]
  refine ⟨newTask_fresh s p.slot p.l p.arg p.gang p.grp x.1 p.l.stage p.off (p.tile x), rfl, rfl, fun i hi => ?_⟩
  have hz : (p.task s x).zbase = p.tile x := if_neg (by omega)
  rw [hz, htiles i hi]

/-- What leaves the task and the tiles of its core leaves it placed. -/
theorem placedAt_of_eq {s t : State} {slot : Nat} {l : Launch} {arg : Cap} {gang grp core off k pos : Nat}
    (hms : t.ms pos = s.ms pos) (htiles : ∀ j, Tab.get 0 (t.core core).tiles j = Tab.get 0 (s.core core).tiles j)
    (h : PlacedAt s slot l arg gang grp core off k pos) : PlacedAt t slot l arg gang grp core off k pos := by
  obtain ⟨hfresh, hoff, hstage, hz⟩ := h
  unfold PlacedAt
  rw [hms]
  exact ⟨hfresh, hoff, hstage, fun i hi => (htiles _).trans (hz i hi)⟩

section PlaceGroup
variable (s : State) (slot : Nat) (l : Launch) (arg : Cap) (gang grp core off : Nat)

/-- How the dispatcher places a group as things stand: on the first free tiles that it finds, and with the next number. -/
def State.groupPlacing : Placing :=
  { slot := slot, l := l, arg := arg, gang := gang, grp := grp, core := core, off := off
    base := (s.freeTiles core (l.tpg * l.zacc)).getD 0, gno := s.nextReq }

/-- The tasks of a group, numbered, with their slots. -/
def State.groupSlots : List (Nat × Nat) := (List.range ((s.freeSlots core).take l.tpg).length).zip ((s.freeSlots core).take l.tpg)

/-- The dispatcher grants a group its LS bytes and then creates its tasks one after another. -/
theorem placeGroup_eq : s.placeGroup slot l arg gang grp core off =
    (s.groupSlots l core).foldl (s.groupPlacing slot l arg gang grp core off).place
      ((s.drew.grantLs core slot gang grp off l.lsb).joinPool slot core) := rfl

/-- Placing a group leaves the tasks of other cores. -/
theorem keepsElsewhere_placeGroup : KeepsElsewhere slot core s (s.placeGroup slot l arg gang grp core off) := by
  have hgrant : KeepsTasks slot s ((s.drew.grantLs core slot gang grp off l.lsb).joinPool slot core) :=
    keepsTasks_trans (keepsTasks_trans (keepsTasks_drew slot s) (keepsTasks_grantLs s.drew core slot gang grp off l.lsb))
      (keepsTasks_joinPool ..)
  have hslots : ∀ x ∈ s.groupSlots l core, x.2 < 16 := fun x hx => by
    have := (mem_freeSlots (List.mem_of_mem_take (List.of_mem_zip hx).2)).1
    omega
  rw [placeGroup_eq]
  exact keepsElsewhere_trans (keepsElsewhere_of_keepsTasks core hgrant)
    (keepsElsewhere_foldl_place (p := s.groupPlacing slot l arg gang grp core off) hslots slot _)

variable {l core} {k : Nat}

/-- A core with room for a group holds each of its tasks in a slot that was empty. -/
theorem placeGroup_placed (hroom : l.tpg ≤ (s.freeSlots core).length) (hk : k < l.tpg) :
    ∃ pos, pos / 16 = core ∧ pos % 16 < 15 ∧ (s.ms pos).kind = .empty ∧
      PlacedAt (s.placeGroup slot l arg gang grp core off) slot l arg gang grp core off k pos := by
  have hlen : k < ((s.freeSlots core).take l.tpg).length := by rw [List.length_take]; omega
  have hmem : (k, ((s.freeSlots core).take l.tpg)[k]) ∈ s.groupSlots l core := mem_zip_range hlen
  obtain ⟨hlt, hempty⟩ := mem_freeSlots (List.mem_of_mem_take (List.getElem_mem hlen))
  have hnodup : ((s.freeSlots core).take l.tpg).Nodup := (nodup_freeSlots s core).sublist (List.take_sublist ..)
  have hstands := stands_foldl_place (p := s.groupPlacing slot l arg gang grp core off) (pairwise_zip_range hnodup)
    ((s.drew.grantLs core slot gang grp off l.lsb).joinPool slot core) hmem
  refine ⟨core * 16 + ((s.freeSlots core).take l.tpg)[k], by omega, by omega, hempty, ?_⟩
  rw [placeGroup_eq]
  exact (placedAt_of_stands hstands :)

end PlaceGroup

/-! ## Placing a gang (R323 to R325) -/

theorem freeSlots_congr {s t : State} {core : Nat} (h : ∀ i, i / 16 = core → t.ms i = s.ms i) : t.freeSlots core = s.freeSlots core := by
  refine List.filter_congr fun i hi => ?_
  rw [h]
  have := List.mem_range.1 hi
  omega

/-- A gang that fits has the slots for every group on its core. -/
theorem freeSlots_of_gangFits {s : State} {l : Launch} {core grp : Nat} {offs : List Nat} (h : s.gangFits l core offs = true)
    (hg : grp < l.gpg) : l.tpg ≤ (s.freeSlots (core + grp)).length := by
  simp only [State.gangFits, Bool.and_eq_true, List.all_eq_true] at h
  have hfits := h.2 grp (List.mem_range.2 hg)
  simp only [State.groupFits, Bool.and_eq_true, decide_eq_true_eq] at hfits
  exact hfits.1.1.1.2

section Gang
variable (slot : Nat) (l : Launch) (arg : Cap) (gang core : Nat) (offs : List Nat)

/-- The first `n` groups of a gang are placed, each on a core of its own. -/
def State.placeGroups (s : State) (n : Nat) : State :=
  (List.range n).foldl (fun s grp => s.placeGroup slot l arg gang grp (core + grp) (offs.getD grp 0)) s

theorem placeGroups_succ (s : State) (n : Nat) : s.placeGroups slot l arg gang core offs (n + 1) =
    (s.placeGroups slot l arg gang core offs n).placeGroup slot l arg gang n (core + n) (offs.getD n 0) := by
  rw [State.placeGroups, List.range_succ, List.foldl_append]
  rfl

theorem placeGroups_ms (s : State) (n : Nat) {i : Nat} (hi : ∀ grp < n, i / 16 ≠ core + grp) :
    (s.placeGroups slot l arg gang core offs n).ms i = s.ms i := by
  induction n with
  | zero => rfl
  | succ n ih =>
    rw [placeGroups_succ]
    obtain ⟨hms, -, -⟩ := keepsElsewhere_placeGroup (s.placeGroups slot l arg gang core offs n) slot l arg gang n (core + n) (offs.getD n 0)
    rw [hms i (hi n (Nat.lt_succ_self n)), ih fun grp hg => hi grp (Nat.lt_succ_of_lt hg)]

theorem isSome_placeGroups {s : State} (h : (s.launch? slot).isSome = true) (n : Nat) :
    ((s.placeGroups slot l arg gang core offs n).launch? slot).isSome = true := by
  induction n with
  | zero => exact h
  | succ n ih =>
    rw [placeGroups_succ]
    obtain ⟨-, -, hl⟩ := keepsElsewhere_placeGroup (s.placeGroups slot l arg gang core offs n) slot l arg gang n (core + n) (offs.getD n 0)
    exact hl ih

/-- Groups with room on their cores are placed whole. -/
theorem placeGroups_placed {s : State} (n : Nat) (hroom : ∀ grp < n, l.tpg ≤ (s.freeSlots (core + grp)).length) :
    ∀ grp < n, ∀ k < l.tpg, ∃ pos, pos / 16 = core + grp ∧ pos % 16 < 15 ∧ (s.ms pos).kind = .empty ∧
      PlacedAt (s.placeGroups slot l arg gang core offs n) slot l arg gang grp (core + grp) (offs.getD grp 0) k pos := by
  induction n with
  | zero => exact fun grp hg => absurd hg (Nat.not_lt_zero grp)
  | succ n ih =>
    intro grp hg k hk
    rw [placeGroups_succ]
    by_cases hn : grp = n
    · subst hn
      have hfree : ∀ i, i / 16 = core + grp → (s.placeGroups slot l arg gang core offs grp).ms i = s.ms i := fun i hi =>
        placeGroups_ms _ _ _ _ _ _ s grp fun g hgrp => by omega
      have hroom' : l.tpg ≤ ((s.placeGroups slot l arg gang core offs grp).freeSlots (core + grp)).length := by
        rw [freeSlots_congr hfree]
        exact hroom grp hg
      obtain ⟨pos, hcore, hslot, hempty, hplaced⟩ :=
        placeGroup_placed (s.placeGroups slot l arg gang core offs grp) slot arg gang grp (offs.getD grp 0) hroom' hk
      rw [hfree pos hcore] at hempty
      exact ⟨pos, hcore, hslot, hempty, hplaced⟩
    · obtain ⟨pos, hcore, hslot, hempty, hplaced⟩ := ih (fun g hgrp => hroom g (by omega)) grp (by omega) k hk
      obtain ⟨hms, htiles, -⟩ :=
        keepsElsewhere_placeGroup (s.placeGroups slot l arg gang core offs n) slot l arg gang n (core + n) (offs.getD n 0)
      exact ⟨pos, hcore, hslot, hempty, placedAt_of_eq (hms pos (by omega)) (htiles _ (by omega)) hplaced⟩

end Gang

/-- A launch whose gang `g` has been placed: its requests go on with the next gang of the same request, or with the rest. -/
def Launch.gangTaken (k : Launch) (g : GangReq) (rest : List GangReq) (cyc : Nat) : Launch :=
  { k with greqs := if g.count ≤ 1 then rest else { g with first := g.first + 1, count := g.count - 1 } :: rest
           stall := cyc, stallRep := none }

section Dispatch
variable (s : State) (slot core : Nat) (offs : List Nat) (l : Launch) (g : GangReq) (rest : List GangReq) (bin lim : Nat)

/-- The next gang's groups stand on their cores. -/
def State.gangPlaced : State :=
  (s.setLaunch slot { l with clu := l.clu <|> some (core / 16) }).placeGroups slot l g.arg g.first core offs l.gpg

/-- The gang is off its launch's list, its level's bin is noted, and masters that waited for it are woken. -/
def State.gangDispatched : State :=
  (((s.gangPlaced slot core offs l g).updLaunch slot fun k => k.gangTaken g rest s.cyc).updPart l.part
    fun p => { p with bins := Tab.put p.bins l.prio (bin, lim) }).wakeAll
      fun k m => (m.park = .gang && m.lslot = slot) || (m.park = .resume && s.partOf k = l.part)

variable {s slot core offs l g rest bin lim}

/-- GANG_DISPATCH places the gang whose turn it is where it fits. -/
theorem exec_gangDispatch (hl : s.launch? slot = some l) (hturn : s.nextInLevel l.part l.prio = some (slot, bin, lim))
    (hg : l.greqs = g :: rest) (hhigh : s.higherPlaceable l = false) (hfits : s.gangFits l core offs = true) :
    exec (.gangDispatch slot core offs) s = .next (s.gangDispatched slot core offs l g rest bin lim) := by
  rw [show exec (.gangDispatch slot core offs) s = execGangDispatch slot core offs s from rfl, execGangDispatch, hl]
  dsimp only
  rw [hturn, hg]
  dsimp only
  rw [if_neg (by simp [hhigh, hfits]), ← hg]
  rfl

/-- The launch goes on with its next gang, or without one. -/
theorem gangDispatched_launch : ∃ k, (s.gangDispatched slot core offs l g rest bin lim).launch? slot = some k ∧
    k.greqs = if g.count ≤ 1 then rest else { g with first := g.first + 1, count := g.count - 1 } :: rest := by
  have hsome : ((s.setLaunch slot { l with clu := l.clu <|> some (core / 16) }).launch? slot).isSome = true := by
    rw [setLaunch_launch?, if_pos rfl]
    rfl
  have hplaced : ((s.gangPlaced slot core offs l g).launch? slot).isSome = true :=
    isSome_placeGroups slot l g.arg g.first core offs hsome l.gpg
  obtain ⟨k, hk⟩ := Option.isSome_iff_exists.1 hplaced
  refine ⟨k.gangTaken g rest s.cyc, ?_, rfl⟩
  rw [State.gangDispatched, wakeAll_launch?, State.updPart, setPart_launch?, updLaunch_of_some hk, setLaunch_launch?, if_pos rfl]

/-- Every task of the gang stands in a slot that was empty. -/
theorem gangDispatched_placed (hfits : s.gangFits l core offs = true) {grp k : Nat} (hgrp : grp < l.gpg) (hk : k < l.tpg) :
    ∃ pos, pos / 16 = core + grp ∧ pos % 16 < 15 ∧ (s.ms pos).kind = .empty ∧
      PlacedAt (s.gangDispatched slot core offs l g rest bin lim) slot l g.arg g.first grp (core + grp) (offs.getD grp 0) k pos := by
  have hroom : ∀ i < l.gpg,
      l.tpg ≤ ((s.setLaunch slot { l with clu := l.clu <|> some (core / 16) }).freeSlots (core + i)).length := fun _ hi =>
    (freeSlots_of_gangFits hfits hi :)
  obtain ⟨pos, hcore, hslot, hempty, hplaced⟩ := placeGroups_placed slot l g.arg g.first core offs l.gpg hroom grp hgrp k hk
  refine ⟨pos, hcore, hslot, hempty, placedAt_of_eq (s := s.gangPlaced slot core offs l g) ?_ (fun j => ?_) hplaced⟩
  · have hready : ((s.gangPlaced slot core offs l g).ms pos).st = .ready := by
      obtain ⟨⟨-, hst, -⟩, -⟩ := hplaced
      exact hst
    have hms := updLaunch_ms (s.gangPlaced slot core offs l g) slot (fun k => k.gangTaken g rest s.cyc) pos
    rw [State.gangDispatched, wakeAll_ms_of_not_parked, State.updPart, setPart_ms, hms]
    rw [State.updPart, setPart_ms, hms, hready]
    decide
  · rw [State.gangDispatched, wakeAll_core, State.updPart, setPart_core, updLaunch_core]

end Dispatch

/-! ## Taking a ring's item (R291, R328) -/

theorem noteRing_eq (s : State) (pos k : Nat) (put : Bool) : ∃ r, s.noteRing pos k put = { s with rings := r } := by
  unfold State.noteRing
  dsimp only
  split
  · exact ⟨s.rings, rfl⟩
  · exact ⟨_, rfl⟩

/-- What a get does to the ring itself: a bank's count falls by 1, or the header's read index rises by 1. -/
def State.taken (s : State) (k : Nat) : State :=
  if isClu k then
    let b := s.bank (bankOfKey k)
    s.setBank (bankOfKey k) { b with fill := b.fill - 1, free := (b.free + 1) % 2 ^ 32, rpos := (b.rpos + 1) % 65536 }
  else s.unitWrite k (leBytes 4 ((s.rhead k).gets + 1))

theorem qGet_eq (s : State) (pos k : Nat) : s.qGet pos k = ((s.taken k).wakeRing k true).noteRing pos k false := rfl

theorem taken_ms {s : State} (k : Nat) {i : Nat} (h : (s.ms i).st = .ready) : (s.taken k).ms i = s.ms i := by
  unfold State.taken
  split
  · rfl
  · have hrun : (s.ms i).st ≠ .parked := by rw [h]; decide
    exact wakeAll_ms_of_not_parked (s := { s with mem := setCells s.mem (dataCells k (leBytes 4 ((s.rhead k).gets + 1))) }) _ hrun
theorem taken_core (s : State) (k i : Nat) : (s.taken k).core i = s.core i := by
  unfold State.taken
  split <;> rfl
theorem taken_fill {s : State} {k : Nat} (h : isClu k = true) : ((s.taken k).bank (bankOfKey k)).fill = (s.bank (bankOfKey k)).fill - 1 := by
  rw [State.taken, if_pos h]
  exact congrArg Bank.fill (bank_setBank_same ..)

/-- A get leaves a READY master, but that it may count as woken now. -/
theorem qGet_ms {s : State} (pos k : Nat) {i : Nat} (h : (s.ms i).st = .ready) :
    (s.qGet pos k).ms i = s.ms i ∨ ∃ cyc, (s.qGet pos k).ms i = (s.ms i).unpark cyc := by
  obtain ⟨r, hr⟩ := noteRing_eq ((s.taken k).wakeRing k true) pos k false
  rw [qGet_eq, hr, ← taken_ms k h]
  exact (wakeOne_ms (s.taken k) _ i).imp id fun e => ⟨_, e⟩
theorem qGet_core (s : State) (pos k i : Nat) : (s.qGet pos k).core i = s.core i := by
  obtain ⟨r, hr⟩ := noteRing_eq ((s.taken k).wakeRing k true) pos k false
  rw [qGet_eq, hr, ← taken_core s k i]
  exact wakeOne_core (s.taken k) _ i
theorem qGet_fill {s : State} (pos : Nat) {k : Nat} (h : isClu k = true) :
    ((s.qGet pos k).bank (bankOfKey k)).fill = (s.bank (bankOfKey k)).fill - 1 := by
  obtain ⟨r, hr⟩ := noteRing_eq ((s.taken k).wakeRing k true) pos k false
  rw [qGet_eq, hr, ← taken_fill h]
  exact congrArg Bank.fill (wakeOne_bank (s.taken k) _ (bankOfKey k))

/-! ## A stage core's task (R328) -/

/-- Fewer than 15 numbers leave one of the 15 task numbers free. -/
theorem exists_find?_free {ids : List Nat} (h : ids.length < 15) : ∃ t, ((List.range 15).find? fun t => !ids.contains t) = some t := by
  rw [← Option.isSome_iff_exists, List.find?_isSome]
  by_contra hall
  have hsub : List.range 15 ⊆ ids := fun t ht => by
    by_contra hnot
    exact hall ⟨t, ht, by simpa using hnot⟩
  have := (List.subperm_of_subset List.nodup_range hsub).length_le
  rw [List.length_range] at this
  omega

/-- A task of launch `cur` created for an item of its stage's ring `k`, which it takes. -/
def State.makeStageTask (s : State) (l : Launch) (core sn pos z k : Nat) (item : W64) (off task gno : Nat) : State :=
  ((s.grantTiles core pos z l.zacc).setM pos
    { (s.newTask s.cur l l.arg 0xFFFFFFFF 0 task sn off z).ws 2 item with gno := gno }).qGet pos k

section StageTask
variable (s : State) (l : Launch) (core sn pos z k : Nat) (item : W64) (off task gno : Nat)

theorem makeStageTask_ms : ∃ m : Master, m = { (s.newTask s.cur l l.arg 0xFFFFFFFF 0 task sn off z).ws 2 item with gno := gno } ∧
    ((s.makeStageTask l core sn pos z k item off task gno).ms pos = m ∨
      ∃ cyc, (s.makeStageTask l core sn pos z k item off task gno).ms pos = m.unpark cyc) := by
  refine ⟨_, rfl, ?_⟩
  have hms := ms_setM_same (s.grantTiles core pos z l.zacc) pos
    { (s.newTask s.cur l l.arg 0xFFFFFFFF 0 task sn off z).ws 2 item with gno := gno }
  have hget := qGet_ms (s := (s.grantTiles core pos z l.zacc).setM pos
    { (s.newTask s.cur l l.arg 0xFFFFFFFF 0 task sn off z).ws 2 item with gno := gno }) pos k (i := pos) (by rw [hms]; rfl)
  rw [hms] at hget
  exact hget

/-- The stage task stands as R19 and R323 say with its item in s2, at its stage. -/
theorem makeStageTask_fresh : let m := (s.makeStageTask l core sn pos z k item off task gno).ms pos
    Fresh m s.cur l l.arg 0xFFFFFFFF 0 task item ∧ m.stage = sn ∧ (l.zacc ≠ 0 → m.zbase = z) := by
  obtain ⟨m, rfl, h⟩ := makeStageTask_ms s l core sn pos z k item off task gno
  have hfresh := newTask_item_fresh s s.cur l l.arg 0xFFFFFFFF 0 task sn off z item
  rcases h with h | ⟨cyc, h⟩ <;> rw [h]
  · exact ⟨hfresh, rfl, fun hz => if_neg hz⟩
  · exact ⟨fresh_unpark hfresh cyc, rfl, fun hz => if_neg hz⟩

/-- It owns its tiles. -/
theorem makeStageTask_tiles {i : Nat} (hi : i < l.zacc) :
    Tab.get 0 ((s.makeStageTask l core sn pos z k item off task gno).core core).tiles (z + i) = pos + 1 := by
  rw [State.makeStageTask, qGet_core, setM_core, grantTiles_tiles, if_pos ⟨rfl, by omega, by omega⟩]

/-- It has taken one item of a FIFO bank. -/
theorem makeStageTask_fill {k : Nat} (hk : isClu k = true) :
    ((s.makeStageTask l core sn pos z k item off task gno).bank (bankOfKey k)).fill = (s.bank (bankOfKey k)).fill - 1 :=
  qGet_fill pos hk

end StageTask

/-- The groups of launch `cur` on a core that take another task, each with the number that it gets. -/
def State.openGroups (s : State) (core : Nat) : List (Alloc × Nat) :=
  (((s.core core).allocs.filter fun a => a.lslot = s.cur).filter fun a => (s.taskIds s.cur core a).length < 15).filterMap fun a =>
    ((List.range 15).find? fun t => !(s.taskIds s.cur core a).contains t).map fun t => (a, t)

/-- With a group of fewer than 15 tasks there is one to choose. -/
theorem exists_openGroup {s : State} {core : Nat} {a : Alloc} (ha : a ∈ (s.core core).allocs.filter fun a => a.lslot = s.cur)
    (h : (s.taskIds s.cur core a).length < 15) (n : Nat) : ∃ g t, (s.openGroups core)[n % (s.openGroups core).length]? = some (g, t) := by
  obtain ⟨t, ht⟩ := exists_find?_free h
  have hmem : (a, t) ∈ s.openGroups core :=
    List.mem_filterMap.2 ⟨a, List.mem_filter.2 ⟨ha, decide_eq_true h⟩, by rw [ht]; rfl⟩
  have hlt : n % (s.openGroups core).length < (s.openGroups core).length := Nat.mod_lt _ (List.length_pos_of_mem hmem)
  exact ⟨_, _, List.getElem?_eq_getElem hlt⟩

/-- STAGE_ITEM_TAKE of a stage core with a free slot and free tiles, whose stage's ring holds an item, creates a task for it: in a
group with fewer than 15 tasks, or, with no group of the launch on the core and LS bytes free, in a new one. -/
theorem exec_stageItemTake {s : State} {l : Launch} {st : Stage} {sn slot z : Nat} (hl : s.launch? s.cur = some l)
    (hstage : (s.core s.arg).stage.find? (fun x => x.1 = s.cur) = some (s.cur, sn)) (hst : l.stages[sn]? = some st)
    (hslot : (s.freeSlots s.arg).head? = some slot) (hz : s.freeTiles s.arg l.zacc = some z) (hkind : st.kind ≠ 0)
    (hlive : l.st = .running ∨ l.st = .doomed) (hreach : l.reaches st s.arg = true) (hprom : s.promised l.part s.arg l.prio = false)
    (hhold : s.power.hold = false) (hring : s.stageRing (stageKey l st) = true) (hcount : s.qCount (stageKey l st) ≠ 0)
    (hgroup : (∃ a ∈ (s.core s.arg).allocs.filter fun a => a.lslot = s.cur, (s.taskIds s.cur s.arg a).length < 15) ∨
      ((s.core s.arg).allocs.filter fun a => a.lslot = s.cur) = [] ∧ s.compatFits l s.arg = true ∧
        (s.drew.anyOff s.arg l.lsb l.compat).isSome = true) :
    ∃ (s' : State) (off task gno : Nat), s'.cur = s.cur ∧ (∀ b, s'.bank b = s.bank b) ∧
      exec .stageItemTake s = .next (s'.makeStageTask l s.arg sn (s.arg * 16 + slot) z
      (stageKey l st) (s.qItem (stageKey l st)) off task gno) := by
  have hguard : ¬ (decide (st.kind = 0) || !(decide (l.st = .running) || decide (l.st = .doomed)) || !s.stageRing (stageKey l st) ||
      decide (s.qCount (stageKey l st) = 0) || !l.reaches st s.arg || s.promised l.part s.arg l.prio || s.power.hold) = true := by
    have hlive' : (decide (l.st = .running) || decide (l.st = .doomed)) = true := by simpa using hlive
    simp [hkind, hlive', hring, hcount, hreach, hprom, hhold]
  rw [show exec .stageItemTake s = execStageItemTake s from rfl, execStageItemTake, hl]
  dsimp only
  rw [hstage]
  dsimp only
  rw [hst, hslot, hz]
  dsimp only
  rw [if_neg hguard]
  rcases hgroup with ⟨a, ha, hids⟩ | ⟨hnone, hcompat, hoff⟩
  · obtain ⟨g, t, hopen⟩ := exists_openGroup ha hids (Config.freeNat (s.free + 1))
    have hsome : ¬ ((s.core s.arg).allocs.filter fun a => a.lslot = s.cur).isEmpty = true := fun e =>
      List.not_mem_nil (List.isEmpty_iff.1 e ▸ ha)
    refine ⟨s.drew.drew, g.base, t, g.gno, rfl, fun _ => rfl, ?_⟩
    unfold State.openGroups at hopen
    rw [if_neg hsome, hopen]
    rfl
  · obtain ⟨off, hoff⟩ := Option.isSome_iff_exists.1 hoff
    obtain ⟨mem, as, hg⟩ := grantLs_eq s.drew.drew s.arg s.cur 0xFFFFFFFF 0 off l.lsb
    refine ⟨s.drew.drew.grantLs s.arg s.cur 0xFFFFFFFF 0 off l.lsb, off, 0, s.nextReq, ?_, ?_, ?_⟩
    · rw [hg]; rfl
    · rw [hg]; exact fun _ => rfl
    · rw [hnone]
      simp only [List.isEmpty_nil, if_true, hcompat, hoff, Bool.not_true, Bool.false_eq_true, if_false]
      rfl

/-- Settles O35: a gang's groups are placed one after another, each leaving the cores of the others, and a stage core's task is
created with the item that it takes. -/
theorem placementOfTasks : Obligations.PlacementOfTasks := by
  unfold Obligations.PlacementOfTasks
  refine ⟨?gang, ?item⟩
  case gang =>
    intro s slot core offs l g rest bin lim hl hturn hg hhigh hfits _
    obtain ⟨l', hl', hgreqs⟩ := gangDispatched_launch (s := s) (slot := slot) (core := core) (offs := offs) (l := l) (g := g) (rest := rest)
      (bin := bin) (lim := lim)
    refine ⟨_, l', exec_gangDispatch hl hturn hg hhigh hfits, hl', hgreqs, fun grp hgrp k hk => ?_⟩
    obtain ⟨pos, hcore, hslot, hempty, hplaced⟩ := gangDispatched_placed hfits hgrp hk
    exact ⟨pos, hcore, hslot, hempty, hplaced⟩
  case item =>
    intro s l st sn slot z hl hstage hst hslot hz hkind hlive hreach hprom hhold key mine hring hcount hgroup
    obtain ⟨s', off, task, gno, hcur, hbank, hexec⟩ :=
      exec_stageItemTake hl hstage hst hslot hz hkind hlive hreach hprom hhold hring hcount hgroup
    obtain ⟨hfresh, hsn, hzbase⟩ := makeStageTask_fresh s' l s.arg sn (s.arg * 16 + slot) z key (s.qItem key) off task gno
    rw [hcur] at hfresh
    refine ⟨_, task, hexec, hsn, hzbase, fun i hi => makeStageTask_tiles _ _ _ _ _ _ _ _ _ _ _ hi, hfresh, fun hlo hhi => ?_⟩
    have hclu : isClu key = true := by
      rw [isClu, decide_eq_true hlo, decide_eq_true hhi]
      rfl
    rw [makeStageTask_fill _ _ _ _ _ _ _ _ _ _ hclu, hbank]

end Sys2Proof.Machine
end

section
/-! SUPPORT. The encodings (spec/03): the fields of a word are read back from it, the map of R74 gives each (OP, F) pair its entry,
and a shape's words, made by the encoder and read by an entry of that shape, give the instruction back. -/

namespace Sys2Proof

/-! ## Fields of words (R60, R64, R67, R69) -/

/-- A bit above the low part of a concatenation is one of the high part. -/
theorem getLsbD_append_of_le {v w i : Nat} {x : BitVec v} {y : BitVec w} (h : w ≤ i) : (x ++ y).getLsbD i = x.getLsbD (i - w) := by
  rw [BitVec.getLsbD_append, if_neg (Nat.not_lt.2 h)]

/-- The lowest bit of a concatenation that ends in a flag is the flag. -/
theorem getLsbD_append_bit1 {v : Nat} {x : BitVec v} {p : Bool} : (x ++ bit1 p).getLsbD 0 = p := by
  rw [BitVec.getLsbD_append]
  cases p <;> rfl

@[simp] theorem FW.ofWord_toWord (x : FW) : FW.ofWord x.toWord = x := by
  obtain ⟨f, c, b, a, op, nr, p, len⟩ := x
  simp only [FW.ofWord, FW.toWord, FW.mk.injEq]
  refine ⟨?f, ?c, ?b, ?a, ?op, ?nr, ?p, ?len⟩
  case p => exact (getLsbD_append_of_le (by decide)).trans getLsbD_append_bit1
  all_goals repeat refine (BitVec.extractLsb'_append_eq_of_le (by decide)).trans ?_
  case f => exact BitVec.extractLsb'_eq_self
  all_goals exact BitVec.extractLsb'_append_eq_right

@[simp] theorem XW.ofWords_words (x : XW) : XW.ofWords x.word2 x.word3 = x := by
  obtain ⟨tgt, et, ord, scope, rm, ov, d2, msk, rsv, imm⟩ := x
  simp only [XW.ofWords, XW.word2, XW.word3, XW.mk.injEq]
  refine ⟨?tgt, ?et, ?ord, ?scope, ?rm, ?ov, ?d2, ?msk, ?rsv, ?imm⟩
  case ov => exact getLsbD_append_bit1
  all_goals repeat refine (BitVec.extractLsb'_append_eq_of_le (by decide)).trans ?_
  case tgt | d2 => exact BitVec.extractLsb'_eq_self
  all_goals exact BitVec.extractLsb'_append_eq_right

/-- Words TP0 to TP3 of a tensor block. -/
def TP.word0 (t : TP) : W32 := t.acap ++ t.bcap ++ 0#3 ++ bit1 t.sas ++ t.sa
def TP.word1 (t : TP) : W32 := 0#11 ++ bit1 t.sbs ++ t.sb
def TP.word2 (t : TP) : W32 := 0#4 ++ bit1 t.ms ++ t.m ++ bit1 t.ns ++ t.n ++ bit1 t.ks ++ t.k ++ bit1 t.ta ++ bit1 t.tb
def TP.word3 (t : TP) : W32 := 0#18 ++ t.mcm ++ t.mc ++ 0#3 ++ bit1 t.qe ++ t.q

theorem TP.toWords_eq (t : TP) : t.toWords = [t.word0, t.word1, t.word2, t.word3] := rfl

@[simp] theorem TP.ofWords_words (t : TP) : TP.ofWords t.word0 t.word1 t.word2 t.word3 = t := by
  obtain ⟨acap, bcap, sas, sa, sbs, sb, ms, m, ns, n, ks, k, ta, tb, mcm, mc, qe, q⟩ := t
  simp only [TP.ofWords, TP.word0, TP.word1, TP.word2, TP.word3, TP.mk.injEq]
  refine ⟨?acap, ?bcap, ?sas, ?sa, ?sbs, ?sb, ?ms, ?m, ?ns, ?n, ?ks, ?k, ?ta, ?tb, ?mcm, ?mc, ?qe, ?q⟩
  case sas | sbs | ms | ns | ks | ta | tb | qe =>
    repeat refine (getLsbD_append_of_le (by decide)).trans ?_
    exact getLsbD_append_bit1
  all_goals repeat refine (BitVec.extractLsb'_append_eq_of_le (by decide)).trans ?_
  case acap => exact BitVec.extractLsb'_eq_self
  all_goals exact BitVec.extractLsb'_append_eq_right

@[simp] theorem TP.rsvOk_words (t : TP) : TP.rsvOk t.word0 t.word1 t.word2 t.word3 = true := by
  simp only [TP.rsvOk, Bool.and_eq_true, beq_iff_eq]
  refine ⟨⟨⟨⟨?r0, ?r1⟩, ?r2⟩, ?r3⟩, ?r4⟩
  all_goals repeat refine (BitVec.extractLsb'_append_eq_of_le (by decide)).trans ?_
  case r0 | r4 => exact BitVec.extractLsb'_append_eq_right
  all_goals exact BitVec.extractLsb'_eq_self

/-! ## Operand fields (R61) -/

@[simp] theorem okS_eq (x : BitVec 6) : okS x = true := rfl
@[simp] theorem ok0_zero : ok0 0#6 = true := rfl
@[simp] theorem okV_of5 (x : VReg) : okV (of5 x) = true := by simp [okV, of5]; omega
@[simp] theorem okM_of3 (x : MReg) : okM (of3 x) = true := by simp [okM, of3]; omega
@[simp] theorem okC_of4 (x : CReg) : okC (of4 x) = true := by simp [okC, of4]; omega
@[simp] theorem okQ_of2 (x : QReg) : okQ (of2 x) = true := by simp [okQ, of2]; omega
@[simp] theorem toV_of5 (x : VReg) : toV (of5 x) = x := by simp [toV, of5]
@[simp] theorem toM_of3 (x : MReg) : toM (of3 x) = x := by simp [toM, of3]
@[simp] theorem toC_of4 (x : CReg) : toC (of4 x) = x := by simp [toC, of4]
@[simp] theorem toQ_of2 (x : QReg) : toQ (of2 x) = x := by simp [toQ, of2]
@[simp] theorem okV_zero : okV 0#6 = true := rfl
@[simp] theorem okC_zero : okC 0#6 = true := rfl

/-- A capability and a scale share field B (R62). -/
@[simp] theorem fieldB_cap (scale : BitVec 2) (c : CReg) : (scale ++ c : BitVec 6).extractLsb' 0 4 = c :=
  BitVec.extractLsb'_append_eq_right
@[simp] theorem fieldB_scale (scale : BitVec 2) (c : CReg) : (scale ++ c : BitVec 6).extractLsb' 4 2 = scale :=
  BitVec.extractLsb'_append_eq_left

/-! ## The map and the decoder (R74, R79) -/

/-- A first word of a pair of the map, its operand fields 0. -/
def FW.ofPair (op f : Nat) : FW :=
  { f := BitVec.ofNat 2 f, c := 0, b := 0, a := 0, op := BitVec.ofNat 7 op, nr := 0, p := false, len := 0 }

/-- A word's entry depends on its pair alone. -/
theorem entryOf_congr {w v : FW} (hop : w.op = v.op) (hf : w.f = v.f) : entryOf w = entryOf v := by
  unfold entryOf
  rw [hop, hf]

/-- The words of an instruction that its entry makes decode to it, whatever follows. -/
theorem decode_eq_ok {w : FW} {e : Entry} {ws rest : List W32} {i : Instr} (he : entryOf w = some e) (hpre : e.pre w = true)
    (hlen : ws.length = 2 * w.len.toNat) (hmake : e.make w ws = .ok i) : decode (w.toWord :: ws ++ rest) = .ok i rest := by
  simp [decode, he, hpre, ← hlen, hmake]

/-- The words that its entry refuses are illegal at the entry's step. -/
theorem decode_eq_illegal {w : FW} {e : Entry} {ws rest : List W32} {k : Nat} (he : entryOf w = some e) (hpre : e.pre w = true)
    (hlen : ws.length = 2 * w.len.toNat) (hmake : e.make w ws = .error k) : decode (w.toWord :: ws ++ rest) = .illegal k := by
  simp [decode, he, hpre, ← hlen, hmake]

/-! ## Kind M (R64, R66) -/

/-- The first word that the encoder makes of a kind M instruction. -/
@[simps] def FW.ofHd (op f : Nat) (h : Hd) (a b c : BitVec 6) : FW :=
  { f := BitVec.ofNat 2 f, c := c, b := b, a := a, op := BitVec.ofNat 7 op, nr := h.nr, p := h.p, len := if h.ext then 1 else 0 }

/-- The fields of words 2 and 3, with the head's try target. -/
@[simps] def XW.at (x : XW) (h : Hd) : XW := { x with tgt := h.tgt }

theorem encM_eq (op f : Nat) (h : Hd) (a b c : BitVec 6) (x : XW) : encM op f h a b c x =
    (FW.ofHd op f h a b c).toWord :: if h.ext then [(x.at h).word2, (x.at h).word3] else [] := rfl

/-- The head is read back. -/
@[simp] theorem hdOf_ofHd (op f : Nat) (h : Hd) (a b c : BitVec 6) (x : XW) : hdOf (FW.ofHd op f h a b c) (x.at h) = h := by
  obtain ⟨p, nr, ext, tgt⟩ := h
  cases ext <;> rfl

/-- So is the memory operand. -/
@[simp] theorem memOf_ofHd (op f : Nat) (h : Hd) (a : BitVec 6) (m : MemOp) {x : XW} (hx : x.imm = m.disp) :
    memOf (FW.ofHd op f h a (m.scale ++ m.cap) m.idx) (x.at h) = m := by
  simp [memOf, hx]

/-- A base word holds no try target. -/
theorem Hd.tgt_of_base {h : Hd} (hh : h.ok = true) (hext : h.ext = false) : h.tgt = 0 := by
  simp only [Hd.ok, hext, Bool.or_false, Bool.and_eq_true, Bool.or_eq_true, bne_iff_ne, beq_iff_eq] at hh
  exact hh.2.resolve_left hh.1

/-- Words 2 and 3 pass step 4 under a well-formed head as they do where a try target is permitted. -/
theorem Ext.ok_of_head {E : Ext} {h : Hd} {x : XW} (hh : h.ok = true) (hx : E.ok 2 (x.at h) = true) : E.ok h.nr (x.at h) = true := by
  simp_all [Ext.ok, Hd.ok]

/-- A base word has the default fields, if the entry permits the default element type. -/
theorem withX_base (E : Ext) (K : FW → XW → Except Nat Instr) {w : FW} (hlen : w.len = 0) (ws : List W32) :
    withX E K w ws = if E.ets.contains 0 then K w XW.zero else .error 2 := by
  unfold withX
  rw [hlen]
  rfl

/-- A long form has its fields in words 2 and 3. -/
theorem withX_long (E : Ext) (K : FW → XW → Except Nat Instr) {w : FW} (hlen : w.len = 1) (x : XW) :
    withX E K w [x.word2, x.word3] = if E.ok w.nr x then K w x else .error 4 := by
  unfold withX
  rw [hlen]
  show (if E.ok w.nr (XW.ofWords x.word2 x.word3) then K w (XW.ofWords x.word2 x.word3) else .error 4) = _
  rw [XW.ofWords_words]

/-- An entry of kind M makes the instruction of the words that the encoder gives it, if they pass the checks of steps 2 and 4 and a
base word needs no more fields. -/
theorem decode_encM {op f : Nat} {e : Entry} {E : Ext} {K : FW → XW → Except Nat Instr} (he : entryOf (FW.ofPair op f) = some e)
    (hmake : e.make = withX E K) {h : Hd} {a b c : BitVec 6} {x : XW} {i : Instr} (hh : h.ok = true)
    (hpre : e.pre (FW.ofHd op f h a b c) = true) (hbase : h.ext = false → x = XW.zero) (hx : E.ok 2 (x.at h) = true)
    (hK : K (FW.ofHd op f h a b c) (x.at h) = .ok i) (rest : List W32) : decode (encM op f h a b c x ++ rest) = .ok i rest := by
  have hw : entryOf (FW.ofHd op f h a b c) = some e := (entryOf_congr rfl rfl).trans he
  rw [encM_eq]
  cases hext : h.ext with
  | false =>
    have hzero : x.at h = XW.zero := by rw [hbase hext, XW.at, Hd.tgt_of_base hh hext]; rfl
    rw [hzero] at hx hK
    have hets : E.ets.contains 0 = true := by
      simp only [Ext.ok, Bool.and_eq_true] at hx
      simp_all [XW.zero]
    have hmade : e.make (FW.ofHd op f h a b c) [] = .ok i := by
      rw [hmake, withX_base E K (by simp [hext]), if_pos hets, hK]
    exact decode_eq_ok hw hpre (by simp [hext]) hmade
  | true =>
    have hmade : e.make (FW.ofHd op f h a b c) [(x.at h).word2, (x.at h).word3] = .ok i := by
      rw [hmake, withX_long E K (by simp [hext]), FW.ofHd_nr, if_pos (Ext.ok_of_head hh hx), hK]
    exact decode_eq_ok hw hpre (by simp [hext]) hmade

/-- Both lengths of a kind M instruction. -/
@[simp] theorem bothLens_contains (ext : Bool) : [0, 1].contains (if ext then 1 else 0) = true := by cases ext <;> rfl

/-- The checks of step 2 on a kind M first word that the encoder makes. -/
theorem preM_ofHd {lens nrs : List Nat} {A B C : BitVec 6 → Bool} {op f : Nat} {h : Hd} {a b c : BitVec 6} (hh : h.ok = true)
    (hlen : lens.contains (if h.ext then 1 else 0) = true) (hnr : nrs.contains h.nr.toNat = true)
    (hA : A a = true) (hB : B b = true) (hC : C c = true) : preM lens nrs A B C (FW.ofHd op f h a b c) = true := by
  have hlen' : lens.contains (FW.ofHd op f h a b c).len.toNat = true := by
    rw [FW.ofHd_len]
    cases hext : h.ext <;> simpa [hext] using hlen
  have htry : h.nr = 2 → h.ext = true := fun hn => by simpa [Hd.ok, hn] using hh
  have htry' : (h.nr != 2 || (FW.ofHd op f h a b c).len != 0) = true := by
    cases hext : h.ext <;> simp_all
  simp only [preM, FW.ofHd_nr, FW.ofHd_a, FW.ofHd_b, FW.ofHd_c, hlen', hnr, htry', hA, hB, hC, Bool.and_self]

/-- Every not-ready mode is one of the four. -/
@[simp] theorem anyNr_contains (nr : BitVec 2) : anyNr.contains nr.toNat = true := by
  revert nr
  decide

end Sys2Proof
end

section
/-! SUPPORT. Kind M instructions (R64 to R66): each shape's words, read by an entry of that shape, give a well-formed instruction back. -/

namespace Sys2Proof

variable {op f : Nat}

/-! ## What well-formedness says of the fields that only the long form holds -/

theorem etOk_iff {ets : List Nat} {ext : Bool} {et : BitVec 4} :
    etOk ets ext et = true ↔ ets.contains et.toNat = true ∧ (ext = false → et = 0) := by
  cases ext <;> simp [etOk]

theorem longOnly_iff {ext zero : Bool} : longOnly ext zero = true ↔ (ext = false → zero = true) := by
  cases ext <;> simp [longOnly]

theorem MemOp.ok_iff {ext : Bool} {m : MemOp} : m.ok ext = true ↔ (ext = false → m.disp = 0) := by
  cases ext <;> simp [MemOp.ok]

theorem ordOk_iff {ords : List Nat} {ext : Bool} {ord : BitVec 2} {scope : BitVec 3} : ordOk ords ext ord scope = true ↔
    (ext = false → ord = 0 ∧ scope = 0) ∧ ords.contains ord.toNat = true ∧ scope.toNat < 6 ∧ (ord = 0 → scope = 0) := by
  by_cases h : ord = 0#2 <;> cases ext <;> simp [ordOk, h, and_assoc]

/-! ## Instructions with an outcome table -/

/-- In either form. -/
theorem decode_entM {A B C : BitVec 6 → Bool} {E : Ext} {K : FW → XW → Except Nat Instr} {sup eng hnd : Bool}
    (he : entryOf (FW.ofPair op f) = some (entM [0, 1] anyNr A B C E K sup eng hnd)) {h : Hd} {a b c : BitVec 6} {x : XW} {i : Instr}
    (hh : h.ok = true) (hA : A a = true) (hB : B b = true) (hC : C c = true) (hbase : h.ext = false → x = XW.zero)
    (hx : E.ok 2 (x.at h) = true) (hK : K (FW.ofHd op f h a b c) (x.at h) = .ok i) (rest : List W32) :
    decode (encM op f h a b c x ++ rest) = .ok i rest :=
  decode_encM he rfl hh (preM_ofHd hh (bothLens_contains _) (anyNr_contains _) hA hB hC) hbase hx hK rest

/-- In the long form alone. -/
theorem decode_entM_long {A B C : BitVec 6 → Bool} {E : Ext} {K : FW → XW → Except Nat Instr} {sup eng hnd : Bool}
    (he : entryOf (FW.ofPair op f) = some (entM [1] anyNr A B C E K sup eng hnd)) {h : Hd} {a b c : BitVec 6} {x : XW} {i : Instr}
    (hh : h.ok = true) (hext : h.ext = true) (hA : A a = true) (hB : B b = true) (hC : C c = true)
    (hx : E.ok 2 (x.at h) = true) (hK : K (FW.ofHd op f h a b c) (x.at h) = .ok i) (rest : List W32) :
    decode (encM op f h a b c x ++ rest) = .ok i rest :=
  decode_encM he rfl hh (preM_ofHd hh (by rw [hext]; rfl) (anyNr_contains _) hA hB hC) (fun hb => absurd hext (by simp [hb])) hx hK rest

/-- With a memory operand. -/
theorem decode_entM_mem {A : BitVec 6 → Bool} {E : Ext} {K : FW → XW → Except Nat Instr} {sup eng hnd : Bool}
    (he : entryOf (FW.ofPair op f) = some (entM [0, 1] anyNr A okS okS E K sup eng hnd)) {h : Hd} {a : BitVec 6} {m : MemOp} {x : XW}
    {i : Instr} (hh : h.ok = true) (hm : m.ok h.ext = true) (hA : A a = true) (hbase : h.ext = false → x = XW.zero)
    (hx : E.ok 2 (({ x with imm := m.disp } : XW).at h) = true)
    (hK : K (FW.ofHd op f h a (m.scale ++ m.cap) m.idx) (({ x with imm := m.disp } : XW).at h) = .ok i) (rest : List W32) :
    decode (encMem op f h a m x ++ rest) = .ok i rest := by
  refine decode_entM he hh hA rfl rfl (fun hb => ?_) hx hK rest
  rw [hbase hb, MemOp.ok_iff.1 hm hb]
  rfl

/-! ## Vector shapes -/

theorem decode_encV3 {ets : List Nat} {rm : Bool} {k : V3 → Instr} (he : entryOf (FW.ofPair op f) = some (entV3 ets rm k))
    {x : V3} (hx : x.ok ets rm = true) (rest : List W32) : decode (encV3 op f x ++ rest) = .ok (k x) rest := by
  simp only [V3.ok, etOk_iff, longOnly_iff, Bool.and_eq_true, Bool.or_eq_true, beq_iff_eq] at hx
  obtain ⟨⟨⟨hh, hets, het⟩, hrm⟩, hlong⟩ := hx
  refine decode_entM he hh (okV_of5 _) (okV_of5 _) (okV_of5 _) (fun hb => ?base) ?fields ?made rest
  case base => simp [XW.zero, het hb, hlong hb]
  case fields => simp_all [Ext.ok, XW.zero]
  case made => simp [XW.zero]

theorem decode_encV2 {ets : List Nat} {rm : Bool} {k : V2 → Instr} {more : XW → Bool}
    (he : entryOf (FW.ofPair op f) = some (entV2 ets rm k more))
    {x : V2} (hx : x.ok ets rm = true) (hmore : ∀ y : XW, y.rm = x.rm → y.et = x.et → more y = true) (rest : List W32) :
    decode (encV2 op f x ++ rest) = .ok (k x) rest := by
  simp only [V2.ok, etOk_iff, longOnly_iff, Bool.and_eq_true, Bool.or_eq_true, beq_iff_eq] at hx
  obtain ⟨⟨⟨hh, hets, het⟩, hrm⟩, hlong⟩ := hx
  refine decode_entM he hh (okV_of5 _) (okV_of5 _) ok0_zero (fun hb => ?base) ?fields ?made rest
  case base => simp [XW.zero, het hb, hlong hb]
  case fields =>
    have := hmore (XW.at { XW.zero with et := x.et, rm := x.rm, msk := x.msk } x.h) rfl rfl
    simp_all [Ext.ok, XW.zero]
  case made => simp [XW.zero]

theorem decode_encVCmp {ets conds : List Nat} {k : VCmpA → Instr} (he : entryOf (FW.ofPair op f) = some (entVcmp ets conds k))
    {x : VCmpA} (hx : x.ok ets conds = true) (rest : List W32) : decode (encVCmp op f x ++ rest) = .ok (k x) rest := by
  simp only [VCmpA.ok, etOk_iff, longOnly_iff, Bool.and_eq_true, beq_iff_eq] at hx
  obtain ⟨⟨⟨hh, hets, het⟩, hcond⟩, hlong⟩ := hx
  refine decode_entM he hh (okM_of3 _) (okV_of5 _) (okV_of5 _) (fun hb => ?base) ?fields ?made rest
  case base => simp [XW.zero, het hb, hlong hb]
  case fields => simp_all [Ext.ok, XW.zero, isV]; omega
  case made => simp [XW.zero, Nat.mod_eq_of_lt (show x.cond.toNat < 1048576 by omega), List.contains_iff_mem.1 hcond]

theorem decode_encM3 {i : M3 → Instr}
    (he : entryOf (FW.ofPair op f) = some (entV okM okM okM {} fun w x => i { h := hdOf w x, md := toM w.a, ma := toM w.b, mb := toM w.c }))
    {x : M3} (hh : x.h.ok = true) (rest : List W32) : decode (encM3 op f x ++ rest) = .ok (i x) rest :=
  decode_entM he hh (okM_of3 _) (okM_of3 _) (okM_of3 _) (fun _ => rfl) rfl (by simp) rest

/-- An element type, and a predicate where the entry permits one, under any operands. -/
theorem decode_entV_et {A B C : BitVec 6 → Bool} {ets : List Nat} {msk : Bool} {k : FW → XW → Instr}
    (he : entryOf (FW.ofPair op f) = some (entV A B C { ets := ets, msk := msk } k)) {h : Hd} {et : BitVec 4} {m : MReg} {a b c : BitVec 6}
    {i : Instr} (hh : h.ok = true) (het : etOk ets h.ext et = true) (hmsk : msk = true ∨ m = 0) (hlong : longOnly h.ext (m == 0) = true)
    (hA : A a = true) (hB : B b = true) (hC : C c = true)
    (hk : k (FW.ofHd op f h a b c) (({ XW.zero with et := et, msk := m } : XW).at h) = i) (rest : List W32) :
    decode (encM op f h a b c { XW.zero with et := et, msk := m } ++ rest) = .ok i rest := by
  obtain ⟨hets, het⟩ := etOk_iff.1 het
  simp only [longOnly_iff, beq_iff_eq] at hlong
  refine decode_entM he hh hA hB hC (fun hb => ?base) ?fields (congrArg Except.ok hk) rest
  case base => simp [XW.zero, het hb, hlong hb]
  case fields => simp_all [Ext.ok, XW.zero]

theorem decode_encMCnt {i : MCnt → Instr}
    (he : entryOf (FW.ofPair op f) = some (entV okS okM ok0 { ets := intEts } fun w x =>
      i { h := hdOf w x, et := x.et, sd := w.a, ma := toM w.b })) {x : MCnt} (hh : x.h.ok = true) (het : etOk intEts x.h.ext x.et = true)
    (rest : List W32) : decode (encMCnt op f x ++ rest) = .ok (i x) rest :=
  decode_entV_et he hh het (.inr rfl) (longOnly_iff.2 fun _ => rfl) rfl (okM_of3 _) rfl (by simp [XW.zero]) rest

/-! ## Memory shapes -/

theorem decode_encMemS {ords : List Nat} {hnd : Bool} {k : MemS → Instr} (he : entryOf (FW.ofPair op f) = some (entMemS ords hnd k))
    {x : MemS} (hx : x.ok ords = true) (rest : List W32) : decode (encMemS op f x ++ rest) = .ok (k x) rest := by
  simp only [MemS.ok, ordOk_iff, Bool.and_eq_true] at hx
  obtain ⟨⟨hh, hbase, hords, hscope, hord⟩, hm⟩ := hx
  refine decode_entM_mem he hh hm rfl (fun hb => ?base) ?fields ?made rest
  case base => simp [XW.zero, hbase hb]
  case fields => simp_all [Ext.ok, XW.zero, anyImm, Decidable.imp_iff_not_or]
  case made => simp [XW.zero]

/-- With a memory operand and a further register in D2. -/
theorem decode_entM_memD2 {A D : BitVec 6 → Bool} {k : FW → XW → Instr} {sup eng hnd : Bool}
    (he : entryOf (FW.ofPair op f) = some (entM [0, 1] anyNr A okS okS { d2 := D, imm := anyImm } (fun w x => .ok (k w x)) sup eng hnd))
    {h : Hd} {a d : BitVec 6} {m : MemOp} {i : Instr} (hh : h.ok = true) (hm : m.ok h.ext = true)
    (hlong : h.ext = false → d = 0) (hA : A a = true) (hD : D d = true)
    (hk : k (FW.ofHd op f h a (m.scale ++ m.cap) m.idx) (({ XW.zero with d2 := d, imm := m.disp } : XW).at h) = i) (rest : List W32) :
    decode (encMem op f h a m { XW.zero with d2 := d } ++ rest) = .ok i rest := by
  refine decode_entM_mem he hh hm hA (fun hb => ?base) ?fields (congrArg Except.ok hk) rest
  case base => simp [XW.zero, hlong hb]
  case fields => simp [Ext.ok, XW.zero, anyImm, hD]

theorem decode_encMemC {ords : List Nat} {k : MemC → Instr} (he : entryOf (FW.ofPair op f) = some (entMemC ords k))
    {x : MemC} (hh : x.h.ok = true) (hord : ordOk ords x.h.ext x.ord x.scope = true) (hm : x.mem.ok x.h.ext = true) (rest : List W32) :
    decode (encMemC op f x ++ rest) = .ok (k x) rest := by
  obtain ⟨hbase, hords, hscope, hord⟩ := ordOk_iff.1 hord
  refine decode_entM_mem he hh hm (okC_of4 _) (fun hb => ?base) ?fields ?made rest
  case base => simp [XW.zero, hbase hb]
  case fields => simp_all [Ext.ok, XW.zero, anyImm, Decidable.imp_iff_not_or]
  case made => simp [XW.zero]

theorem decode_encMemG {k : MemG → Instr} (he : entryOf (FW.ofPair op f) = some (entMemG k))
    {x : MemG} (hx : x.ok = true) (rest : List W32) : decode (encMemG op f x ++ rest) = .ok (k x) rest := by
  simp only [MemG.ok, etOk_iff, longOnly_iff, Bool.and_eq_true, beq_iff_eq] at hx
  obtain ⟨⟨⟨hh, hets, het⟩, hm⟩, hlong⟩ := hx
  refine decode_entM_mem he hh hm (okV_of5 _) (fun hb => ?base) ?fields ?made rest
  case base => simp [XW.zero, het hb, hlong hb, of5]
  case fields => simp_all [Ext.ok, XW.zero, anyImm]
  case made => simp [XW.zero]

theorem decode_encMemA {A : BitVec 6 → Bool} {eng : Bool} {k : MemA → Instr} (he : entryOf (FW.ofPair op f) = some (entMemA A eng k))
    {x : MemA} (hA : A 0 = true) (hh : x.h.ok = true) (hm : x.mem.ok x.h.ext = true) (rest : List W32) :
    decode (encMemA op f x ++ rest) = .ok (k x) rest :=
  decode_entM_mem he hh hm hA (fun _ => rfl) (by simp [Ext.ok, XW.zero, anyImm]) (by simp [XW.zero]) rest

theorem decode_encRMem {k : RMem → Instr} {sup : Bool} (he : entryOf (FW.ofPair op f) = some (entRMem k sup))
    {x : RMem} (hh : x.h.ok = true) (hm : x.mem.ok x.h.ext = true) (rest : List W32) :
    decode (encRMem op f x ++ rest) = .ok (k x) rest :=
  decode_entM_mem he hh hm rfl (fun _ => rfl) (by simp [Ext.ok, XW.zero, anyImm]) (by simp [XW.zero]) rest

theorem decode_encCb {k : CbA → Instr} (he : entryOf (FW.ofPair op f) = some (entCb k))
    {x : CbA} (hh : x.h.ok = true) (hm : x.mem.ok x.h.ext = true) (rest : List W32) :
    decode (encCb op f x ++ rest) = .ok (k x) rest :=
  decode_entM_mem he hh hm (okV_of5 _) (fun _ => rfl) (by simp [Ext.ok, XW.zero, anyImm]) (by simp [XW.zero]) rest

theorem decode_encCpy {k : CpyA → Instr} (he : entryOf (FW.ofPair op f) = some (entCpy k)) {x : CpyA} (hh : x.h.ok = true)
    (hlong : longOnly x.h.ext (x.disp == 0 && x.sn == 0) = true) (rest : List W32) :
    decode (encCpy op f x ++ rest) = .ok (k x) rest := by
  simp only [longOnly_iff, Bool.and_eq_true, beq_iff_eq] at hlong
  refine decode_entM he hh (okC_of4 _) rfl rfl (fun hb => ?base) ?fields ?made rest
  case base => simp [XW.zero, hlong hb]
  case fields => simp [Ext.ok, XW.zero, anyImm]
  case made => simp [XW.zero]

theorem decode_encAmo {k : AmoA → Instr} (he : entryOf (FW.ofPair op f) = some (entAmo k)) {x : AmoA} (hx : x.ok = true)
    (rest : List W32) : decode (encAmo op f x ++ rest) = .ok (k x) rest := by
  simp only [AmoA.ok, ordOk_iff, Bool.and_eq_true] at hx
  obtain ⟨⟨⟨hh, hext⟩, hets⟩, -, hords, hscope, hord⟩ := hx
  refine decode_entM_long he hh hext rfl rfl rfl ?fields ?made rest
  case fields => simp_all [Ext.ok, XW.zero, anyImm, Decidable.imp_iff_not_or]
  case made => simp [XW.zero]

theorem decode_encRed {ets : List Nat} {k : RedA → Instr} (he : entryOf (FW.ofPair op f) = some (entRed ets k)) {x : RedA}
    (hx : x.ok ets = true) (rest : List W32) : decode (encRed op f x ++ rest) = .ok (k x) rest := by
  simp only [RedA.ok, Bool.and_eq_true] at hx
  obtain ⟨⟨hh, hext⟩, hets⟩ := hx
  refine decode_entM_long he hh hext rfl rfl rfl ?fields ?made rest
  case fields => simp_all [Ext.ok, XW.zero, anyImm]
  case made => simp [XW.zero]

/-! ## Register shapes -/

/-- Registers alone, in any of the entry's not-ready modes. -/
theorem decode_entM_regs {nrs : List Nat} {A B C : BitVec 6 → Bool} {K : FW → XW → Except Nat Instr} {e : Entry}
    (he : entryOf (FW.ofPair op f) = some e) (hpre : e.pre = preM [0, 1] nrs A B C) (hmake : e.make = withX {} K) {h : Hd}
    {a b c : BitVec 6} {i : Instr} (hh : h.okNr nrs = true) (hA : A a = true) (hB : B b = true) (hC : C c = true)
    (hK : K (FW.ofHd op f h a b c) (XW.zero.at h) = .ok i) (rest : List W32) :
    decode (encM op f h a b c XW.zero ++ rest) = .ok i rest := by
  simp only [Hd.okNr, Bool.and_eq_true] at hh
  obtain ⟨hh, hnr⟩ := hh
  refine decode_encM he hmake hh ?_ (fun _ => rfl) (by simp [Ext.ok, XW.zero]) hK rest
  rw [hpre]
  exact preM_ofHd hh (bothLens_contains _) hnr hA hB hC

/-- A well-formed head is one of any not-ready mode. -/
theorem Hd.okNr_any {h : Hd} (hh : h.ok = true) : h.okNr anyNr = true := by
  rw [Hd.okNr, hh, anyNr_contains, Bool.and_self]

theorem decode_encSS {nrs : List Nat} {e : Entry} {k : SS → Instr} (he : entryOf (FW.ofPair op f) = some e)
    (hpre : e.pre = preM [0, 1] nrs okS okS ok0)
    (hmake : e.make = withX {} fun w x => .ok (k { h := hdOf w x, ra := w.a, rb := w.b })) {x : SS} (hh : x.h.okNr nrs = true)
    (rest : List W32) : decode (encSS op f x ++ rest) = .ok (k x) rest :=
  decode_entM_regs he hpre hmake hh rfl rfl rfl (by simp) rest

theorem decode_encSH {nrs : List Nat} {e : Entry} {k : SH → Instr} (he : entryOf (FW.ofPair op f) = some e)
    (hpre : e.pre = preM [0, 1] nrs okS ok0 ok0)
    (hmake : e.make = withX {} fun w x => .ok (k { h := hdOf w x, sr := w.a })) {x : SH} (hh : x.h.okNr nrs = true)
    (rest : List W32) : decode (encSH op f x ++ rest) = .ok (k x) rest :=
  decode_entM_regs he hpre hmake hh rfl rfl rfl (by simp) rest

theorem decode_encSSS {k : SSS → Instr} (he : entryOf (FW.ofPair op f) = some (entSSS k)) {x : SSS} (hh : x.h.ok = true)
    (rest : List W32) : decode (encSSS op f x ++ rest) = .ok (k x) rest :=
  decode_entM he hh rfl rfl rfl (fun _ => rfl) (by simp [Ext.ok, XW.zero]) (by simp) rest

theorem decode_encBar {ord : Nat} {k : BarA → Instr} {ords : List Nat} (he : entryOf (FW.ofPair op f) = some (entBar ords k))
    (h0 : 0 ∈ ords) (h1 : ord ∈ ords) {x : BarA} (hx : x.ok ord = true) (rest : List W32) :
    decode (encBar op f x ++ rest) = .ok (k x) rest := by
  simp only [BarA.ok, longOnly_iff, Bool.and_eq_true, Bool.or_eq_true, beq_iff_eq] at hx
  obtain ⟨⟨⟨hh, hord⟩, hspan⟩, hlong⟩ := hx
  have hords : x.ord.toNat ∈ ords := by
    rcases hord with h | h
    · rw [h]; exact h0
    · rw [h]; exact h1
  have hscope : x.scope.toNat < 6 := by
    simp only [spanOk, List.contains_iff_mem, List.mem_cons, List.not_mem_nil, or_false] at hspan
    omega
  refine decode_entM he hh rfl rfl rfl (fun hb => ?base) ?fields ?made rest
  case base => simp [XW.zero, hlong hb]
  case fields =>
    have htag := x.tag.isLt
    simp_all [Ext.ok, XW.zero]
    omega
  case made => simp [XW.zero]

/-! ## Instructions without outcome table -/

/-- Their head: no not-ready mode and no try target. -/
def Pl.toHd (h : Pl) : Hd := { p := h.p, nr := 0, ext := h.ext, tgt := 0 }

@[simp] theorem Pl.toHd_ok (h : Pl) : h.toHd.ok = true := by
  cases hext : h.ext <;> simp [Hd.ok, Pl.toHd, hext]

@[simp] theorem Pl.toHd_ext (h : Pl) : h.toHd.ext = h.ext := rfl

@[simp] theorem plOf_ofHd (h : Pl) (a b c : BitVec 6) : plOf (FW.ofHd op f h.toHd a b c) = h := by
  obtain ⟨p, ext⟩ := h
  cases ext <;> rfl

/-- Without not-ready modes. -/
theorem decode_entM_pl {A B C : BitVec 6 → Bool} {E : Ext} {K : FW → XW → Except Nat Instr} {e : Entry}
    (he : entryOf (FW.ofPair op f) = some e) (hpre : e.pre = preM [0, 1] [0] A B C) (hmake : e.make = withX E K) {h : Pl}
    {a b c : BitVec 6} {x : XW} {i : Instr} (hA : A a = true) (hB : B b = true) (hC : C c = true) (hbase : h.ext = false → x = XW.zero)
    (hx : E.ok 2 (x.at h.toHd) = true) (hK : K (FW.ofHd op f h.toHd a b c) (x.at h.toHd) = .ok i) (rest : List W32) :
    decode (encP op f h a b c x ++ rest) = .ok i rest := by
  refine decode_encM he hmake h.toHd_ok ?_ hbase hx hK rest
  rw [hpre]
  exact preM_ofHd h.toHd_ok (bothLens_contains _) rfl hA hB hC

/-- Registers alone. -/
theorem decode_encZ_M {A B C : BitVec 6 → Bool} {k : FW → Instr} {sup eng hnd : Bool}
    (he : entryOf (FW.ofPair op f) = some (entM [0, 1] [0] A B C {} (fun w _ => .ok (k w)) sup eng hnd)) {h : Pl} {a b c : BitVec 6}
    {i : Instr} (hA : A a = true) (hB : B b = true) (hC : C c = true) (hk : k (FW.ofHd op f h.toHd a b c) = i) (rest : List W32) :
    decode (encZ op f h a b c ++ rest) = .ok i rest :=
  decode_entM_pl (K := fun w _ => .ok (k w)) he rfl rfl hA hB hC (fun _ => rfl) rfl (congrArg Except.ok hk) rest

/-- PARK and ICSYNC: a memory operand, and a scope where the entry permits one. -/
theorem decode_encPark {E : Ext} {k : FW → XW → Instr} {x : ParkA} {i : Instr}
    (he : entryOf (FW.ofPair op f) = some (entM [0, 1] [0] okS okS okS E fun w y => .ok (k w y)))
    (hm : x.mem.ok x.h.ext = true) (hbase : x.h.ext = false → x.scope = 0)
    (hx : E.ok 2 (({ XW.zero with scope := x.scope, imm := x.mem.disp } : XW).at x.h.toHd) = true)
    (hk : k (FW.ofHd op f x.h.toHd x.sa (x.mem.scale ++ x.mem.cap) x.mem.idx)
      (({ XW.zero with scope := x.scope, imm := x.mem.disp } : XW).at x.h.toHd) = i) (rest : List W32) :
    decode (encPark op f x ++ rest) = .ok i rest := by
  refine decode_entM_pl (K := fun w y => .ok (k w y)) he rfl rfl rfl rfl rfl (fun hb => ?_) hx (congrArg Except.ok hk) rest
  simp [XW.zero, hbase hb, MemOp.ok_iff.1 hm hb]

end Sys2Proof
end

section
/-! SUPPORT. Kind I instructions (R66, R72, R104 to R120), the capability instructions of one word and the tensor instructions (R69). -/

namespace Sys2Proof

variable {op f : Nat}

/-- The first word that the encoder makes of an instruction without not-ready modes, by its length. -/
@[simps] def FW.ofI (op f : Nat) (p : Bool) (len : Nat) (a b c : BitVec 6) : FW :=
  { f := BitVec.ofNat 2 f, c := c, b := b, a := a, op := BitVec.ofNat 7 op, nr := 0, p := p, len := BitVec.ofNat 2 len }

theorem fwI_eq (op f : Nat) (p : Bool) (len : Nat) (a b c : BitVec 6) : fwI op f p len a b c = (FW.ofI op f p len a b c).toWord := rfl

/-- The two parts of a constant, put together again. -/
theorem append_two_parts {m n : Nat} (v : BitVec (m + n)) : v.extractLsb' n m ++ v.extractLsb' 0 n = v :=
  (BitVec.extractLsb'_append_extractLsb'_eq_extractLsb' (Nat.zero_add n).symm).trans BitVec.extractLsb'_eq_self

/-- The three parts of a constant. -/
theorem append_three_parts {l m n : Nat} (v : BitVec (l + m + n)) :
    v.extractLsb' (n + m) l ++ v.extractLsb' n m ++ v.extractLsb' 0 n = v := by
  rw [BitVec.extractLsb'_append_extractLsb'_eq_extractLsb' rfl]
  exact append_two_parts v

/-- Parts as the encoder cuts a constant of 8, 12, 14, 18 or 64 bits. -/
theorem append_parts_8 (v : BitVec 8) : v.extractLsb' 6 2 ++ v.extractLsb' 0 6 = v := append_two_parts (m := 2) (n := 6) v
theorem append_parts_12 (v : BitVec 12) : v.extractLsb' 6 6 ++ v.extractLsb' 0 6 = v := append_two_parts (m := 6) (n := 6) v
theorem append_parts_14 (v : BitVec 14) : v.extractLsb' 12 2 ++ v.extractLsb' 6 6 ++ v.extractLsb' 0 6 = v :=
  append_three_parts (l := 2) (m := 6) (n := 6) v
theorem append_parts_18 (v : BitVec 18) : v.extractLsb' 12 6 ++ v.extractLsb' 6 6 ++ v.extractLsb' 0 6 = v :=
  append_three_parts (l := 6) (m := 6) (n := 6) v
theorem append_parts_64 (v : W64) : v.extractLsb' 32 32 ++ v.extractLsb' 0 32 = v := append_two_parts (m := 32) (n := 32) v

/-- The word's entry is its pair's. -/
theorem entryOf_ofI {e : Entry} (he : entryOf (FW.ofPair op f) = some e) (p : Bool) (len : Nat) (a b c : BitVec 6) :
    entryOf (FW.ofI op f p len a b c) = some e := (entryOf_congr rfl rfl).trans he

theorem decode_encAlu {k : Alu → Instr} (he : entryOf (FW.ofPair op f) = some (entAlu k)) (x : Alu) (rest : List W32) :
    decode (encAlu op f x ++ rest) = .ok (k x) rest := by
  obtain ⟨p, sd, sa, b⟩ := x
  cases b with
  | reg sb => exact decode_eq_ok (ws := []) (entryOf_ofI he p 0 sd sa sb) rfl rfl rfl
  | imm v => exact decode_eq_ok (ws := [v, 0]) (entryOf_ofI he p 1 sd sa 0) rfl rfl rfl
  | lit v =>
    refine decode_eq_ok (ws := [0, 0, v.extractLsb' 0 32, v.extractLsb' 32 32]) (entryOf_ofI he p 2 sd sa 0) rfl rfl ?_
    show Except.ok (k { p := p, sd := sd, sa := sa, b := .lit (v.extractLsb' 32 32 ++ v.extractLsb' 0 32) }) = _
    rw [append_parts_64]

/-! ## Branches, TRAP and BKPT: a base word's offset, or IMM32 (R72) -/

section
variable {n : Nat} {base : FW → BitVec n} {pre ext ok : FW → Bool} {hnd : Bool} {k : FW → Off n → Instr}

/-- A branch's base word carries its offset. -/
theorem decode_entBr_base (he : entryOf (FW.ofPair op f) = some (entBr n base pre ext ok hnd k)) {p : Bool} {a b c : BitVec 6} {i : Instr}
    (hpre : pre (FW.ofI op f p 0 a b c) = true) (hok : ok (FW.ofI op f p 0 a b c) = true)
    (hk : k (FW.ofI op f p 0 a b c) (.base (base (FW.ofI op f p 0 a b c))) = i) (rest : List W32) :
    decode (fwI op f p 0 a b c :: rest) = .ok i rest := by
  refine decode_eq_ok (w := FW.ofI op f p 0 a b c) (ws := []) (entryOf_ofI he p 0 a b c) (by simp [entBr, preI, preM, hpre]) rfl ?_
  show (if ok (FW.ofI op f p 0 a b c) then _ else _) = _
  rw [if_pos hok, hk]

/-- The long form has it in IMM32. -/
theorem decode_entBr_ext (he : entryOf (FW.ofPair op f) = some (entBr n base pre ext ok hnd k)) {p : Bool} {a b c : BitVec 6} {o : W32}
    {i : Instr} (hpre : pre (FW.ofI op f p 1 a b c) = true) (hext : ext (FW.ofI op f p 1 a b c) = true)
    (hok : ok (FW.ofI op f p 1 a b c) = true) (hk : k (FW.ofI op f p 1 a b c) (.ext o) = i) (rest : List W32) :
    decode (fwI op f p 1 a b c :: o :: 0 :: rest) = .ok i rest := by
  refine decode_eq_ok (w := FW.ofI op f p 1 a b c) (ws := [o, 0]) (entryOf_ofI he p 1 a b c)
    (by simp [entBr, preI, preM, hpre, hext]) rfl ?_
  show (if ok (FW.ofI op f p 1 a b c) then _ else _) = _
  rw [if_pos hok, hk]

end

theorem decode_encBr {hnd : Bool} {k : Br → Instr} (he : entryOf (FW.ofPair op f) = some (entBr18 hnd k)) (x : Br) (rest : List W32) :
    decode (encBr op f x ++ rest) = .ok (k x) rest := by
  obtain ⟨p, off⟩ := x
  cases off with
  | base o => exact decode_entBr_base he rfl rfl (by simp only [FW.ofI_a, FW.ofI_b, FW.ofI_c, FW.ofI_p, append_parts_18]) rest
  | ext o => exact decode_entBr_ext he rfl rfl rfl rfl rest

/-- BZ, BNZ and BOC: an operand in field A, which BOC checks at step 6. -/
theorem decode_encBz {pre ok : FW → Bool} {hnd : Bool} {k : FW → Off 12 → Instr}
    (he : entryOf (FW.ofPair op f) = some (entBr 12 (fun w => w.c ++ w.b) pre (fun w => w.b == 0 && w.c == 0) ok hnd k))
    {p : Bool} {a : BitVec 6} (hpre : ∀ w : FW, w.a = a → pre w = true) (hok : ∀ w : FW, w.a = a → ok w = true)
    {i : Off 12 → Instr} (hk : ∀ (w : FW) (o : Off 12), w.p = p → w.a = a → k w o = i o) (o : Off 12) (rest : List W32) :
    decode (encBz op f p a o ++ rest) = .ok (i o) rest := by
  cases o with
  | base o =>
    refine decode_entBr_base he (hpre _ rfl) (hok _ rfl) ?_ rest
    rw [hk _ _ rfl rfl, FW.ofI_b, FW.ofI_c, append_parts_12]
  | ext o => exact decode_entBr_ext he (hpre _ rfl) rfl (hok _ rfl) (hk _ _ rfl rfl) rest

theorem decode_encBcc {k : Bcc → Instr} (he : entryOf (FW.ofPair op f) = some (entBcc k)) (x : Bcc) (rest : List W32) :
    decode (encBcc op f x ++ rest) = .ok (k x) rest := by
  obtain ⟨p, sa, sb, off⟩ := x
  cases off with
  | base o => exact decode_entBr_base he rfl rfl rfl rest
  | ext o => exact decode_entBr_ext he rfl rfl rfl rfl rest

theorem decode_encTrap {k : Trap → Instr} (he : entryOf (FW.ofPair op f) = some (entTrap k)) (x : Trap) (rest : List W32) :
    decode (encTrap op f x ++ rest) = .ok (k x) rest := by
  obtain ⟨p, code⟩ := x
  cases code with
  | base o => exact decode_entBr_base he rfl rfl (by simp only [FW.ofI_a, FW.ofI_b, FW.ofI_p, append_parts_12]) rest
  | ext o => exact decode_entBr_ext he rfl rfl rfl rfl rest

/-! ## The other scalar shapes -/

/-- IMM32 of the constant form of BFX and BFI holds pos and len - 1, and 0 elsewhere (R110). -/
theorem bfImm_fields (pos len1 : BitVec 6) : let w : W32 := 0#18 ++ len1 ++ 0#2 ++ pos
    w.extractLsb' 14 18 = 0 ∧ w.extractLsb' 6 2 = 0 ∧ w.extractLsb' 0 6 = pos ∧ w.extractLsb' 8 6 = len1 := by
  refine ⟨?high, ?gap, ?pos, ?len1⟩
  all_goals repeat refine (BitVec.extractLsb'_append_eq_of_le (by decide)).trans ?_
  case high => exact BitVec.extractLsb'_eq_self
  all_goals exact BitVec.extractLsb'_append_eq_right

theorem decode_encBf {k : Bf → Instr} (he : entryOf (FW.ofPair op f) = some (entBf k)) (x : Bf) (rest : List W32) :
    decode (encBf op f x ++ rest) = .ok (k x) rest := by
  obtain ⟨p, sd, sa, ctl⟩ := x
  cases ctl with
  | reg sc => exact decode_eq_ok (ws := []) (entryOf_ofI he p 0 sd sa sc) rfl rfl rfl
  | const pos len1 =>
    obtain ⟨hhigh, hgap, hpos, hlen1⟩ := bfImm_fields pos len1
    refine decode_eq_ok (ws := [0#18 ++ len1 ++ 0#2 ++ pos, 0]) (entryOf_ofI he p 1 sd sa 0) rfl rfl ?_
    refine (if_pos ?_).trans ?_
    · simp only [hhigh, hgap]
      rfl
    · rw [hpos, hlen1]

theorem decode_encSel (x : Sel) (rest : List W32) : decode (encode (.sel x) ++ rest) = .ok (.sel x) rest := by
  have hw : entryOf (FW.ofI 0x07 1 x.p 1 x.sd x.sa x.sb) = some entSel := entryOf_congr (v := FW.ofPair 0x07 1) rfl rfl
  have hsc : (x.sc ++ 0#26 : W32).extractLsb' 26 6 = x.sc := BitVec.extractLsb'_append_eq_left
  have hlow : (x.sc ++ 0#26 : W32).extractLsb' 0 26 = 0 := BitVec.extractLsb'_append_eq_right
  refine decode_eq_ok (ws := [0, x.sc ++ 0#26]) hw rfl rfl ?_
  simp only [entSel, hsc, hlow]
  rfl

/-- ADDI's field F holds immediate bits, so its entry stands at all four pairs. -/
theorem entryOf_addi {w : FW} (hop : w.op = 0x08) : entryOf w = some entAddi := by
  unfold entryOf
  rw [hop]
  rfl

/-- So does LI's. -/
theorem entryOf_li {w : FW} (hop : w.op = 0x09) : entryOf w = some entLi := by
  unfold entryOf
  rw [hop]
  rfl

theorem decode_encAddi (x : Addi) (rest : List W32) : decode (encode (.addi x) ++ rest) = .ok (.addi x) rest := by
  have hw := entryOf_addi (w := FW.ofI 0x08 (x.imm.extractLsb' 6 2).toNat x.p 0 x.sd x.sa (x.imm.extractLsb' 0 6)) rfl
  refine decode_eq_ok (ws := []) hw rfl rfl ?_
  simp only [entAddi, BitVec.ofNat_toNat, BitVec.setWidth_eq, append_parts_8]

theorem decode_encLi (x : Li) (rest : List W32) : decode (encLi x ++ rest) = .ok (.li x) rest := by
  obtain ⟨p, sd, k⟩ := x
  have hw : ∀ f len b c, entryOf (FW.ofI 0x09 f p len sd b c) = some entLi := fun _ _ _ _ => entryOf_li rfl
  cases k with
  | base v =>
    refine decode_eq_ok (ws := []) (hw (v.extractLsb' 12 2).toNat 0 (v.extractLsb' 0 6) (v.extractLsb' 6 6)) rfl rfl ?_
    show Except.ok (Instr.li ⟨p, sd, .base (BitVec.ofNat 2 (v.extractLsb' 12 2).toNat ++ v.extractLsb' 6 6 ++ v.extractLsb' 0 6)⟩) = _
    rw [BitVec.ofNat_toNat, BitVec.setWidth_eq, append_parts_14]
  | imm v => exact decode_eq_ok (ws := [v, 0]) (hw 0 1 0 0) rfl rfl rfl
  | lit v =>
    refine decode_eq_ok (ws := [0, 0, v.extractLsb' 0 32, v.extractLsb' 32 32]) (hw 0 2 0 0) rfl rfl ?_
    show Except.ok (Instr.li { p := p, sd := sd, k := .lit (v.extractLsb' 32 32 ++ v.extractLsb' 0 32) }) = _
    rw [append_parts_64]

/-! ## Registers alone, with words 2 and 3 zero (R104) -/

theorem encZ_eq (op f : Nat) (h : Pl) (a b c : BitVec 6) :
    encZ op f h a b c = (FW.ofHd op f h.toHd a b c).toWord :: if h.ext then [0, 0] else [] := by
  have hzero : [XW.zero.word2, XW.zero.word3] = [0, 0] := by decide
  rw [← hzero]
  rfl

/-- Words that are all zero are those of the long form. -/
theorem zeros_length (h : Pl) (a b c : BitVec 6) :
    (if h.ext then [0, 0] else [] : List W32).length = 2 * (FW.ofHd op f h.toHd a b c).len.toNat := by
  obtain ⟨p, ext⟩ := h
  cases ext <;> rfl

theorem zeros_all (ext : Bool) : (if ext then [0, 0] else [] : List W32).all (· == 0) = true := by cases ext <;> rfl

theorem decode_encZ {lens : List Nat} {A B C : BitVec 6 → Bool} {k : FW → Instr} {e : Entry} (he : entryOf (FW.ofPair op f) = some e)
    (hpre : e.pre = preI lens A B C) (hmake : e.make = fun w ws => if ws.all (· == 0) then .ok (k w) else .error 4) {h : Pl}
    {a b c : BitVec 6} {i : Instr} (hlen : lens.contains (if h.ext then 1 else 0) = true) (hA : A a = true) (hB : B b = true)
    (hC : C c = true) (hk : k (FW.ofHd op f h.toHd a b c) = i) (rest : List W32) :
    decode (encZ op f h a b c ++ rest) = .ok i rest := by
  have hmade : e.make (FW.ofHd op f h.toHd a b c) (if h.ext then [0, 0] else []) = .ok i := by
    rw [hmake]
    simp only [zeros_all, if_true, hk]
  rw [encZ_eq]
  refine decode_eq_ok ((entryOf_congr rfl rfl).trans he) ?_ (zeros_length ..) hmade
  rw [hpre]
  exact preM_ofHd h.toHd_ok hlen rfl hA hB hC

/-- In either form. -/
theorem decode_encZ_both {A B C : BitVec 6 → Bool} {k : FW → Instr} (he : entryOf (FW.ofPair op f) = some (entZ [0, 1] A B C k))
    {h : Pl} {a b c : BitVec 6} {i : Instr} (hA : A a = true) (hB : B b = true) (hC : C c = true)
    (hk : k (FW.ofHd op f h.toHd a b c) = i) (rest : List W32) : decode (encZ op f h a b c ++ rest) = .ok i rest :=
  decode_encZ he rfl rfl (bothLens_contains _) hA hB hC hk rest

theorem decode_encAlu1 {k : Alu1 → Instr}
    (he : entryOf (FW.ofPair op f) = some (entZ [0, 1] okS okS ok0 fun w => k { h := plOf w, sd := w.a, sa := w.b })) (x : Alu1)
    (rest : List W32) : decode (encZ op f x.h x.sd x.sa 0 ++ rest) = .ok (k x) rest :=
  decode_encZ_both he rfl rfl rfl (by simp) rest

theorem decode_encXt {k : Xt → Instr}
    (he : entryOf (FW.ofPair op f) = some (entZ [0, 1] okS okS okS fun w => k { h := plOf w, sd := w.a, sa := w.b, n1 := w.c })) (x : Xt)
    (rest : List W32) : decode (encZ op f x.h x.sd x.sa x.n1 ++ rest) = .ok (k x) rest :=
  decode_encZ_both he rfl rfl rfl (by simp) rest

theorem decode_encJmpi {k : Jmpi → Instr}
    (he : entryOf (FW.ofPair op f) = some (entZ [0, 1] okC okS ok0 fun w => k { h := plOf w, cN := toC w.a, sa := w.b })) (x : Jmpi)
    (rest : List W32) : decode (encZ op f x.h (of4 x.cN) x.sa 0 ++ rest) = .ok (k x) rest :=
  decode_encZ_both he (okC_of4 _) rfl rfl (by simp) rest

/-- What an entry of a special register makes: the instruction, or ILLEGAL at step 6 for a number that is not assigned (R21). -/
theorem entMfs_make (numA : Bool) (k : Mfs → Instr) (x : Mfs) :
    (entMfs numA k).make (FW.ofHd op f x.h.toHd (if numA then x.num else x.sr) (if numA then x.sr else x.num) 0)
      (if x.h.ext then [0, 0] else []) = if x.num.toNat ≤ 0x14 then .ok (k x) else .error 6 := by
  simp only [entMfs, zeros_all, FW.ofHd_a, FW.ofHd_b, plOf_ofHd]
  cases numA <;> rfl

theorem entMfs_pre (numA : Bool) (k : Mfs → Instr) (h : Pl) (a b : BitVec 6) :
    (entMfs numA k).pre (FW.ofHd op f h.toHd a b 0) = true :=
  preM_ofHd h.toHd_ok (bothLens_contains _) rfl rfl rfl rfl

theorem decode_encMfs {numA : Bool} {k : Mfs → Instr} (he : entryOf (FW.ofPair op f) = some (entMfs numA k)) {x : Mfs}
    (hnum : x.num.toNat ≤ 0x14) (rest : List W32) :
    decode (encZ op f x.h (if numA then x.num else x.sr) (if numA then x.sr else x.num) 0 ++ rest) = .ok (k x) rest := by
  rw [encZ_eq]
  exact decode_eq_ok ((entryOf_congr rfl rfl).trans he) (entMfs_pre ..) (zeros_length ..) ((entMfs_make ..).trans (if_pos hnum))

theorem decode_encMfs_unassigned {numA : Bool} {k : Mfs → Instr} (he : entryOf (FW.ofPair op f) = some (entMfs numA k)) {x : Mfs}
    (hnum : 0x14 < x.num.toNat) (rest : List W32) :
    decode (encZ op f x.h (if numA then x.num else x.sr) (if numA then x.sr else x.num) 0 ++ rest) = .illegal 6 := by
  rw [encZ_eq]
  exact decode_eq_illegal ((entryOf_congr rfl rfl).trans he) (entMfs_pre ..) (zeros_length ..)
    ((entMfs_make ..).trans (if_neg (Nat.not_le.2 hnum)))

/-! ## Capability instructions (R76, R360, R361) -/

theorem decode_encCap {A B C : BitVec 6 → Bool} {k : FW → Instr} (he : entryOf (FW.ofPair op f) = some (entCap A B C k)) {p : Bool}
    {a b c : BitVec 6} {i : Instr} (hA : A a = true) (hB : B b = true) (hC : C c = true) (hk : k (FW.ofI op f p 0 a b c) = i)
    (rest : List W32) : decode (encCap op f p a b c ++ rest) = .ok i rest := by
  refine decode_eq_ok (ws := []) ((entryOf_congr rfl rfl).trans he) ?_ rfl (congrArg Except.ok hk)
  simp [entCap, entM, preM, hA, hB, hC]

/-- CADD and CRESTR with a register, and with a constant that the entry's IMM20 admits. -/
theorem decode_encCsrc {n : Nat} {imm : BitVec 20 → Bool} {k : FW → XW → Instr} (he : entryOf (FW.ofPair op f) = some (entCsrc imm k))
    {p : Bool} {cd cs : CReg} {b : CSrc n} {i : CSrc n → Instr} (himm : ∀ v : BitVec n, imm (v.setWidth 20) = true)
    (hreg : ∀ sa, k (FW.ofI op f p 0 (of4 cd) (of4 cs) sa) XW.zero = i (.reg sa))
    (hconst : ∀ v : BitVec n, k (FW.ofI op f p 1 (of4 cd) (of4 cs) 0) { XW.zero with imm := v.setWidth 20 } = i (.imm v))
    (rest : List W32) : decode (encCsrc op f p cd cs b ++ rest) = .ok (i b) rest := by
  cases b with
  | reg sa =>
    refine decode_eq_ok (ws := []) (entryOf_ofI he p 0 (of4 cd) (of4 cs) sa) (by simp [entCsrc, preM]) rfl ?_
    refine (withX_base { imm := imm } (fun w x => .ok (k w x)) (w := FW.ofI op f p 0 (of4 cd) (of4 cs) sa) rfl []).trans ?_
    exact congrArg Except.ok (hreg sa)
  | imm v =>
    have hword2 : ({ XW.zero with imm := v.setWidth 20 } : XW).word2 = 0 := (by decide : XW.zero.word2 = 0)
    have hmade : (entCsrc imm k).make (FW.ofI op f p 1 (of4 cd) (of4 cs) 0) [0, ({ XW.zero with imm := v.setWidth 20 } : XW).word3] =
        .ok (i (.imm v)) := by
      rw [← hword2]
      refine (withX_long { imm := imm } (fun w x => .ok (k w x)) rfl _).trans ((if_pos ?_).trans (congrArg Except.ok (hconst v)))
      simp [Ext.ok, XW.zero, himm]
    exact decode_eq_ok (entryOf_ofI he p 1 (of4 cd) (of4 cs) 0) (by simp [entCsrc, preM]) rfl hmade

/-! ## Tensor instructions (R69 to R71) -/

/-- Word 2 of a tensor instruction holds the try target alone. -/
theorem tgtWord_eq (tgt : BitVec 20) : ({ XW.zero with tgt := tgt } : XW).word2 = (tgt ++ 0#12 : W32) := by
  refine BitVec.eq_of_toNat_eq ?_
  show (tgt ++ 0#4 ++ 0#2 ++ 0#3 ++ 0#2 ++ 0#1 : BitVec (20 + 4 + 2 + 3 + 2 + 1)).toNat = (tgt ++ 0#12).toNat
  simp only [BitVec.toNat_append, BitVec.toNat_ofNat, Nat.or_zero, Nat.zero_mod, ← Nat.shiftLeft_add]

theorem tgtWord_fields (tgt : BitVec 20) : let w := ({ XW.zero with tgt := tgt } : XW).word2
    w.extractLsb' 0 12 = 0 ∧ w.extractLsb' 12 20 = tgt := by
  intro w
  rw [show w = tgt ++ 0#12 from tgtWord_eq tgt]
  exact ⟨BitVec.extractLsb'_append_eq_right, BitVec.extractLsb'_append_eq_left⟩

/-- The first word that the encoder makes of MMA and MMAS. -/
@[simps] def FW.ofMma (op f : Nat) (x : Mma) : FW :=
  { f := BitVec.ofNat 2 f, c := 0, b := 0, a := of3 x.zd, op := BitVec.ofNat 7 op, nr := x.h.nr, p := x.h.p, len := 3 }

theorem decode_encMma {more : TP → Bool} {k : Mma → Instr} (he : entryOf (FW.ofPair op f) = some (entMma more k)) {x : Mma}
    (hx : x.ok = true) (hmore : more x.tp = true) (rest : List W32) : decode (encMma op f x ++ rest) = .ok (k x) rest := by
  obtain ⟨⟨p, nr, ext, tgt⟩, zd, tp⟩ := x
  simp only [Mma.ok, Hd.ok, Bool.and_eq_true] at hx
  obtain ⟨⟨⟨-, htgt⟩, rfl⟩, htp⟩ := hx
  obtain ⟨hlow, hword⟩ := tgtWord_fields tgt
  refine decode_eq_ok (w := FW.ofMma op f _) (ws := [_, 0, tp.word0, tp.word1, tp.word2, tp.word3]) ((entryOf_congr rfl rfl).trans he)
    ?pre rfl ?made
  case pre => simp [entMma, preM, List.contains_iff_mem.1 (anyNr_contains nr)]
  case made =>
    refine (if_pos ?_).trans ?_
    · simp only [XW.ofWords, FW.ofMma_nr, hlow, hword, htgt, TP.rsvOk_words, TP.ofWords_words, htp, hmore]
      rfl
    · simp only [XW.ofWords, hword, FW.ofMma_nr, FW.ofMma_p, FW.ofMma_a, toM_of3, TP.ofWords_words]

/-- MMA.BGS has words 2 and 3 zero (R71). -/
theorem decode_encMmaBgs {x : MmaBgs} (hext : x.h.ext = true) (htgt : x.h.tgt = 0) (rest : List W32) :
    decode (encode (.mmaBgs x) ++ rest) = .ok (.mmaBgs x) rest := by
  obtain ⟨⟨p, nr, ext, tgt⟩, zd⟩ := x
  obtain rfl : ext = true := hext
  obtain rfl : tgt = 0 := htgt
  have hw : entryOf (FW.ofHd 0x30 2 { p := p, nr := nr, ext := true, tgt := 0 } (of3 zd) 0 0) = some entMmaBgs :=
    entryOf_congr (v := FW.ofPair 0x30 2) rfl rfl
  have hzero : [XW.zero.word2, XW.zero.word3].all (· == 0) = true := by decide
  have hmade : entMmaBgs.make (FW.ofHd 0x30 2 { p := p, nr := nr, ext := true, tgt := 0 } (of3 zd) 0 0) [XW.zero.word2, XW.zero.word3] =
      .ok (.mmaBgs { h := { p := p, nr := nr, ext := true, tgt := 0 }, zd := toM (of3 zd) }) := if_pos (e := .error 4) hzero
  rw [toM_of3] at hmade
  exact decode_eq_ok hw (preM_ofHd (by simp [Hd.ok]) rfl (anyNr_contains nr) (okM_of3 zd) rfl rfl) rfl hmade

end Sys2Proof
end

section
/-! SUPPORT. Every encoding of the map decodes to its instruction (R60 to R78): the entries that no shape shares, and the statements. -/

namespace Sys2Proof

/-! ## Vector and tile instructions of their own shape -/

theorem decode_vfma {x : V4} (hx : x.ok = true) (rest : List W32) : decode (encode (.vfma x) ++ rest) = .ok (.vfma x) rest := by
  simp only [V4.ok, etOk_iff, longOnly_iff, Bool.and_eq_true, beq_iff_eq] at hx
  obtain ⟨⟨hh, hets, het⟩, hlong⟩ := hx
  refine decode_entM rfl hh (okV_of5 _) (okV_of5 _) (okV_of5 _) (fun hb => ?base) ?fields ?made rest
  case base => simp [XW.zero, het hb, hlong hb, of5]
  case fields => simp_all [Ext.ok, XW.zero]
  case made => simp [XW.zero]

/-- The operation of VRED keeps its meaning as IMM20 (R136). -/
theorem vredImm_eq_iff (o : BitVec 2) : (o.setWidth 20 = 0#20 ↔ o = 0#2) ∧ (o.setWidth 20 = 3#20 ↔ o = 3#2) := by
  revert o
  decide

theorem decode_vred {x : VRedA} (hx : x.ok = true) (rest : List W32) : decode (encode (.vred x) ++ rest) = .ok (.vred x) rest := by
  simp only [VRedA.ok, etOk_iff, longOnly_iff, Bool.and_eq_true, Bool.or_eq_true, bne_iff_ne, beq_iff_eq, decide_eq_true_eq] at hx
  obtain ⟨⟨⟨⟨hh, hets, het⟩, hop⟩, hrm⟩, hlong⟩ := hx
  obtain ⟨hzero, hthree⟩ := vredImm_eq_iff x.op
  refine decode_entM rfl hh (okV_of5 _) (okV_of5 _) rfl (fun hb => ?base) ?fields ?made rest
  case base => simp [XW.zero, het hb, hlong hb]
  case fields =>
    have himm : x.op.toNat % 1048576 < 4 := by omega
    simp_all [Ext.ok, XW.zero, isV]
  case made => simp_all [XW.zero]

/-- IMM20 of VCVT, as the encoder lays it out and the entry reads it (R134). -/
theorem vcvtImm_fields (ud us : Bool) (part : BitVec 3) (src : BitVec 4) :
    let v : BitVec 20 := 0#10 ++ bit1 ud ++ bit1 us ++ part ++ 0#1 ++ src
    v.extractLsb' 10 10 = 0 ∧ v.extractLsb' 4 1 = 0 ∧ v.getLsbD 9 = ud ∧ v.getLsbD 8 = us ∧ v.extractLsb' 5 3 = part ∧
      v.extractLsb' 0 4 = src := by
  refine ⟨?high, ?gap, ?ud, ?us, ?part, ?src⟩
  case ud | us =>
    repeat refine (getLsbD_append_of_le (by decide)).trans ?_
    exact getLsbD_append_bit1
  all_goals repeat refine (BitVec.extractLsb'_append_eq_of_le (by decide)).trans ?_
  case high => exact BitVec.extractLsb'_eq_self
  all_goals exact BitVec.extractLsb'_append_eq_right

theorem decode_vcvt {x : VCvtA} (hx : x.ok = true) (rest : List W32) : decode (encode (.vcvt x) ++ rest) = .ok (.vcvt x) rest := by
  obtain ⟨hhigh, hgap, hud, hus, hpart, hsrc⟩ := vcvtImm_fields x.ud x.us x.part x.src
  have hx' := hx
  simp only [VCvtA.ok, Bool.and_eq_true, decide_eq_true_eq] at hx'
  obtain ⟨⟨⟨⟨⟨⟨⟨⟨⟨hh, hext⟩, hlo⟩, hhi⟩, -⟩, -⟩, -⟩, -⟩, -⟩, -⟩ := hx'
  have hets : [1, 2, 3, 4, 5, 6, 7, 8, 9].contains x.et.toNat = true := by
    simp only [List.contains_iff_mem, List.mem_cons, List.not_mem_nil, or_false]
    omega
  refine decode_entM_long rfl hh hext (okV_of5 _) (okV_of5 _) rfl ?fields ?made rest
  case fields => simp_all [Ext.ok, XW.zero]
  case made => simp_all [XW.zero]

/-- IMM20 of VDSX (R135). -/
theorem vdsxImm_fields (n4 : Bool) (part : BitVec 3) : let v : BitVec 20 := 0#9 ++ bit1 n4 ++ 0#2 ++ part ++ 0#1 ++ 10#4
    v.extractLsb' 11 9 = 0 ∧ v.extractLsb' 4 1 = 0 ∧ v.getLsbD 10 = n4 ∧ v.extractLsb' 8 2 = 0 ∧ v.extractLsb' 5 3 = part ∧
      v.extractLsb' 0 4 = 10 := by
  refine ⟨?high, ?gap, ?n4, ?gap2, ?part, ?src⟩
  case n4 =>
    repeat refine (getLsbD_append_of_le (by decide)).trans ?_
    exact getLsbD_append_bit1
  all_goals repeat refine (BitVec.extractLsb'_append_eq_of_le (by decide)).trans ?_
  case high => exact BitVec.extractLsb'_eq_self
  all_goals exact BitVec.extractLsb'_append_eq_right

theorem decode_vdsx {x : VDsxA} (hx : x.ok = true) (rest : List W32) : decode (encode (.vdsx x) ++ rest) = .ok (.vdsx x) rest := by
  obtain ⟨hhigh, hgap, hn4, hgap2, hpart, hsrc⟩ := vdsxImm_fields x.n4 x.part
  have hx' := hx
  simp only [VDsxA.ok, Bool.and_eq_true] at hx'
  obtain ⟨⟨⟨hh, hext⟩, hets⟩, -⟩ := hx'
  refine decode_entM_long rfl hh hext (okV_of5 _) (okV_of5 _) rfl ?fields ?made rest
  case fields => simp_all [Ext.ok, XW.zero]
  case made => simp_all [XW.zero]

theorem decode_zcvt {x : ZCvtA} (hx : x.ok = true) (rest : List W32) : decode (encode (.zcvt x) ++ rest) = .ok (.zcvt x) rest := by
  simp only [ZCvtA.ok, etOk_iff, longOnly_iff, Bool.and_eq_true, Bool.not_eq_true', beq_iff_eq] at hx
  obtain ⟨⟨⟨hh, hets, het⟩, hov⟩, hlong⟩ := hx
  have hscale := x.scale.isLt
  refine decode_entM rfl hh (okM_of3 _) (okM_of3 _) rfl (fun hb => ?base) ?fields ?made rest
  case base => simp [XW.zero, het hb, hlong hb]
  case fields => simp_all [Ext.ok, XW.zero, isV]; omega
  case made => simp [XW.zero]

/-! ## Memory and synchronisation instructions of their own shape -/

theorem decode_ldv {x : MemV} (hx : x.okL = true) (rest : List W32) : decode (encode (.ldv x) ++ rest) = .ok (.ldv x) rest := by
  simp only [MemV.okL, etOk_iff, ordOk_iff, longOnly_iff, Bool.and_eq_true, Bool.or_eq_true, Bool.not_eq_true', beq_iff_eq,
    decide_eq_true_eq] at hx
  obtain ⟨⟨⟨⟨⟨hh, hets, het⟩, hbase, hords, hscope, hord⟩, hm⟩, hconv⟩, hmsk⟩ := hx
  have hplain : x.h.ext = false → x.rm = 0 ∧ x.ov = false := fun hb => hconv.resolve_left (by simp [het hb])
  refine decode_entM_mem rfl hh hm (okV_of5 _) (fun hb => ?base) ?fields ?made rest
  case base => simp [XW.zero, het hb, hbase hb, hmsk hb, hplain hb]
  case fields => simp_all [Ext.ok, XW.zero, anyImm, Decidable.imp_iff_not_or]
  case made => simp [XW.zero]

theorem decode_stv {x : MemV} (hx : x.okS = true) (rest : List W32) : decode (encode (.stv x) ++ rest) = .ok (.stv x) rest := by
  simp only [MemV.okS, etOk_iff, ordOk_iff, longOnly_iff, Bool.and_eq_true, Bool.not_eq_true', beq_iff_eq] at hx
  obtain ⟨⟨⟨⟨⟨⟨hh, hets, het⟩, hbase, hords, hscope, hord⟩, hm⟩, hrm⟩, hov⟩, hmsk⟩ := hx
  refine decode_entM_mem rfl hh hm (okV_of5 _) (fun hb => ?base) ?fields ?made rest
  case base => simp [XW.zero, het hb, hbase hb, hmsk hb, hrm, hov]
  case fields => simp_all [Ext.ok, XW.zero, anyImm, Decidable.imp_iff_not_or]
  case made => simp [XW.zero]

/-- A flag in field A of a word, below 2 as the entry asks at step 6 (R222, R305). -/
theorem flagA_fields (p : Bool) : (if p then 1 else 0 : BitVec 6).toNat < 2 ∧ ((if p then 1 else 0 : BitVec 6) == 1) = p := by
  cases p <;> decide

theorem decode_pref {x : PrefA} (hm : x.mem.ok x.h.ext = true) (rest : List W32) :
    decode (encode (.pref x) ++ rest) = .ok (.pref x) rest := by
  obtain ⟨hlt, hflag⟩ := flagA_fields x.write
  refine decode_entM_pl
    (K := fun w y => if w.a.toNat < 2 then .ok (.pref { h := plOf w, write := w.a == 1, mem := memOf w y }) else .error 6)
    rfl rfl rfl rfl rfl rfl (fun hb => ?base) ?fields ?made rest
  case base => simp [XW.zero, MemOp.ok_iff.1 hm hb]
  case fields => simp [Ext.ok, XW.zero, anyImm]
  case made => simp only [FW.ofHd_a, hlt, hflag, if_true, plOf_ofHd, memOf_ofHd]

theorem decode_waitge {x : WaitgeA} (hh : x.h.ok = true) (hord : ordOk [0, 1] x.h.ext x.ord x.scope = true)
    (hm : x.mem.ok x.h.ext = true) (hsb : longOnly x.h.ext (x.sb == 0) = true) (rest : List W32) :
    decode (encode (.waitge x) ++ rest) = .ok (.waitge x) rest := by
  obtain ⟨hbase, hords, hscope, hord⟩ := ordOk_iff.1 hord
  simp only [longOnly_iff, beq_iff_eq] at hsb
  refine decode_entM_mem rfl hh hm rfl (fun hb => ?base) ?fields ?made rest
  case base => simp [XW.zero, hbase hb, hsb hb]
  case fields => simp_all [Ext.ok, XW.zero, anyImm, Decidable.imp_iff_not_or]
  case made => simp [XW.zero]

theorem decode_feset {x : FesetA} (hh : x.h.ok = true) (hord : ordOk [0, 2] x.h.ext x.ord x.scope = true)
    (hm : x.mem.ok x.h.ext = true) (rest : List W32) : decode (encode (.feset x) ++ rest) = .ok (.feset x) rest := by
  obtain ⟨hbase, hords, hscope, hord⟩ := ordOk_iff.1 hord
  obtain ⟨hlt, hflag⟩ := flagA_fields x.full
  refine decode_entM_mem rfl hh hm rfl (fun hb => ?base) ?fields ?made rest
  case base => simp [XW.zero, hbase hb]
  case fields => simp_all [Ext.ok, XW.zero, anyImm, Decidable.imp_iff_not_or]
  case made => simp only [FW.ofHd_a, hlt, hflag, if_true, hdOf_ofHd, memOf_ofHd, XW.at_ord, XW.at_scope]

theorem decode_bankmode {x : BankA} (hh : x.h.ok = true) (hm : x.mem.ok x.h.ext = true) (hmode : x.mode ≠ 3) (rest : List W32) :
    decode (encode (.bankmode x) ++ rest) = .ok (.bankmode x) rest := by
  have hlt : x.mode.toNat < 3 := by bv_omega
  refine decode_entM_mem rfl hh hm rfl (fun _ => rfl) ?fields ?made rest
  case fields => simp [Ext.ok, XW.zero, anyImm]
  case made => simp [XW.zero, show x.mode.toNat % 64 < 3 by omega]

/-- CBFREE and IMPRD have the long form alone. -/
theorem decode_entM_memD2_long {A : BitVec 6 → Bool} {op f : Nat} {k : FW → XW → Instr}
    (he : entryOf (FW.ofPair op f) = some (entM [1] anyNr A okS okS { d2 := okS, imm := anyImm } fun w x => .ok (k w x)))
    {h : Hd} {a d : BitVec 6} {m : MemOp} {i : Instr} (hh : h.ok = true) (hext : h.ext = true) (hA : A a = true)
    (hk : k (FW.ofHd op f h a (m.scale ++ m.cap) m.idx) (({ XW.zero with d2 := d, imm := m.disp } : XW).at h) = i) (rest : List W32) :
    decode (encMem op f h a m { XW.zero with d2 := d } ++ rest) = .ok i rest :=
  decode_entM_long he hh hext hA rfl rfl (by simp [Ext.ok, XW.zero, anyImm]) (congrArg Except.ok hk) rest

theorem decode_redw {x : SH} (hh : x.h.ok = true) (hext : x.h.ext = true) (rest : List W32) :
    decode (encode (.redw x) ++ rest) = .ok (.redw x) rest :=
  decode_entM_long rfl hh hext rfl rfl rfl (by simp [Ext.ok, XW.zero]) (by simp) rest

/-- ENGWAIT and SPAWN: four bits of IMM20 and a register or none. -/
theorem decode_entM_imm4 {A : BitVec 6 → Bool} {op f : Nat} {k : FW → XW → Instr}
    (he : entryOf (FW.ofPair op f) = some (entM [0, 1] anyNr A ok0 ok0 { imm := (isV · 16) } fun w x => .ok (k w x)))
    {h : Hd} {a : BitVec 6} {v : BitVec 4} {i : Instr} (hh : h.ok = true) (hA : A a = true) (hlong : longOnly h.ext (v == 0) = true)
    (hk : k (FW.ofHd op f h a 0 0) (({ XW.zero with imm := v.setWidth 20 } : XW).at h) = i) (rest : List W32) :
    decode (encM op f h a 0 0 { XW.zero with imm := v.setWidth 20 } ++ rest) = .ok i rest := by
  simp only [longOnly_iff, beq_iff_eq] at hlong
  refine decode_entM he hh hA rfl rfl (fun hb => ?base) ?fields (congrArg Except.ok hk) rest
  case base => simp [XW.zero, hlong hb]
  case fields => simp [Ext.ok, XW.zero, isV, show v.toNat % 1048576 < 16 by omega]

/-- FENCE has P set (R250). -/
theorem decode_fence {x : FenceA} (hscope : x.scope.toNat < 6) (hlong : longOnly x.ext (x.ord == 0 && x.scope == 0) = true)
    (rest : List W32) : decode (encode (.fence x) ++ rest) = .ok (.fence x) rest := by
  obtain ⟨ext, ord, scope⟩ := x
  simp only [longOnly_iff, Bool.and_eq_true, beq_iff_eq] at hlong
  have hords : [0, 1, 2, 3].contains ord.toNat = true := anyNr_contains ord
  have hfirst := preM_ofHd (op := 0x3F) (f := 0) (Pl.toHd_ok ⟨true, ext⟩) (bothLens_contains ext) (nrs := [0]) rfl
    ok0_zero ok0_zero ok0_zero
  refine decode_encM (E := { ords := [0, 1, 2, 3], scope := 2 })
    (K := fun w x => .ok (.fence { ext := w.len != 0, ord := x.ord, scope := x.scope })) rfl rfl (Pl.toHd_ok ⟨true, ext⟩)
    ?first (fun hb => ?base) ?fields ?made rest
  case first => exact Bool.and_eq_true_iff.2 ⟨hfirst, rfl⟩
  case base => simp [XW.zero, hlong hb]
  case fields => simp_all [Ext.ok, XW.zero]
  case made => cases ext <;> rfl

theorem decode_prorv {x : ProrvA} (hlong : longOnly x.h.ext (x.imm == 0) = true) (rest : List W32) :
    decode (encode (.prorv x) ++ rest) = .ok (.prorv x) rest := by
  simp only [longOnly_iff, beq_iff_eq] at hlong
  refine decode_entM_pl (E := { imm := anyImm }) (K := fun w x => .ok (.prorv { h := plOf w, sd := w.a, imm := x.imm }))
    rfl rfl rfl rfl rfl rfl (fun hb => ?base) ?fields ?made rest
  case base => simp [XW.zero, hlong hb]
  case fields => simp [Ext.ok, XW.zero, anyImm]
  case made => simp [XW.zero]

/-! ## Instructions without outcome table, of their own shape -/

theorem decode_ret (x : S1) (rest : List W32) : decode (encode (.ret x) ++ rest) = .ok (.ret x) rest :=
  decode_encZ_both rfl rfl rfl rfl (by simp) rest

theorem decode_nop (x : Pl) (rest : List W32) : decode (encode (.nop x) ++ rest) = .ok (.nop x) rest :=
  decode_encZ_both rfl rfl rfl rfl (by simp) rest

theorem decode_rdcyc (x : Rdcyc) (rest : List W32) : decode (encode (.rdcyc x) ++ rest) = .ok (.rdcyc x) rest :=
  decode_encZ_both rfl rfl rfl rfl (by simp) rest

theorem decode_encBz_sreg {op f : Nat} {k : Bz → Instr} (he : entryOf (FW.ofPair op f) = some (entBz k)) (x : Bz) (rest : List W32) :
    decode (encBz op f x.p x.sa x.off ++ rest) = .ok (k x) rest :=
  decode_encBz he (fun _ _ => rfl) (fun _ _ => rfl) (i := fun o => k { p := x.p, sa := x.sa, off := o })
    (fun w o hp ha => by rw [hp, ha]) x.off rest

/-- BOC's codes 0xC to 0xF are refused at step 6 (R72). -/
theorem decode_boc {x : Boc} (hcode : x.code.toNat ≤ 11) (rest : List W32) : decode (encode (.boc x) ++ rest) = .ok (.boc x) rest := by
  refine decode_encBz rfl (fun w ha => ?pre) (fun w ha => ?code) (i := fun o => .boc { p := x.p, code := x.code, off := o })
    (fun w o hp ha => ?made) x.off rest
  case pre => rw [ha]; exact okC_of4 _
  case code =>
    have hwide : (of4 x.code).toNat = x.code.toNat := BitVec.toNat_setWidth_of_le (by decide)
    rw [ha, hwide]
    exact decide_eq_true hcode
  case made => rw [hp, ha, toC_of4]

/-- GETO has one word (R76). -/
theorem decode_geto {x : S1} (hwf : (!x.h.ext) = true) (rest : List W32) : decode (encode (.geto x) ++ rest) = .ok (.geto x) rest := by
  have hext : x.h.ext = false := by simpa using hwf
  exact decode_encZ rfl rfl rfl (by rw [hext]; rfl) rfl rfl rfl (by simp) rest

theorem decode_park {x : ParkA} (hm : x.mem.ok x.h.ext = true) (hscope : x.scope = 0) (rest : List W32) :
    decode (encode (.park x) ++ rest) = .ok (.park x) rest := by
  refine decode_encPark rfl hm (fun _ => hscope) (by simp [Ext.ok, XW.zero, anyImm, hscope]) ?made rest
  simp only [plOf_ofHd, FW.ofHd_a, memOf_ofHd, ← hscope]

theorem decode_icsync {x : ParkA} (hm : x.mem.ok x.h.ext = true) (hscope : x.scope.toNat ≤ 4)
    (hlong : longOnly x.h.ext (x.scope == 0) = true) (rest : List W32) : decode (encode (.icsync x) ++ rest) = .ok (.icsync x) rest := by
  refine decode_encPark rfl hm (fun hb => eq_of_beq (longOnly_iff.1 hlong hb)) ?fields ?made rest
  case fields => simp [Ext.ok, XW.zero, anyImm, hscope, show x.scope.toNat < 6 by omega]
  case made => simp only [plOf_ofHd, FW.ofHd_a, memOf_ofHd, XW.at_scope]

end Sys2Proof
end

section
/-! SUPPORT. Every encoding of the map decodes to its instruction (R60 to R78). -/

namespace Sys2Proof

/-! ## Conditions of a well-formed instruction, taken apart -/

theorem wf_two {a b : Bool} (h : (a && b) = true) : a = true ∧ b = true := Bool.and_eq_true_iff.1 h
theorem wf_three {a b c : Bool} (h : (a && b && c) = true) : a = true ∧ b = true ∧ c = true := by
  simpa only [Bool.and_eq_true, and_assoc] using h
theorem wf_four {a b c d : Bool} (h : (a && b && c && d) = true) : a = true ∧ b = true ∧ c = true ∧ d = true := by
  simpa only [Bool.and_eq_true, and_assoc] using h

/-- What R164 adds for MMAS is what its entry asks at step 4. -/
theorem Mma.okS_iff {x : Mma} : x.okS = true ↔
    x.ok = true ∧ (x.tp.acap == x.tp.bcap && !x.tp.ta && !x.tp.tb && !x.tp.qe && x.tp.mcm == 0) = true := by
  simp only [Mma.okS, Bool.and_eq_true, and_assoc]

/-- Row by row of the map, each instruction by the lemma of its shape; an event has no words. -/
theorem decode_encode_of_wf (i : Instr) (rest : List W32) (hne : encode i ≠ []) (hwf : i.wf = true) :
    decode (encode i ++ rest) = .ok i rest := by
  cases i with
  | add x => exact decode_encAlu rfl x rest
  | sub x => exact decode_encAlu rfl x rest
  | mul x => exact decode_encAlu rfl x rest
  | mulh x => exact decode_encAlu rfl x rest
  | mulhu x => exact decode_encAlu rfl x rest
  | div x => exact decode_encAlu rfl x rest
  | divu x => exact decode_encAlu rfl x rest
  | rem x => exact decode_encAlu rfl x rest
  | remu x => exact decode_encAlu rfl x rest
  | and x => exact decode_encAlu rfl x rest
  | or x => exact decode_encAlu rfl x rest
  | xor x => exact decode_encAlu rfl x rest
  | andn x => exact decode_encAlu rfl x rest
  | shl x => exact decode_encAlu rfl x rest
  | shr x => exact decode_encAlu rfl x rest
  | sra x => exact decode_encAlu rfl x rest
  | rot x => exact decode_encAlu rfl x rest
  | min x => exact decode_encAlu rfl x rest
  | max x => exact decode_encAlu rfl x rest
  | minu x => exact decode_encAlu rfl x rest
  | maxu x => exact decode_encAlu rfl x rest
  | seq x => exact decode_encAlu rfl x rest
  | sne x => exact decode_encAlu rfl x rest
  | slt x => exact decode_encAlu rfl x rest
  | sltu x => exact decode_encAlu rfl x rest
  | sel x => exact decode_encSel x rest
  | addi x => exact decode_encAddi x rest
  | li x => exact decode_encLi x rest
  | clz x => exact decode_encAlu1 rfl x rest
  | ctz x => exact decode_encAlu1 rfl x rest
  | popc x => exact decode_encAlu1 rfl x rest
  | mov x => exact decode_encAlu1 rfl x rest
  | sxt x => exact decode_encXt rfl x rest
  | zxt x => exact decode_encXt rfl x rest
  | bfx x => exact decode_encBf rfl x rest
  | bfi x => exact decode_encBf rfl x rest
  | br x => exact decode_encBr rfl x rest
  | call x => exact decode_encBr rfl x rest
  | bz x => exact decode_encBz_sreg rfl x rest
  | bnz x => exact decode_encBz_sreg rfl x rest
  | beq x => exact decode_encBcc rfl x rest
  | bne x => exact decode_encBcc rfl x rest
  | blt x => exact decode_encBcc rfl x rest
  | bge x => exact decode_encBcc rfl x rest
  | bltu x => exact decode_encBcc rfl x rest
  | bgeu x => exact decode_encBcc rfl x rest
  | calli x => exact decode_encJmpi rfl x rest
  | jmpi x => exact decode_encJmpi rfl x rest
  | ret x => exact decode_ret x rest
  | nop x => exact decode_nop x rest
  | trap x => exact decode_encTrap rfl x rest
  | bkpt x => exact decode_encTrap rfl x rest
  | mfs x => exact decode_encMfs (numA := false) rfl (of_decide_eq_true hwf) rest
  | mts x => exact decode_encMfs (numA := true) rfl (of_decide_eq_true hwf) rest
  | rdcyc x => exact decode_rdcyc x rest
  | vadd x => exact decode_encV3 rfl hwf rest
  | vsub x => exact decode_encV3 rfl hwf rest
  | vmul x => exact decode_encV3 rfl hwf rest
  | vmulh x => exact decode_encV3 rfl hwf rest
  | vmin x => exact decode_encV3 rfl hwf rest
  | vmax x => exact decode_encV3 rfl hwf rest
  | vabs x => exact decode_encV2 rfl hwf (fun _ _ _ => rfl) rest
  | vand x => exact decode_encV3 rfl hwf rest
  | vor x => exact decode_encV3 rfl hwf rest
  | vxor x => exact decode_encV3 rfl hwf rest
  | vshl x => exact decode_encV3 rfl hwf rest
  | vshr x => exact decode_encV3 rfl hwf rest
  | vsra x => exact decode_encV3 rfl hwf rest
  | vadds x => exact decode_encV3 rfl hwf rest
  | vsubs x => exact decode_encV3 rfl hwf rest
  | vfadd x => exact decode_encV3 rfl hwf rest
  | vfsub x => exact decode_encV3 rfl hwf rest
  | vfmul x => exact decode_encV3 rfl hwf rest
  | vfma x => exact decode_vfma hwf rest
  | vfmin x => exact decode_encV3 rfl hwf rest
  | vfmax x => exact decode_encV3 rfl hwf rest
  | vrcp x => exact decode_encV2 rfl hwf (fun _ _ _ => rfl) rest
  | vrsq x => exact decode_encV2 rfl hwf (fun _ _ _ => rfl) rest
  | vex2 x =>
    obtain ⟨hx, hmore⟩ := wf_two hwf
    exact decode_encV2 rfl hx (fun y hrm het => by rw [hrm, het]; exact hmore) rest
  | vlg2 x => exact decode_encV2 rfl hwf (fun _ _ _ => rfl) rest
  | vcvt x => exact decode_vcvt hwf rest
  | vcmp x => exact decode_encVCmp rfl hwf rest
  | vfcmp x => exact decode_encVCmp rfl hwf rest
  | vsel x => exact decode_encV3 rfl hwf rest
  | vred x => exact decode_vred hwf rest
  | vperm x => exact decode_encV3 rfl hwf rest
  | vbcast x =>
    obtain ⟨hh, het, hmsk⟩ := wf_three hwf
    exact decode_entV_et rfl hh het (.inl rfl) hmsk (okV_of5 _) rfl rfl (by simp [XW.zero]) rest
  | vins x =>
    obtain ⟨hh, het⟩ := wf_two hwf
    exact decode_entV_et rfl hh het (.inr rfl) (longOnly_iff.2 fun _ => rfl) (okV_of5 _) rfl rfl (by simp [XW.zero]) rest
  | vext x =>
    obtain ⟨hh, het⟩ := wf_two hwf
    exact decode_entV_et rfl hh het (.inr rfl) (longOnly_iff.2 fun _ => rfl) rfl (okV_of5 _) rfl (by simp [XW.zero]) rest
  | vslide x =>
    obtain ⟨hh, het, hmsk⟩ := wf_three hwf
    exact decode_entV_et rfl hh het (.inl rfl) hmsk (okV_of5 _) (okV_of5 _) rfl (by simp [XW.zero]) rest
  | vdsx x => exact decode_vdsx hwf rest
  | vmov x => exact decode_encV2 rfl hwf (fun _ _ _ => rfl) rest
  | mand x => exact decode_encM3 rfl hwf rest
  | mor x => exact decode_encM3 rfl hwf rest
  | mxor x => exact decode_encM3 rfl hwf rest
  | mnot x => exact decode_entM rfl hwf (okM_of3 _) (okM_of3 _) rfl (fun _ => rfl) rfl (by simp) rest
  | mpop x =>
    obtain ⟨hh, het⟩ := wf_two hwf
    exact decode_encMCnt rfl hh het rest
  | mfirst x =>
    obtain ⟨hh, het⟩ := wf_two hwf
    exact decode_encMCnt rfl hh het rest
  | mma x => exact decode_encMma rfl hwf rfl rest
  | mmas x =>
    obtain ⟨hx, hmore⟩ := Mma.okS_iff.1 hwf
    exact decode_encMma rfl hx hmore rest
  | mmaBgs x =>
    obtain ⟨hext, htgt⟩ := wf_two hwf
    exact decode_encMmaBgs hext (beq_iff_eq.1 htgt) rest
  | zzero x =>
    obtain ⟨hh, het⟩ := wf_two hwf
    exact decode_entV_et rfl hh het (.inr rfl) (longOnly_iff.2 fun _ => rfl) (okM_of3 _) rfl rfl (by simp [XW.zero]) rest
  | zld x =>
    obtain ⟨hh, hm⟩ := wf_two hwf
    exact decode_entM_mem rfl hh hm (okM_of3 _) (fun _ => rfl) (by simp [Ext.ok, XW.zero, anyImm]) (by simp [XW.zero]) rest
  | zst x =>
    obtain ⟨hh, hm⟩ := wf_two hwf
    exact decode_entM_mem rfl hh hm (okM_of3 _) (fun _ => rfl) (by simp [Ext.ok, XW.zero, anyImm]) (by simp [XW.zero]) rest
  | zcvt x => exact decode_zcvt hwf rest
  | qset x =>
    obtain ⟨hh, hm, hd⟩ := wf_three hwf
    exact decode_entM_memD2 rfl hh hm (fun hb => by simp [eq_of_beq (longOnly_iff.1 hd hb)]) (okQ_of2 _) rfl (by simp [XW.zero]) rest
  | qpos x => exact decode_entM rfl hwf rfl (okQ_of2 _) rfl (fun _ => rfl) rfl (by simp) rest
  | atq x =>
    obtain ⟨hh, hm, hd⟩ := wf_three hwf
    exact decode_entM_memD2 rfl hh hm (fun hb => by simp [eq_of_beq (longOnly_iff.1 hd hb), of4]) (okC_of4 _) (okC_of4 _)
      (by simp [XW.zero]) rest
  | atc x =>
    obtain ⟨hh, hm⟩ := wf_two hwf
    exact decode_encMemA rfl rfl hh hm rest
  | atm x =>
    obtain ⟨hh, hm⟩ := wf_two hwf
    exact decode_encMemA rfl rfl hh hm rest
  | kvapp x =>
    obtain ⟨hh, hm, hd⟩ := wf_three hwf
    exact decode_entM_memD2 rfl hh hm (fun hb => by simp [eq_of_beq (longOnly_iff.1 hd hb), of4]) rfl (okC_of4 _) (by simp [XW.zero]) rest
  | kvdesc x =>
    obtain ⟨hh, hm, hd⟩ := wf_three hwf
    exact decode_entM_memD2 rfl hh hm (fun hb => by simp [eq_of_beq (longOnly_iff.1 hd hb), of4]) (okC_of4 _) (okC_of4 _)
      (by simp [XW.zero]) rest
  | ldB x => exact decode_encMemS rfl hwf rest
  | ldH x => exact decode_encMemS rfl hwf rest
  | ldW x => exact decode_encMemS rfl hwf rest
  | ldD x => exact decode_encMemS rfl hwf rest
  | stB x => exact decode_encMemS rfl hwf rest
  | stH x => exact decode_encMemS rfl hwf rest
  | stW x => exact decode_encMemS rfl hwf rest
  | stD x => exact decode_encMemS rfl hwf rest
  | ldv x => exact decode_ldv hwf rest
  | stv x => exact decode_stv hwf rest
  | ldg x => exact decode_encMemG rfl hwf rest
  | sts x => exact decode_encMemG rfl hwf rest
  | ldc x =>
    obtain ⟨hh, hord, hm⟩ := wf_three hwf
    exact decode_encMemC rfl hh hord hm rest
  | stc x =>
    obtain ⟨hh, hord, hm⟩ := wf_three hwf
    exact decode_encMemC rfl hh hord hm rest
  | pref x => exact decode_pref hwf rest
  | cpy x =>
    obtain ⟨hh, hlong⟩ := wf_two hwf
    exact decode_encCpy rfl hh hlong rest
  | cpyt x =>
    obtain ⟨hh, hlong⟩ := wf_two hwf
    exact decode_encCpy rfl hh hlong rest
  | cpyw x => exact decode_encSS rfl rfl rfl (Hd.okNr_any hwf) rest
  | amsg x =>
    obtain ⟨hh, hm, hd⟩ := wf_three hwf
    exact decode_entM_memD2 rfl hh hm (fun hb => by simp [eq_of_beq (longOnly_iff.1 hd hb), of4]) rfl (okC_of4 _) (by simp [XW.zero]) rest
  | hret x => exact decode_encZ_M rfl rfl rfl rfl (by simp) rest
  | bankmode x =>
    obtain ⟨hh, hm, hmode⟩ := wf_three hwf
    exact decode_bankmode hh hm (bne_iff_ne.1 hmode) rest
  | halo x => exact decode_entM rfl hwf (okC_of4 _) rfl rfl (fun _ => rfl) rfl (by simp) rest
  | halopush x =>
    obtain ⟨hh, hm⟩ := wf_two hwf
    exact decode_encMemA rfl rfl hh hm rest
  | fence x =>
    obtain ⟨hscope, hlong⟩ := wf_two hwf
    exact decode_fence (of_decide_eq_true hscope) hlong rest
  | engwait x =>
    obtain ⟨hh, hlong⟩ := wf_two hwf
    exact decode_entM_imm4 rfl hh rfl hlong (by simp [XW.zero]) rest
  | boc x => exact decode_boc (of_decide_eq_true hwf) rest
  | bnr x => exact decode_encBr rfl x rest
  | brdy x => exact decode_encBr rfl x rest
  | geto x => exact decode_geto hwf rest
  | yield x => exact decode_encZ_M rfl rfl rfl rfl (by simp) rest
  | park x =>
    obtain ⟨hm, hscope⟩ := wf_two hwf
    exact decode_park hm (eq_of_beq hscope) rest
  | engst x => exact decode_encZ_M rfl rfl rfl rfl (by simp) rest
  | qput x =>
    obtain ⟨hh, hm⟩ := wf_two hwf
    exact decode_encRMem rfl hh hm rest
  | qget x =>
    obtain ⟨hh, hm⟩ := wf_two hwf
    exact decode_encRMem rfl hh hm rest
  | qpeek x =>
    obtain ⟨hh, hm⟩ := wf_two hwf
    exact decode_encRMem rfl hh hm rest
  | qcnt x =>
    obtain ⟨hh, hm⟩ := wf_two hwf
    exact decode_encRMem rfl hh hm rest
  | ldsy x => exact decode_encMemS rfl hwf rest
  | stsy x => exact decode_encMemS rfl hwf rest
  | ldpk x => exact decode_encMemS rfl hwf rest
  | feset x =>
    obtain ⟨hh, hord, hm⟩ := wf_three hwf
    exact decode_feset hh hord hm rest
  | feget x => exact decode_encMemS rfl hwf rest
  | waitge x =>
    obtain ⟨hh, hord, hm, hsb⟩ := wf_four hwf
    exact decode_waitge hh hord hm hsb rest
  | waiteq x => exact decode_encMemS rfl hwf rest
  | bara x => exact decode_encBar rfl (by decide) (by decide) hwf rest
  | bart x => exact decode_encBar rfl (by decide) (by decide) hwf rest
  | barc x => exact decode_encBar rfl (by decide) (by decide) hwf rest
  | amoAdd x => exact decode_encAmo rfl hwf rest
  | amoSub x => exact decode_encAmo rfl hwf rest
  | amoMin x => exact decode_encAmo rfl hwf rest
  | amoMax x => exact decode_encAmo rfl hwf rest
  | amoMinu x => exact decode_encAmo rfl hwf rest
  | amoMaxu x => exact decode_encAmo rfl hwf rest
  | amoAnd x => exact decode_encAmo rfl hwf rest
  | amoOr x => exact decode_encAmo rfl hwf rest
  | amoXor x => exact decode_encAmo rfl hwf rest
  | amoSwp x => exact decode_encAmo rfl hwf rest
  | amocas x => exact decode_encAmo rfl hwf rest
  | redAdd x => exact decode_encRed rfl hwf rest
  | redMin x => exact decode_encRed rfl hwf rest
  | redMax x => exact decode_encRed rfl hwf rest
  | redAnd x => exact decode_encRed rfl hwf rest
  | redOr x => exact decode_encRed rfl hwf rest
  | redXor x => exact decode_encRed rfl hwf rest
  | redFadd x => exact decode_encRed rfl hwf rest
  | redw x =>
    obtain ⟨hh, hext⟩ := wf_two hwf
    exact decode_redw hh hext rest
  | cbput x =>
    obtain ⟨hh, hm⟩ := wf_two hwf
    exact decode_encCb rfl hh hm rest
  | cbget x =>
    obtain ⟨hh, hm⟩ := wf_two hwf
    exact decode_encCb rfl hh hm rest
  | cbfree x =>
    obtain ⟨hh, hext⟩ := wf_two hwf
    exact decode_entM_memD2_long rfl hh hext rfl (by simp [XW.zero]) rest
  | gang x => exact decode_entM rfl hwf rfl (okC_of4 _) rfl (fun _ => rfl) rfl (by simp) rest
  | spawn x =>
    obtain ⟨hh, hlong⟩ := wf_two hwf
    exact decode_entM_imm4 rfl hh rfl hlong (by simp [XW.zero]) rest
  | sqget x => exact decode_encSH rfl rfl rfl (Hd.okNr_any hwf) rest
  | exit x => exact decode_encZ_M rfl rfl rfl rfl (by simp) rest
  | lnch x =>
    obtain ⟨hh, hm⟩ := wf_two hwf
    exact decode_encRMem rfl hh hm rest
  | setprio x => exact decode_encZ_M rfl rfl rfl rfl (by simp) rest
  | govcfg x => exact decode_encSS rfl rfl rfl hwf rest
  | dlcfg x => exact decode_encSH rfl rfl rfl hwf rest
  | csetb x => exact decode_encCap rfl (okC_of4 _) (okC_of4 _) rfl (by simp) rest
  | cadd x =>
    exact decode_encCsrc rfl (fun _ => rfl) (fun _ => by simp) (i := fun b => .cadd { p := x.p, cd := x.cd, cs := x.cs, b := b })
      (fun _ => by simp) rest
  | csub x => exact decode_encCap rfl rfl (okC_of4 _) (okC_of4 _) (by simp) rest
  | crestr x =>
    exact decode_encCsrc rfl (fun v => by simp [isV]; omega) (fun _ => by simp)
      (i := fun b => .crestr { p := x.p, cd := x.cd, cs := x.cs, b := b }) (fun _ => by simp) rest
  | cseal x => exact decode_encCap rfl (okC_of4 _) (okC_of4 _) (okC_of4 _) (by simp) rest
  | cunseal x => exact decode_encCap rfl (okC_of4 _) (okC_of4 _) (okC_of4 _) (by simp) rest
  | cgetb x => exact decode_encCap rfl rfl (okC_of4 _) rfl (by simp) rest
  | cgetl x => exact decode_encCap rfl rfl (okC_of4 _) rfl (by simp) rest
  | cgetp x => exact decode_encCap rfl rfl (okC_of4 _) rfl (by simp) rest
  | ctag x => exact decode_encCap rfl rfl (okC_of4 _) rfl (by simp) rest
  | cclr x => exact decode_encCap rfl (okC_of4 _) (okC_of4 _) rfl (by simp) rest
  | cmov x => exact decode_encCap rfl (okC_of4 _) (okC_of4 _) rfl (by simp) rest
  | lease x =>
    obtain ⟨hh, hm⟩ := wf_two hwf
    exact decode_encRMem rfl hh hm rest
  | lrev x => exact decode_encSS rfl rfl rfl (Hd.okNr_any hwf) rest
  | xinv x => exact decode_encSS rfl rfl rfl (Hd.okNr_any hwf) rest
  | icsync x =>
    obtain ⟨hm, hscope, hlong⟩ := wf_three hwf
    exact decode_icsync hm (of_decide_eq_true hscope) hlong rest
  | imprd x =>
    obtain ⟨hh, hext⟩ := wf_two hwf
    exact decode_entM_memD2_long rfl hh hext (okC_of4 _) (by simp [XW.zero]) rest
  | plate x =>
    exact decode_entM_regs (K := fun w y => .ok (.plate { h := hdOf w y, cd := toC w.a, cs := toC w.b, sa := w.c })) rfl rfl rfl hwf
      (okC_of4 _) (okC_of4 _) rfl (by simp) rest
  | prnew x => exact decode_encSS rfl rfl rfl (Hd.okNr_any hwf) rest
  | prset x => exact decode_encSH rfl rfl rfl (Hd.okNr_any hwf) rest
  | prpass x => exact decode_encSH rfl rfl rfl (Hd.okNr_any hwf) rest
  | prcan x => exact decode_encSH rfl rfl rfl (Hd.okNr_any hwf) rest
  | prst x => exact decode_encZ_M rfl rfl rfl rfl (by simp) rest
  | prorv x => exact decode_prorv hwf rest
  | preempt x => exact decode_encSSS rfl hwf rest
  | resume x => exact decode_encSSS rfl hwf rest
  | freeze x => exact decode_encZ_M rfl rfl rfl rfl (by simp) rest
  | _ => exact absurd rfl hne

/-- Settles O58: each row of the map cites the lemma of its shape. -/
theorem everyEncodingRoundTrip : Obligations.EveryEncodingRoundTrip := by
  unfold Obligations.EveryEncodingRoundTrip
  exact decode_encode_of_wf

/-- Settles O57: each form's shape decodes to itself, and a special register's number decides at step 6. -/
theorem scalarEncodingRoundTrip : Obligations.ScalarEncodingRoundTrip := by
  unfold Obligations.ScalarEncodingRoundTrip
  intro rest
  refine ⟨?alu, ?alu1, ?bcc, (decode_encSel · rest), (decode_encXt rfl · rest), (decode_encBf rfl · rest), (decode_encBf rfl · rest),
    (decode_encAddi · rest), (decode_encLi · rest), fun x => ⟨decode_encBr rfl x rest, decode_encBr rfl x rest⟩,
    fun x => ⟨decode_encBz_sreg rfl x rest, decode_encBz_sreg rfl x rest⟩,
    fun x => ⟨decode_encJmpi rfl x rest, decode_encJmpi rfl x rest⟩,
    (decode_ret · rest), (decode_nop · rest),
    fun x => ⟨decode_encTrap rfl x rest, decode_encTrap rfl x rest⟩, (decode_rdcyc · rest),
    fun x hx => ⟨decode_encMfs (numA := false) rfl hx rest, decode_encMfs (numA := true) rfl hx rest⟩,
    fun x hx => ⟨decode_encMfs_unassigned (numA := false) rfl hx rest, decode_encMfs_unassigned (numA := true) rfl hx rest⟩⟩
  case alu =>
    intro k x hk
    simp only [Claims.twoSource, Claims.divisions, List.map_cons, List.map_nil, List.cons_append, List.nil_append, List.mem_cons,
      List.not_mem_nil, or_false] at hk
    rcases hk with rfl | rfl | rfl | rfl | rfl | rfl | rfl | rfl | rfl | rfl | rfl | rfl | rfl | rfl | rfl | rfl | rfl | rfl | rfl | rfl |
      rfl | rfl | rfl | rfl | rfl <;> exact decode_encAlu rfl x rest
  case alu1 =>
    intro k x hk
    simp only [Claims.oneSource, List.map_cons, List.map_nil, List.mem_cons, List.not_mem_nil, or_false] at hk
    rcases hk with rfl | rfl | rfl | rfl <;> exact decode_encAlu1 rfl x rest
  case bcc =>
    intro k x hk
    simp only [List.mem_cons, List.not_mem_nil, or_false] at hk
    rcases hk with rfl | rfl | rfl | rfl | rfl | rfl <;> exact decode_encBcc rfl x rest

/-- Settles O56: the decoder reads each line of words. -/
theorem wordsDecode : Obligations.WordsDecode := by
  unfold Obligations.WordsDecode
  refine ⟨?add, ?addi, ?ldW, ?csetb, ?cadd, ?mfs, ?prnew, ?prcan, ?xinv, ?resume, ?zero, ?reserved⟩ <;> decide

end Sys2Proof
end

section
/-! SUPPORT. A step's choice (R59, R79, R272, R273): what the machine settles before it leaves every master's registers, PC and o,
and a step runs the instruction that its fetch reads. -/

namespace Sys2Proof.Machine

open Sys2Proof.Claims

/-! ## Masters whose registers, PC and o stay -/

/-- What a master computes with is the same: its register files, its PC and o. -/
def SameCore (m n : Master) : Prop := SameFiles m n ∧ m.pc = n.pc ∧ m.o = n.o

theorem SameCore.refl (m : Master) : SameCore m m := ⟨⟨rfl, rfl, rfl, rfl, rfl⟩, rfl, rfl⟩

theorem SameCore.trans {a b c : Master} (h : SameCore a b) (h' : SameCore b c) : SameCore a c := by
  obtain ⟨⟨hs, hv, hm, hc, hq⟩, hpc, ho⟩ := h
  obtain ⟨⟨hs', hv', hm', hc', hq'⟩, hpc', ho'⟩ := h'
  exact ⟨⟨hs.trans hs', hv.trans hv', hm.trans hm', hc.trans hc', hq.trans hq'⟩, hpc.trans hpc', ho.trans ho'⟩

/-- Changes of all masters that keep each keep the one at a position. -/
theorem ms_mapMasters_kept (s : State) {g : Nat → Master → Master} (hg : ∀ k m, SameCore (g k m) m) (p : Nat) :
    SameCore (({ s with masters := s.masters.map fun e => (e.1, g e.1 e.2) } : State).ms p) (s.ms p) := by
  unfold State.ms Tab.get
  rw [Tab.find?_mapValues]
  cases Tab.find? s.masters p with
  | none => exact .refl _
  | some m => exact hg p m

/-- So does a change of one master. -/
theorem updM_kept (s : State) (k : Nat) {f : Master → Master} (hf : ∀ m, SameCore (f m) m) (p : Nat) :
    SameCore ((s.updM k f).ms p) (s.ms p) := by
  unfold State.updM
  rw [ms_setM]
  split
  · next h => subst h; exact hf _
  · exact .refl _

/-! ## What is settled before a step (R278, R283, R286, R439) -/

theorem unpark_kept (cyc : Nat) (m : Master) : SameCore (m.unpark cyc) m := .refl m

theorem examine_kept (s : State) (p : Nat) : SameCore (s.examine.ms p) (s.ms p) := by
  refine ms_mapMasters_kept s (g := fun k m =>
    if !m.exam then m else if m.st = .parked && !s.unmet k m then { m.unpark s.cyc with exam := false } else { m with exam := false })
    (fun k m => ?_) p
  split
  · exact .refl m
  · split <;> exact .refl m

theorem settled1_kept (s : State) (m : Master) : SameCore (s.settled1 m) m := by
  have hyield : SameCore (if m.yield.isEmpty then m else { m with yield := m.yield.filter fun p => (s.ms p).issuing }) m := by
    split <;> exact .refl m
  unfold State.settled1
  generalize (if m.yield.isEmpty then m else { m with yield := m.yield.filter fun p => (s.ms p).issuing }) = m1 at hyield ⊢
  dsimp only
  split
  · split
    · exact (unpark_kept _ m1).trans hyield
    · exact hyield
  · exact hyield

theorem slotFreed_kept (s : State) (pool p : Nat) : SameCore ((s.slotFreed pool).ms p) (s.ms p) := by
  unfold State.slotFreed
  split
  · exact .refl _
  split
  · refine updM_kept s _ (fun m => ?_) p
    exact .refl m
  · exact .refl _

theorem grantSlots_kept (s : State) (p : Nat) : SameCore (s.grantSlots.ms p) (s.ms p) := by
  have go : ∀ (l : List Nat) (s : State), SameCore ((l.foldl (fun s k => s.slotFreed (slotPool k)) s).ms p) (s.ms p) := by
    intro l
    induction l with
    | nil => exact fun s => .refl _
    | cons k l ih => exact fun s => (ih _).trans (slotFreed_kept s _ p)
  exact go _ s

theorem ready_kept (s : State) (p : Nat) : SameCore (s.ready.ms p) (s.ms p) := by
  have hsettle : SameCore (s.examine.settle.ms p) (s.examine.ms p) :=
    (grantSlots_kept _ p).trans (ms_mapMasters_kept s.examine (fun _ m => settled1_kept s.examine m) p)
  exact hsettle.trans (examine_kept s p)

@[simp] theorem ready_cyc (s : State) : s.ready.cyc = s.cyc := by obtain ⟨_, _, e⟩ := ready_eq s; rw [e]

/-! ## The issue's bookkeeping (R28, R210, R273, R286) -/

theorem issueMark_kept (s : State) (pos p : Nat) : SameCore ((s.issueMark pos).ms p) (s.ms p) := by
  have hcore : ∀ s1 : State, s1.masters = s.masters → SameCore ((({ s1 with masters := s1.masters.map fun e =>
      (e.1, if coreOf e.1 = coreOf pos && e.2.yield.contains pos then { e.2 with yield := e.2.yield.filter (· != pos) } else e.2) } :
        State).updM pos fun m => { m with issued := s.cyc + 2, hcount := if m.kind = .handler then m.hcount + 1 else m.hcount }).ms p)
      (s.ms p) := by
    intro s1 h1
    refine SameCore.trans (updM_kept _ pos (fun m => ?_) p) ?_
    · exact .refl m
    rw [show s.ms p = s1.ms p by unfold State.ms; rw [h1]]
    refine ms_mapMasters_kept s1 (g := fun k m =>
      if coreOf k = coreOf pos && m.yield.contains pos then { m with yield := m.yield.filter (· != pos) } else m) (fun k m => ?_) p
    split <;> exact .refl m
  unfold State.issueMark
  refine hcore _ ?_
  split <;> rfl

@[simp] theorem issueMark_cyc (s : State) (pos : Nat) : (s.issueMark pos).cyc = s.cyc := by
  unfold State.issueMark
  dsimp only
  split <;> rfl

/-! ## What is fetched (R79) -/

section Fetch
variable {s : State} {p : Nat}

theorem fetch_of_fetchCause {c : Nat} (h : s.fetchCause p (s.ms p).pc = some c) : s.fetch p = .fetchFault c (s.ms p).pc := by
  simp only [State.fetch, h]

theorem fetch_of_unassigned (h : s.fetchCause p (s.ms p).pc = none)
    (he : entryOf (FW.ofWord (s.fetchWord p s.cyc (s.ms p).pc)) = none) :
    s.fetch p = .unassignedOpcode (s.fetchWord p s.cyc (s.ms p).pc) 2 := by
  simp only [State.fetch, h, he]

theorem fetch_of_decode {e : Entry} {i : Instr} {rest : List W32} (h : s.fetchCause p (s.ms p).pc = none)
    (he : entryOf (FW.ofWord (s.fetchWord p s.cyc (s.ms p).pc)) = some e)
    (hpre : e.pre (FW.ofWord (s.fetchWord p s.cyc (s.ms p).pc)) = true)
    (hmay : ({ s.ms p with hcount := (s.ms p).hcount + 1 } : Master).mayIssue
      (if isHret (FW.ofWord (s.fetchWord p s.cyc (s.ms p).pc)) then .handler else entryGrp e)
      (FW.ofWord (s.fetchWord p s.cyc (s.ms p).pc)).nr = true)
    (hwords : s.fetchWords p ((s.ms p).pc + 4) (2 * (FW.ofWord (s.fetchWord p s.cyc (s.ms p).pc)).len.toNat) = none)
    (hdec : decode (s.codeWords p (s.ms p).pc (FW.ofWord (s.fetchWord p s.cyc (s.ms p).pc)).words) = .ok i rest) : s.fetch p = i := by
  simp only [State.fetch, h, he, hpre, hmay, hwords, hdec]
  rfl

end Fetch

/-! ## The choice (R272) -/

section Choice
variable {s : State}

/-- A step executes what the ready state has upcoming. -/
theorem step_of_upcoming {i : Instr} {t : State} (h : s.ready.upcoming = some (i, t)) : step s = exec i t := by
  unfold step
  rw [h]

theorem step_of_agenda {a : Act} {rest : List Act} (h : s.ready.agenda = a :: rest) :
    step s = exec a.i (({ s.ready with agenda := rest } : State).enter a.cur a.arg) :=
  step_of_upcoming (by unfold State.upcoming; rw [h])

theorem step_of_event {a : Act} (h : s.ready.agenda = []) (hm : s.ready.move = some (.inl a)) :
    step s = exec a.i (s.ready.enter a.cur a.arg) :=
  step_of_upcoming (by unfold State.upcoming; rw [h, hm])

theorem step_of_issue {p : Nat} (h : s.ready.agenda = []) (hm : s.ready.move = some (.inr p)) :
    step s = exec (s.ready.fetch p) ((s.ready.issueMark p).enter p 0) :=
  step_of_upcoming (by unfold State.upcoming; rw [h, hm])

/-- With nothing to do a cycle passes. -/
theorem step_of_idle (h : s.ready.agenda = []) (hm : s.ready.move = none) : step s = .next s.ready.tick := by
  have hnone : s.ready.upcoming = none := by unfold State.upcoming; rw [h, hm]
  unfold step
  rw [hnone]

end Choice

/-- Settles O55: a step is the choice of the ready state, and an issue executes what its fetch reads. -/
theorem stepRunsDecodedInstruction : Obligations.StepRunsDecodedInstruction := by
  unfold Obligations.StepRunsDecodedInstruction
  intro s r
  refine ⟨fun p hag hmove => ?issue, fun a rest hag => step_of_agenda hag, fun a hag hmove => step_of_event hag hmove, ?idle,
    ready_mem s, ready_vers s, ready_agenda s, ready_cyc s, ready_kept s⟩
  case issue =>
    intro pc w fw t
    obtain ⟨hfiles, hpc, -⟩ := (issueMark_kept r p p).trans (ready_kept s p)
    refine ⟨fun c hc => ?_, fun hc he => ?_, fun e i rest hc he hpre hmay hwords hdec => ?_, rfl, ?_, ?_, hpc, hfiles⟩
    · rw [step_of_issue hag hmove, fetch_of_fetchCause hc]
    · rw [step_of_issue hag hmove, fetch_of_unassigned hc he]
    · rw [step_of_issue hag hmove, fetch_of_decode hc he hpre hmay hwords hdec]
    · exact (issueMark_mem r p).trans (ready_mem s)
    · exact (issueMark_cyc r p).trans (ready_cyc s)
  case idle =>
    intro hag hmove
    rw [step_of_idle hag hmove, State.tick, show s.ready.agenda = [] from hag, List.nil_append]

end Sys2Proof.Machine
end

section
/-! SUPPORT. The machine that refutes the completion of WAITEQ at its unit (R213, R299, R304): the waiting task has a load of a
remote LS in a try mode on its way. -/

namespace Sys2Proof.Machine

open Sys2Proof.Claims

/-- WAITEQ.ACQ on a word of global memory, without a memory operand's parts. -/
def acquiringWait : MemS := { h := ⟨false, 0, false, 0⟩, ord := 1, scope := 0, sr := 1, mem := ⟨1, 0, 0, 0⟩ }

/-- A load of a byte in the mode NR = 0b01. -/
def tryLoad : MemS := { h := ⟨false, 1, false, 0⟩, ord := 0, scope := 0, sr := 2, mem := ⟨2, 0, 0, 0⟩ }

/-- The wait's request: the word at key 0 against 0. -/
def waitRequest : Req :=
  { id := 1, pos := 0, pc := 0x1000, slot := true, key := 0, bank := 0, mark := false
    k := .unit (.waiteq acquiringWait) 0 ⟨3, 0⟩ Cap.null 0 0 0, due := 0, lslot := 1, after := [], drop := false }

/-- The load's request, to the LS of core 1 of the task's cluster; its value will be kept. -/
def loadRequest : Req :=
  { id := 2, pos := 0, pc := 0x0ffc, slot := true, key := lsKey 1 0, bank := 0, mark := true
    k := .unit (.ldB tryLoad) (lsKey 1 0) ⟨1, 0x440000⟩ Cap.null 0 0 0, due := 0, lslot := 1, after := [], drop := false }

/-- A task parked on the reply of its WAITEQ.ACQ while its try-mode load is on its way; the wait's unit acts. -/
def acquiringWaiter : State :=
  { oneTask { aTask with st := .parked, park := .reply, await := true } with cur := 1, reqs := [waitRequest, loadRequest] }

theorem awaits_acquiringWaiter : Awaits acquiringWaiter waitRequest :=
  ⟨rfl, .inl rfl, rfl, rfl, rfl, by decide, .inl ⟨rfl, rfl, by decide⟩⟩

/-- The wait's conditions hold: its unit may perform it, the word is sound and has the value waited for. -/
theorem ready_acquiringWaiter :
    acquiringWaiter.unitReady waitRequest = true ∧ acquiringWaiter.ueIn Rdr.home 0 4 = none ∧ acquiringWaiter.memNat 0 4 = 0 := by
  decide

/-- Performing it marks the load's value as one that is not kept, as every acquire does. -/
theorem drops_acquiringWaiter {t : State} (h : exec .syncRemotePerform acquiringWaiter = .next t) : t.reqs.map (·.drop) = [true] := by
  have ht : t = match exec .syncRemotePerform acquiringWaiter with | .next u => u | _ => acquiringWaiter := by rw [h]
  rw [ht]
  decide

/-- Refutes O59, in the clause of SYNC_REMOTE_PERFORM: it has every other request stay as it is, but a WAITEQ that acts as an acquire
marks the value of its task's try-mode load as one that is not kept (R213, R304). -/
theorem not_everyStepAnswersANextState : ¬ Obligations.EveryStepAnswersANextState := by
  unfold Obligations.EveryStepAnswersANextState
  rintro ⟨-, -, -, -, -, hunit, -⟩
  obtain ⟨-, hwait, -⟩ := hunit acquiringWaiter waitRequest (.waiteq acquiringWait) 0 ⟨3, 0⟩ Cap.null 0 0 0 rfl
  obtain ⟨hready, hue, hword⟩ := ready_acquiringWaiter
  obtain ⟨t, hexec, -, hreqs, -⟩ :=
    hwait acquiringWait awaits_acquiringWaiter rfl hready hue (fun h => absurd h (by decide)) hword
  have hdrop := drops_acquiringWaiter hexec
  rw [hreqs] at hdrop
  exact absurd hdrop (by decide)

end Sys2Proof.Machine
end

section
/-! SUPPORT. The values of scalar instructions (spec/05): what the model's operations compute, in the arithmetic of R9 and R106 to
R110. -/

namespace Sys2Proof.Machine

open Sys2Proof.Claims

/-! ## Two sources (R106) -/

theorem sub_eq_ofInt (a b : W64) : a - b = BitVec.ofInt 64 (a.toNat - b.toNat) := by
  rw [Int.sub_eq_add_neg, BitVec.ofInt_add, BitVec.ofInt_neg]
  simp [BitVec.sub_eq_add_neg]

/-- The low six bits of a shift's second value are its count. -/
theorem shamt_eq (b : W64) : shamt b = b.toNat % 64 := by
  simp [shamt, BitVec.extractLsb'_toNat]

theorem fShl_eq (a b : W64) : fShl a b = BitVec.ofNat 64 (a.toNat * 2 ^ (b.toNat % 64)) := by
  rw [fShl, shamt_eq]
  refine BitVec.eq_of_toNat_eq ?_
  rw [BitVec.toNat_shiftLeft, BitVec.toNat_ofNat, Nat.shiftLeft_eq]

theorem fShr_eq (a b : W64) : fShr a b = BitVec.ofNat 64 (a.toNat / 2 ^ (b.toNat % 64)) := by
  rw [fShr, shamt_eq]
  refine BitVec.eq_of_toNat_eq ?_
  rw [BitVec.toNat_ushiftRight, BitVec.toNat_ofNat, Nat.shiftRight_eq_div_pow,
    Nat.mod_eq_of_lt (Nat.lt_of_le_of_lt (Nat.div_le_self ..) a.isLt)]

/-- An arithmetic shift divides the signed value and rounds down. -/
theorem sshiftRight_eq (a : W64) (n : Nat) : a.sshiftRight n = BitVec.ofInt 64 (a.toInt / 2 ^ n) := by
  rw [BitVec.sshiftRight, Int.shiftRight_eq_div_pow]
  norm_cast

theorem fSra_eq (a b : W64) : fSra a b = BitVec.ofInt 64 (a.toInt / 2 ^ (b.toNat % 64)) := by
  rw [fSra, shamt_eq, sshiftRight_eq]

theorem fRot_eq (a b : W64) : fRot a b = a.rotateLeft (b.toNat % 64) := by
  rw [fRot, shamt_eq, BitVec.rotateLeft_def, Nat.mod_mod]
  split
  · next h => rw [h, Nat.sub_zero, BitVec.shiftLeft_zero, BitVec.ushiftRight_eq_zero (Nat.le_refl 64), BitVec.or_zero]
  · rfl

/-- Choosing by `≤` is choosing by the converse `<` the other way round. -/
theorem ite_le_eq_ite_lt {α β : Type} [LinearOrder α] (x y : α) (a b : β) :
    (if x ≤ y then a else b) = if y < x then b else a := by
  simp only [← not_lt, ite_not]

/-- Where the two keys are equal so are the values, and it does not matter which is chosen. -/
theorem ite_le_eq_ite_lt_of_injective {α β : Type} [LinearOrder α] {f : β → α} (hf : Function.Injective f) (a b : β) :
    (if f a ≤ f b then b else a) = if f a < f b then b else a := by
  rcases lt_trichotomy (f a) (f b) with h | h | h
  · rw [if_pos h.le, if_pos h]
  · rw [hf h, ite_self, ite_self]
  · rw [if_neg (not_le_of_gt h), if_neg (lt_asymm h)]

theorem fMax_eq (a b : W64) : fMax a b = if a.toInt < b.toInt then b else a :=
  ite_le_eq_ite_lt_of_injective (fun _ _ => BitVec.eq_of_toInt_eq) a b

theorem fMaxu_eq (a b : W64) : fMaxu a b = if a.toNat < b.toNat then b else a :=
  ite_le_eq_ite_lt_of_injective (fun _ _ => BitVec.eq_of_toNat_eq) a b

/-! ## Divisions (R107) -/

/-- The overflowing division is that of the least value by -1. -/
theorem overflows_eq (a b : W64) : (decide (a = BitVec.ofNat 64 (2 ^ 63)) && decide (b = BitVec.allOnes 64)) =
    (decide (a.toInt = -(2 ^ 63)) && decide (b.toInt = -1)) := by
  have hleast : a = BitVec.ofNat 64 (2 ^ 63) ↔ a.toInt = -(2 ^ 63) := BitVec.toInt_inj.symm
  have hones : b = BitVec.allOnes 64 ↔ b.toInt = -1 := BitVec.toInt_inj.symm
  rw [decide_eq_decide.2 hleast, decide_eq_decide.2 hones]

theorem fRemu_eq (a b : W64) : fRemu a b =
    if b = 0 then a else BitVec.ofInt 64 (a.toNat - a.toNat / b.toNat * b.toNat) := by
  have hmod : ((a.toNat : Int) - a.toNat / b.toNat * b.toNat) = ((a.toNat % b.toNat : Nat) : Int) := by
    rw [Int.natCast_emod, Int.emod_def, mul_comm]
  rw [fRemu, hmod, BitVec.ofInt_natCast]

/-! ## Counts of bits (R109) -/

/-- A run of `f` from 0 is none, or one longer than that of its successors. -/
theorem length_takeWhile_range_succ (f : Nat → Bool) (n : Nat) : ((List.range (n + 1)).takeWhile f).length =
    if f 0 then 1 + ((List.range n).takeWhile fun i => f (i + 1)).length else 0 := by
  rw [List.range_succ_eq_map, List.takeWhile_cons]
  split
  · rw [List.length_cons, List.takeWhile_map, List.length_map, Nat.add_comm]
    rfl
  · rfl

theorem clzN_eq (a : W64) (n : Nat) : clzN a n = ((List.range n).takeWhile fun i => !a.getLsbD (n - 1 - i)).length := by
  induction n with
  | zero => rfl
  | succ n ih =>
    have hfirst : n + 1 - 1 - 0 = n := by omega
    have hnext : ∀ i, n + 1 - 1 - (i + 1) = n - 1 - i := by omega
    rw [length_takeWhile_range_succ, clzN, ih]
    simp only [hfirst, hnext]
    cases a.getLsbD n <;> rfl

theorem ctzN_eq (a : W64) {n : Nat} (hn : n ≤ 64) :
    ctzN a n = ((List.range n).takeWhile fun i => !a.getLsbD (64 - n + i)).length := by
  induction n with
  | zero => rfl
  | succ n ih =>
    have hfirst : 64 - (n + 1) + 0 = 63 - n := by omega
    have hnext : ∀ i, 64 - (n + 1) + (i + 1) = 64 - n + i := by omega
    rw [length_takeWhile_range_succ, ctzN, ih (by omega)]
    simp only [hfirst, hnext]
    cases a.getLsbD (63 - n) <;> rfl

theorem popN_eq (a : W64) (n : Nat) : popN a n = ((List.range n).filter fun i => a.getLsbD i).length := by
  induction n with
  | zero => rfl
  | succ n ih =>
    rw [List.range_succ, List.filter_append, List.length_append, popN, ih, Nat.add_comm, List.filter_singleton]
    cases a.getLsbD n <;> rfl

theorem clzN_eq_leading (a : W64) : clzN a 64 = leading a := clzN_eq a 64

theorem ctzN_eq_trailing (a : W64) : ctzN a 64 = trailing a := by
  rw [ctzN_eq a (Nat.le_refl 64), trailing]
  simp only [Nat.sub_self, Nat.zero_add]

theorem popN_eq_ones (a : W64) : popN a 64 = ones a := popN_eq a 64

/-! ## Extensions and fields (R9, R109, R110) -/

/-- A shift to the top leaves the low bits alone, as a signed value at the top. -/
theorem toInt_shiftLeft_top (a : W64) {m : Nat} (hm : m < 64) : (a <<< (63 - m)).toInt =
    (if a.toNat % 2 ^ (m + 1) < 2 ^ m then (a.toNat % 2 ^ (m + 1) : Int) else (a.toNat % 2 ^ (m + 1) : Int) - 2 ^ (m + 1)) *
      2 ^ (63 - m) := by
  have hsplit : 2 ^ 64 = 2 ^ (m + 1) * 2 ^ (63 - m) := by rw [← Nat.pow_add]; congr 1; omega
  have htop : (a <<< (63 - m)).toNat = a.toNat % 2 ^ (m + 1) * 2 ^ (63 - m) := by
    rw [BitVec.toNat_shiftLeft, Nat.shiftLeft_eq, hsplit, Nat.mul_mod_mul_right]
  have hsign : 2 * (a.toNat % 2 ^ (m + 1) * 2 ^ (63 - m)) < 2 ^ (m + 1) * 2 ^ (63 - m) ↔ a.toNat % 2 ^ (m + 1) < 2 ^ m := by
    rw [← Nat.mul_assoc, Nat.mul_lt_mul_right (Nat.two_pow_pos _)]
    omega
  rw [BitVec.toInt_eq_toNat_cond, htop, hsplit, if_congr hsign rfl rfl]
  split
  · push_cast; rfl
  · push_cast; ring

/-- Sign extension is a shift to the top and an arithmetic shift back. -/
theorem sextN_eq (a : W64) {m : Nat} (hm : m < 64) : sextN a (m + 1) = sext a (m + 1) := by
  rw [sextN, show 64 - (m + 1) = 63 - m by omega, sshiftRight_eq, toInt_shiftLeft_top a hm, Int.mul_ediv_cancel _ (by positivity)]
  rfl

theorem fBfx_eq (a : W64) (pos len : Nat) : fBfx a pos len = BitVec.ofNat 64 (a.toNat / 2 ^ pos % 2 ^ len) := by
  rw [fBfx, zextN, BitVec.toNat_ushiftRight, Nat.shiftRight_eq_div_pow]

/-- The bits of BFI's mask are those of its field. -/
theorem fieldMask_getLsbD {pos len j : Nat} (hj : j < 64) :
    (BitVec.ofNat 64 ((2 ^ len - 1) * 2 ^ pos)).getLsbD j = decide (pos ≤ j ∧ j < pos + len) := by
  rw [BitVec.getLsbD_ofNat, decide_eq_true hj, Bool.true_and, Nat.testBit_mul_two_pow, Nat.testBit_two_pow_sub_one, ← Bool.decide_and]
  exact decide_eq_decide.2 (by omega)

/-- Bit by bit: inside the field BFI gives sa's bits from 0 on, and outside the old ones. -/
theorem fBfi_getLsbD (d a : W64) (pos len : Nat) {j : Nat} (hj : j < 64) : (fBfi d a pos len).getLsbD j =
    if pos ≤ j ∧ j < pos + len then a.getLsbD (j - pos) else d.getLsbD j := by
  rw [fBfi]
  simp only [BitVec.getLsbD_or, BitVec.getLsbD_and, BitVec.getLsbD_not, BitVec.getLsbD_shiftLeft, fieldMask_getLsbD hj]
  by_cases h : pos ≤ j ∧ j < pos + len
  · have : ¬ j < pos := by omega
    simp [h, hj, this]
  · simp [h, hj]

end Sys2Proof.Machine
end

section
/-! SUPPORT. Scalar results (spec/05): that each instruction steps its master alone by the write of its value, and that a division's
value lands as it was computed. -/

namespace Sys2Proof.Machine

open Sys2Proof.Claims

/-! ## Values (R106 to R112) -/

/-- A two-source instruction steps its master by the register write of its value. -/
theorem alu_eq_stepped {s : State} (h : Issues s) (f : W64 → W64 → W64) (x : Alu) : alu f x s =
    .next (stepped s x.p (nextPc s (Src.words x.b)) (s.me.ws x.sd (f (s.me.rs x.sa) (Src.val s.me x.b)))) :=
  imm_eq_stepped h (ws_kind ..) (ws_pc ..) ..

theorem alu1_eq_stepped {s : State} (h : Issues s) (f : W64 → W64) (x : Alu1) : alu1 f x s =
    .next (stepped s x.h.p (nextPc s x.h.words) (s.me.ws x.sd (f (s.me.rs x.sa)))) :=
  imm_eq_stepped h (ws_kind ..) (ws_pc ..) ..

/-- Completing after an update of the issuing master that keeps its kind and PC is a step of that master alone. -/
theorem upd_advance_eq_stepped {s : State} (h : s.me.kind ≠ .empty) {f : Master → Master} (hk : (f s.me).kind = s.me.kind)
    (hpc : (f s.me).pc = s.me.pc) (p : Bool) (pc : W64) : (s.upd f).advance p pc = stepped s p pc (f s.me) := by
  rw [upd_eq, advance_setM_cur s (hk ▸ h) hpc]

/-- A division leaves its value on its way to sd. -/
theorem divide_eq_stepped {s : State} (h : Issues s) (f : W64 → W64 → W64) (x : Alu) : divide f x s =
    .next (stepped s x.p (nextPc s (Src.words x.b)) { s.me with div := some (x.sd.toNat, f (s.me.rs x.sa) (Src.val s.me x.b)) }) := by
  rw [divide, gate_of_mayIssue (mayIssue_any h), upd_advance_eq_stepped h.1 rfl rfl]
  rfl

/-- The instructions of R106 run as `alu` with the values that R106 gives. -/
theorem exec_twoSource {p : (Alu → Instr) × (W64 → W64 → W64)} (hp : p ∈ twoSource) :
    ∃ f, (∀ x s, exec (p.1 x) s = alu f x s) ∧ ∀ a b, f a b = p.2 a b := by
  revert p
  simp only [twoSource, List.forall_mem_cons, List.not_mem_nil, false_imp_iff, implies_true, and_true]
  refine ⟨?add, ?sub, ?mul, ?mulh, ?mulhu, ?and, ?or, ?xor, ?andn, ?shl, ?shr, ?sra, ?rot, ?min, ?max, ?minu, ?maxu, ?seq, ?sne,
    ?slt, ?sltu⟩
  case add => exact ⟨fun a b => a + b, fun _ _ => rfl, fun a b => by simp [BitVec.ofNat_add]⟩
  case sub => exact ⟨fun a b => a - b, fun _ _ => rfl, sub_eq_ofInt⟩
  case mul => exact ⟨fun a b => a * b, fun _ _ => rfl, fun a b => by simp [BitVec.ofNat_mul]⟩
  case mulh => exact ⟨fMulh, fun _ _ => rfl, fun _ _ => rfl⟩
  case mulhu => exact ⟨fMulhu, fun _ _ => rfl, fun _ _ => rfl⟩
  case and => exact ⟨fun a b => a &&& b, fun _ _ => rfl, fun _ _ => rfl⟩
  case or => exact ⟨fun a b => a ||| b, fun _ _ => rfl, fun _ _ => rfl⟩
  case xor => exact ⟨fun a b => a ^^^ b, fun _ _ => rfl, fun _ _ => rfl⟩
  case andn => exact ⟨fun a b => a &&& ~~~b, fun _ _ => rfl, fun _ _ => rfl⟩
  case shl => exact ⟨fShl, fun _ _ => rfl, fShl_eq⟩
  case shr => exact ⟨fShr, fun _ _ => rfl, fShr_eq⟩
  case sra => exact ⟨fSra, fun _ _ => rfl, fSra_eq⟩
  case rot => exact ⟨fRot, fun _ _ => rfl, fRot_eq⟩
  case min => exact ⟨fMin, fun _ _ => rfl, fun _ _ => ite_le_eq_ite_lt ..⟩
  case max => exact ⟨fMax, fun _ _ => rfl, fMax_eq⟩
  case minu => exact ⟨fMinu, fun _ _ => rfl, fun _ _ => ite_le_eq_ite_lt ..⟩
  case maxu => exact ⟨fMaxu, fun _ _ => rfl, fMaxu_eq⟩
  case seq => exact ⟨fun a b => b2w (a = b), fun _ _ => rfl, fun _ _ => rfl⟩
  case sne => exact ⟨fun a b => b2w (a ≠ b), fun _ _ => rfl, fun _ _ => rfl⟩
  case slt => exact ⟨fun a b => b2w (a.toInt < b.toInt), fun _ _ => rfl, fun _ _ => rfl⟩
  case sltu => exact ⟨fun a b => b2w (a.toNat < b.toNat), fun _ _ => rfl, fun _ _ => rfl⟩

/-- Settles O1: each runs as `alu` with the value that R106 gives. -/
theorem twoSourceResults : Obligations.TwoSourceResults := by
  unfold Obligations.TwoSourceResults
  intro s x p hp h
  obtain ⟨f, hexec, hval⟩ := exec_twoSource hp
  rw [hexec, alu_eq_stepped h, hval]

/-! ## Divisions (R107, R102) -/

/-- The instructions of R107 run as `divide` with the values that R107 gives. -/
theorem exec_divisions {p : (Alu → Instr) × (W64 → W64 → W64)} (hp : p ∈ divisions) :
    ∃ f, (∀ x s, exec (p.1 x) s = divide f x s) ∧ ∀ a b, f a b = p.2 a b := by
  revert p
  simp only [divisions, List.forall_mem_cons, List.not_mem_nil, false_imp_iff, implies_true, and_true]
  refine ⟨?div, ?rem, ?divu, ?remu⟩
  case div => exact ⟨fDiv, fun _ _ => rfl, fun a b => by rw [fDiv, overflows_eq]⟩
  case rem => exact ⟨fRem, fun _ _ => rfl, fun a b => by rw [fRem, overflows_eq, Int.tmod_def, mul_comm]⟩
  case divu => exact ⟨fDivu, fun _ _ => rfl, fun _ _ => rfl⟩
  case remu => exact ⟨fRemu, fun _ _ => rfl, fRemu_eq⟩

/-- Of a master not at its end, a marker's wake may end the wait and changes nothing else. -/
theorem markerWake_cases {s : State} {pos : Nat} (h : (s.ms pos).exiting = false) : s.markerWake pos = s ∨
    ∃ place, s.markerWake pos = s.setM pos { (s.ms pos).unpark s.cyc with place := place } := by
  have hwake : ∀ f : Master → Master, (∃ place, f (s.ms pos) = { (s.ms pos).unpark s.cyc with place := place }) →
      ∃ place, s.updM pos f = s.setM pos { (s.ms pos).unpark s.cyc with place := place } :=
    fun f ⟨place, hf⟩ => ⟨place, congrArg (s.setM pos) hf⟩
  unfold State.markerWake
  dsimp only
  rw [h]
  simp only [Bool.false_eq_true, if_false]
  split
  · exact .inl rfl
  · split
    · exact .inr (hwake _ ⟨_, rfl⟩)
    · split
      · exact .inl rfl
      · exact .inr (hwake _ ⟨0, rfl⟩)
    · split
      · exact .inr (hwake _ ⟨_, rfl⟩)
      · exact .inl rfl
    · exact .inl rfl

/-- So its registers, its pending division and memory stay. -/
theorem markerWake_kept {s : State} (h : s.me.exiting = false) :
    (s.markerWake s.cur).mem = s.mem ∧ (s.markerWake s.cur).me.div = s.me.div ∧ ∀ i, (s.markerWake s.cur).me.rs i = s.me.rs i := by
  rcases markerWake_cases h with e | ⟨place, e⟩
  · rw [e]
    exact ⟨rfl, rfl, fun _ => rfl⟩
  · rw [e, me_setM_cur]
    exact ⟨rfl, rfl, fun _ => rfl⟩

/-- DIVIDE_RESULT_WRITE writes the value on its way and may end the wait for it. -/
theorem exec_divideResultWrite {s : State} {r : SReg} {v : W64} (h : s.me.div = some (r.toNat, v)) :
    exec .divideResultWrite s = .next ((s.upd fun m => { m.ws r v with div := none }).markerWake s.cur) := by
  rw [show exec .divideResultWrite s = execDivideResultWrite s from rfl, execDivideResultWrite, h]
  simp only [BitVec.ofNat_toNat, BitVec.setWidth_eq]

/-- Settles O2: each runs as `divide` with the value that R107 gives, and the later write is one of sd alone. -/
theorem divisionResults : Obligations.DivisionResults := by
  unfold Obligations.DivisionResults
  refine ⟨?issue, ?result⟩
  case issue =>
    intro s x p hp h
    obtain ⟨f, hexec, hval⟩ := exec_divisions hp
    rw [hexec, divide_eq_stepped h, hval]
  case result =>
    rintro s r v - hexit hdiv
    obtain ⟨hmem, hdone, hregs⟩ := markerWake_kept (s := s.upd fun m => { m.ws r v with div := none }) (by simpa using hexit)
    refine ⟨_, exec_divideResultWrite hdiv, ?_, hmem, fun i => ?_⟩
    · exact hdone.trans (by rw [me_upd])
    · refine (hregs i).trans ?_
      rw [me_upd]
      exact rs_ws s.me r i v

/-! ## One source, fields and constants (R108 to R112) -/

/-- The instructions of R109 run as `alu1` with the values that R109 gives. -/
theorem exec_oneSource {p : (Alu1 → Instr) × (W64 → W64)} (hp : p ∈ oneSource) :
    ∃ f, (∀ x s, exec (p.1 x) s = alu1 f x s) ∧ ∀ a, f a = p.2 a := by
  revert p
  simp only [oneSource, List.forall_mem_cons, List.not_mem_nil, false_imp_iff, implies_true, and_true]
  exact ⟨⟨fun a => BitVec.ofNat 64 (clzN a 64), fun _ _ => rfl, fun a => congrArg _ (clzN_eq_leading a)⟩,
    ⟨fun a => BitVec.ofNat 64 (ctzN a 64), fun _ _ => rfl, fun a => congrArg _ (ctzN_eq_trailing a)⟩,
    ⟨fun a => BitVec.ofNat 64 (popN a 64), fun _ _ => rfl, fun a => congrArg _ (popN_eq_ones a)⟩,
    ⟨fun a => a, fun _ _ => rfl, fun _ => rfl⟩⟩

/-- An immediate instruction that writes one s register steps its master by that write. -/
theorem imm_ws_eq_stepped {s : State} (h : Issues s) (p : Bool) (words : Nat) (d : SReg) (f : Master → W64) :
    (s.imm p words fun m => m.ws d (f m)) = .next (stepped s p (nextPc s words) (s.me.ws d (f s.me))) :=
  imm_eq_stepped h (ws_kind ..) (ws_pc ..) ..

/-- Settles O3: each is an immediate write of sd, with the value that R108 to R112 give. -/
theorem oneSourceAndFieldResults : Obligations.OneSourceAndFieldResults := by
  unfold Obligations.OneSourceAndFieldResults
  intro s h
  refine ⟨fun x => ?sel, fun x p hp => ?oneSource, fun x => ?sxt, fun x => ?zxt, fun x => ?bfx, fun x => ?bfi, fun x => ?addi,
    fun x => ?li⟩
  case sel => exact imm_ws_eq_stepped h ..
  case oneSource =>
    obtain ⟨f, hexec, hval⟩ := exec_oneSource hp
    rw [hexec, alu1_eq_stepped h, hval]
  case sxt =>
    rw [← sextN_eq _ x.n1.isLt]
    exact imm_ws_eq_stepped h ..
  case zxt => exact imm_ws_eq_stepped h ..
  case bfx =>
    rw [← fBfx_eq]
    exact imm_ws_eq_stepped h ..
  case bfi => exact ⟨_, imm_ws_eq_stepped h .., fun j hj => fBfi_getLsbD _ _ _ _ hj⟩
  case addi => exact imm_ws_eq_stepped h ..
  case li => exact imm_ws_eq_stepped h ..

end Sys2Proof.Machine
end

section
/-! SUPPORT. Control (spec/05, spec/14): that a branch or a jump steps its master alone to where it leads, and that a jump faults at the
first check of its capability that fails. -/

namespace Sys2Proof.Machine

open Sys2Proof.Claims

/-! ## Branches (R113, R114, R116, R284) -/

/-- Completing alone steps the master as it is. -/
theorem advance_eq_stepped {s : State} (hk : s.me.kind ≠ .empty) (p : Bool) (pc : W64) : s.advance p pc = stepped s p pc s.me := by
  have hdone : (s.setM s.cur s.me).upd (fun m => m.complete pc) = s.upd fun m => m.complete pc := by
    rw [upd_eq, me_setM_cur]
    exact setM_setM _ _ _ _ (Master.ne_empty _ hk)
  rw [← advance_setM_cur s hk rfl, State.advance, State.advance, hdone, me_setM_cur]

/-- A direct branch that its slot may issue goes to its target where it is taken, and else on. -/
theorem branch_eq_stepped {s : State} {g : Grp} (hmay : s.me.mayIssue g 0 = true) (hk : s.me.kind ≠ .empty) (p : Bool) {n : Nat}
    (off : Off n) (taken : Master → Bool) :
    branch g p off taken s = .next (stepped s p (if taken s.me then target s off else nextPc s (Off.words off)) s.me) := by
  rw [branch, gate_of_mayIssue hmay]
  exact congrArg _ (advance_eq_stepped hk ..)

theorem branch_any_eq_stepped {s : State} (h : Issues s) (p : Bool) {n : Nat} (off : Off n) (taken : Master → Bool) :
    branch .any p off taken s = .next (stepped s p (if taken s.me then target s off else nextPc s (Off.words off)) s.me) :=
  branch_eq_stepped (mayIssue_any h) h.1 p off taken

theorem branch_noHandler_eq_stepped {s : State} (h : NoHandler s) (p : Bool) {n : Nat} (off : Off n) (taken : Master → Bool) :
    branch .noHandler p off taken s = .next (stepped s p (if taken s.me then target s off else nextPc s (Off.words off)) s.me) :=
  branch_eq_stepped (mayIssue_noHandler h) (kind_ne_empty_of_noHandler h) p off taken

theorem branch_of_handler {s : State} (h : s.me.kind = .handler) (p : Bool) {n : Nat} (off : Off n) (taken : Master → Bool) :
    branch .noHandler p off taken s = .next (illegal 2 s) := by
  rw [branch, gate_of_not_mayIssue (not_mayIssue_noHandler h)]

theorem exec_beq (x : Bcc) (s : State) : exec (.beq x) s = execBeq x s := rfl
theorem exec_bne (x : Bcc) (s : State) : exec (.bne x) s = execBne x s := rfl
theorem exec_blt (x : Bcc) (s : State) : exec (.blt x) s = execBlt x s := rfl
theorem exec_bge (x : Bcc) (s : State) : exec (.bge x) s = execBge x s := rfl
theorem exec_bltu (x : Bcc) (s : State) : exec (.bltu x) s = execBltu x s := rfl
theorem exec_bgeu (x : Bcc) (s : State) : exec (.bgeu x) s = execBgeu x s := rfl
theorem exec_bz (x : Bz) (s : State) : exec (.bz x) s = execBz x s := rfl
theorem exec_bnz (x : Bz) (s : State) : exec (.bnz x) s = execBnz x s := rfl
theorem exec_br (x : Br) (s : State) : exec (.br x) s = execBr x s := rfl
theorem exec_nop (x : Pl) (s : State) : exec (.nop x) s = execNop x s := rfl
theorem exec_boc (x : Boc) (s : State) : exec (.boc x) s = execBoc x s := rfl
theorem exec_bnr (x : Br) (s : State) : exec (.bnr x) s = execBnr x s := rfl
theorem exec_brdy (x : Br) (s : State) : exec (.brdy x) s = execBrdy x s := rfl

theorem exec_call {s : State} (h : Issues s) (x : Br) : exec (.call x) s =
    .next (stepped s x.p (target s x.off) (s.me.ws 63 (nextPc s (Off.words x.off)))) := by
  rw [show exec (.call x) s = execCall x s from rfl, execCall, gate_of_mayIssue (mayIssue_any h),
    upd_advance_eq_stepped h.1 (ws_kind ..) (ws_pc ..)]
  rfl

theorem exec_ret {s : State} (h : Issues s) (x : S1) : exec (.ret x) s = .next (stepped s x.h.p (s.me.rs x.sr &&& ~~~3) s.me) := by
  rw [show exec (.ret x) s = execRet x s from rfl, execRet, gate_of_mayIssue (mayIssue_any h)]
  exact congrArg _ (advance_eq_stepped h.1 ..)

/-- BNR is taken on the codes 0x1 to 0x7. -/
theorem isNotReady_iff (o : BitVec 4) : isNotReady o = true ↔ 1 ≤ o.toNat ∧ o.toNat ≤ 7 := by
  rw [isNotReady, Bool.and_eq_true, decide_eq_true_iff, decide_eq_true_iff]

/-- Settles O4: each is a branch by its condition, or a step to its target. -/
theorem branchesGoWhereTheySay : Obligations.BranchesGoWhereTheySay := by
  unfold Obligations.BranchesGoWhereTheySay
  intro s h
  refine ⟨fun x => ?bcc, fun x => ?bz, fun x => ?bnz, fun x => ?br, exec_call h, exec_ret h, fun x => ?nop, fun hn => ?outcome,
    fun hh b x => ?handler⟩
  case bcc =>
    exact ⟨(exec_beq x s).trans (branch_any_eq_stepped h ..), (exec_bne x s).trans (branch_any_eq_stepped h ..),
      (exec_blt x s).trans (branch_any_eq_stepped h ..), (exec_bge x s).trans (branch_any_eq_stepped h ..),
      (exec_bltu x s).trans (branch_any_eq_stepped h ..), (exec_bgeu x s).trans (branch_any_eq_stepped h ..)⟩
  case bz =>
    rw [exec_bz, execBz, branch_any_eq_stepped h]
    simp only [decide_eq_true_eq]
  case bnz =>
    rw [exec_bnz, execBnz, branch_any_eq_stepped h]
    simp only [decide_eq_true_eq, ne_eq, ite_not]
  case br => rw [exec_br, execBr, branch_any_eq_stepped h, if_pos rfl]
  case nop => rw [exec_nop, execNop, imm_eq_stepped h rfl rfl]
  case outcome =>
    refine ⟨fun x => ?boc, fun x => ?bnr, fun x => ?brdy⟩
    case boc =>
      rw [exec_boc, execBoc, branch_noHandler_eq_stepped hn]
      simp only [decide_eq_true_eq]
    case bnr =>
      rw [exec_bnr, execBnr, branch_noHandler_eq_stepped hn]
      simp only [isNotReady_iff]
    case brdy =>
      rw [exec_brdy, execBrdy, branch_noHandler_eq_stepped hn]
      simp only [decide_eq_true_eq]
      rfl
  case handler =>
    rw [exec_boc, exec_bnr, exec_brdy, execBoc, execBnr, execBrdy]
    exact ⟨branch_of_handler hh .., branch_of_handler hh .., branch_of_handler hh ..⟩

/-! ## Jumps through code capabilities (R115) -/

section CodeFlt
variable {c : Cap} {tgt : W64} (opn : Nat)

/-- A clear tag is CAPTAG. -/
theorem codeFlt_of_untagged (htag : c.tag = false) : codeFlt opn c tgt = some (capFlt cCaptag 1 opn c tgt.toNat) := by
  simp [codeFlt, htag]

/-- Of a tagged capability a seal or no EXEC is CAPPERM. -/
theorem codeFlt_of_not_permitted (htag : c.tag = true) (hperm : c.sealT ≠ 0 ∨ c.has [pExec] = false) :
    codeFlt opn c tgt = some (capFlt cCapperm 2 opn c tgt.toNat) := by
  simp [codeFlt, htag, hperm]

/-- Of an unsealed one with EXEC another space than CODE is SPACE. -/
theorem codeFlt_of_other_space (htag : c.tag = true) (hseal : c.sealT = 0) (hexec : c.has [pExec] = true) (hspace : c.space ≠ 4) :
    codeFlt opn c tgt = some (capFlt cSpace 3 opn c tgt.toNat) := by
  simp [codeFlt, htag, hseal, hexec, hspace]

/-- Of one of space CODE a word outside its bounds is CAPBOUND. -/
theorem codeFlt_of_out_of_bounds (htag : c.tag = true) (hseal : c.sealT = 0) (hexec : c.has [pExec] = true) (hspace : c.space = 4)
    (hbound : tgt.toNat < c.base ∨ c.top < tgt.toNat + 4) : codeFlt opn c tgt = some (capFlt cCapbound 5 opn c tgt.toNat) := by
  simp [codeFlt, htag, hseal, hexec, hspace, hbound]

/-- A code capability over the word passes them all. -/
theorem codeFlt_of_codeOk (h : CodeOk c tgt) : codeFlt opn c tgt = none := by
  obtain ⟨htag, hseal, hexec, hspace, hbase, htop⟩ := h
  simp [codeFlt, htag, hseal, hexec, hspace, hbase, htop]

end CodeFlt

/-- A jump whose checks fail faults, with and without a link alike. -/
theorem jumpi_of_fault {s : State} (h : Issues s) {x : Jmpi} {f : Flt}
    (hf : codeFlt 0 (s.me.rc x.cN) (wordAddr (s.me.rs x.sa)) = some f) (link : Bool) : jumpi link x s = .next (s.fault f) := by
  rw [jumpi, gate_of_mayIssue (mayIssue_any h)]
  dsimp only
  rw [hf]

theorem jumpi_link {s : State} (h : Issues s) {x : Jmpi} (hc : CodeOk (s.me.rc x.cN) (wordAddr (s.me.rs x.sa))) :
    jumpi true x s = .next (stepped s x.h.p (wordAddr (s.me.rs x.sa)) (s.me.ws 63 (nextPc s x.h.words))) := by
  rw [jumpi, gate_of_mayIssue (mayIssue_any h)]
  dsimp only
  rw [codeFlt_of_codeOk 0 hc]
  exact congrArg _ (upd_advance_eq_stepped h.1 (ws_kind ..) (ws_pc ..) ..)

theorem jumpi_no_link {s : State} (h : Issues s) {x : Jmpi} (hc : CodeOk (s.me.rc x.cN) (wordAddr (s.me.rs x.sa))) :
    jumpi false x s = .next (stepped s x.h.p (wordAddr (s.me.rs x.sa)) s.me) := by
  rw [jumpi, gate_of_mayIssue (mayIssue_any h)]
  dsimp only
  rw [codeFlt_of_codeOk 0 hc]
  exact congrArg _ (advance_eq_stepped h.1 ..)

/-- Where the fields of a first word stand (R60). -/
theorem encZ_fields (op f : Nat) (h : Pl) (a b c : BitVec 6) : let w := (encZ op f h a b c).headD 0
    w.extractLsb' 5 7 = BitVec.ofNat 7 op ∧ w.extractLsb' 30 2 = BitVec.ofNat 2 f ∧ w.extractLsb' 12 6 = a ∧
      w.extractLsb' 18 6 = b := by
  have hw : FW.ofWord ((encZ op f h a b c).headD 0) = FW.ofHd op f h.toHd a b c := by
    rw [encZ_eq, List.headD_cons, FW.ofWord_toWord]
  exact ⟨congrArg FW.op hw, congrArg FW.f hw, congrArg FW.a hw, congrArg FW.b hw⟩

/-- Settles O5: a jump goes on where the checks of its capability pass, and else faults at the first that fails. -/
theorem jumpsThroughCodeCapabilities : Obligations.JumpsThroughCodeCapabilities := by
  unfold Obligations.JumpsThroughCodeCapabilities
  refine ⟨fun s x h hc => ⟨jumpi_link h hc, jumpi_no_link h hc⟩, fun s x h => ?stops, ?encoding⟩
  case stops =>
    intro c tgt stops
    have hstop : ∀ {f : Flt}, codeFlt 0 c (s.me.rs x.sa &&& ~~~3) = some f → stops f.cause :=
      fun hf => ⟨_, rfl, jumpi_of_fault h hf true, jumpi_of_fault h hf false⟩
    have hclear : c.tag = false → stops 0x02 := fun htag => hstop (codeFlt_of_untagged 0 htag)
    refine ⟨hclear, fun htag hperm => hstop (codeFlt_of_not_permitted 0 htag hperm),
      fun htag hseal hexec hspace => hstop (codeFlt_of_other_space 0 htag hseal hexec hspace),
      fun htag hseal hexec hspace hbound => hstop (codeFlt_of_out_of_bounds 0 htag hseal hexec hspace hbound),
      fun h0 => hclear ?_⟩
    rw [show c = s.me.rc x.cN from rfl, h0]
    rfl
  case encoding =>
    intro x i f hi w
    rcases hi with ⟨rfl, rfl⟩ | ⟨rfl, rfl⟩
    · exact encZ_fields ..
    · exact encZ_fields ..

end Sys2Proof.Machine
end

section
/-! SUPPORT. BKPT (spec/05, spec/25): its packet is the one of a fault, with a ROUND of 64 bits. -/

namespace Sys2Proof.Machine

open Sys2Proof.Claims

/-- BKPT is a fault with its code as detail word 0. -/
theorem exec_bkpt {s : State} (h : Issues s) (x : Trap) :
    exec (.bkpt x) s = .next (s.fault { cause := cBkpt, d0 := Off.code x.code }) := by
  rw [show exec (.bkpt x) s = execBkpt x s from rfl, execBkpt, trap, gate_of_mayIssue (mayIssue_any h)]
  rfl

/-- A breakpoint without the switch marker, of code 0. -/
def breakpoint : Trap := { p := false, code := .base 0 }

/-- Refutes O7, in the packet's ROUND: the claim bounds no round, and has the packet name the master's round as a number; a packet's
ROUND has 64 bits (R434), so the packet of a BKPT in round 2^64 names round 0. -/
theorem not_trapAndBreakpointFreeze : ¬ Obligations.TrapAndBreakpointFreeze := by
  unfold Obligations.TrapAndBreakpointFreeze
  intro hclaim
  have hissues : Issues lateRound := by
    unfold Issues
    decide
  obtain ⟨-, t, p, hexec, ht, -, -, -, -, -, -, -, -, hround⟩ := hclaim lateRound breakpoint hissues
  rw [exec_bkpt hissues] at hexec
  cases hexec
  have hpkts := congrArg (fun u : State => (u.die (dieOf lateRound.cur)).pkts) ht
  dsimp only at hpkts
  rw [fault_pkts lateRound (by decide), die_setDie_same] at hpkts
  obtain rfl := List.singleton_inj.1 (List.append_cancel_left hpkts)
  rw [packet_round] at hround
  exact absurd hround (by decide)

end Sys2Proof.Machine
end

section
/-! SUPPORT. Engine queues (spec/06, spec/07): what the acceptance of a job and its completion change of the task, and that the VXE's
commands change register files alone. -/

namespace Sys2Proof.Machine

open Sys2Proof.Claims

/-! ## Queues (R125) -/

theorem sameFiles_trans {a b c : Master} (h : SameFiles a b) (h' : SameFiles b c) : SameFiles a c := by
  obtain ⟨hs, hv, hm, hc, hq⟩ := h
  obtain ⟨gs, gv, gm, gc, gq⟩ := h'
  exact ⟨hs.trans gs, hv.trans gv, hm.trans gm, hc.trans gc, hq.trans gq⟩

/-- A queue read after a write of one. -/
theorem setQueue_queue (m : Master) {e f : Nat} (he : e < 4) (hf : f < 4) (q : List Job) :
    (m.setQueue e q).queue f = if f = e then q else m.queue f := by
  interval_cases e <;> interval_cases f <;> rfl

/-- Replacing a queue changes no other part of the master. -/
theorem setQueue_eq (m : Master) (e : Nat) (q : List Job) :
    ∃ vxe mxe cpe att, m.setQueue e q = { m with vxe := vxe, mxe := mxe, cpe := cpe, att := att } := by
  unfold Master.setQueue
  split
  · exact ⟨q, m.mxe, m.cpe, m.att, rfl⟩
  · split
    · exact ⟨m.vxe, q, m.cpe, m.att, rfl⟩
    · split
      · exact ⟨m.vxe, m.mxe, q, m.att, rfl⟩
      · exact ⟨m.vxe, m.mxe, m.cpe, q, rfl⟩

theorem setQueue_files (m : Master) (e : Nat) (q : List Job) : SameFiles (m.setQueue e q) m := by
  obtain ⟨_, _, _, _, h⟩ := setQueue_eq m e q
  rw [h]
  exact ⟨rfl, rfl, rfl, rfl, rfl⟩
theorem setQueue_specials (m : Master) (e : Nat) (q : List Job) : SameSpecials (m.setQueue e q) m := by
  obtain ⟨_, _, _, _, h⟩ := setQueue_eq m e q
  rw [h]
  exact ⟨rfl, rfl, rfl, rfl, rfl, rfl, rfl, rfl, rfl, rfl⟩
theorem setQueue_pc (m : Master) (e : Nat) (q : List Job) : (m.setQueue e q).pc = m.pc := by
  obtain ⟨_, _, _, _, h⟩ := setQueue_eq m e q
  rw [h]
theorem setQueue_o (m : Master) (e : Nat) (q : List Job) : (m.setQueue e q).o = m.o := by
  obtain ⟨_, _, _, _, h⟩ := setQueue_eq m e q
  rw [h]
theorem setQueue_pend (m : Master) (e : Nat) (q : List Job) : (m.setQueue e q).pend = m.pend := by
  obtain ⟨_, _, _, _, h⟩ := setQueue_eq m e q
  rw [h]
theorem setQueue_exiting (m : Master) (e : Nat) (q : List Job) : (m.setQueue e q).exiting = m.exiting := by
  obtain ⟨_, _, _, _, h⟩ := setQueue_eq m e q
  rw [h]

/-! ## Acceptance (R125, R207) -/

/-- The job that acceptance places. -/
def acceptedJob (s : State) (e : Nat) (k : JobK) (rd wr : List Fp) : Job :=
  { k := k, pc := s.me.pc, ord := (s.core (coreOf s.cur)).ord, proof := s.me.proof, acc := s.me.proof, dead := false, unit := 0
    held := false, bad := false, rd := rd, wr := wr, seen := [], res := none, kd := none
    after := s.behind s.cur ++ if e = 3 then s.observed s.cur else [], at' := s.cyc }

theorem enqueue_me (s : State) (e : Nat) (k : JobK) (rd wr : List Fp) :
    (s.enqueue e k rd wr).me = s.me.setQueue e (s.me.queue e ++ [acceptedJob s e k rd wr]) := me_setM_cur s _

theorem enqueue_ms_ne (s : State) (e : Nat) (k : JobK) (rd wr : List Fp) {p : Nat} (h : p ≠ s.cur) :
    (s.enqueue e k rd wr).ms p = s.ms p := (ms_setM s s.cur _ p).trans (if_neg h)

/-- Completing leaves the register files, special registers, PEND and queues of the issuing master. -/
theorem advance_me_kept (s : State) (p : Bool) (pc : W64) : SameFiles (s.advance p pc).me s.me ∧ SameSpecials (s.advance p pc).me s.me ∧
    (s.advance p pc).me.pend = s.me.pend ∧ ∀ f, (s.advance p pc).me.queue f = s.me.queue f := by
  have hkept : ∀ m, m = s.me.complete pc ∨ m = (s.me.complete pc).parkOn s.cyc s.nextPlace .marker 0xF s.me.pc →
      SameFiles m s.me ∧ SameSpecials m s.me ∧ m.pend = s.me.pend ∧ ∀ f, m.queue f = s.me.queue f := by
    rintro m (rfl | rfl) <;>
      exact ⟨⟨rfl, rfl, rfl, rfl, rfl⟩, ⟨rfl, rfl, rfl, rfl, rfl, rfl, rfl, rfl, rfl, rfl⟩, rfl, fun _ => rfl⟩
  exact hkept _ (advance_me s p pc)

/-- Completing with RDY is completing after o is written, in the modes that write it (R275). -/
theorem done_eq_advance (s : State) (h : Hd) (words : Nat) :
    s.done h words = (s.setM s.cur { s.me with o := rdy s h }).advance h.p (s.me.next words) ∨
    rdy s h = s.me.o ∧ s.done h words = s.advance h.p (s.me.next words) := by
  by_cases hn : h.nr = 0
  · exact .inr ⟨if_pos hn, by rw [State.done, if_pos hn]⟩
  · refine .inl ?_
    rw [State.done, if_neg hn, show rdy s h = oRdy from if_neg hn]
    rfl

/-- Completing with RDY goes on to the next instruction and changes nothing else (R275). -/
theorem done_kept (s : State) (h : Hd) (words : Nat) : (s.done h words).cur = s.cur ∧ (s.done h words).tiles = s.tiles ∧
    (s.done h words).ztag = s.ztag ∧ (s.done h words).me.pc = s.me.next words ∧ (s.done h words).me.o = rdy s h ∧
    SameFiles (s.done h words).me s.me ∧ SameSpecials (s.done h words).me s.me ∧ (s.done h words).me.pend = s.me.pend ∧
    (∀ f, (s.done h words).me.queue f = s.me.queue f) ∧ ∀ p, p ≠ s.cur → (s.done h words).ms p = s.ms p := by
  rcases done_eq_advance s h words with e | ⟨ho, e⟩
  · have hother : ∀ p, p ≠ s.cur → ((s.setM s.cur { s.me with o := rdy s h }).advance h.p (s.me.next words)).ms p = s.ms p :=
      fun p hp => by rw [advance_ms_ne _ _ _ (by exact hp), ms_setM, if_neg hp]
    have ho := advance_me_o (s.setM s.cur { s.me with o := rdy s h }) h.p (s.me.next words)
    have hkept := advance_me_kept (s.setM s.cur { s.me with o := rdy s h }) h.p (s.me.next words)
    rw [me_setM_cur] at hkept ho
    obtain ⟨hfiles, hspecials, hpend, hqueue⟩ := hkept
    rw [e]
    exact ⟨advance_cur .., advance_tiles .., advance_ztag .., advance_me_pc .., ho, hfiles, hspecials, hpend, hqueue, hother⟩
  · have ho' := advance_me_o s h.p (s.me.next words)
    obtain ⟨hfiles, hspecials, hpend, hqueue⟩ := advance_me_kept s h.p (s.me.next words)
    rw [e, ho]
    exact ⟨advance_cur .., advance_tiles .., advance_ztag .., advance_me_pc .., ho', hfiles, hspecials,
      hpend, hqueue, fun p hp => advance_ms_ne s h.p _ hp⟩

/-- A task whose queue `e` has a free entry has its job accepted, and nothing else of the machine changes (R125, R275). -/
theorem accept_queued {s : State} {e : Nat} (he : e < 4) (hlen : (s.me.queue e).length < 2) (h : Hd) (words : Nat) (k : JobK)
    (rd wr : List Fp) : Queued s (s.accept h words e k rd wr) e k words h := by
  have hfull : s.engFull e = false := decide_eq_false (by omega)
  obtain ⟨hcur, htiles, hztag, hpc, ho, hfiles, hspecials, hpend, hqueue, hms⟩ :=
    done_kept (s.enqueue e k rd wr) h words
  simp only [rdy, Master.next, enqueue_me, setQueue_pc, setQueue_o, setQueue_pend] at hpc ho hfiles hspecials hpend hqueue
  rw [State.accept, hfull, if_neg Bool.false_ne_true]
  refine ⟨hcur, done_mem .., done_vers .., htiles, hztag, ?_, hpc, ho, sameFiles_trans hfiles (setQueue_files ..), ?_, hpend,
    fun f hf hne => ?_, fun p hp => ?_, acceptedJob s e k rd wr, ?_, rfl, rfl, rfl, rfl⟩
  · rw [done_reqs]
    rfl
  · have hsq := setQueue_specials s.me e (s.me.queue e ++ [acceptedJob s e k rd wr])
    unfold SameSpecials at hspecials hsq ⊢
    simp only [hspecials, hsq, and_self]
  · rw [hqueue, setQueue_queue _ he hf, if_neg hne]
  · exact (hms p hp).trans (enqueue_ms_ne s e k rd wr hp)
  · rw [hqueue, setQueue_queue _ he he, if_pos rfl]

/-! ## Vector instructions (R125, R126) -/

theorem vxe_queued {s : State} (hk : IsTask s) (hfree : (s.me.queue 0).length < 2) (h : Hd) (i : Instr) (a b : Master → W64) :
    ∃ t, vxe h i a b s = .next t ∧ Queued s t 0 (.vxe i (a s.me) (b s.me)) h.words h :=
  ⟨_, gate_of_mayIssue (mayIssue_task hk .engine h.nr) _, accept_queued (by decide) hfree h h.words _ [] []⟩

/-- Acceptance samples the s operands at issue (R126). -/
theorem vxe_sampled (h : Hd) (i : Instr) (a b : Master → W64) (s : State) :
    vxe h i a b s = vxe h i (fun _ => a s.me) (fun _ => b s.me) s := by
  unfold vxe
  rfl

/-- The instructions of spec/06 run as `vxe`, with the s operands that R126 samples. -/
theorem exec_vxeForm {s : State} {i : Instr} {h : Hd} {a b : W64} (hi : vxeForm i s.me = some (h, a, b)) :
    exec i s = vxe h i (fun _ => a) (fun _ => b) s := by
  unfold vxeForm at hi
  split at hi <;> cases hi
  case h_39 x => exact vxe_sampled x.h (.vbcast x) (fun m => m.rs x.sa) (fun _ => 0) s
  case h_40 x => exact vxe_sampled x.h (.vins x) (fun m => m.rs x.sa) (fun m => m.rs x.sb) s
  case h_41 x => exact vxe_sampled x.h (.vext x) (fun _ => 0) (fun m => m.rs x.sb) s
  case h_42 x => exact vxe_sampled x.h (.vslide x) (fun _ => 0) (fun m => m.rs x.sb) s
  case h_43 x => exact vxe_sampled x.h (.vdsx x) (fun _ => 0) (fun m => m.rs x.sb) s
  all_goals rfl

/-- Settles O8: each runs as `vxe`, which accepts. -/
theorem vectorAcceptance : Obligations.VectorAcceptance := by
  unfold Obligations.VectorAcceptance
  intro s i h a b hi hk hfree
  rw [exec_vxeForm hi]
  exact vxe_queued hk hfree h i (fun _ => a) (fun _ => b)

/-! ## The end of a job (R125, R156) -/

/-- Two masters differ at most in whether and where they wait: a wake leaves everything else. -/
def SameButWait (m n : Master) : Prop :=
  ∃ st park wait woke place, m = { n with st := st, park := park, wait := wait, woke := woke, place := place }

theorem SameButWait.refl (m : Master) : SameButWait m m := ⟨m.st, m.park, m.wait, m.woke, m.place, rfl⟩

theorem SameButWait.trans {a b c : Master} (h : SameButWait a b) (h' : SameButWait b c) : SameButWait a c := by
  obtain ⟨st, park, wait, woke, place, rfl⟩ := h
  obtain ⟨_, _, _, _, _, rfl⟩ := h'
  exact ⟨st, park, wait, woke, place, rfl⟩

theorem SameButWait.files {m n : Master} (h : SameButWait m n) : SameFiles m n := by
  obtain ⟨_, _, _, _, _, rfl⟩ := h
  exact ⟨rfl, rfl, rfl, rfl, rfl⟩
theorem SameButWait.queue {m n : Master} (h : SameButWait m n) (e : Nat) : m.queue e = n.queue e := by
  obtain ⟨_, _, _, _, _, rfl⟩ := h
  rfl
theorem SameButWait.exiting {m n : Master} (h : SameButWait m n) : m.exiting = n.exiting := by
  obtain ⟨_, _, _, _, _, rfl⟩ := h
  rfl

theorem unpark_sameButWait (cyc : Nat) (m : Master) : SameButWait (m.unpark cyc) m := ⟨_, _, _, _, m.place, rfl⟩

theorem wakeAll_sameButWait (s : State) (f : Nat → Master → Bool) (p : Nat) : SameButWait ((s.wakeAll f).ms p) (s.ms p) := by
  have hfind : Tab.find? (s.wakeAll f).masters p =
      (Tab.find? s.masters p).map fun m => if m.isParked && f p m then m.unpark s.cyc else m :=
    Tab.find?_mapValues (fun k (m : Master) => if m.isParked && f k m then m.unpark s.cyc else m) s.masters p
  unfold State.ms Tab.get
  rw [hfind]
  cases Tab.find? s.masters p with
  | none => exact .refl _
  | some m =>
    rw [Option.map_some, Option.getD_some, Option.getD_some]
    split
    · exact unpark_sameButWait s.cyc m
    · exact .refl m

theorem markerWake_sameButWait {s : State} {pos : Nat} (h : (s.ms pos).exiting = false) :
    SameButWait ((s.markerWake pos).ms pos) (s.ms pos) := by
  rcases markerWake_cases h with e | ⟨place, e⟩
  · rw [e]
    exact .refl _
  · rw [e, ms_setM_same]
    exact ⟨_, _, _, _, place, rfl⟩

theorem markerWake_mem {s : State} {pos : Nat} (h : (s.ms pos).exiting = false) : (s.markerWake pos).mem = s.mem := by
  rcases markerWake_cases h with e | ⟨place, e⟩ <;> rw [e]
  rfl

theorem markerWake_cur {s : State} {pos : Nat} (h : (s.ms pos).exiting = false) : (s.markerWake pos).cur = s.cur := by
  rcases markerWake_cases h with e | ⟨place, e⟩ <;> rw [e]
  rfl

theorem mxeTook_ms (s : State) (pos e p : Nat) : (s.mxeTook pos e).ms p = s.ms p := by
  unfold State.mxeTook
  split <;> rfl
theorem mxeTook_mem (s : State) (pos e : Nat) : (s.mxeTook pos e).mem = s.mem := by
  unfold State.mxeTook
  split <;> rfl
theorem mxeTook_cur (s : State) (pos e : Nat) : (s.mxeTook pos e).cur = s.cur := by
  unfold State.mxeTook
  split <;> rfl

/-- The master without the head of its queue `e`. -/
def Master.pop (s : State) (m : Master) (e : Nat) : Master := m.setQueue e (popped s (m.queue e))

theorem popJob_eq (s : State) (pos e : Nat) : s.popJob pos e =
    (((s.setM pos ((s.ms pos).pop s e)).mxeTook pos e).engineWake pos e).markerWake pos := rfl

/-- The end of a job of a task that is not at its end takes it from its queue and may end the task's wait; memory stays. -/
theorem popJob_kept {s : State} {pos : Nat} (h : (s.ms pos).exiting = false) (e : Nat) :
    (s.popJob pos e).mem = s.mem ∧ (s.popJob pos e).cur = s.cur ∧ SameButWait ((s.popJob pos e).ms pos) ((s.ms pos).pop s e) := by
  have hwake : SameButWait ((((s.setM pos ((s.ms pos).pop s e)).mxeTook pos e).engineWake pos e).ms pos) ((s.ms pos).pop s e) := by
    have hall := wakeAll_sameButWait ((s.setM pos ((s.ms pos).pop s e)).mxeTook pos e) (fun k m => k = pos && m.onEngine e) pos
    rwa [mxeTook_ms, ms_setM_same] at hall
  have hexit : ((((s.setM pos ((s.ms pos).pop s e)).mxeTook pos e).engineWake pos e).ms pos).exiting = false :=
    hwake.exiting.trans ((setQueue_exiting ..).trans h)
  rw [popJob_eq]
  exact ⟨(markerWake_mem hexit).trans (mxeTook_mem ..), (markerWake_cur hexit).trans (mxeTook_cur ..),
    (markerWake_sameButWait hexit).trans hwake⟩

/-! ## The commands of the VXE (R126) -/

/-- A master changed in its register files s, v and m alone. -/
def FilesOnly (m n : Master) : Prop := ∃ s v k, m = { n with s := s, v := v, m := k }

theorem FilesOnly.queue {m n : Master} (h : FilesOnly m n) (e : Nat) : m.queue e = n.queue e := by
  obtain ⟨_, _, _, rfl⟩ := h
  rfl
theorem FilesOnly.exiting {m n : Master} (h : FilesOnly m n) : m.exiting = n.exiting := by
  obtain ⟨_, _, _, rfl⟩ := h
  rfl
theorem FilesOnly.c_and_q {m n : Master} (h : FilesOnly m n) : m.c = n.c ∧ m.q = n.q := by
  obtain ⟨_, _, _, rfl⟩ := h
  exact ⟨rfl, rfl⟩

theorem filesOnly_ws (m : Master) (r : SReg) (x : W64) : FilesOnly (m.ws r x) m := by
  unfold Master.ws
  split
  · exact ⟨m.s, m.v, m.m, rfl⟩
  · exact ⟨_, m.v, m.m, rfl⟩
theorem filesOnly_wv (m : Master) (r : VReg) (x : W1024) : FilesOnly (m.wv r x) m := ⟨m.s, _, m.m, rfl⟩
theorem filesOnly_wm (m : Master) (r : MReg) (x : W128) : FilesOnly (m.wm r x) m := by
  unfold Master.wm
  split
  · exact ⟨m.s, m.v, m.m, rfl⟩
  · exact ⟨m.s, m.v, _, rfl⟩

theorem filesOnly_vins (m : Master) (x : VInsA) (a b : W64) : FilesOnly (m.vins x a b) m := by
  unfold Master.vins
  dsimp only
  split
  · exact filesOnly_wv ..
  · exact ⟨m.s, m.v, m.m, rfl⟩

/-- A command of the VXE writes one register, of s, v or m, or none. -/
theorem vxeRun_filesOnly (m : Master) (i : Instr) (a b : W64) : FilesOnly (m.vxeRun i a b) m := by
  unfold Master.vxeRun
  split
  case h_27 | h_28 | h_38 | h_39 | h_40 | h_41 => exact filesOnly_wm ..
  case h_33 => exact filesOnly_vins ..
  case h_34 | h_42 | h_43 => exact filesOnly_ws ..
  case h_44 => exact ⟨m.s, m.v, m.m, rfl⟩
  all_goals exact filesOnly_wv ..

/-- VXE_EXECUTE performs a command that no error and no SAVE stops, and takes it from its queue (R126, R127). -/
theorem exec_vxeExecute {s : State} {j : Job} {i : Instr} {a b : W64} (hsave : s.me.saving = none) (hhead : s.me.vxe.head? = some j)
    (hk : j.k = .vxe i a b) (hbad : j.bad = false) :
    exec .vxeExecute s = .next ((s.setM s.cur (s.me.vxeRun i a b)).popJob s.cur 0) := by
  have hjob : s.headJob s.cur 0 = some j := hhead
  have hms : (s.ms s.cur).saving = none := hsave
  rw [show exec .vxeExecute s = execVxeExecute s from rfl, execVxeExecute, hjob]
  dsimp only
  rw [hk]
  simp only [State.me, hms, hbad, Option.isSome_none, Bool.false_and, Bool.false_eq_true, if_false]
  rfl

/-- Settles O9: the command writes s, v and m registers alone, and its entry's release may but end the task's wait. -/
theorem vectorExecution : Obligations.VectorExecution := by
  unfold Obligations.VectorExecution
  intro s j i a b _ hexit hsave hhead hk hbad
  have hrun := vxeRun_filesOnly s.me i a b
  have hexec := exec_vxeExecute hsave hhead hk hbad
  have hkept := popJob_kept (s := s.setM s.cur (s.me.vxeRun i a b)) (pos := s.cur)
    (by rw [ms_setM_same]; exact hrun.exiting.trans hexit) 0
  rw [ms_setM_same] at hkept
  obtain ⟨hmem, hcur, hms⟩ := hkept
  generalize (s.setM s.cur (s.me.vxeRun i a b)).popJob s.cur 0 = t at hexec hmem hcur hms
  rw [← show t.me = t.ms s.cur from congrArg t.ms hcur] at hms
  refine ⟨t, hexec, ?_, sameFiles_trans hms.files (setQueue_files ..), hmem, hrun.c_and_q⟩
  calc t.me.vxe
    _ = popped s ((s.me.vxeRun i a b).queue 0) := (hms.queue 0).trans (setQueue_queue _ (by decide) (by decide) _)
    _ = popped s s.me.vxe := by rw [hrun.queue]; rfl

end Sys2Proof.Machine
end

section
/-! SUPPORT. Lanes (spec/06: R122, R124): a register or mask made element by element reads back element by element, and an
instruction under a predicate writes its active elements. -/

namespace Sys2Proof.Machine

open Sys2Proof.Claims

/-! ## Numbers made digit by digit -/

/-- The number of the digits `d 0`, ..., `d (n - 1)` in base `B`, lowest first. -/
theorem foldr_range_eq_ofDigits (B : Nat) (d : Nat → Nat) (n : Nat) :
    (List.range n).foldr (fun j a => d j + B * a) 0 = Nat.ofDigits B ((List.range n).map d) := by
  rw [Nat.ofDigits_eq_foldr, List.foldr_map]
  rfl

theorem foldr_range_lt {B : Nat} (hB : 1 < B) {d : Nat → Nat} (hd : ∀ j, d j < B) (n : Nat) :
    (List.range n).foldr (fun j a => d j + B * a) 0 < B ^ n := by
  have hlt := Nat.ofDigits_lt_base_pow_length hB (l := (List.range n).map d) (List.forall_mem_map.2 fun j _ => hd j)
  rwa [List.length_map, List.length_range, ← foldr_range_eq_ofDigits] at hlt

theorem foldr_range_digit {B : Nat} (hB : 1 < B) {d : Nat → Nat} (hd : ∀ j, d j < B) {n e : Nat} (he : e < n) :
    (List.range n).foldr (fun j a => d j + B * a) 0 / B ^ e % B = d e := by
  have hdrop : ((List.range n).map d).drop e = d e :: ((List.range n).map d).drop (e + 1) := by
    rw [List.drop_eq_getElem_cons (by simpa using he), List.getElem_map, List.getElem_range]
  rw [foldr_range_eq_ofDigits, Nat.ofDigits_div_pow_eq_ofDigits_drop e (by omega) _ (List.forall_mem_map.2 fun j _ => hd j), hdrop,
    Nat.ofDigits_cons, Nat.add_mul_mod_self_left, Nat.mod_eq_of_lt (hd e)]

/-! ## Elements (R122) -/

/-- The widths of elements. -/
def LaneWidth (w : Nat) : Prop := w = 8 ∨ w = 16 ∨ w = 32 ∨ w = 64

theorem LaneWidth.pos {w : Nat} (hw : LaneWidth w) : 0 < w := by
  rcases hw with rfl | rfl | rfl | rfl <;> decide
theorem LaneWidth.bytes_pos {w : Nat} (hw : LaneWidth w) : 0 < w / 8 := by
  rcases hw with rfl | rfl | rfl | rfl <;> decide
/-- The elements fill the register, and their bytes the mask. -/
theorem LaneWidth.mul_count {w : Nat} (hw : LaneWidth w) : w * (1024 / w) = 1024 := by
  rcases hw with rfl | rfl | rfl | rfl <;> decide
theorem LaneWidth.bytes_mul_count {w : Nat} (hw : LaneWidth w) : w / 8 * (1024 / w) = 128 := by
  rcases hw with rfl | rfl | rfl | rfl <;> decide

theorem vElem_lt (v : W1024) (w j : Nat) : vElem v w j < 2 ^ w := Nat.mod_lt _ (Nat.two_pow_pos w)

@[simp] theorem vElem_mod (v : W1024) (w j : Nat) : vElem v w j % 2 ^ w = vElem v w j := Nat.mod_eq_of_lt (vElem_lt v w j)

theorem toNat_ofNat_of_lt {n x : Nat} (h : x < 2 ^ n) : (BitVec.ofNat n x).toNat = x :=
  (BitVec.toNat_ofNat ..).trans (Nat.mod_eq_of_lt h)

theorem vElem_vGen {w : Nat} (hw : LaneWidth w) (f : Nat → Nat) {e : Nat} (he : e < 1024 / w) :
    vElem (vGen w f) w e = f e % 2 ^ w := by
  have hB : 1 < 2 ^ w := Nat.one_lt_two_pow hw.pos.ne'
  have hd : ∀ j, f j % 2 ^ w < 2 ^ w := fun j => Nat.mod_lt _ (Nat.two_pow_pos w)
  have hlt := foldr_range_lt hB hd (1024 / w)
  rw [← pow_mul, hw.mul_count] at hlt
  have hgen : (vGen w f).toNat = _ := toNat_ofNat_of_lt hlt
  rw [vElem, hgen, pow_mul]
  exact foldr_range_digit hB hd he

theorem vElem_vPred {w : Nat} (hw : LaneWidth w) (k : W128) (old : W1024) (f : Nat → Nat) {e : Nat} (he : e < 1024 / w) :
    vElem (vPred k w old f) w e = if active k (w / 8) e then f e % 2 ^ w else vElem old w e := by
  rw [vPred, vElem_vGen hw _ he]
  split
  · rfl
  · exact vElem_mod old w e

/-- A mask made element by element has all bytes of the elements set that `f` selects. -/
theorem mGen_getLsbD {w : Nat} (hw : LaneWidth w) (f : Nat → Bool) {e b : Nat} (he : e < 1024 / w) (hb : b < w / 8) :
    (mGen w f).getLsbD (e * (w / 8) + b) = f e := by
  have hB : 1 < 2 ^ (w / 8) := Nat.one_lt_two_pow hw.bytes_pos.ne'
  have hd : ∀ j, (if f j then 2 ^ (w / 8) - 1 else 0) < 2 ^ (w / 8) := fun j => by split <;> omega
  have hlt := foldr_range_lt hB hd (1024 / w)
  rw [← pow_mul, hw.bytes_mul_count] at hlt
  have hdigit := congrArg (Nat.testBit · b) (foldr_range_digit hB hd he)
  simp only [← pow_mul, Nat.testBit_mod_two_pow, Nat.testBit_div_two_pow, hb, decide_true, Bool.true_and] at hdigit
  rw [BitVec.getLsbD, mGen, toNat_ofNat_of_lt hlt, Nat.mul_comm e, Nat.add_comm, hdigit]
  cases f e
  · exact Nat.zero_testBit b
  · rw [if_pos rfl, Nat.testBit_two_pow_sub_one, decide_eq_true hb]

/-! ## Element types (R63, R122) -/

theorem intTypes_width {et : BitVec 4} {w : Nat} (h : (et, w) ∈ intTypes) :
    etWidth (etDef 3 et) = w ∧ etIsInt (etDef 3 et) = true ∧ LaneWidth w := by
  simp only [intTypes, List.mem_cons, Prod.mk.injEq, List.not_mem_nil, or_false] at h
  unfold LaneWidth
  rcases h with ⟨rfl, rfl⟩ | ⟨rfl, rfl⟩ | ⟨rfl, rfl⟩ | ⟨rfl, rfl⟩ | ⟨rfl, rfl⟩ <;> decide

theorem fpTypes_width {et : BitVec 4} {w : Nat} {f : Ff} (h : (et, w, f) ∈ fpTypes) :
    etWidth (etDef 9 et) = w ∧ etFf (etDef 9 et) = f ∧ LaneWidth w := by
  simp only [fpTypes, List.mem_cons, Prod.mk.injEq, List.not_mem_nil, or_false] at h
  unfold LaneWidth
  rcases h with ⟨rfl, rfl, rfl⟩ | ⟨rfl, rfl, rfl⟩ | ⟨rfl, rfl, rfl⟩ | ⟨rfl, rfl, rfl⟩ <;> decide

/-! ## Writes under a predicate (R124) -/

/-- A write of vd leaves s, m and the other v registers. -/
theorem wv_frame (m : Master) (vd : VReg) (x : W1024) :
    (m.wv vd x).s = m.s ∧ (m.wv vd x).m = m.m ∧ ∀ r, r ≠ vd → (m.wv vd x).rv r = m.rv r :=
  ⟨rfl, rfl, fun r hr => by rw [rv_wv, if_neg hr]⟩

/-- What a predicated write gives, from the values at the elements. -/
theorem lanes_of_vPred (m : Master) (vd : VReg) (msk : MReg) {w : Nat} (hw : LaneWidth w) {f g : Nat → Nat}
    (h : ∀ e < 1024 / w, f e % 2 ^ w = g e % 2 ^ w) : Lanes m (m.wv vd (vPred (m.rm msk) w (m.rv vd) f)) vd msk w g := by
  obtain ⟨hs, hm, hv⟩ := wv_frame m vd (vPred (m.rm msk) w (m.rv vd) f)
  refine ⟨hs, hm, hv, fun e he => ?_⟩
  rw [rv_wv, if_pos rfl, vElem_vPred hw _ _ _ he, h e he]
  rfl

/-- The instructions on one source, on two sources, and comparisons, as lanes. -/
theorem map2_lanes (m : Master) (x : V2) (d : Nat) (f : Nat → Nat → Nat) {w : Nat} (hd : etWidth (etDef d x.et) = w)
    (hw : LaneWidth w) {g : Nat → Nat} (h : ∀ e < 1024 / w, f (etDef d x.et) (vElem (m.rv x.va) w e) % 2 ^ w = g e % 2 ^ w) :
    Lanes m (m.map2 x d f) x.vd x.msk w g := by
  subst hd
  exact lanes_of_vPred m x.vd x.msk hw h

theorem map3_lanes (m : Master) (x : V3) (d : Nat) (f : Nat → Nat → Nat → Nat) {w : Nat} (hd : etWidth (etDef d x.et) = w)
    (hw : LaneWidth w) {g : Nat → Nat}
    (h : ∀ e < 1024 / w, f (etDef d x.et) (vElem (m.rv x.va) w e) (vElem (m.rv x.vb) w e) % 2 ^ w = g e % 2 ^ w) :
    Lanes m (m.map3 x d f) x.vd x.msk w g := by
  subst hd
  exact lanes_of_vPred m x.vd x.msk hw h

/-- An active element of a one-source instruction. -/
theorem map2_active (m : Master) (x : V2) (d : Nat) (f : Nat → Nat → Nat) {w : Nat} (hd : etWidth (etDef d x.et) = w)
    (hw : LaneWidth w) {e : Nat} (he : e < 1024 / w) (hact : (m.rm x.msk).getLsbD (e * (w / 8)) = true) :
    vElem ((m.map2 x d f).rv x.vd) w e = f (etDef d x.et) (vElem (m.rv x.va) w e) % 2 ^ w := by
  obtain ⟨-, -, -, helem⟩ := map2_lanes m x d f hd hw (g := fun e => f (etDef d x.et) (vElem (m.rv x.va) w e)) fun _ _ => rfl
  rw [helem e he, if_pos hact]

theorem vcmp_compared (m : Master) (x : VCmpA) (d : Nat) (f : Nat → Nat → Nat → Bool) {w : Nat} (hd : etWidth (etDef d x.et) = w)
    (hw : LaneWidth w) {c : Nat → Bool}
    (h : ∀ e < 1024 / w, f (etDef d x.et) (vElem (m.rv x.va) w e) (vElem (m.rv x.vb) w e) = c e) :
    Compared m (m.vcmp x d f) x.md x.msk w c := by
  subst hd
  unfold Master.vcmp
  refine ⟨wm_s .., wm_v .., fun r hr => ?_, fun hmd e he b hb => ?_⟩
  · rw [rm_wm]
    rcases hr with hr | rfl
    · rw [if_neg hr, Master.rm]
      split <;> simp [*]
    · rfl
  · rw [rm_wm, if_neg hmd, if_pos rfl, mGen_getLsbD hw _ he hb, h e he]
    rfl

end Sys2Proof.Machine
end

section
/-! SUPPORT. Integer lanes (spec/06: R129): each instruction keeps the low bits of its exact result. -/

namespace Sys2Proof.Machine

open Sys2Proof.Claims

theorem toI_eq_signed (w x : Nat) : toI w x = Claims.signed w x := rfl

/-- The signed value of an element agrees with the element in its low bits. -/
theorem signed_emod (w x : Nat) : Claims.signed w x % 2 ^ w = (x : Int) % 2 ^ w := by
  unfold Claims.signed
  split
  · rfl
  · exact Int.sub_emod_right ..

theorem ofI_cast (w : Nat) (z : Int) : ((ofI w z : Nat) : Int) = z % 2 ^ w := by
  rw [ofI, Nat.cast_pow, Nat.cast_ofNat]
  exact Int.toNat_of_nonneg (Int.emod_nonneg z (by positivity))

theorem satI_eq_saturate (w : Nat) (z : Int) : satI w z = saturate w z := by
  unfold satI saturate
  have hpos : (0 : Int) < 2 ^ (w - 1) := by positivity
  push_cast
  generalize (2 : Int) ^ (w - 1) = t at hpos
  omega

/-- The low bits of a result that agrees with the exact one modulo 2^w. -/
theorem mod_eq_toNat_mod {w n : Nat} {z : Int} (h : (n : Int) % 2 ^ w = z % 2 ^ w) : n % 2 ^ w = (z % 2 ^ w).toNat % 2 ^ w := by
  have hn : (z % 2 ^ w).toNat = n % 2 ^ w := by
    rw [← h]
    exact_mod_cast Int.toNat_natCast (n % 2 ^ w)
  rw [hn, Nat.mod_mod]

/-- The model's operation and the exact one of R129, on elements of w bits, agree modulo 2^w. -/
def ExactLane (f : Nat → Nat → Nat → Nat) (g : Nat → Nat → Nat → Int) : Prop :=
  ∀ w x y, 0 < w → x < 2 ^ w → y < 2 ^ w → (f w x y : Int) % 2 ^ w = g w x y % 2 ^ w

theorem exact_add : ExactLane viAdd fun _ x y => x + y := fun w x y _ _ _ => by
  rw [viAdd]
  push_cast
  exact Int.emod_emod_of_dvd _ dvd_rfl

theorem exact_sub : ExactLane viSub fun _ x y => x - y := fun w x y _ _ hy => by
  rw [viSub]
  push_cast [show y ≤ x + 2 ^ w by omega]
  rw [Int.emod_emod_of_dvd _ dvd_rfl, show (x : Int) + 2 ^ w - y = x - y + 2 ^ w by ring]
  exact Int.add_emod_right ..

theorem exact_mul : ExactLane viMul fun _ x y => x * y := fun w x y _ _ _ => by
  rw [viMul]
  push_cast
  exact Int.emod_emod_of_dvd _ dvd_rfl

theorem exact_mulh : ExactLane viMulh fun w x y => Claims.signed w x * Claims.signed w y / 2 ^ w := fun w x y _ _ _ => by
  rw [viMulh, ofI_cast, Int.emod_emod_of_dvd _ dvd_rfl]
  push_cast
  rfl

theorem exact_min : ExactLane viMin fun w x y => min (Claims.signed w x) (Claims.signed w y) := fun w x y _ _ _ => by
  dsimp only
  rw [viMin, toI_eq_signed, toI_eq_signed, min_def]
  split <;> exact (signed_emod w _).symm

theorem exact_max : ExactLane viMax fun w x y => max (Claims.signed w x) (Claims.signed w y) := fun w x y _ _ _ => by
  dsimp only
  rw [viMax, toI_eq_signed, toI_eq_signed, max_def]
  split <;> exact (signed_emod w _).symm

theorem exact_shl : ExactLane viShl fun w x y => if w ≤ y then 0 else x * 2 ^ y := fun w x y _ _ _ => by
  unfold viShl
  dsimp only [ge_iff_le]
  split
  · rfl
  · push_cast
    exact Int.emod_emod_of_dvd _ dvd_rfl

theorem exact_shr : ExactLane viShr fun w x y => if w ≤ y then 0 else x / 2 ^ y := fun w x y _ _ _ => by
  unfold viShr
  dsimp only [ge_iff_le]
  split
  · rfl
  · push_cast
    rfl

theorem exact_sra : ExactLane viSra fun w x y => Claims.signed w x / 2 ^ (min y (w - 1)) := fun w x y _ _ _ => by
  rw [viSra, ofI_cast, Int.emod_emod_of_dvd _ dvd_rfl]
  push_cast
  rfl

theorem exact_adds : ExactLane viAdds fun w x y => saturate w (Claims.signed w x + Claims.signed w y) := fun w x y _ _ _ => by
  rw [viAdds, ofI_cast, Int.emod_emod_of_dvd _ dvd_rfl, satI_eq_saturate]
  rfl

theorem exact_subs : ExactLane viSubs fun w x y => saturate w (Claims.signed w x - Claims.signed w y) := fun w x y _ _ _ => by
  rw [viSubs, ofI_cast, Int.emod_emod_of_dvd _ dvd_rfl, satI_eq_saturate]
  rfl

/-- The element-wise integer instructions run as `int3` with the values of R129. -/
theorem vxeRun_laneOps {p : (V3 → Instr) × (Nat → Nat → Nat → Int)} (hp : p ∈ laneOps) :
    ∃ f, (∀ (m : Master) x, m.vxeRun (p.1 x) 0 0 = m.int3 x f) ∧ ExactLane f p.2 := by
  revert p
  simp only [laneOps, List.forall_mem_cons, List.not_mem_nil, false_imp_iff, implies_true, and_true]
  exact ⟨⟨viAdd, fun _ _ => rfl, exact_add⟩, ⟨viSub, fun _ _ => rfl, exact_sub⟩, ⟨viMul, fun _ _ => rfl, exact_mul⟩,
    ⟨viMulh, fun _ _ => rfl, exact_mulh⟩, ⟨viMin, fun _ _ => rfl, exact_min⟩, ⟨viMax, fun _ _ => rfl, exact_max⟩,
    ⟨fun _ p q => p &&& q, fun _ _ => rfl, fun _ _ _ _ _ _ => rfl⟩, ⟨fun _ p q => p ||| q, fun _ _ => rfl, fun _ _ _ _ _ _ => rfl⟩,
    ⟨fun _ p q => p ^^^ q, fun _ _ => rfl, fun _ _ _ _ _ _ => rfl⟩, ⟨viShl, fun _ _ => rfl, exact_shl⟩,
    ⟨viShr, fun _ _ => rfl, exact_shr⟩, ⟨viSra, fun _ _ => rfl, exact_sra⟩, ⟨viAdds, fun _ _ => rfl, exact_adds⟩,
    ⟨viSubs, fun _ _ => rfl, exact_subs⟩⟩

/-- R129: the active elements are the low bits of the exact results. -/
theorem laneOps_lanes (m : Master) (x : V3) {p : (V3 → Instr) × (Nat → Nat → Nat → Int)} {w : Nat} (hp : p ∈ laneOps)
    (hw : (x.et, w) ∈ intTypes) : Lanes m (m.vxeRun (p.1 x) 0 0) x.vd x.msk w fun e =>
      (p.2 w (vElem (m.rv x.va) w e) (vElem (m.rv x.vb) w e) % 2 ^ w).toNat := by
  obtain ⟨hwidth, -, hlane⟩ := intTypes_width hw
  obtain ⟨f, hrun, hexact⟩ := vxeRun_laneOps hp
  rw [hrun, Master.int3]
  refine map3_lanes m x 3 _ hwidth hlane fun e _ => mod_eq_toNat_mod ?_
  rw [hwidth]
  exact hexact w _ _ hlane.pos (vElem_lt ..) (vElem_lt ..)

theorem vabs_lanes (m : Master) (x : V2) {w : Nat} (hw : (x.et, w) ∈ intTypes) :
    Lanes m (m.vxeRun (.vabs x) 0 0) x.vd x.msk w fun e => (Claims.signed w (vElem (m.rv x.va) w e)).natAbs := by
  obtain ⟨hwidth, -, hlane⟩ := intTypes_width hw
  rw [show m.vxeRun (.vabs x) 0 0 = m.map2 x 3 fun et => viAbs (etWidth et) from rfl]
  refine map2_lanes m x 3 _ hwidth hlane fun e _ => ?_
  rw [hwidth, viAbs, toI_eq_signed, Nat.mod_mod]

end Sys2Proof.Machine
end

section
/-! SUPPORT. Rounding (spec/04: R95 to R97): an encoding fits its format, and what is rounded is the value, however it is written. -/

namespace Sys2Proof.Machine

open Sys2Proof.Claims

/-! ## Encodings fit their format -/

/-- The formats of the floating-point lane instructions (R130). -/
def LaneFormat (f : Ff) : Prop := f = ffF ∨ f = ffHF ∨ f = ffBF

theorem LaneFormat.codes_lt {f : Ff} (hf : LaneFormat f) : f.nan < f.signBit ∧ f.infCode < f.signBit ∧ f.maxCode < f.signBit := by
  rcases hf with rfl | rfl | rfl <;> decide
theorem LaneFormat.not_e4 {f : Ff} (hf : LaneFormat f) : f.e4 = false := by
  rcases hf with rfl | rfl | rfl <;> rfl

theorem fpTypes_format {et : BitVec 4} {w : Nat} {f : Ff} (h : (et, w, f) ∈ fpTypes) : LaneFormat f ∧ 2 ^ w = 2 * f.signBit := by
  simp only [fpTypes, List.mem_cons, Prod.mk.injEq, List.not_mem_nil, or_false] at h
  unfold LaneFormat
  rcases h with ⟨rfl, rfl, rfl⟩ | ⟨rfl, rfl, rfl⟩ | ⟨rfl, rfl, rfl⟩ | ⟨rfl, rfl, rfl⟩ <;> decide

theorem withSign_lt {f : Ff} {c : Nat} (h : c < f.signBit) (neg : Bool) : f.withSign neg c < 2 * f.signBit := by
  unfold Ff.withSign
  split <;> omega

theorem overflow_lt {f : Ff} (hf : LaneFormat f) (rm : Nat) (ns neg : Bool) : f.overflow rm ns neg < 2 * f.signBit := by
  obtain ⟨-, hinf, hmax⟩ := hf.codes_lt
  have hcode : ∀ b : Bool, (if b then f.maxCode else f.infCode) < f.signBit ∧ (if b then f.infCode else f.maxCode) < f.signBit := by
    rintro (_ | _)
    · exact ⟨hinf, hmax⟩
    · exact ⟨hmax, hinf⟩
  refine withSign_lt ?_ neg
  split
  · exact hmax
  · split
    · exact hinf
    · exact hmax
    · exact (hcode neg).1
    · exact (hcode neg).2

theorem round_lt {f : Ff} (hf : LaneFormat f) (rm : Nat) (ns : Bool) (x : Num) : f.round rm ns x < 2 * f.signBit := by
  obtain ⟨hnan, hinf, hmax⟩ := hf.codes_lt
  cases x with
  | nan => exact hnan.trans (by omega)
  | inf neg =>
    rw [Ff.round, hf.not_e4]
    cases ns
    · exact withSign_lt hmax neg
    · exact withSign_lt hinf neg
  | fin neg m e =>
    have hcode : ∀ c, (if c > f.maxCode then f.overflow rm ns neg else f.withSign neg c) < 2 * f.signBit := by
      intro c
      split
      · exact overflow_lt hf rm ns neg
      · exact withSign_lt (by omega) neg
    unfold Ff.round
    dsimp only
    split
    · exact withSign_lt (by omega) neg
    · exact hcode _

/-! ## The value that is rounded -/

theorem log2_mul_two_pow {m : Nat} (hm : m ≠ 0) (j : Nat) : Nat.log2 (m * 2 ^ j) = Nat.log2 m + j := by
  rw [Nat.log2_eq_iff (by positivity), pow_add, Nat.add_right_comm, pow_add _ _ j]
  exact ⟨Nat.mul_le_mul_right _ (Nat.log2_self_le hm), Nat.mul_lt_mul_of_pos_right Nat.lt_log2_self (by positivity)⟩

/-- A shift by more keeps the half-way comparisons of R95. -/
theorem shiftRound_scale (rm : Nat) (neg : Bool) (m d j : Nat) : shiftRound rm neg (m * 2 ^ j) (d + j) = shiftRound rm neg m d := by
  have hpos : 0 < 2 ^ j := Nat.two_pow_pos j
  have hq : m * 2 ^ j / 2 ^ (d + j) = m / 2 ^ d := by rw [pow_add, Nat.mul_div_mul_right _ _ hpos]
  have hr : m * 2 ^ j % 2 ^ (d + j) = m % 2 ^ d * 2 ^ j := by rw [pow_add, Nat.mul_mod_mul_right]
  have hzero : m % 2 ^ d * 2 ^ j = 0 ↔ m % 2 ^ d = 0 := by simp
  have hgt : 2 * (m % 2 ^ d * 2 ^ j) > 2 ^ (d + j) ↔ 2 * (m % 2 ^ d) > 2 ^ d := by
    rw [← Nat.mul_assoc, pow_add]
    exact Nat.mul_lt_mul_right hpos
  have heq : 2 * (m % 2 ^ d * 2 ^ j) = 2 ^ (d + j) ↔ 2 * (m % 2 ^ d) = 2 ^ d := by
    rw [← Nat.mul_assoc, pow_add]
    exact Nat.mul_left_inj hpos.ne'
  unfold shiftRound
  simp only [hq, hr, hzero, hgt, heq]

/-- A shift by no more than the power of two in the numerator is exact. -/
theorem shiftRound_exact (rm : Nat) (neg : Bool) (m : Nat) {d j : Nat} (h : d ≤ j) :
    shiftRound rm neg (m * 2 ^ j) d = m * 2 ^ (j - d) := by
  obtain ⟨i, rfl⟩ := Nat.exists_eq_add_of_le h
  have hsplit : m * 2 ^ (d + i) = 2 ^ d * (m * 2 ^ i) := by rw [pow_add]; ring
  unfold shiftRound
  rw [hsplit, Nat.mul_mod_right, Nat.mul_div_right _ (Nat.two_pow_pos d), Nat.add_sub_cancel_left]
  exact if_pos rfl

theorem roundAt_scale (rm : Nat) (neg : Bool) (m j : Nat) (e q : Int) :
    roundAt rm neg (m * 2 ^ j) (e - j) q = roundAt rm neg m e q := by
  unfold roundAt
  by_cases h1 : q ≤ e - j
  · rw [if_pos h1, if_pos (by omega), Nat.mul_assoc, ← pow_add]
    congr 2
    omega
  · rw [if_neg h1]
    by_cases h2 : q ≤ e
    · rw [if_pos h2, shiftRound_exact _ _ _ (by omega)]
      congr 2
      omega
    · rw [if_neg h2, ← shiftRound_scale rm neg m (q - e).toNat j]
      congr 1
      omega

/-- A value is rounded the same when its numerator is given with more bits. -/
theorem round_scale (f : Ff) (rm : Nat) (ns neg : Bool) (m j : Nat) (e : Int) :
    f.round rm ns (.fin neg (m * 2 ^ j) (e - j)) = f.round rm ns (.fin neg m e) := by
  by_cases hm : m = 0
  · rw [hm, Nat.zero_mul]
    rfl
  · have hmj : m * 2 ^ j ≠ 0 := by positivity
    have htop : e - j + ((Nat.log2 (m * 2 ^ j) : Nat) : Int) - f.t = e + (Nat.log2 m : Int) - f.t := by
      rw [log2_mul_two_pow hm]
      push_cast
      ring
    unfold Ff.round
    simp only [hm, hmj, if_false, htop, roundAt_scale]

/-! ## The order of values (R82) -/

theorem sgn_mul (neg : Bool) (m n : Nat) : Num.sgn neg (m * n) = Num.sgn neg m * n := by
  unfold Num.sgn
  split <;> push_cast <;> ring

/-- Finite values compare by their numerators at any common exponent. -/
theorem lt_fin_iff (a b : Bool) (m n : Nat) {e f g : Int} (he : g ≤ e) (hf : g ≤ f) :
    Num.lt (.fin a m e) (.fin b n f) = true ↔ Num.sgn a (m * 2 ^ (e - g).toNat) < Num.sgn b (n * 2 ^ (f - g).toNat) := by
  have hmin : ∃ h, (if e ≤ f then e else f) = h ∧ g ≤ h ∧ h ≤ e ∧ h ≤ f := by
    refine ⟨_, rfl, ?_⟩
    split <;> omega
  obtain ⟨h, hh, hg, hhe, hhf⟩ := hmin
  have hscale : ∀ (s : Bool) (k : Nat) (i : Int), h ≤ i →
      Num.sgn s (k * 2 ^ (i - g).toNat) = Num.sgn s (k * 2 ^ (i - h).toNat) * (2 ^ (h - g).toNat : Nat) := by
    intro s k i hi
    rw [← sgn_mul, Nat.mul_assoc, ← pow_add, show (i - h).toNat + (h - g).toNat = (i - g).toNat by omega]
  rw [hscale a m e hhe, hscale b n f hhf, Num.lt, Num.align]
  simp only [hh, decide_eq_true_eq]
  exact (Int.mul_lt_mul_right (by positivity)).symm

end Sys2Proof.Machine
end

section
/-! SUPPORT. Floating-point lanes (spec/06: R130, R131; spec/04: R100): each instruction forms its value exactly and rounds it once, and
the special values are those of R131. -/

namespace Sys2Proof.Machine

open Sys2Proof.Claims

/-! ## Two and three sources (R130) -/

theorem isNan_iff (x : Num) : x.isNan = true ↔ x = .nan := by
  cases x <;> simp [Num.isNan]

/-- The choice of VFMIN and VFMAX between `p` and `q`, said with one condition. -/
theorem ite_lt_chain {α : Type} (l r g : Bool) (p q : α) :
    (if l then p else if r then q else if g then p else q) = if l = true ∨ r = false ∧ g = true then p else q := by
  cases l <;> cases r <;> cases g <;> rfl

theorem vfMin_eq_fpMin (f : Ff) (x y : Nat) : vfMin f x y = fpMin f x y := by
  unfold vfMin fpMin
  simp only [Bool.or_eq_true, isNan_iff, ite_lt_chain]

theorem vfMax_eq_fpMax (f : Ff) (x y : Nat) : vfMax f x y = fpMax f x y := by
  unfold vfMax fpMax
  simp only [Bool.or_eq_true, isNan_iff, ite_lt_chain]

/-- VFADD, VFSUB and VFMUL round the exact results of R130. -/
theorem vxeRun_fpOps {p : (V3 → Instr) × (Nat → Num → Num → Num)} (hp : p ∈ fpOps) (m : Master) (x : V3) :
    m.vxeRun (p.1 x) 0 0 = m.fp3 x fun f rm a b => f.round rm true (p.2 rm (f.num a) (f.num b)) := by
  revert p
  simp only [fpOps, List.forall_mem_cons, List.not_mem_nil, false_imp_iff, implies_true, and_true]
  exact ⟨rfl, rfl, rfl⟩

theorem fp3_lanes (m : Master) (x : V3) (g : Ff → Nat → Nat → Nat → Nat) {w : Nat} {f : Ff} (hw : (x.et, w, f) ∈ fpTypes) :
    Lanes m (m.fp3 x g) x.vd x.msk w fun e => g f x.rm.toNat (vElem (m.rv x.va) w e) (vElem (m.rv x.vb) w e) := by
  obtain ⟨hwidth, hformat, hlane⟩ := fpTypes_width hw
  rw [Master.fp3]
  refine map3_lanes m x 9 _ hwidth hlane fun e _ => ?_
  rw [hformat]

theorem vfmin_lanes (m : Master) (x : V3) {w : Nat} {f : Ff} (hw : (x.et, w, f) ∈ fpTypes) :
    Lanes m (m.vxeRun (.vfmin x) 0 0) x.vd x.msk w fun e => fpMin f (vElem (m.rv x.va) w e) (vElem (m.rv x.vb) w e) := by
  rw [show m.vxeRun (.vfmin x) 0 0 = m.fp3 x fun f _ => vfMin f from rfl]
  simp only [← vfMin_eq_fpMin]
  exact fp3_lanes m x _ hw

theorem vfmax_lanes (m : Master) (x : V3) {w : Nat} {f : Ff} (hw : (x.et, w, f) ∈ fpTypes) :
    Lanes m (m.vxeRun (.vfmax x) 0 0) x.vd x.msk w fun e => fpMax f (vElem (m.rv x.va) w e) (vElem (m.rv x.vb) w e) := by
  rw [show m.vxeRun (.vfmax x) 0 0 = m.fp3 x fun f _ => vfMax f from rfl]
  simp only [← vfMax_eq_fpMax]
  exact fp3_lanes m x _ hw

theorem vfma_lanes (m : Master) (x : V4) {w : Nat} {f : Ff} (hw : (x.et, w, f) ∈ fpTypes) :
    Lanes m (m.vxeRun (.vfma x) 0 0) x.vd x.msk w fun e => f.round x.rm.toNat true
      (Num.add x.rm.toNat (Num.mul (f.num (vElem (m.rv x.va) w e)) (f.num (vElem (m.rv x.vb) w e))) (f.num (vElem (m.rv x.vc) w e))) := by
  obtain ⟨hwidth, hformat, hlane⟩ := fpTypes_width hw
  subst hwidth hformat
  exact lanes_of_vPred m x.vd x.msk hlane fun _ _ => rfl

/-! ## Reciprocal, root and logarithm (R131) -/

/-- An active element of VRCP, VRSQ and VLG2: what the instruction's function gives, when that is an encoding. -/
theorem fp2_active (m : Master) (x : V2) (g : Ff → Nat → Num → Nat) {w : Nat} {f : Ff} (hw : (x.et, w, f) ∈ fpTypes) {e : Nat}
    (he : e < 1024 / w) (hact : (m.rm x.msk).getLsbD (e * (w / 8)) = true) {c : Nat} (hc : c < 2 * f.signBit)
    (hg : g f x.rm.toNat (f.num (vElem (m.rv x.va) w e)) = c) : vElem ((m.fp2 x g).rv x.vd) w e = c := by
  obtain ⟨hwidth, hformat, hlane⟩ := fpTypes_width hw
  obtain ⟨-, hcodes⟩ := fpTypes_format hw
  rw [Master.fp2, map2_active m x 9 _ hwidth hlane he hact, hformat, hg, hcodes, Nat.mod_eq_of_lt hc]

/-- 1 over a power of two is exact before it is rounded. -/
theorem recip_two_pow (f : Ff) (rm : Nat) (s : Bool) (k : Nat) (e : Int) :
    recip f rm (.fin s (2 ^ k) e) = f.round rm true (.fin s 1 (-(e + k))) := by
  have hsplit : 2 ^ (2 * k + 64) = 2 ^ k * 2 ^ (k + 64) := by rw [← pow_add]; congr 1; omega
  have hnum : 2 * (2 ^ (2 * k + 64) / 2 ^ k) = 1 * 2 ^ (k + 65) := by
    rw [hsplit, Nat.mul_div_cancel_left _ (Nat.two_pow_pos k), one_mul, ← pow_succ']
  have hexp : -((2 * k + 64 : Nat) : Int) - 1 - e = -(e + k) - (k + 65 : Nat) := by
    push_cast
    ring
  unfold recip
  simp only [(Nat.two_pow_pos k).ne', if_false, Nat.log2_two_pow]
  rw [if_pos (by rw [hsplit, Nat.mul_mod_right]), Nat.add_zero, hnum, hexp, round_scale]

/-- The logarithm of a power of two is an integer. -/
theorem lg2_two_pow (f : Ff) (rm k : Nat) (e : Int) : lg2 f rm (.fin false (2 ^ k) e) = f.round rm true (Num.ofInt (e + k)) := by
  unfold lg2
  simp only [(Nat.two_pow_pos k).ne', if_false, Bool.false_eq_true, Nat.log2_two_pow, if_true]
  rfl

/-! ## EXP2A (R100) -/

/-- A finite FP32 value is a number of units of 2^-149. -/
theorem ffF_num_exp {c : Nat} {neg : Bool} {m : Nat} {e : Int} (h : ffF.num c = .fin neg m e) : -149 ≤ e := by
  unfold Ff.num at h
  rw [show ffF.e4 = false from rfl, show ffF.bias = 127 from rfl, show ffF.t = 23 from rfl,
    show ffF.w = 8 from rfl] at h
  dsimp only at h
  rw [if_neg Bool.false_ne_true] at h
  by_cases htop : c / 2 ^ 23 % 2 ^ 8 = 2 ^ 8 - 1
  · rw [if_pos htop] at h
    split at h <;> cases h
  · rw [if_neg htop] at h
    split at h <;> cases h
    · decide
    · omega

/-- A value in units of 2^-149. -/
def units (neg : Bool) (m : Nat) (e : Int) : Int := Num.sgn neg (m * 2 ^ (e + 149).toNat)

theorem sgn_natAbs (k : Int) : Num.sgn (decide (k < 0)) k.natAbs = k := by
  unfold Num.sgn
  simp only [decide_eq_true_eq]
  omega

theorem lt_ofInt_iff {neg : Bool} {m : Nat} {e : Int} (he : -149 ≤ e) (k : Int) :
    Num.lt (.fin neg m e) (Num.ofInt k) = true ↔ units neg m e < k * 2 ^ 149 := by
  rw [Num.ofInt, lt_fin_iff neg _ m _ he (by decide), sgn_mul _ k.natAbs, sgn_natAbs, units, sub_neg_eq_add]
  rfl

theorem ofInt_lt_iff {neg : Bool} {m : Nat} {e : Int} (he : -149 ≤ e) (k : Int) :
    Num.lt (Num.ofInt k) (.fin neg m e) = true ↔ k * 2 ^ 149 < units neg m e := by
  rw [Num.ofInt, lt_fin_iff _ neg _ m (by decide) he, sgn_mul _ k.natAbs, sgn_natAbs, units, sub_neg_eq_add]
  rfl

/-- The table entry times the polynomial of R100, at a fraction of `f` units. -/
def exp2Poly (f : Nat) : Num :=
  let r : Num := .fin false (f % 2 ^ 143) (-149)
  let t := ffF.fit 0 (Num.add 0 (Num.mul r (ffF.num exp2C2)) (ffF.num exp2C1))
  Num.mul (ffF.num (exp2T.getD (f / 2 ^ 143) 0)) (ffF.fit 0 (Num.add 0 (Num.mul r t) Num.one))

theorem exp2Poly_zero : exp2Poly 0 = .fin false (1 * 2 ^ 46) (-46) := by decide

theorem exp2a_of_nan {c : Nat} (h : ffF.num c = .nan) : exp2a c = ffF.nan := by rw [exp2a, h]

theorem exp2a_of_fin {c : Nat} {neg : Bool} {m : Nat} {e : Int} (h : ffF.num c = .fin neg m e) : exp2a c =
    if units neg m e ≤ -150 * (2 ^ 149 : Nat) then 0
    else if units neg m e ≥ 128 * (2 ^ 149 : Nat) then ffF.infCode
    else ffF.round 0 true (Num.scale (units neg m e / (2 ^ 149 : Nat)) (exp2Poly (units neg m e % (2 ^ 149 : Nat)).toNat)) := by
  rw [exp2a, h]
  rfl

theorem exp2a_of_ge {c : Nat} (hn : ffF.num c ≠ .nan) (h : Num.lt (ffF.num c) (Num.ofInt 128) = false) : exp2a c = ffF.infCode := by
  cases hc : ffF.num c with
  | nan => exact absurd hc hn
  | inf neg =>
    rw [hc] at h
    rw [exp2a, hc]
    cases neg
    · rfl
    · cases h
  | fin neg m e =>
    rw [hc, ← Bool.not_eq_true, lt_ofInt_iff (ffF_num_exp hc)] at h
    rw [exp2a_of_fin hc, if_neg (by omega), if_pos (by omega)]

theorem exp2a_of_le {c : Nat} (hn : ffF.num c ≠ .nan) (h : Num.lt (Num.ofInt (-150)) (ffF.num c) = false) : exp2a c = 0 := by
  cases hc : ffF.num c with
  | nan => exact absurd hc hn
  | inf neg =>
    rw [hc] at h
    rw [exp2a, hc]
    cases neg
    · cases h
    · rfl
  | fin neg m e =>
    rw [hc, ← Bool.not_eq_true, ofInt_lt_iff (ffF_num_exp hc)] at h
    rw [exp2a_of_fin hc, if_pos (by omega)]

/-- At an integer the polynomial of R100 is 1, and the result its power of two. -/
theorem exp2a_of_int {c : Nat} {neg : Bool} {m : Nat} {e n : Int} (hc : ffF.num c = .fin neg m e) (hx : units neg m e = n * 2 ^ 149)
    (hlo : -150 < n) (hhi : n < 128) : exp2a c = ffF.round 0 true (.fin false 1 n) := by
  have hquot : n * 2 ^ 149 / ((2 ^ 149 : Nat) : Int) = n := Int.mul_ediv_cancel n (by decide)
  have hrem : n * 2 ^ 149 % ((2 ^ 149 : Nat) : Int) = 0 := Int.mul_emod_left n _
  rw [exp2a_of_fin hc, hx, if_neg (by omega), if_neg (by omega), hquot, hrem, Int.toNat_zero, exp2Poly_zero, Num.scale,
    show (-46 : Int) + n = n - (46 : Nat) by push_cast; ring, round_scale]

/-- An FP32 encoding of a normal number reads as its fields say (R91). -/
theorem ffF_num_normal (neg : Bool) {x t : Nat} (hx : 0 < x) (hx' : x < 255) (ht : t < 2 ^ 23) :
    ffF.num (ffF.withSign neg (x * 2 ^ 23 + t)) = .fin neg (2 ^ 23 + t) (x - 150) := by
  have hsign : ffF.withSign neg (x * 2 ^ 23 + t) / 2 ^ 31 % 2 = if neg then 1 else 0 := by
    unfold Ff.withSign
    rw [show ffF.signBit = 2 ^ 31 from rfl]
    split <;> omega
  have hexp : ffF.withSign neg (x * 2 ^ 23 + t) / 2 ^ 23 % 2 ^ 8 = x := by
    unfold Ff.withSign
    rw [show ffF.signBit = 2 ^ 31 from rfl]
    split <;> omega
  have hfrac : ffF.withSign neg (x * 2 ^ 23 + t) % 2 ^ 23 = t := by
    unfold Ff.withSign
    rw [show ffF.signBit = 2 ^ 31 from rfl]
    split <;> omega
  have hneg : decide ((if neg then 1 else 0) = 1) = neg := by cases neg <;> rfl
  unfold Ff.num
  rw [show ffF.e4 = false from rfl, show ffF.bias = 127 from rfl, show ffF.t = 23 from rfl, show ffF.w = 8 from rfl,
    show ffF.signBit = 2 ^ 31 from rfl]
  dsimp only
  rw [hsign, hexp, hfrac, hneg, if_neg Bool.false_ne_true, if_neg (by omega), if_neg (by omega)]
  congr 1
  push_cast
  ring

/-- The significand of a number of at most 24 bits, with its leading bit at 2^23. -/
theorem significand_bounds {n : Nat} (h0 : n ≠ 0) (h : n < 2 ^ 24) : Nat.log2 n < 24 ∧ 2 ^ 23 ≤ n * 2 ^ (23 - Nat.log2 n) ∧
    n * 2 ^ (23 - Nat.log2 n) < 2 ^ 24 := by
  have hlog : Nat.log2 n < 24 := (Nat.log2_lt h0).2 h
  have hsplit : 2 ^ Nat.log2 n * 2 ^ (23 - Nat.log2 n) = 2 ^ 23 := by
    rw [← pow_add]
    congr 1
    omega
  have hlo := Nat.mul_le_mul_right (2 ^ (23 - Nat.log2 n)) (Nat.log2_self_le h0)
  have hhi := Nat.mul_lt_mul_of_pos_right (Nat.lt_log2_self (n := n)) (Nat.two_pow_pos (23 - Nat.log2 n))
  rw [hsplit] at hlo
  rw [pow_succ, Nat.mul_right_comm, hsplit] at hhi
  exact ⟨hlog, hlo, hhi⟩

/-- The FP32 encoding of an integer of at most 24 bits. -/
theorem ffF_round_ofInt {k : Int} (h0 : k.natAbs ≠ 0) (hk : k.natAbs < 2 ^ 24) : ffF.round 0 true (Num.ofInt k) =
    ffF.withSign (decide (k < 0)) ((Nat.log2 k.natAbs + 127) * 2 ^ 23 + (k.natAbs * 2 ^ (23 - Nat.log2 k.natAbs) - 2 ^ 23)) := by
  obtain ⟨hlog, hlo, hhi⟩ := significand_bounds h0 hk
  have hround : roundAt 0 (decide (k < 0)) k.natAbs 0 (0 + (Nat.log2 k.natAbs : Int) - (23 : Nat)) =
      k.natAbs * 2 ^ (23 - Nat.log2 k.natAbs) := by
    rw [roundAt, if_pos (by omega)]
    congr 2
    omega
  have hcode : (Nat.log2 k.natAbs + 126) * 2 ^ 23 + k.natAbs * 2 ^ (23 - Nat.log2 k.natAbs) =
      (Nat.log2 k.natAbs + 127) * 2 ^ 23 + (k.natAbs * 2 ^ (23 - Nat.log2 k.natAbs) - 2 ^ 23) := by omega
  have hexp : (0 + (Nat.log2 k.natAbs : Int) - (23 : Nat) - (1 - 127 - (23 : Nat))).toNat = Nat.log2 k.natAbs + 126 := by omega
  unfold Ff.round Num.ofInt
  rw [show ffF.maxCode = 0x7F7FFFFF from rfl, show ffF.bias = 127 from rfl, show ffF.t = 23 from rfl]
  dsimp only
  rw [if_neg h0, if_neg (show ¬ 0 + (Nat.log2 k.natAbs : Int) - (23 : Nat) ≤ 1 - 127 - (23 : Nat) by omega), hround, hexp,
    if_neg (by omega), hcode]

/-- The FP32 encoding of an integer of at most 24 bits has its value. -/
theorem ffF_num_ofInt {k : Int} (hk : k.natAbs < 2 ^ 24) : ∃ neg m e,
    ffF.num (ffF.round 0 true (Num.ofInt k)) = .fin neg m e ∧ units neg m e = k * 2 ^ 149 := by
  by_cases h0 : k.natAbs = 0
  · rw [Int.natAbs_eq_zero] at h0
    subst h0
    exact ⟨false, 0, -149, by decide, by rw [units, Nat.zero_mul, zero_mul]; rfl⟩
  obtain ⟨hlog, hlo, hhi⟩ := significand_bounds h0 hk
  rw [ffF_round_ofInt h0 hk]
  refine ⟨_, _, _, ffF_num_normal _ (by omega) (by omega) (by omega), ?_⟩
  rw [units, Nat.add_sub_cancel' hlo, Nat.mul_assoc, ← pow_add, sgn_mul, sgn_natAbs,
    show 23 - Nat.log2 k.natAbs + (((Nat.log2 k.natAbs + 127 : Nat) : Int) - 150 + 149).toNat = 149 by omega, Nat.cast_pow]
  rfl

/-! ## VEX2 (R131) -/

theorem vex2_active (m : Master) (x : V2) (hx : x.et = 0 ∨ x.et = 9) {e : Nat} (he : e < 32)
    (hact : (m.rm x.msk).getLsbD (e * 4) = true) {c : Nat} (hc : c < 2 * ffF.signBit) (h : exp2a (vElem (m.rv x.va) 32 e) = c) :
    vElem ((m.vxeRun (.vex2 x) 0 0).rv x.vd) 32 e = c := by
  have het : etDef 9 x.et = 9 := by rcases hx with h | h <;> rw [h] <;> rfl
  rw [show m.vxeRun (.vex2 x) 0 0 = m.map2 x 9 fun et => vfEx2 et x.rm.toNat from rfl,
    map2_active m x 9 _ (w := 32) (by rw [het]; rfl) (.inr (.inr (.inl rfl))) he hact, het, vfEx2, if_pos rfl, h]
  exact Nat.mod_eq_of_lt hc

theorem vex2_narrow_lanes (m : Master) (x : V2) {f : Ff} (hx : (x.et, f) ∈ [((7 : BitVec 4), ffHF), (8, ffBF)]) :
    Lanes m (m.vxeRun (.vex2 x) 0 0) x.vd x.msk 16 fun e =>
      f.round x.rm.toNat true (ffF.num (exp2a (ffF.round 0 true (f.num (vElem (m.rv x.va) 16 e))))) := by
  have het : etWidth (etDef 9 x.et) = 16 ∧ etFf (etDef 9 x.et) = f ∧ etDef 9 x.et ≠ 9 := by
    simp only [List.mem_cons, Prod.mk.injEq, List.not_mem_nil, or_false] at hx
    rcases hx with ⟨h, rfl⟩ | ⟨h, rfl⟩ <;> rw [h] <;> decide
  obtain ⟨hwidth, hformat, hne⟩ := het
  rw [show m.vxeRun (.vex2 x) 0 0 = m.map2 x 9 fun et => vfEx2 et x.rm.toNat from rfl]
  refine map2_lanes m x 9 _ hwidth (.inr (.inl rfl)) fun e _ => ?_
  rw [vfEx2, if_neg hne, hformat]

/-- Settles O10: integer lanes are exact modulo 2^w, floating-point ones exact before their one rounding, and the special values are
those of R131. -/
theorem vectorArithmeticLanes : Obligations.VectorArithmeticLanes := by
  unfold Obligations.VectorArithmeticLanes
  intro m
  refine ⟨fun x p w hp hw => laneOps_lanes m x hp hw, fun x w hw => vabs_lanes m x hw, fun x w f hw => ?two,
    fun x w f hw => vfma_lanes m x hw, fun x w f hw => ?special, fun x hx e he hact => ?vex2, fun x f hx => vex2_narrow_lanes m x hx⟩
  case two =>
    refine ⟨fun p hp => ?_, vfmin_lanes m x hw, vfmax_lanes m x hw⟩
    rw [vxeRun_fpOps hp]
    exact fp3_lanes m x _ hw
  case special =>
    obtain ⟨hlanefmt, -⟩ := fpTypes_format hw
    obtain ⟨hnan, hinf, -⟩ := hlanefmt.codes_lt
    have hnan' : f.nan < 2 * f.signBit := by omega
    have hinf' : f.infCode < 2 * f.signBit := by omega
    have hzero : 0 < f.signBit := by omega
    refine ⟨fun e he hact => ?_, fun e he hact => ?_, fun e he hact => ?_⟩
    · refine ⟨fun h => fp2_active m x recip hw he hact hnan' (by rw [h]; rfl), fun s h => ?_, fun s e' h => ?_, fun s k e' h => ?_⟩
      · exact fp2_active m x recip hw he hact (withSign_lt hzero s) (by rw [h]; rfl)
      · exact fp2_active m x recip hw he hact (withSign_lt hinf s) (by rw [h]; rfl)
      · exact fp2_active m x recip hw he hact (round_lt hlanefmt ..) (by rw [h, recip_two_pow])
    · refine ⟨?_, fun h => fp2_active m x rsqrt hw he hact (by omega) (by rw [h]; rfl), fun s e' h => ?_⟩
      · rintro (h | h | ⟨k, e', h⟩) <;> exact fp2_active m x rsqrt hw he hact hnan' (by rw [h]; rfl)
      · exact fp2_active m x rsqrt hw he hact (withSign_lt hinf s) (by rw [h]; rfl)
    · refine ⟨?_, fun h => fp2_active m x lg2 hw he hact hinf' (by rw [h]; rfl), fun s e' h => ?_, fun k e' h => ?_⟩
      · rintro (h | h | ⟨k, e', h⟩) <;> exact fp2_active m x lg2 hw he hact hnan' (by rw [h]; rfl)
      · exact fp2_active m x lg2 hw he hact (withSign_lt hinf true) (by rw [h]; rfl)
      · exact fp2_active m x lg2 hw he hact (round_lt hlanefmt ..) (by rw [h, lg2_two_pow])
  case vex2 =>
    have hround : ∀ v, ffF.round 0 true v < 2 * ffF.signBit := round_lt (.inl rfl) 0 true
    refine ⟨fun h => vex2_active m x hx he hact (by decide) (exp2a_of_nan h),
      fun hn h => vex2_active m x hx he hact (by decide) (exp2a_of_ge hn h),
      fun hn h => vex2_active m x hx he hact (by decide) (exp2a_of_le hn h), fun k hlo hhi h => ?_⟩
    obtain ⟨neg, n, e', hnum, hunits⟩ := ffF_num_ofInt (k := k) (by omega)
    exact vex2_active m x hx he hact (hround _) (exp2a_of_int (by rw [h, hnum]) hunits (by omega) (by omega))

end Sys2Proof.Machine
end

section
/-! SUPPORT. Reduction and comparison (spec/06: R132, R136): the pairwise levels of the model are the tree of R136, and each condition is
the one of R132. -/

namespace Sys2Proof.Machine

open Sys2Proof.Claims

/-! ## The tree (R136) -/

theorem pairUp_range (op : Nat → Nat → Nat) (n : Nat) (t : Nat → Nat) :
    pairUp op ((List.range (2 * n)).map t) = (List.range n).map fun j => op (t (2 * j)) (t (2 * j + 1)) := by
  induction n generalizing t with
  | zero => rfl
  | succ n ih =>
    have hlist : (List.range (2 * (n + 1))).map t = t 0 :: t 1 :: (List.range (2 * n)).map fun j => t (j + 2) := by
      rw [Nat.mul_succ, List.range_succ_eq_map, List.range_succ_eq_map]
      simp [Function.comp_def]
    rw [hlist, pairUp, ih, List.range_succ_eq_map]
    simp [Function.comp_def, Nat.mul_succ]

theorem tree_succ (op : Nat → Nat → Nat) (t : Nat → Nat) (k j : Nat) :
    tree op t (k + 1) j = op (tree op t k (2 * j)) (tree op t k (2 * j + 1)) := rfl

/-- A tree over the pairs is the tree of one level more. -/
theorem tree_pairs (op : Nat → Nat → Nat) (t : Nat → Nat) (k j : Nat) :
    tree op (fun i => op (t (2 * i)) (t (2 * i + 1))) k j = tree op t (k + 1) j := by
  induction k generalizing j with
  | zero => rfl
  | succ k ih => rw [tree_succ, ih, ih, tree_succ op t (k + 1)]

theorem reduce_singleton (op : Nat → Nat → Nat) (n a : Nat) : reduce op n [a] = a := by
  induction n with
  | zero => rfl
  | succ n ih => exact ih

/-- The model's levels give the top of the tree, when there are enough of them. -/
theorem reduce_eq_tree (op : Nat → Nat → Nat) {n k : Nat} (h : k ≤ n) (t : Nat → Nat) :
    reduce op n ((List.range (2 ^ k)).map t) = tree op t k 0 := by
  induction k generalizing n t with
  | zero => exact reduce_singleton op n (t 0)
  | succ k ih =>
    obtain ⟨n, rfl⟩ := Nat.exists_eq_add_one_of_ne_zero (show n ≠ 0 by omega)
    rw [reduce, pow_succ', pairUp_range, ih (by omega), tree_pairs]

/-- A tree of sums modulo `M` holds the sum of its elements modulo `M`. -/
theorem tree_add_mod (M : Nat) (t : Nat → Nat) (k j : Nat) : tree (fun x y => (x + y) % M) t k j % M =
    ((List.range (2 ^ k)).map fun i => t (2 ^ k * j + i)).sum % M := by
  induction k generalizing j with
  | zero => simp [tree]
  | succ k ih =>
    have hsplit : (List.range (2 ^ (k + 1))).map (fun i => t (2 ^ (k + 1) * j + i)) =
        ((List.range (2 ^ k)).map fun i => t (2 ^ k * (2 * j) + i)) ++ (List.range (2 ^ k)).map fun i => t (2 ^ k * (2 * j + 1) + i) := by
      have hlow : ∀ i, 2 ^ (k + 1) * j + i = 2 ^ k * (2 * j) + i := fun i => by ring
      have hhigh : ∀ i, 2 ^ (k + 1) * j + (2 ^ k + i) = 2 ^ k * (2 * j + 1) + i := fun i => by ring
      rw [show List.range (2 ^ (k + 1)) = List.range (2 ^ k) ++ (List.range (2 ^ k)).map (2 ^ k + ·) by
        rw [pow_succ, Nat.mul_two, List.range_add], List.map_append, List.map_map]
      exact congrArg₂ (· ++ ·) (List.map_congr_left fun i _ => congrArg t (hlow i)) (List.map_congr_left fun i _ => congrArg t (hhigh i))
    rw [tree_succ, Nat.mod_mod, Nat.add_mod, ih, ih, ← Nat.add_mod, hsplit, List.sum_append]

theorem tree_add_succ_mod (M : Nat) (t : Nat → Nat) (k j : Nat) :
    tree (fun x y => (x + y) % M) t (k + 1) j % M = tree (fun x y => (x + y) % M) t (k + 1) j := Nat.mod_mod ..

/-! ## VRED (R136) -/

/-- VRED gives the top of the tree of any operation that its own agrees with. -/
theorem vred_eq_tree (m : Master) (x : VRedA) {w k id : Nat} {op : Nat → Nat → Nat} (hwidth : etWidth (etDef 3 x.et) = w)
    (hlane : LaneWidth w) (hk : w * 2 ^ k = 1024) (hop : vredOp (etDef 3 x.et) x.rm.toNat x.op.toNat = op)
    (hid : vredId (etDef 3 x.et) x.op.toNat = id) : m.vxeRun (.vred x) 0 0 = m.wv x.vd (BitVec.ofNat 1024
      (tree op (fun e => if (m.rm x.msk).getLsbD (e * (w / 8)) then vElem (m.rv x.va) w e else id) k 0)) := by
  have hcount : 1024 / w = 2 ^ k := Nat.div_eq_of_eq_mul_right hlane.pos hk.symm
  have hlevels : k ≤ 7 := by
    have hle : 2 ^ k ≤ 2 ^ 7 := by
      rw [← hcount]
      rcases hlane with rfl | rfl | rfl | rfl <;> decide
    exact (Nat.pow_le_pow_iff_right (by decide)).1 hle
  subst hwidth hop hid
  rw [show m.vxeRun (.vred x) 0 0 = m.vred x from rfl, Master.vred, ← reduce_eq_tree _ hlevels, ← hcount]
  rfl

theorem vredOp_int {et : Nat} (h : etIsInt et = true) (rm op : Nat) : vredOp et rm op =
    if op = 0 then viAdd (etWidth et) else if op = 1 then viMin (etWidth et) else viMax (etWidth et) := by
  funext a b
  rw [vredOp, if_pos h]
  split
  · rfl
  · split <;> rfl

theorem vredOp_fp {et : Nat} (h : etIsInt et = false) (rm op : Nat) : vredOp et rm op =
    if op = 0 then vfAdd (etFf et) rm else if op = 1 then fpMin (etFf et) else fpMax (etFf et) := by
  funext a b
  rw [vredOp, if_neg (by rw [h]; decide)]
  split
  · rfl
  · split
    · exact vfMin_eq_fpMin ..
    · exact vfMax_eq_fpMax ..

theorem vred_int (m : Master) (x : VRedA) {w k : Nat} (hw : (x.et, w) ∈ intTypes) (hk : w * 2 ^ k = 1024)
    {p : BitVec 2 × (Nat → Nat → Nat) × Nat} (hp : p ∈ intRed w) (hop : x.op = p.1) :
    m.vxeRun (.vred x) 0 0 = m.wv x.vd (BitVec.ofNat 1024
      (tree p.2.1 (fun e => if (m.rm x.msk).getLsbD (e * (w / 8)) then vElem (m.rv x.va) w e else p.2.2) k 0)) := by
  obtain ⟨hwidth, hint, hlane⟩ := intTypes_width hw
  simp only [intRed, List.mem_cons, List.not_mem_nil, or_false] at hp
  rcases hp with rfl | rfl | rfl <;>
    refine vred_eq_tree m x hwidth hlane hk ?_ ?_ <;>
    · rw [hop]
      simp only [vredOp_int hint, vredId, hint, hwidth, if_true]
      rfl

theorem etDef_of_ne {et : BitVec 4} (h : et ≠ 0) (d d' : Nat) : etDef d et = etDef d' et := by
  rw [etDef, etDef, if_neg h, if_neg h]

/-- The lane formats are no integer types, where no default makes them one. -/
theorem fpTypes_not_int {et : BitVec 4} {w : Nat} {f : Ff} (h : (et, w, f) ∈ fpTypes) : etIsInt (etDef 9 et) = false ∧ etDef 9 et ≠ 10 := by
  simp only [fpTypes, List.mem_cons, Prod.mk.injEq, List.not_mem_nil, or_false] at h
  rcases h with ⟨rfl, rfl, rfl⟩ | ⟨rfl, rfl, rfl⟩ | ⟨rfl, rfl, rfl⟩ | ⟨rfl, rfl, rfl⟩ <;> decide

theorem vred_fp (m : Master) (x : VRedA) {w k : Nat} {f : Ff} (h0 : x.et ≠ 0) (hw : (x.et, w, f) ∈ fpTypes) (hk : w * 2 ^ k = 1024)
    {p : BitVec 2 × (Nat → Nat → Nat) × Nat} (hp : p ∈ fpRed f x.rm.toNat) (hop : x.op = p.1) :
    m.vxeRun (.vred x) 0 0 = m.wv x.vd (BitVec.ofNat 1024
      (tree p.2.1 (fun e => if (m.rm x.msk).getLsbD (e * (w / 8)) then vElem (m.rv x.va) w e else p.2.2) k 0)) := by
  obtain ⟨hwidth, hformat, hlane⟩ := fpTypes_width hw
  obtain ⟨hint, -⟩ := fpTypes_not_int hw
  rw [etDef_of_ne h0 9 3] at hwidth hformat hint
  simp only [fpRed, List.mem_cons, List.not_mem_nil, or_false] at hp
  rcases hp with rfl | rfl | rfl <;>
    refine vred_eq_tree m x hwidth hlane hk ?_ ?_ <;>
    · rw [hop]
      simp only [vredOp_fp hint, vredId, hint, hformat, Bool.false_eq_true, if_false]
      rfl

/-- The sum of 32-bit integers is their sum modulo 2^32. -/
theorem vred_sum32 (m : Master) (x : VRedA) (hop : x.op = 0) (het : x.et = 0 ∨ x.et = 3) :
    (m.vxeRun (.vred x) 0 0).rv x.vd = BitVec.ofNat 1024
      (((List.range 32).map fun e => if (m.rm x.msk).getLsbD (4 * e) then vElem (m.rv x.va) 32 e else 0).sum % 2 ^ 32) := by
  have hw : (x.et, 32) ∈ intTypes := by rcases het with h | h <;> rw [h] <;> decide
  have hsum := tree_add_mod (2 ^ 32) (fun e => if (m.rm x.msk).getLsbD (e * (32 / 8)) then vElem (m.rv x.va) 32 e else 0) 5 0
  rw [vred_int m x hw (k := 5) rfl (p := (0, fun x y => (x + y) % 2 ^ 32, 0)) (by simp [intRed]) hop, rv_wv, if_pos rfl]
  dsimp only
  rw [← tree_add_succ_mod, hsum]
  simp only [Nat.mul_zero, Nat.zero_add, Nat.mul_comm _ (32 / 8)]
  rfl

/-! ## Comparisons (R132) -/

theorem viCmp_intConds {p : BitVec 4 × (Nat → Nat → Nat → Bool)} (hp : p ∈ intConds) (w x y : Nat) :
    viCmp w p.1.toNat x y = p.2 w x y := by
  revert p
  simp only [intConds, List.forall_mem_cons, List.not_mem_nil, false_imp_iff, implies_true, and_true]
  exact ⟨rfl, (decide_not ..).symm, rfl, rfl, rfl, rfl, rfl, rfl, rfl, rfl⟩

theorem vcmp_lanes (m : Master) (x : VCmpA) {w : Nat} (hw : (x.et, w) ∈ intTypes) {p : BitVec 4 × (Nat → Nat → Nat → Bool)}
    (hp : p ∈ intConds) (hc : x.cond = p.1) : Compared m (m.vxeRun (.vcmp x) 0 0) x.md x.msk w
      fun e => p.2 w (vElem (m.rv x.va) w e) (vElem (m.rv x.vb) w e) := by
  obtain ⟨hwidth, -, hlane⟩ := intTypes_width hw
  rw [show m.vxeRun (.vcmp x) 0 0 = m.vcmp x 3 fun et => viCmp (etWidth et) x.cond.toNat from rfl]
  refine vcmp_compared m x 3 _ hwidth hlane fun e _ => ?_
  rw [hwidth, hc, viCmp_intConds hp]

theorem isNan_eq_decide (a : Num) : a.isNan = decide (a = .nan) := by
  rw [Bool.eq_iff_iff, isNan_iff, decide_eq_true_eq]

/-- Two values are equal when they are ordered and neither is the smaller. -/
theorem numEq_eq (a b : Num) : Num.eq a b = (!(a.isNan || b.isNan) && !Num.lt a b && !Num.lt b a) := by
  cases a <;> cases b <;> rfl

theorem vfCmp_fpConds {p : BitVec 4 × (Num → Num → Bool)} (hp : p ∈ fpConds) (f : Ff) (x y : Nat) :
    vfCmp f p.1.toNat x y = p.2 (f.num x) (f.num y) := by
  revert p
  simp only [fpConds, List.forall_mem_cons, List.not_mem_nil, false_imp_iff, implies_true, and_true]
  simp only [← isNan_eq_decide]
  refine ⟨numEq_eq .., ?_, rfl, rfl, rfl, rfl, rfl, rfl⟩
  exact (congrArg (! ·) (numEq_eq ..)).trans (by simp only [Bool.not_and, Bool.not_not])

theorem vfcmp_lanes (m : Master) (x : VCmpA) {w : Nat} {f : Ff} (hw : (x.et, w, f) ∈ fpTypes) {p : BitVec 4 × (Num → Num → Bool)}
    (hp : p ∈ fpConds) (hc : x.cond = p.1) : Compared m (m.vxeRun (.vfcmp x) 0 0) x.md x.msk w
      fun e => p.2 (f.num (vElem (m.rv x.va) w e)) (f.num (vElem (m.rv x.vb) w e)) := by
  obtain ⟨hwidth, hformat, hlane⟩ := fpTypes_width hw
  rw [show m.vxeRun (.vfcmp x) 0 0 = m.vcmp x 9 fun et => vfCmp (etFf et) x.cond.toNat from rfl]
  refine vcmp_compared m x 9 _ hwidth hlane fun e _ => ?_
  rw [hformat, hc, vfCmp_fpConds hp]

end Sys2Proof.Machine
end

section
/-! SUPPORT. Movement, conversion and masks (spec/06: R133 to R135, R137, R138). -/

namespace Sys2Proof.Machine

open Sys2Proof.Claims

/-! ## Movement (R133, R137) -/

theorem vperm_lanes (m : Master) (x : V3) {w : Nat} (hw : (x.et, w) ∈ intTypes) :
    Lanes m (m.vxeRun (.vperm x) 0 0) x.vd x.msk w fun e =>
      if vElem (m.rv x.vb) w e < 1024 / w then vElem (m.rv x.va) w (vElem (m.rv x.vb) w e) else 0 := by
  obtain ⟨rfl, -, hlane⟩ := intTypes_width hw
  exact lanes_of_vPred m x.vd x.msk hlane fun _ _ => rfl

theorem vmov_lanes (m : Master) (x : V2) {w : Nat} (hw : (x.et, w) ∈ intTypes) :
    Lanes m (m.vxeRun (.vmov x) 0 0) x.vd x.msk w fun e => vElem (m.rv x.va) w e := by
  obtain ⟨hwidth, -, hlane⟩ := intTypes_width hw
  rw [show m.vxeRun (.vmov x) 0 0 = m.map2 x 3 fun _ p => p from rfl]
  exact map2_lanes m x 3 _ hwidth hlane fun _ _ => rfl

theorem vbcast_lanes (m : Master) (x : VBcA) (a : W64) {w : Nat} (hw : (x.et, w) ∈ intTypes) :
    Lanes m (m.vxeRun (.vbcast x) a 0) x.vd x.msk w fun _ => a.toNat := by
  obtain ⟨rfl, -, hlane⟩ := intTypes_width hw
  exact lanes_of_vPred m x.vd x.msk hlane fun _ _ => rfl

theorem vslide_lanes (m : Master) (x : VSlA) (b : W64) {w : Nat} (hw : (x.et, w) ∈ intTypes) :
    Lanes m (m.vxeRun (.vslide x) 0 b) x.vd x.msk w fun e =>
      if 0 ≤ e + b.toInt ∧ e + b.toInt < (1024 / w : Nat) then vElem (m.rv x.va) w (e + b.toInt).toNat else 0 := by
  obtain ⟨rfl, -, hlane⟩ := intTypes_width hw
  refine lanes_of_vPred m x.vd x.msk hlane fun e _ => ?_
  simp only [Bool.and_eq_true, decide_eq_true_eq]

/-- A register made whole, element by element, changes no other register. -/
theorem wv_vGen (m : Master) (vd : VReg) {w : Nat} (hw : LaneWidth w) {f g : Nat → Nat} (h : ∀ e < 1024 / w, f e % 2 ^ w = g e) :
    let n := m.wv vd (vGen w f)
    n.s = m.s ∧ n.m = m.m ∧ (∀ r, r ≠ vd → n.rv r = m.rv r) ∧ ∀ e < 1024 / w, vElem (n.rv vd) w e = g e := by
  obtain ⟨hs, hm, hv⟩ := wv_frame m vd (vGen w f)
  refine ⟨hs, hm, hv, fun e he => ?_⟩
  rw [rv_wv, if_pos rfl, vElem_vGen hw _ he, h e he]

theorem vsel_result (m : Master) (x : V3) {w : Nat} (hw : (x.et, w) ∈ intTypes) :
    let n := m.vxeRun (.vsel x) 0 0
    n.s = m.s ∧ n.m = m.m ∧ (∀ r, r ≠ x.vd → n.rv r = m.rv r) ∧
      ∀ e < 1024 / w, vElem (n.rv x.vd) w e = vElem (m.rv (if (m.rm x.msk).getLsbD (e * (w / 8)) then x.va else x.vb)) w e := by
  obtain ⟨rfl, -, hlane⟩ := intTypes_width hw
  refine wv_vGen m x.vd hlane fun e _ => ?_
  rw [active]
  split <;> exact vElem_mod ..

theorem vins_result (m : Master) (x : VInsA) (a b : W64) {w : Nat} (hw : (x.et, w) ∈ intTypes) :
    let n := m.vxeRun (.vins x) a b
    (1024 / w ≤ b.toNat → n = m) ∧ (b.toNat < 1024 / w → n.s = m.s ∧ n.m = m.m ∧ (∀ r, r ≠ x.vd → n.rv r = m.rv r) ∧
      ∀ e < 1024 / w, vElem (n.rv x.vd) w e = if e = b.toNat then a.toNat % 2 ^ w else vElem (m.rv x.vd) w e) := by
  obtain ⟨rfl, -, hlane⟩ := intTypes_width hw
  rw [show m.vxeRun (.vins x) a b = m.vins x a b from rfl, Master.vins]
  refine ⟨fun h => if_neg (by omega), fun h => ?_⟩
  rw [if_pos h]
  refine wv_vGen m x.vd hlane fun e _ => ?_
  split
  · exact Nat.mod_mod ..
  · exact vElem_mod ..

theorem vext_result (m : Master) (x : VExtA) (b : W64) {w : Nat} (hw : (x.et, w) ∈ intTypes) : m.vxeRun (.vext x) 0 b =
    m.ws x.sd (if b.toNat < 1024 / w then BitVec.ofInt 64 (Claims.signed w (vElem (m.rv x.va) w b.toNat)) else 0) := by
  obtain ⟨rfl, -, -⟩ := intTypes_width hw
  rfl

/-! ## Conversion (R134, R135) -/

/-- The element types that VCVT accepts have elements. -/
theorem etWidth_lane {et : Nat} (h : 1 ≤ et) (h' : et ≤ 10) : LaneWidth (etWidth et) := by
  unfold LaneWidth
  interval_cases et <;> decide

theorem vcvt_result (m : Master) (x : VCvtA) (hok : x.ok = true) :
    let ws := etWidth x.src.toNat
    let wd := etWidth x.et.toNat
    let n := 1024 / max ws wd
    let r := m.vxeRun (.vcvt x) 0 0
    r.s = m.s ∧ r.m = m.m ∧ (∀ v, v ≠ x.vd → r.rv v = m.rv v) ∧
    ∀ e < 1024 / wd, vElem (r.rv x.vd) wd e =
      if (m.rm x.msk).getLsbD (e * (wd / 8)) = true ∧ (ws ≤ wd ∨ x.part.toNat * n ≤ e ∧ e < x.part.toNat * n + n) then
        etRound x.et.toNat x.ud x.rm.toNat x.ov (etNum x.src.toNat x.us
          (vElem (m.rv x.va) ws (if ws ≤ wd then x.part.toNat * n + e else e - x.part.toNat * n))) % 2 ^ wd
      else vElem (m.rv x.vd) wd e := by
  have hlane : LaneWidth (etWidth x.et.toNat) := by
    simp only [VCvtA.ok, Bool.and_eq_true, decide_eq_true_eq] at hok
    exact etWidth_lane (by omega) (by omega)
  intro ws wd n r
  rw [show r = m.vcvt x from rfl, Master.vcvt]
  obtain ⟨hs, hm, hv⟩ := wv_frame m x.vd _
  refine ⟨hs, hm, hv, fun e he => ?_⟩
  rw [rv_wv, if_pos rfl, vElem_vPred hlane _ _ _ he, active]
  by_cases hact : (m.rm x.msk).getLsbD (e * (wd / 8)) = true
  · rw [if_pos hact]
    by_cases hsize : ws ≤ wd
    · rw [if_pos hsize, if_pos ⟨hact, .inl hsize⟩, if_pos hsize]
    · rw [if_neg hsize, if_neg hsize]
      have hwrites : (m.rm x.msk).getLsbD (e * (wd / 8)) = true ∧ (ws ≤ wd ∨ x.part.toNat * n ≤ e ∧ e < x.part.toNat * n + n) ↔
          (decide (x.part.toNat * n ≤ e) && decide (e < x.part.toNat * n + n)) = true := by
        simp only [hact, hsize, true_and, false_or, Bool.and_eq_true, decide_eq_true_eq]
      rw [if_congr hwrites rfl rfl]
      split
      · rfl
      · exact vElem_mod ..
  · rw [if_neg hact, if_neg fun h => hact h.1]

theorem vdsx_lanes (m : Master) (x : VDsxA) (b : W64) {w : Nat} {f : Ff} (h0 : x.et ≠ 0) (hw : (x.et, w, f) ∈ fpTypes) :
    Lanes m (m.vxeRun (.vdsx x) 0 b) x.vd x.msk w fun e =>
      let c := vElem (m.rv x.va) (if x.n4 then 4 else 8) (x.part.toNat * (1024 / w) + e)
      f.round x.rm.toNat x.ov (Num.scale (b.setWidth 8).toInt (dsNum (if x.n4 then ds4Units c else ds8Units c))) := by
  obtain ⟨hwidth, hformat, hlane⟩ := fpTypes_width hw
  obtain ⟨hint, hds⟩ := fpTypes_not_int hw
  rw [show etDef 9 x.et = x.et.toNat from if_neg h0] at hwidth hformat hint hds
  have hround : ∀ v, etRound x.et.toNat false x.rm.toNat x.ov v = f.round x.rm.toNat x.ov v := fun v => by
    rw [etRound, if_neg (by rw [hint]; decide), if_neg hds, hformat]
  subst hwidth
  refine lanes_of_vPred m x.vd x.msk hlane fun e _ => ?_
  dsimp only
  rw [hround]
  rfl

/-! ## Masks (R138) -/

theorem mActive_eq (k : W128) {et w : Nat} (hwidth : etWidth et = 8 * w) :
    mActive k et = (List.range (128 / w)).filter fun e => k.getLsbD (w * e) := by
  have hcount : 1024 / (8 * w) = 128 / w := Nat.mul_div_mul_left 128 w (by decide : 0 < 8)
  rw [mActive, hwidth, hcount, Nat.mul_div_cancel_left w (by decide)]
  exact List.filter_congr fun e _ => congrArg k.getLsbD (Nat.mul_comm e w)

/-- The first number that `p` selects, or the end, lies behind the numbers that it does not select. -/
theorem headD_filter_range' (p : Nat → Bool) (n a : Nat) :
    ((List.range' a n).filter p).headD (a + n) = a + ((List.range' a n).takeWhile fun e => !p e).length := by
  induction n generalizing a with
  | zero => rfl
  | succ n ih =>
    rw [List.range'_succ, List.filter_cons, List.takeWhile_cons]
    cases hp : p a
    · have hnext := ih (a + 1)
      rw [Nat.add_right_comm] at hnext
      simpa [Nat.add_assoc, Nat.add_comm 1] using hnext
    · simp

theorem headD_filter_range (p : Nat → Bool) (n : Nat) :
    ((List.range n).filter p).headD n = ((List.range n).takeWhile fun e => !p e).length := by
  have h := headD_filter_range' p n 0
  rwa [Nat.zero_add, Nat.zero_add, ← List.range_eq_range'] at h

theorem mCnt_width {et : BitVec 4} {w : Nat} (h : (et.toNat, w) ∈ [(0, 4), (1, 1), (2, 2), (3, 4), (4, 8)]) :
    etWidth (etDef 3 et) = 8 * w := by
  rw [← show BitVec.ofNat 4 et.toNat = et by simp]
  generalize et.toNat = t at h
  simp only [List.mem_cons, Prod.mk.injEq, List.not_mem_nil, or_false] at h
  rcases h with ⟨rfl, rfl⟩ | ⟨rfl, rfl⟩ | ⟨rfl, rfl⟩ | ⟨rfl, rfl⟩ | ⟨rfl, rfl⟩ <;> rfl

theorem mpop_result (m : Master) (x : MCnt) {w : Nat} (hwidth : etWidth (etDef 3 x.et) = 8 * w) : m.vxeRun (.mpop x) 0 0 =
    m.ws x.sd (BitVec.ofNat 64 ((List.range (128 / w)).filter fun e => (m.rm x.ma).getLsbD (w * e)).length) := by
  rw [← mActive_eq _ hwidth]
  rfl

theorem mfirst_result (m : Master) (x : MCnt) {w : Nat} (hwidth : etWidth (etDef 3 x.et) = 8 * w) : m.vxeRun (.mfirst x) 0 0 =
    m.ws x.sd (BitVec.ofNat 64 ((List.range (128 / w)).takeWhile fun e => !(m.rm x.ma).getLsbD (w * e)).length) := by
  have hcount : 1024 / etWidth (etDef 3 x.et) = 128 / w := by
    rw [hwidth]
    exact Nat.mul_div_mul_left 128 w (by decide : 0 < 8)
  rw [← headD_filter_range, ← mActive_eq _ hwidth, ← hcount]
  rfl

/-- Settles O11: reduction is the tree of R136, movement and conversion are lanes, and the mask instructions count by elements. -/
theorem vectorMovementAndMasks : Obligations.VectorMovementAndMasks := by
  unfold Obligations.VectorMovementAndMasks
  intro m
  refine ⟨fun x w k hw hk p hp hop => vred_int m x hw hk hp hop, fun x w k f h0 hw hk p hp hop => vred_fp m x h0 hw hk hp hop,
    fun x hop het => vred_sum32 m x hop het, fun x w hw p hp hc => vcmp_lanes m x hw hp hc,
    fun x w f hw p hp hc => vfcmp_lanes m x hw hp hc, fun x w hw => ⟨vperm_lanes m x hw, vsel_result m x hw⟩,
    fun x w hw => vmov_lanes m x hw, fun x w a hw => vbcast_lanes m x a hw, fun x w b hw => vslide_lanes m x b hw,
    fun x w a b hw => vins_result m x a b hw, fun x w b hw => vext_result m x b hw, fun x hok => vcvt_result m x hok,
    fun x w f b h0 hw => vdsx_lanes m x b h0 hw, fun x => ⟨rfl, rfl, rfl⟩, fun x => rfl, fun x w hw => ?counts⟩
  case counts => exact ⟨mpop_result m x (mCnt_width hw), mfirst_result m x (mCnt_width hw)⟩

end Sys2Proof.Machine
end

section
/-! SUPPORT. Acceptance by the matrix engine (spec/07: R149-R151, R155): what the bindings before a job's acceptance change of the
state, that the checks of an operand do not see a queued fault packet, and the acceptance of multiplications and tile jobs. -/

namespace Sys2Proof.Machine

open Sys2Proof.Claims

/-! ## Before acceptance (R155, R217, R395) -/

/-- What may change before a job is queued: tables that acceptance does not speak of, and TBMASK of the issuing master. -/
def Prepares (s u : State) : Prop :=
  u.cur = s.cur ∧ u.mem = s.mem ∧ u.vers = s.vers ∧ u.tiles = s.tiles ∧ u.ztag = s.ztag ∧ u.reqs = s.reqs ∧
  (∀ p, p ≠ s.cur → u.ms p = s.ms p) ∧ ∃ b, u.me = { s.me with tbmask := b }

theorem Prepares.refl (s : State) : Prepares s s := ⟨rfl, rfl, rfl, rfl, rfl, rfl, fun _ _ => rfl, s.me.tbmask, rfl⟩

theorem Prepares.trans {s u w : State} (h : Prepares s u) (h' : Prepares u w) : Prepares s w := by
  obtain ⟨hcur, hmem, hvers, htiles, hztag, hreqs, hms, b, hme⟩ := h
  obtain ⟨hcur', hmem', hvers', htiles', hztag', hreqs', hms', b', hme'⟩ := h'
  exact ⟨hcur'.trans hcur, hmem'.trans hmem, hvers'.trans hvers, htiles'.trans htiles, hztag'.trans hztag, hreqs'.trans hreqs,
    fun p hp => (hms' p (hcur ▸ hp)).trans (hms p hp), b', by rw [hme', hme]⟩

theorem Prepares.queue {s u : State} (h : Prepares s u) (e : Nat) : u.me.queue e = s.me.queue e := by
  obtain ⟨-, -, -, -, -, -, -, b, hme⟩ := h
  rw [hme]
  rfl

/-- A job accepted after such changes is accepted from the state before them. -/
theorem Prepares.queued {s u t : State} (hp : Prepares s u) {e : Nat} {k : JobK} {words : Nat} {h : Hd} (hq : Queued u t e k words h) :
    Queued s t e k words h := by
  obtain ⟨hcur, hmem, hvers, htiles, hztag, hreqs, hms, b, hme⟩ := hp
  obtain ⟨gcur, gmem, gvers, gtiles, gztag, greqs, gpc, go, gfiles, gspecials, gpend, gqueue, gms, gjob⟩ := hq
  simp only [nextPc, rdy, hme] at gpc go gfiles gspecials gpend gqueue gjob
  exact ⟨gcur.trans hcur, gmem.trans hmem, gvers.trans hvers, gtiles.trans htiles, gztag.trans hztag, hreqs ▸ greqs, gpc, go, gfiles,
    gspecials, gpend, gqueue, fun p hne => (gms p (hcur ▸ hne)).trans (hms p hne), gjob⟩

/-- A fold of steps that each stand in a reflexive and transitive relation stands in it. -/
theorem foldl_related {α : Type} {R : State → State → Prop} (hrefl : ∀ s, R s s) (htrans : ∀ {a b c}, R a b → R b c → R a c)
    {f : State → α → State} (hf : ∀ s a, R s (f s a)) (l : List α) (s : State) : R s (l.foldl f s) := by
  induction l generalizing s with
  | nil => exact hrefl s
  | cons a l ih => exact htrans (hf s a) (ih _)

/-- Two states differ at most in launches and plates. -/
def BindsOnly (s u : State) : Prop := ∃ l p, u = { s with launches := l, plates := p }

theorem BindsOnly.refl (s : State) : BindsOnly s s := ⟨s.launches, s.plates, rfl⟩

theorem BindsOnly.trans {s u w : State} (h : BindsOnly s u) (h' : BindsOnly u w) : BindsOnly s w := by
  obtain ⟨_, _, rfl⟩ := h
  obtain ⟨l, p, rfl⟩ := h'
  exact ⟨l, p, rfl⟩

theorem BindsOnly.prepares {s u : State} (h : BindsOnly s u) : Prepares s u := by
  obtain ⟨l, p, rfl⟩ := h
  exact .refl s

theorem bindsOnly_updLaunch (s : State) (slot : Nat) (f : Launch → Launch) : BindsOnly s (s.updLaunch slot f) := by
  unfold State.updLaunch
  split
  · exact ⟨_, s.plates, rfl⟩
  · exact .refl s

/-- Binding a plate's kernel slot changes plates and launches alone (R395). -/
theorem bindsOnly_plateBind (s : State) (pos : Nat) (c : Cap) (ea len : Nat) : BindsOnly s (s.plateBind pos c ea len) := by
  unfold State.plateBind
  split
  · exact .refl s
  · refine foldl_related .refl .trans (fun u x => ?_) _ s
    dsimp only
    split
    · exact .refl u
    · split
      · exact .refl u
      · exact .trans ⟨u.launches, _, rfl⟩ (bindsOnly_updLaunch ..)

/-- A write's TBMASK bit is the issuing master's alone (R25, R217). -/
theorem prepares_touch (s : State) (k : Nat) : Prepares s (s.touch s.cur k) := by
  have hset : ∀ (m : Master) b, ∃ x, m.setTb b = { m with tbmask := x } := fun m b => by
    cases b
    · exact ⟨m.tbmask, rfl⟩
    · exact ⟨_, rfl⟩
  refine ⟨rfl, rfl, rfl, rfl, rfl, rfl, fun p hp => (ms_setM ..).trans (if_neg hp), ?_⟩
  obtain ⟨x, hx⟩ := hset s.me (s.tbBit s.cur k)
  exact ⟨x, (me_setM_cur s _).trans hx⟩

/-- Two states differ at most in the fault packets that dies hold. -/
def LogsOnly (s u : State) : Prop := ∃ d, u = { s with dies := d } ∧ ∀ i, (u.die i).part = (s.die i).part

theorem LogsOnly.refl (s : State) : LogsOnly s s := ⟨s.dies, rfl, fun _ => rfl⟩

theorem LogsOnly.trans {s u w : State} (h : LogsOnly s u) (h' : LogsOnly u w) : LogsOnly s w := by
  obtain ⟨_, rfl, hpart⟩ := h
  obtain ⟨d, rfl, hpart'⟩ := h'
  exact ⟨d, rfl, fun i => (hpart' i).trans (hpart i)⟩

theorem LogsOnly.prepares {s u : State} (h : LogsOnly s u) : Prepares s u := by
  obtain ⟨d, rfl, -⟩ := h
  exact .refl s

theorem logsOnly_queuePacket (s : State) (die : Nat) (p : Packet) : LogsOnly s (s.queuePacket die p) := by
  refine ⟨_, rfl, fun i => ?_⟩
  rw [State.queuePacket, State.updDie, die_setDie]
  split
  · next h => rw [h]
  · rfl

/-- Errors met by a read that raises no fault are logged, and nothing else changes (R436). -/
theorem logsOnly_noteUe (s : State) (r : Rdr) (eng : Nat) (ea : W64) (key n : Nat) : LogsOnly s (s.noteUe r eng ea key n) :=
  foldl_related (R := LogsOnly) .refl .trans (fun _ _ => logsOnly_queuePacket ..) _ s

/-- The checks of an operand see of a die its partition alone. -/
theorem LogsOnly.mxeFlt {s u : State} (h : LogsOnly s u) (pos opn : Nat) (c : Cap) (ea : W64) (len : Nat) (write : Bool) (mc : Option Nat) :
    u.mxeFlt pos opn c ea len write mc = s.mxeFlt pos opn c ea len write mc := by
  obtain ⟨d, rfl, hpart⟩ := h
  have hof : ∀ p, ({ s with dies := d } : State).partOf p = s.partOf p := fun p => hpart (dieOf p)
  simp only [State.mxeFlt, State.spaceFlt, State.pageFlt, State.haloForeign, State.leaseFlt, State.plateIssue, hof]
  rfl

theorem LogsOnly.opOk {s u : State} (h : LogsOnly s u) {opn : Nat} {c : Cap} {ea : W64} {len : Nat} {write : Bool} {mc : Option Nat}
    (hok : OpOk s opn c ea len write mc) : OpOk u opn c ea len write mc := by
  have hflt := h.mxeFlt s.cur opn c ea len write mc
  obtain ⟨d, rfl, -⟩ := h
  exact ⟨hflt.trans hok.1, hok.2⟩

theorem LogsOnly.freeEntry {s u : State} (h : LogsOnly s u) {e : Nat} (hfree : FreeEntry s e) : FreeEntry u e := by
  obtain ⟨d, rfl, -⟩ := h
  exact hfree

/-! ## Acceptance (R155) -/

/-- A job of the matrix engine whose ranges touch no switching bank is accepted into a free entry. -/
theorem mxeAccept_queued {s : State} (hfree : FreeEntry s 1) {rd wr : List Fp} (hbusy : s.fpBusy s.cur (rd ++ wr) = false)
    (h : Hd) (words : Nat) (k : JobK) {bind : State → State} (hbind : Prepares s (bind s)) :
    Queued s (s.mxeAccept h words k rd wr bind) 1 k words h := by
  obtain ⟨-, horphan, hlen⟩ := hfree
  have hlen' : ((bind s).me.queue 1).length < 2 := by rwa [hbind.queue]
  have hfull : s.engFull 1 = false := decide_eq_false (by omega)
  have hfull' : (bind s).engFull 1 = false := decide_eq_false (by omega)
  have haccept : s.mxeAccept h words k rd wr bind = (bind s).accept h words 1 k rd wr := by
    rw [State.mxeAccept, proofCheck_of_none horphan, hfull, hbusy, State.accept, hfull']
    rfl
  rw [haccept]
  exact hbind.queued (accept_queued (by decide) hlen' h words k rd wr)

/-- Ranges are busy if a part of them is; which operand they belong to does not matter. -/
theorem fpBusy_append (s : State) (pos : Nat) (a b : List Fp) : s.fpBusy pos (a ++ b) = (s.fpBusy pos a || s.fpBusy pos b) :=
  List.any_append

theorem fpBusy_mkFpBlk (s : State) (pos p sp ea len opn : Nat) (cur : W64) :
    s.fpBusy pos (mkFpBlk p sp ea len opn cur) = s.fpBusy pos (mkFpBlk p sp ea len) := by
  simp only [State.fpBusy, mkFpBlk, List.any_map]
  rfl

/-- An MMA whose operands pass their checks is accepted (R150, R155). -/
theorem mmaIssue_queued {s : State} (hfree : FreeEntry s 1) (h : Hd) (words z : Nat) {ca cb : Cap} {ea eb : W64} (sa sb : Nat)
    {m n k la lb : Nat} (ta tb : Bool) {mc : Option Nat} (q : Option Nat) (bgs : Bool)
    (hla : la = if (m = 0 || n = 0 || k = 0 : Bool) then 0 else opExtent m k sa ta)
    (hlb : lb = if (m = 0 || n = 0 || k = 0 : Bool) then 0 else opExtent n k sb tb)
    (ha : OpOk s 0 ca ea la false none) (hb : OpOk s 1 cb eb lb false mc) :
    Queued s (s.mmaIssue h words z ca cb ea eb sa sb m n k ta tb mc q bgs) 1
      (.mma z { sp := ca.space, ea := ea } { sp := cb.space, ea := mcEa mc eb } sa sb m n (if (m = 0 || n = 0 || k = 0 : Bool) then 0 else k)
        ta tb (if mc.isSome then 1 else 0) (mc.getD 0) q bgs) words h := by
  obtain ⟨hfltA, hbusyA⟩ := ha
  obtain ⟨hfltB, hbusyB⟩ := hb
  subst hla hlb
  have hflt : (s.mxeFlt s.cur 0 ca ea (if (m = 0 || n = 0 || k = 0 : Bool) then 0 else opExtent m k sa ta) false none <|>
      s.mxeFlt s.cur 1 cb eb (if (m = 0 || n = 0 || k = 0 : Bool) then 0 else opExtent n k sb tb) false mc) = none := by
    rw [hfltA, hfltB]
    rfl
  unfold State.mmaIssue
  dsimp only
  rw [hflt]
  refine mxeAccept_queued hfree ?_ h words _ ((bindsOnly_plateBind ..).trans (bindsOnly_plateBind ..)).prepares
  rw [List.append_nil, fpBusy_append, Bool.or_eq_false_iff]
  exact ⟨(fpBusy_mkFpBlk ..).trans hbusyA, (fpBusy_mkFpBlk ..).trans hbusyB⟩

/-- Substituted values within R149's limits pass. -/
theorem tpCheck_of_ok {m : Master} {t : TP} (ht : TpOk m t) (oa ob : Nat × Cap) (k : State → State) (s : State) :
    tpCheck m t [(tpStride m t.sas t.sa, oa), (tpStride m t.sbs t.sb, ob)] k s = k s := by
  obtain ⟨hm, hn, hk, hsa, hsb, hmc⟩ := ht
  have hsizes : (decide (tpVal m t.ms t.m > 32) || decide (tpVal m t.ns t.n > 32) || decide (tpK m t > 1024)) = false := by
    simp [hm, hn, hk]
  have hcore : (decide (t.mcm = 2) && decide ((m.rs t.mc).toNat % 64 ≥ 16)) = false := by simpa using hmc
  rw [tpCheck, hsizes, if_neg Bool.false_ne_true, List.find?_eq_none.2 (by simp [hsa, hsb])]
  dsimp only
  rw [hcore, if_neg Bool.false_ne_true]

/-- The source core and operand B of R151, as the engine keeps them. -/
theorem tpCore_eq (m : Master) (t : TP) : tpCore m t = if t.mcm = 0 then none else some (sourceCore m t) := by
  unfold tpCore sourceCore
  split
  · rfl
  · split <;> rfl

theorem operandB_eq (m : Master) (t : TP) :
    operandB m t = { sp := (m.rc t.bcap).space, ea := mcEa (tpCore m t) (m.rc t.bcap).cursor } := by
  rw [tpCore_eq, operandB]
  split <;> rfl

/-- A zero among the rows, columns and steps, as the engine tests it. -/
theorem ite_zero_eq (m n k : Nat) {α : Type} (a b : α) :
    (if (m = 0 || n = 0 || k = 0 : Bool) then a else b) = if m = 0 ∨ n = 0 ∨ k = 0 then a else b := by
  simp only [Bool.or_eq_true, decide_eq_true_eq, or_assoc]

/-- A task issues an engine's instruction. -/
theorem gate_engine {s : State} (hk : IsTask s) (nr : BitVec 2) (k : State → State) : s.gate .engine nr k = .next (k s) :=
  gate_of_mayIssue (mayIssue_task hk .engine nr) k


theorem mma_queued {s : State} {x : Mma} (hfree : FreeEntry s 1) (hok : MmaOk s x) :
    ∃ t, execMma x s = .next t ∧
      Queued s t 1 (.mma x.zd.toNat (operandA s.me x.tp) (operandB s.me x.tp) (tpStride s.me x.tp.sas x.tp.sa)
        (tpStride s.me x.tp.sbs x.tp.sb) (tpVal s.me x.tp.ms x.tp.m) (tpVal s.me x.tp.ns x.tp.n)
        (if tpVal s.me x.tp.ms x.tp.m = 0 ∨ tpVal s.me x.tp.ns x.tp.n = 0 ∨ tpK s.me x.tp = 0 then 0 else tpK s.me x.tp) x.tp.ta x.tp.tb
        (if x.tp.mcm = 0 then 0 else 1) (if x.tp.mcm = 0 then 0 else sourceCore s.me x.tp)
        (if x.tp.qe then some x.tp.q.toNat else none) false) 7 x.h := by
  obtain ⟨htile, htp, hA, hB⟩ := hok
  refine ⟨_, gate_engine hfree.1 .., ?_⟩
  dsimp only
  rw [htile, tpCheck_of_ok htp]
  have hq := mmaIssue_queued hfree x.h 7 x.zd.toNat (tpStride s.me x.tp.sas x.tp.sa) (tpStride s.me x.tp.sbs x.tp.sb) x.tp.ta x.tp.tb
    (if x.tp.qe then some x.tp.q.toNat else none) false rfl rfl hA hB
  rw [← operandB_eq, ite_zero_eq] at hq
  have hcore : (if (tpCore s.me x.tp).isSome then 1 else 0) = (if x.tp.mcm = 0 then 0 else 1) ∧
      (tpCore s.me x.tp).getD 0 = if x.tp.mcm = 0 then 0 else sourceCore s.me x.tp := by
    rw [tpCore_eq]
    split <;> exact ⟨rfl, rfl⟩
  rw [hcore.1, hcore.2] at hq
  exact hq

theorem mmas_queued {s : State} {x : Mma} (hfree : FreeEntry s 1) (hok : MmasOk s x) :
    ∃ t, execMmas x s = .next t ∧
      Queued s t 1 (.mmas x.zd.toNat (operandA s.me x.tp) (tpStride s.me x.tp.sbs x.tp.sb) (tpVal s.me x.tp.ms x.tp.m)
        (tpVal s.me x.tp.ns x.tp.n)
        (if tpVal s.me x.tp.ms x.tp.m = 0 ∨ tpVal s.me x.tp.ns x.tp.n = 0 ∨ tpK s.me x.tp = 0 then 0 else tpK s.me x.tp)
        (tpStride s.me x.tp.sas x.tp.sa)) 7 x.h := by
  obtain ⟨htile, htp, hflt, hbusy⟩ := hok
  refine ⟨_, gate_engine hfree.1 .., ?_⟩
  dsimp only
  rw [htile, tpCheck_of_ok htp]
  simp only [ite_zero_eq]
  rw [hflt]
  refine mxeAccept_queued hfree ?_ x.h 7 _ (bindsOnly_plateBind ..).prepares
  rw [List.append_nil]
  exact (fpBusy_mkFpBlk ..).trans hbusy

/-! ## MMA.BGS (R165, R166) -/

/-- A shape record within its limits names at least one row, one column and one step. -/
theorem shapeOk_counts {s : State} (h : shapeOk s.shapeRecord = true) :
    (decide (shape s 48 6 = 0) || decide (shape s 56 6 = 0) || decide (shape s 64 11 = 0)) = false := by
  simp only [shapeOk, Bool.and_eq_true, decide_eq_true_eq] at h
  have hm : 1 ≤ shape s 48 6 := by simp only [shape, h]
  have hn : 1 ≤ shape s 56 6 := by simp only [shape, h]
  have hk : 1 ≤ shape s 64 11 := by simp only [shape, h]
  simp only [Bool.or_eq_false_iff, decide_eq_false_iff_not]
  omega

/-- The operands of MMA.BGS: a base, and increments by the rank's coordinates (R166). -/
def shapeEaA (s : State) (rm rk : Nat) : W64 :=
  (s.me.rc (BitVec.ofNat 4 (shape s 32 4))).cursor + BitVec.ofNat 64 (shape s 192 64 + rm * shape s 320 32 + rk * shape s 384 32)
def shapeEaB (s : State) (rn rk : Nat) : W64 :=
  (s.me.rc (BitVec.ofNat 4 (shape s 36 4))).cursor + BitVec.ofNat 64 (shape s 256 64 + rn * shape s 352 32 + rk * shape s 416 32)

/-- MMA.BGS of a COMPAT launch with a good record logs what it read in error, and issues by its rank's place in K. -/
theorem execMmaBgs_of_ok {s : State} {x : MmaBgs} {l : Launch} (hk : IsTask s) (htile : s.me.noTile x.zd = false)
    (hl : s.launch? s.me.lslot = some l) (hc : l.compat = true) (hshape : shapeOk s.shapeRecord = true) :
    let rk := s.me.slice / (shape s 80 16 * shape s 96 16)
    ∃ u, LogsOnly s u ∧ execMmaBgs x s = .next (if shape s 112 16 ≤ rk then
        u.mxeAccept x.h x.h.words (.mma x.zd.toNat { sp := 1, ea := 0 } { sp := 1, ea := 0 } 0 0 0 0 0 false false 0 0 none true) [] []
          fun s => s
      else u.mmaIssue x.h x.h.words x.zd.toNat (s.me.rc (BitVec.ofNat 4 (shape s 32 4))) (s.me.rc (BitVec.ofNat 4 (shape s 36 4)))
        (shapeEaA s (s.me.slice % shape s 80 16) rk) (shapeEaB s (s.me.slice / shape s 80 16 % shape s 96 16) rk)
        (shape s 128 20) (shape s 160 20) (shape s 48 6) (shape s 56 6) (shape s 64 11) (s.shapeRecord.getLsbD 40)
        (s.shapeRecord.getLsbD 41) none none true) := by
  have hlog := logsOnly_noteUe s (s.rdr s.cur 0) 0 0 (lsKey (coreOf s.cur) 0) 64
  refine ⟨_, hlog, ?_⟩
  have hl' : (s.noteUe (s.rdr s.cur 0) 0 0 (lsKey (coreOf s.cur) 0) 64).launch? s.me.lslot = some l := by
    obtain ⟨d, e, -⟩ := hlog
    rw [e]
    exact hl
  have hissue : (s.me.noTile x.zd || !(Option.map (fun y : Launch => y.compat) (some l)).getD false) = false := by simp [htile, hc]
  unfold execMmaBgs
  rw [gate_engine hk]
  dsimp only
  rw [hl', hissue, hshape]
  rfl

/-- A rank beyond the partitions of K has nothing to do (R166). -/
theorem mmaBgs_queued_beyond {s : State} {x : MmaBgs} {l : Launch} (hfree : FreeEntry s 1) (htile : s.me.noTile x.zd = false)
    (hl : s.launch? s.me.lslot = some l) (hc : l.compat = true) (hshape : shapeOk s.shapeRecord = true)
    (hrk : shape s 112 16 ≤ s.me.slice / (shape s 80 16 * shape s 96 16)) : ∃ t a b, execMmaBgs x s = .next t ∧
      Queued s t 1 (.mma x.zd.toNat a b 0 0 0 0 0 false false 0 0 none true) x.h.words x.h := by
  obtain ⟨u, hlog, hexec⟩ := execMmaBgs_of_ok (x := x) hfree.1 htile hl hc hshape
  rw [if_pos hrk] at hexec
  exact ⟨_, _, _, hexec, hlog.prepares.queued (mxeAccept_queued (hlog.freeEntry hfree) rfl x.h _ _ (.refl u))⟩

/-- Another rank has the rows, columns and steps of the record (R165, R166). -/
theorem mmaBgs_queued {s : State} {x : MmaBgs} {l : Launch} (hfree : FreeEntry s 1) (htile : s.me.noTile x.zd = false)
    (hl : s.launch? s.me.lslot = some l) (hc : l.compat = true) (hshape : shapeOk s.shapeRecord = true) {rm rn rk : Nat}
    (hrm : rm = s.me.slice % shape s 80 16) (hrn : rn = s.me.slice / shape s 80 16 % shape s 96 16)
    (hrk : rk = s.me.slice / (shape s 80 16 * shape s 96 16)) (hlt : rk < shape s 112 16)
    (hA : OpOk s 0 (s.me.rc (BitVec.ofNat 4 (shape s 32 4))) (shapeEaA s rm rk)
      (opExtent (shape s 48 6) (shape s 64 11) (shape s 128 20) (s.shapeRecord.getLsbD 40)) false none)
    (hB : OpOk s 1 (s.me.rc (BitVec.ofNat 4 (shape s 36 4))) (shapeEaB s rn rk)
      (opExtent (shape s 56 6) (shape s 64 11) (shape s 160 20) (s.shapeRecord.getLsbD 41)) false none) :
    ∃ t, execMmaBgs x s = .next t ∧
      Queued s t 1 (.mma x.zd.toNat { sp := (s.me.rc (BitVec.ofNat 4 (shape s 32 4))).space, ea := shapeEaA s rm rk }
        { sp := (s.me.rc (BitVec.ofNat 4 (shape s 36 4))).space, ea := shapeEaB s rn rk } (shape s 128 20) (shape s 160 20)
        (shape s 48 6) (shape s 56 6) (shape s 64 11) (s.shapeRecord.getLsbD 40) (s.shapeRecord.getLsbD 41) 0 0 none true)
        x.h.words x.h := by
  subst hrm hrn hrk
  obtain ⟨u, hlog, hexec⟩ := execMmaBgs_of_ok (x := x) hfree.1 htile hl hc hshape
  rw [if_neg (Nat.not_le.2 hlt)] at hexec
  have hcounts : ¬ (shape s 48 6 = 0 || shape s 56 6 = 0 || shape s 64 11 = 0 : Bool) = true := by simp [shapeOk_counts hshape]
  have hq := mmaIssue_queued (hlog.freeEntry hfree) x.h x.h.words x.zd.toNat _ _ _ _ none true (if_neg hcounts).symm (if_neg hcounts).symm
    (hlog.opOk hA) (hlog.opOk hB)
  rw [if_neg hcounts] at hq
  exact ⟨_, hexec, hlog.prepares.queued hq⟩

/-- Settles O12: each of the three is issued by `mxeAccept`, once its checks have passed. -/
theorem multiplyAcceptance : Obligations.MultiplyAcceptance := by
  unfold Obligations.MultiplyAcceptance
  refine ⟨fun s x hfree => ⟨fun hok => mma_queued hfree hok, fun hok => mmas_queued hfree hok⟩,
    fun s x l hfree htile hl hc hshape => ⟨fun hrk => mmaBgs_queued_beyond hfree htile hl hc hshape hrk, fun hlt hA hB => ?_⟩⟩
  exact mmaBgs_queued hfree htile hl hc hshape rfl rfl rfl hlt hA hB

/-! ## Tile and skip-stream instructions (R155, R167-R169) -/

/-- An instruction without an operand in memory is accepted into a free entry (R155). -/
theorem accept_queued_mxe {s : State} (hfree : FreeEntry s 1) (h : Hd) (k : JobK) :
    Queued s (s.accept h h.words 1 k [] []) 1 k h.words h := accept_queued (by decide) hfree.2.2 h h.words k [] []

theorem zzero_queued {s : State} (hfree : FreeEntry s 1) {x : ZZeroA} (htile : s.me.noTile x.zd = false) :
    ∃ t, execZzero x s = .next t ∧ Queued s t 1 (.tile (.zzero x) x.zd.toNat 0 noMem 0) x.h.words x.h := by
  refine ⟨_, gate_engine hfree.1 .., ?_⟩
  rw [htile]
  exact accept_queued_mxe hfree x.h _

theorem zcvt_queued {s : State} (hfree : FreeEntry s 1) {x : ZCvtA} (hd : s.me.noTile x.zd = false) (ha : s.me.noTile x.za = false) :
    ∃ t, execZcvt x s = .next t ∧ Queued s t 1 (.tile (.zcvt x) x.zd.toNat x.za.toNat noMem 0) x.h.words x.h := by
  refine ⟨_, gate_engine hfree.1 .., ?_⟩
  rw [hd, ha]
  exact accept_queued_mxe hfree x.h _

theorem qpos_queued {s : State} (hfree : FreeEntry s 1) (x : QPosA) :
    ∃ t, execQpos x s = .next t ∧ Queued s t 1 (.tile (.qpos x) x.qa.toNat 0 noMem 0) x.h.words x.h :=
  ⟨_, gate_engine hfree.1 .., accept_queued_mxe hfree x.h _⟩

/-- ZLD and ZST with a tile of the task's and a good operand (R167). -/
theorem tileMem_queued {s : State} (hfree : FreeEntry s 1) {x : ZMem} (i : Instr) {write : Bool} (htile : s.me.noTile x.z = false)
    (hok : OpOk s 0 (s.me.rc x.mem.cap) (s.me.ea x.mem) 4096 write none) : ∃ t, tileMem x i write s = .next t ∧
      Queued s t 1 (.tile i x.z.toNat x.z.toNat { sp := (s.me.rc x.mem.cap).space, ea := s.me.ea x.mem } 0) x.h.words x.h := by
  obtain ⟨hflt, hbusy⟩ := hok
  refine ⟨_, gate_engine hfree.1 .., ?_⟩
  dsimp only
  rw [htile, hflt]
  dsimp only
  have hbusy' := (fpBusy_mkFpBlk s s.cur s.cur _ _ _ 0 (s.me.rc x.mem.cap).cursor).trans hbusy
  cases write with
  | false =>
    refine mxeAccept_queued hfree ?_ x.h _ _ (bindsOnly_plateBind ..).prepares
    rwa [if_neg Bool.false_ne_true, if_neg Bool.false_ne_true, List.append_nil]
  | true =>
    refine mxeAccept_queued hfree ?_ x.h _ _ ((prepares_touch s _).trans (prepares_touch (s.touch s.cur _) _))
    rwa [if_pos rfl, if_pos rfl, List.nil_append]

/-- QSET of an own-LS stream whose length fits (R169). -/
theorem qset_queued {s : State} (hfree : FreeEntry s 1) {x : QSetA} {a : Acc}
    (ha : a = { cap := s.me.rc x.mem.cap, perms := [pLoad], sp := { own := true }, ea := (s.me.ea x.mem).toNat,
                len := 2 * ((s.me.rs x.sc).toNat % 2 ^ 18), align := 2 })
    (hsp : (s.me.rc x.mem.cap).space = 1) (hea : (s.me.ea x.mem).toNat < 0x40000) (hlen : (s.me.rs x.sc).toNat < 2 ^ 18)
    (hperm : a.permFlt = none) (hspace : s.spaceFlt s.cur a = none) (halign : a.alignFlt = none) (hbound : a.boundFlt = none) :
    ∃ t, execQset x s = .next t ∧
      Queued s t 1 (.tile (.qset x) x.qd.toNat 0 { sp := 1, ea := s.me.ea x.mem } (s.me.rs x.sc)) x.h.words x.h := by
  subst ha
  refine ⟨_, gate_engine hfree.1 .., ?_⟩
  have hown : (decide ((s.me.rc x.mem.cap).space = 1) && decide ((s.me.ea x.mem).toNat < 0x40000)) = true := by simp [hsp, hea]
  dsimp only
  rw [hperm, hown, if_pos rfl, hspace, halign, hbound, if_neg (Nat.not_le.2 hlen)]
  exact mxeAccept_queued hfree rfl x.h _ _ (.refl s)

/-- Settles O13: the tile instructions are accepted as they are, or as `tileMem`; QSET by `mxeAccept`. -/
theorem tileInstructionAcceptance : Obligations.TileInstructionAcceptance := by
  unfold Obligations.TileInstructionAcceptance
  intro s hfree
  refine ⟨fun x htile => ?zzero, fun x hd ha => ?zcvt, fun x htile hok => ?zld, fun x htile hok => ?zst,
    fun x hsp hea hlen hperm hspace halign hbound => ?qset, fun x => ?qpos⟩
  case zzero =>
    obtain ⟨t, hexec, hq⟩ := zzero_queued hfree htile
    exact ⟨t, _, hexec, hq, _, _, _, rfl⟩
  case zcvt =>
    obtain ⟨t, hexec, hq⟩ := zcvt_queued hfree hd ha
    exact ⟨t, _, hexec, hq, _, _, rfl⟩
  case zld =>
    obtain ⟨t, hexec, hq⟩ := tileMem_queued hfree (.zld x) htile hok
    exact ⟨t, _, hexec, hq, _, _, _, rfl, rfl⟩
  case zst =>
    obtain ⟨t, hexec, hq⟩ := tileMem_queued hfree (.zst x) htile hok
    exact ⟨t, _, hexec, hq, _, _, _, rfl, rfl⟩
  case qset =>
    obtain ⟨t, hexec, hq⟩ := qset_queued hfree rfl hsp hea hlen hperm hspace halign hbound
    exact ⟨t, _, hexec, hq, _, _, rfl, rfl⟩
  case qpos =>
    obtain ⟨t, hexec, hq⟩ := qpos_queued hfree x
    exact ⟨t, _, hexec, hq, _, _, _, rfl⟩

end Sys2Proof.Machine
end

section
/-! SUPPORT. The sum of a K-step (spec/07: R146): what `stepSum` answers for NaN and infinite terms, and for finite ones, in terms of the
greatest exponent; and that the exact integer products of R148 are products of integers. -/

namespace Sys2Proof.Machine

open Sys2Proof.Claims

/-! ## Special terms (R146) -/

/-- With every product a zero the element stays. -/
theorem stepSum_of_zeros {z : Nat} {ps : List Num} (h : ∀ p ∈ ps, p.isZero = true) : stepSum (some z) ps = none := by
  rw [stepSum, List.all_eq_true.2 h]
  rfl

theorem any_isNan (ts : List Num) : ts.any Num.isNan = decide (Num.nan ∈ ts) := by
  rw [Bool.eq_iff_iff, List.any_eq_true, decide_eq_true_iff]
  exact ⟨fun ⟨t, ht, hn⟩ => (isNan_iff t).1 hn ▸ ht, fun h => ⟨_, h, rfl⟩⟩

theorem any_beq (ts : List Num) (x : Num) : ts.any (· == x) = decide (x ∈ ts) := by
  rw [Bool.eq_iff_iff, List.any_eq_true, decide_eq_true_iff]
  exact ⟨fun ⟨t, ht, he⟩ => beq_iff_eq.1 he ▸ ht, fun h => ⟨x, h, beq_self_eq_true x⟩⟩

theorem any_isInf (ts : List Num) : ts.any Num.isInf = decide (Num.inf true ∈ ts ∨ Num.inf false ∈ ts) := by
  rw [Bool.eq_iff_iff, List.any_eq_true, decide_eq_true_iff]
  constructor
  · rintro ⟨t, ht, hi⟩
    match t, hi with
    | .inf true, _ => exact .inl ht
    | .inf false, _ => exact .inr ht
  · rintro (h | h)
    · exact ⟨_, h, rfl⟩
    · exact ⟨_, h, rfl⟩

/-- The greatest exponent of nonzero terms, as the engine finds it. -/
def maxLog2 (ts : List Num) : Int :=
  let nz := ts.filter fun t => !t.isZero
  nz.foldl (fun a t => if t.log2 > a then t.log2 else a) ((nz.map Num.log2).headD 0)

/-- The step's sum when not every product is a zero, by the kinds of its terms. -/
theorem stepSum_of_not_zeros {z : Nat} {ps ts : List Num} (hts : ts = ffF.num z :: ps) (h : ¬ ∀ p ∈ ps, p.isZero = true) :
    stepSum (some z) ps =
      if Num.nan ∈ ts ∨ Num.inf true ∈ ts ∧ Num.inf false ∈ ts then some ffF.nan
      else if Num.inf true ∈ ts ∨ Num.inf false ∈ ts then some (ffF.withSign (decide (Num.inf true ∈ ts)) ffF.infCode)
      else
        let x := ((ts.filter fun t => !t.isZero).map (Num.truncAt (maxLog2 ts - 60))).sum
        some (if x = 0 then 0 else ffF.round 0 true (.fin (decide (x < 0)) x.natAbs (maxLog2 ts - 60))) := by
  have hall : ps.all Num.isZero = false := Bool.eq_false_iff.2 fun e => h (List.all_eq_true.1 e)
  have happ : (Option.map ffF.num (some z)).toList ++ ps = ts := by rw [hts]; rfl
  unfold stepSum
  simp only [hall, happ, any_isNan, any_beq, any_isInf]
  simp only [Bool.false_eq_true, if_false, Bool.or_eq_true, Bool.and_eq_true, decide_eq_true_eq]
  rfl

/-! ## Finite terms (R146) -/

/-- The running maximum of a list lies above its start and its members, and is one of them. -/
theorem foldl_max_log2 (ts : List Num) (a : Int) : let u := ts.foldl (fun a t => if t.log2 > a then t.log2 else a) a
    a ≤ u ∧ (∀ t ∈ ts, t.log2 ≤ u) ∧ (u = a ∨ ∃ t ∈ ts, t.log2 = u) := by
  induction ts generalizing a with
  | nil => simp
  | cons t ts ih =>
    obtain ⟨hge, hall, hmem⟩ := ih (if t.log2 > a then t.log2 else a)
    dsimp only at hge hall hmem ⊢
    rw [List.foldl_cons]
    generalize List.foldl _ _ ts = u at hge hall hmem
    refine ⟨by split at hge <;> omega, fun x hx => ?_, ?_⟩
    · rcases List.mem_cons.1 hx with rfl | hx
      · split at hge <;> omega
      · exact hall x hx
    · rcases hmem with rfl | ⟨x, hx, hu⟩
      · split
        · exact .inr ⟨t, List.mem_cons_self, rfl⟩
        · exact .inl rfl
      · exact .inr ⟨x, List.mem_cons_of_mem _ hx, hu⟩

/-- It is the greatest floor of log2 of a nonzero term. -/
theorem maxLog2_of_greatest {ts : List Num} {u : Int} (h : Greatest ts u) : maxLog2 ts = u := by
  obtain ⟨⟨t, ht, hz, rfl⟩, hle⟩ := h
  have hmem : ∀ x, x ∈ ts.filter (fun t => !t.isZero) ↔ x ∈ ts ∧ x.isZero = false := fun x => by simp [List.mem_filter]
  have hle' : ∀ x ∈ ts.filter (fun t => !t.isZero), x.log2 ≤ t.log2 := fun x hx => hle x ((hmem x).1 hx).1 ((hmem x).1 hx).2
  have ht' := (hmem t).2 ⟨ht, hz⟩
  unfold maxLog2
  generalize ts.filter (fun t => !t.isZero) = nz at hle' ht'
  obtain ⟨-, hall, hu⟩ := foldl_max_log2 nz ((nz.map Num.log2).headD 0)
  have hhead : (nz.map Num.log2).headD 0 ≤ t.log2 := by
    cases nz with
    | nil => simp at ht'
    | cons x nz => exact hle' x List.mem_cons_self
  have hbound := hall t ht'
  dsimp only at hbound hu ⊢
  rcases hu with hu | ⟨x, hx, hu⟩
  · omega
  · have := hle' x hx
    omega

/-- A zero term adds nothing. -/
theorem truncAt_of_isZero {t : Num} (h : t.isZero = true) (u : Int) : t.truncAt u = 0 := by
  match t, h with
  | .fin neg 0 e, _ =>
    simp only [Num.truncAt, Nat.zero_mul, Nat.zero_div, ite_self]
    cases neg <;> rfl

theorem sum_truncAt_filter (ts : List Num) (u : Int) :
    ((ts.filter fun t => !t.isZero).map (Num.truncAt u)).sum = (ts.map (Num.truncAt u)).sum := by
  induction ts with
  | nil => rfl
  | cons t ts ih =>
    rw [List.filter_cons]
    cases hz : t.isZero
    · simp [ih]
    · simp [ih, truncAt_of_isZero hz]

/-- The clauses of R146 on the sum of a step. -/
theorem stepSum_result (z : Nat) (ps : List Num) :
    let ts := ffF.num z :: ps
    ((∀ p ∈ ps, p.isZero = true) → stepSum (some z) ps = none) ∧
    (¬ (∀ p ∈ ps, p.isZero = true) →
      ((Num.nan ∈ ts ∨ Num.inf false ∈ ts ∧ Num.inf true ∈ ts) → stepSum (some z) ps = some 0x7FC00000) ∧
      (Num.nan ∉ ts → Num.inf true ∉ ts → Num.inf false ∈ ts → stepSum (some z) ps = some 0x7F800000) ∧
      (Num.nan ∉ ts → Num.inf false ∉ ts → Num.inf true ∈ ts → stepSum (some z) ps = some 0xFF800000) ∧
      (∀ emax : Int, (∀ t ∈ ts, ∃ neg m e, t = .fin neg m e) → Greatest ts emax →
        let x := (ts.map (Machine.Num.truncAt (emax - 60))).sum
        stepSum (some z) ps = some (if x = 0 then 0 else ffF.round 0 true (.fin (decide (x < 0)) x.natAbs (emax - 60))))) := by
  intro ts
  refine ⟨stepSum_of_zeros, fun h => ?_⟩
  rw [stepSum_of_not_zeros (rfl : ts = _) h]
  refine ⟨fun hn => ?nan, fun hn ht hf => ?posInf, fun hn hf ht => ?negInf, fun emax hfin hg => ?finite⟩
  case nan =>
    rw [if_pos (hn.imp_right And.symm)]
    rfl
  case posInf =>
    rw [if_neg (by simp [hn, ht]), if_pos (.inr hf), decide_eq_false ht]
    rfl
  case negInf =>
    rw [if_neg (by simp [hn, hf]), if_pos (.inl ht), decide_eq_true ht]
    rfl
  case finite =>
    have hnot : ∀ t ∈ ts, ∀ x, (∀ neg m e, x ≠ .fin neg m e) → t ≠ x := fun t ht x hx e => by
      obtain ⟨neg, m, exp, hf⟩ := hfin t ht
      exact hx neg m exp (e ▸ hf)
    have hn : Num.nan ∉ ts := fun h => hnot _ h .nan (by simp) rfl
    have hi : ∀ neg, Num.inf neg ∉ ts := fun neg h => hnot _ h (.inf neg) (by simp) rfl
    rw [if_neg (by simp [hn, hi]), if_neg (by simp [hi]), maxLog2_of_greatest hg, sum_truncAt_filter]

/-! ## Integer steps (R148) -/

theorem sgn_bne (a b : Bool) (m n : Nat) : Num.sgn (a != b) (m * n) = Num.sgn a m * Num.sgn b n := by
  cases a <;> cases b <;> simp [Num.sgn]

/-- The exact product of two integers, in units of 1. -/
theorem mul_ofInt_truncAt (a b : Int) : (Num.mul (Num.ofInt a) (Num.ofInt b)).truncAt 0 = a * b :=
  calc (Num.mul (Num.ofInt a) (Num.ofInt b)).truncAt 0
    _ = Num.sgn (decide (a < 0) != decide (b < 0)) (a.natAbs * b.natAbs) := by simp [Num.mul, Num.ofInt, Num.truncAt]
    _ = a * b := by rw [sgn_bne, sgn_natAbs, sgn_natAbs]

theorem stepInt_eq (z : W32) (ps : List Int) : stepInt z ps = BitVec.ofInt 32 (saturate 32 (z.toInt + ps.sum)) :=
  congrArg (BitVec.ofInt 32) (satI_eq_saturate 32 _)

end Sys2Proof.Machine
end

section
/-! SUPPORT. Skip streams (spec/07: R153, R154): the fields of a q register made, and that the engine's walk is the one of R154. -/

namespace Sys2Proof.Machine

open Sys2Proof.Claims

/-! ## The fields of a q register (R153) -/

theorem qMake_toNat {a n r : Nat} (ha : a < 2 ^ 18) (hn : n < 2 ^ 18) (hr : r < 2 ^ 15) (k : Bool) :
    (qMake a n r k).toNat = a + n * 2 ^ 18 + r * 2 ^ 36 + if k then 2 ^ 51 else 0 := by
  rw [qMake, BitVec.toNat_ofNat, Nat.mod_eq_of_lt]
  split <;> omega

theorem qAddr_qMake {a n r : Nat} (ha : a < 2 ^ 18) (hn : n < 2 ^ 18) (hr : r < 2 ^ 15) (k : Bool) : qAddr (qMake a n r k) = a := by
  rw [qAddr, qMake_toNat ha hn hr]
  split <;> omega

theorem qEnd_qMake {a n r : Nat} (ha : a < 2 ^ 18) (hn : n < 2 ^ 18) (hr : r < 2 ^ 15) (k : Bool) : qEnd (qMake a n r k) = n := by
  rw [qEnd, qMake_toNat ha hn hr]
  split <;> omega

theorem qAddr_lt (q : W64) : qAddr q < 2 ^ 18 := Nat.mod_lt _ (Nat.two_pow_pos 18)
theorem qEnd_lt (q : W64) : qEnd q < 2 ^ 18 := Nat.mod_lt _ (Nat.two_pow_pos 18)

/-! ## The walk (R154) -/

/-- The entries of the stream that are still to be read. -/
def qLeft (q : W64) : Nat := (qEnd q + 2 ^ 18 - qAddr q) % 2 ^ 18 / 2

theorem qLeft_lt (q : W64) : qLeft q < 131072 := by
  have := Nat.mod_lt (qEnd q + 2 ^ 18 - qAddr q) (Nat.two_pow_pos 18)
  unfold qLeft
  omega

/-- Reading an entry leaves one fewer. -/
theorem qLeft_next {q : W64} (hne : qAddr q ≠ qEnd q) (hpar : qAddr q % 2 = qEnd q % 2) (e : Nat) (k : Bool) :
    qLeft (qMake ((qAddr q + 2) % 2 ^ 18) (qEnd q) (e % 2 ^ 15) k) + 1 = qLeft q := by
  have ha := qAddr_lt q
  have hn := qEnd_lt q
  have ha' : (qAddr q + 2) % 2 ^ 18 < 2 ^ 18 := Nat.mod_lt _ (Nat.two_pow_pos 18)
  have he : e % 2 ^ 15 < 2 ^ 15 := Nat.mod_lt _ (Nat.two_pow_pos 15)
  rw [qLeft, qLeft, qAddr_qMake ha' hn he, qEnd_qMake ha' hn he]
  omega

/-- What one walk makes of the register once the next run is loaded. -/
def qTake (q : W64) : W64 × Bool :=
  if qRem q = 0 then (q, true) else (qMake (qAddr q) (qEnd q) (qRem q - 1) (qKind q), qKind q)

/-- With no entry in error and steps enough for the stream, the engine's loading of runs follows the walk. -/
theorem qLoad_of_walk {rd16 : Nat → Nat} {bad : Nat → Bool} (hbad : ∀ off < 2 ^ 18, bad off = false) {q q' : W64} {p : Bool}
    (h : Walk rd16 q q' p) (f : Nat) (hf : qLeft q < f) : ∃ q1, qLoad rd16 bad f q = .ok q1 ∧ qTake q1 = (q', p) := by
  induction h generalizing f with
  | exhausted q hr hend =>
    obtain ⟨f, rfl⟩ : ∃ n, f = n + 1 := ⟨f - 1, by omega⟩
    refine ⟨q, if_neg ?_, by rw [qTake, if_pos hr]⟩
    rcases hend with hend | hend <;> simp [hend]
  | inRun q hr =>
    obtain ⟨f, rfl⟩ : ∃ n, f = n + 1 := ⟨f - 1, by omega⟩
    exact ⟨q, if_neg (by simp [hr]), by rw [qTake, if_neg hr]⟩
  | nextRun q q' p hr hne hpar _ ih =>
    obtain ⟨f, rfl⟩ : ∃ n, f = n + 1 := ⟨f - 1, by omega⟩
    have hleft := qLeft_next hne hpar (rd16 (qAddr q)) (decide (rd16 (qAddr q) / 2 ^ 15 = 1))
    have hload : qLoad rd16 bad (f + 1) q =
        qLoad rd16 bad f (qMake ((qAddr q + 2) % 2 ^ 18) (qEnd q) (rd16 (qAddr q) % 2 ^ 15) (rd16 (qAddr q) / 2 ^ 15 = 1)) := by
      rw [qLoad, if_pos (by simp [hr, hne, hpar]), hbad _ (qAddr_lt q)]
      rfl
    rw [hload]
    exact ih f (by omega)

/-- The engine's walk of a stream with no entry in error is the one of R154. -/
theorem qWalk_of_walk {rd16 : Nat → Nat} {bad : Nat → Bool} (hbad : ∀ off < 2 ^ 18, bad off = false) {q q' : W64} {p : Bool}
    (h : Walk rd16 q q' p) : qWalk rd16 bad q = .ok (q', p) := by
  obtain ⟨q1, hload, htake⟩ := qLoad_of_walk hbad h 131073 (by have := qLeft_lt q; omega)
  rw [qWalk, hload, ← htake, qTake]
  dsimp only
  split <;> rfl

end Sys2Proof.Machine
end

section
/-! SUPPORT. Steps of the matrix engine (spec/07: R140, R156, R161): how tiles are read after they are written, what the end and a step
of the job at the head of the queue leave and change, and that counting impressions changes launches alone. -/

namespace Sys2Proof.Machine

open Sys2Proof.Claims

/-! ## Tiles (R140) -/

theorem tile_setTile (s : State) (core phys e d : Nat) (x : W32) :
    (s.setTile core phys e x).tile core phys d = if d = e then x else s.tile core phys d := by
  unfold State.tile State.setTile
  rw [Tab.get_set]
  simp only [Nat.add_left_cancel_iff]

/-- A unit of the matrix engine's work has left the acting master, memory and the tiles' types. -/
def UnitFrame (s u : State) : Prop := u.cur = s.cur ∧ u.cyc = s.cyc ∧ u.masters = s.masters ∧ u.mem = s.mem ∧ u.ztag = s.ztag

theorem UnitFrame.refl (s : State) : UnitFrame s s := ⟨rfl, rfl, rfl, rfl, rfl⟩

theorem UnitFrame.trans {s u w : State} (h : UnitFrame s u) (h' : UnitFrame u w) : UnitFrame s w := by
  obtain ⟨hcur, hcyc, hms, hmem, hztag⟩ := h
  obtain ⟨hcur', hcyc', hms', hmem', hztag'⟩ := h'
  exact ⟨hcur'.trans hcur, hcyc'.trans hcyc, hms'.trans hms, hmem'.trans hmem, hztag'.trans hztag⟩

theorem UnitFrame.me {s u : State} (h : UnitFrame s u) : u.me = s.me := by
  obtain ⟨hcur, -, hms, -, -⟩ := h
  rw [State.me, State.me, State.ms, State.ms, hcur, hms]

/-- `u` is `s` but for the elements of one tile that `sel` selects, each of which is now `g` of what it was. -/
def TileWrites (core phys : Nat) (sel : Nat → Prop) (g : Nat → W32 → W32) (s u : State) : Prop :=
  UnitFrame s u ∧ ∀ d, (sel d → u.tile core phys d = g d (s.tile core phys d)) ∧
    (¬ sel d → u.tile core phys d = s.tile core phys d)

theorem TileWrites.congr {core phys : Nat} {sel sel' : Nat → Prop} {g : Nat → W32 → W32} {s u : State}
    (h : TileWrites core phys sel g s u) (hsel : ∀ d, sel' d ↔ sel d) : TileWrites core phys sel' g s u :=
  ⟨h.1, fun d => by rw [hsel d]; exact h.2 d⟩

theorem tileWrites_setTile (s : State) (core phys e : Nat) {g : Nat → W32 → W32} {x : W32} (hx : x = g e (s.tile core phys e)) :
    TileWrites core phys (· = e) g s (s.setTile core phys e x) := by
  refine ⟨⟨rfl, rfl, rfl, rfl, rfl⟩, fun d => ⟨?_, fun hd => (tile_setTile ..).trans (if_neg hd)⟩⟩
  rintro rfl
  exact ((tile_setTile ..).trans (if_pos rfl)).trans hx

/-- Writes of elements that no two of them share make one write of them all. -/
theorem foldl_tileWrites {core phys : Nat} {sel : Nat → Nat → Prop} {g : Nat → W32 → W32} {b : State → Nat → State} {n : Nat}
    (hb : ∀ k < n, ∀ s, TileWrites core phys (sel k) g s (b s k)) (hdisj : ∀ d j k, sel j d → sel k d → j = k) (s : State) :
    TileWrites core phys (fun d => ∃ k < n, sel k d) g s ((List.range n).foldl b s) := by
  induction n with
  | zero => exact ⟨.refl s, fun d => ⟨fun ⟨_, hk, _⟩ => absurd hk (Nat.not_lt_zero _), fun _ => rfl⟩⟩
  | succ n ih =>
    obtain ⟨hframe, hrest⟩ := ih fun k hk => hb k (by omega)
    obtain ⟨hframe', hlast⟩ := hb n (by omega) ((List.range n).foldl b s)
    rw [List.range_succ, List.foldl_append, List.foldl_cons, List.foldl_nil]
    refine ⟨hframe.trans hframe', fun d => ⟨?_, fun hd => ?_⟩⟩
    · rintro ⟨k, hk, hsel⟩
      by_cases hn : sel n d
      · rw [(hlast d).1 hn, (hrest d).2 fun ⟨j, hj, hsel'⟩ => absurd (hdisj d j n hsel' hn) (by omega)]
      · have hkn : k ≠ n := fun e => hn (e ▸ hsel)
        rw [(hlast d).2 hn, (hrest d).1 ⟨k, by omega, hsel⟩]
    · rw [(hlast d).2 fun h => hd ⟨n, by omega, h⟩, (hrest d).2 fun ⟨k, hk, h⟩ => hd ⟨k, by omega, h⟩]

/-- Filling a tile writes all its elements. -/
theorem fillTile_tileWrites (s : State) (core phys : Nat) (f : Nat → W32) :
    TileWrites core phys (· < 1024) (fun d _ => f d) s (s.fillTile core phys f) := by
  have hfill := foldl_tileWrites (sel := fun k d => d = k) (g := fun d _ => f d) (n := 1024)
    (fun k _ u => tileWrites_setTile u core phys k rfl) (fun d j k hj hk => hj.symm.trans hk)
    { s with zbad := s.zbad.filter (· != core * 16 + phys) }
  obtain ⟨hframe, hvals⟩ := hfill.congr (sel' := (· < 1024)) (by simp)
  exact ⟨hframe, hvals⟩

/-! ## The head of the queue (R156) -/

/-- The head of the matrix queue that is ready is the task's, and is not held. -/
theorem head_of_jobReady {s : State} {j : Job} (h : s.jobReady s.cur 1 = some j) :
    s.headJob s.cur 1 = some j ∧ j.held = false := by
  unfold State.jobReady at h
  split at h
  · simp at h
  · unfold State.jobCan at h
    split at h
    · next i hi =>
      split at h
      · next hc =>
        simp only [Option.some.injEq] at h
        subst h
        simp only [Bool.and_eq_true, Bool.not_eq_true'] at hc
        exact ⟨hi, hc.1.1.1.1⟩
      · simp at h
    · simp at h

/-- The job at the head of the matrix queue, for a job that is ready there. -/
theorem head_of_atHead {s : State} {j : Job} (h : AtHead s 1 j) :
    s.jobReady s.cur 1 = some j ∧ s.me.exiting = false ∧ j.bad = false ∧ j.held = false ∧ ∃ r, s.me.mxe = j :: r := by
  obtain ⟨-, hexit, -, hready, hbad⟩ := h
  obtain ⟨hhead, hheld⟩ := head_of_jobReady hready
  exact ⟨hready, hexit, hbad, hheld, List.head?_eq_some_iff.1 hhead⟩

theorem mxeBad_none {s : State} {j : Job} (h : j.bad = false) (pos : Nat) : s.mxeBad pos j [] [] = none := by
  simp [State.mxeBad, h]

/-! ## The end of a job (R156) -/

theorem SameButWait.zbase {m n : Master} (h : SameButWait m n) : m.zbase = n.zbase := by
  obtain ⟨_, _, _, _, _, rfl⟩ := h
  rfl

theorem setQueue_zbase (m : Master) (e : Nat) (q : List Job) : (m.setQueue e q).zbase = m.zbase := by
  obtain ⟨_, _, _, _, h⟩ := setQueue_eq m e q
  rw [h]

theorem popped_congr {s u : State} {p q : List Job} (hcyc : u.cyc = s.cyc) (hq : p.tail = q.tail) : popped u p = popped s q := by
  rw [popped, popped, hq, hcyc]

theorem mxeTook_tiles (s : State) (pos e : Nat) : (s.mxeTook pos e).tiles = s.tiles ∧ (s.mxeTook pos e).ztag = s.ztag := by
  unfold State.mxeTook
  split <;> exact ⟨rfl, rfl⟩

theorem mxeTook_cyc (s : State) (pos e : Nat) : (s.mxeTook pos e).cyc = s.cyc := by
  unfold State.mxeTook
  split <;> rfl

theorem markerWake_tiles {s : State} {pos : Nat} (h : (s.ms pos).exiting = false) :
    (s.markerWake pos).tiles = s.tiles ∧ (s.markerWake pos).ztag = s.ztag := by
  rcases markerWake_cases h with e | ⟨place, e⟩ <;> rw [e] <;> exact ⟨rfl, rfl⟩

/-- The end of a job leaves every tile. -/
theorem popJob_tiles {s : State} {pos : Nat} (h : (s.ms pos).exiting = false) (e : Nat) :
    (s.popJob pos e).tiles = s.tiles ∧ (s.popJob pos e).ztag = s.ztag := by
  have hwake := wakeAll_sameButWait ((s.setM pos ((s.ms pos).pop s e)).mxeTook pos e) (fun k m => k = pos && m.onEngine e) pos
  rw [mxeTook_ms, ms_setM_same] at hwake
  have hexit : ((((s.setM pos ((s.ms pos).pop s e)).mxeTook pos e).engineWake pos e).ms pos).exiting = false :=
    hwake.exiting.trans ((setQueue_exiting ..).trans h)
  rw [popJob_eq]
  exact ⟨(markerWake_tiles hexit).1.trans (mxeTook_tiles ..).1, (markerWake_tiles hexit).2.trans (mxeTook_tiles ..).2⟩

/-- The matrix queue of the task, whose head stood there in `s`, has lost it; memory, tiles and registers are those of `u`. -/
def JobEnded (s u t : State) : Prop :=
  t.mem = u.mem ∧ t.tiles = u.tiles ∧ t.ztag = u.ztag ∧ t.cur = s.cur ∧ t.me.mxe = popped s s.me.mxe ∧ SameFiles t.me u.me ∧
  t.me.zbase = u.me.zbase

theorem popJob_jobEnded {s u : State} (hcur : u.cur = s.cur) (hcyc : u.cyc = s.cyc) (hexit : u.me.exiting = false)
    (hq : u.me.mxe.tail = s.me.mxe.tail) : JobEnded s u (u.popJob s.cur 1) := by
  rw [← hcur]
  obtain ⟨hmem, hcur', hms⟩ := popJob_kept (s := u) (pos := u.cur) hexit 1
  obtain ⟨htiles, hztag⟩ := popJob_tiles (s := u) (pos := u.cur) hexit 1
  rw [← show (u.popJob u.cur 1).me = (u.popJob u.cur 1).ms u.cur from congrArg _ hcur'] at hms
  refine ⟨hmem, htiles, hztag, hcur'.trans hcur, ?_, sameFiles_trans hms.files (setQueue_files ..), hms.zbase.trans (setQueue_zbase ..)⟩
  calc (u.popJob u.cur 1).me.mxe
    _ = popped u u.me.mxe := (hms.queue 1).trans (setQueue_queue _ (by decide) (by decide) _)
    _ = popped s s.me.mxe := popped_congr hcyc hq

/-- An element of a tile of the task, once the job has ended. -/
theorem JobEnded.elem {s u t : State} (h : JobEnded s u t) (hz : u.me.zbase = s.me.zbase) (z e : Nat) :
    Claims.elem t z e = u.tile (coreOf s.cur) (s.me.phys z) e := by
  obtain ⟨-, htiles, -, hcur, -, -, hzbase⟩ := h
  unfold Claims.elem State.tile Master.phys
  rw [htiles, hcur, hzbase, hz]

/-! ## Impressions (R161, R395) -/

theorem bindsOnly_strike (s : State) (part lslot va : Nat) : BindsOnly s (s.strike part lslot va) := by
  unfold State.strike
  split
  · exact .refl s
  · exact bindsOnly_updLaunch ..

/-- Counting a unit's impressions changes launches and plates alone. -/
theorem bindsOnly_countBlocks (s : State) (pos : Nat) (j : Job) (vas : List Nat) : BindsOnly s (s.countBlocks pos j vas).1 :=
  foldl_related (R := BindsOnly) .refl .trans (fun _ _ => bindsOnly_strike ..) _ s

theorem countBlocks_tileWrites {core phys : Nat} {sel : Nat → Prop} {g : Nat → W32 → W32} {s u : State}
    (h : TileWrites core phys sel g s u) (pos : Nat) (j : Job) (vas : List Nat) :
    TileWrites core phys sel g s (u.countBlocks pos j vas).1 := by
  obtain ⟨l, p, e⟩ := bindsOnly_countBlocks u pos j vas
  rw [e]
  exact h

end Sys2Proof.Machine
end

section
/-! SUPPORT. Tile jobs (spec/07: R167-R169): ZZERO, ZCVT, ZLD, ZST, QSET and QPOS at the head of the matrix queue. -/

namespace Sys2Proof.Machine

open Sys2Proof.Claims

/-! ## Each job's run (R167-R169) -/

section Run
variable {s : State} {j : Job} {z za : Nat} {o : Opd} {v : W64}

theorem exec_mxeTileJob_zzero {x : ZZeroA} (hready : s.jobReady s.cur 1 = some j) (hk : j.k = .tile (.zzero x) z za o v)
    (hbad : s.mxeBad s.cur j [] [] = none) : exec .mxeTileJob s =
      .next (((s.fillTile (coreOf s.cur) (s.me.phys z) fun _ => 0).setZtag (coreOf s.cur) (s.me.phys z) (x.et = 3)).popJob s.cur 1) := by
  rw [show exec .mxeTileJob s = execMxeTileJob s from rfl, execMxeTileJob, hready]
  dsimp only
  rw [hk]
  dsimp only
  rw [hbad]

theorem exec_mxeTileJob_zcvt {x : ZCvtA} (hready : s.jobReady s.cur 1 = some j) (hk : j.k = .tile (.zcvt x) z za o v)
    (hbad : s.mxeBad s.cur j [za] [] = none) : exec .mxeTileJob s =
      .next (((s.fillTile (coreOf s.cur) (s.me.phys z) fun e => zcvtElem x (s.isInt (coreOf s.cur) (s.me.phys za)) (x.et = 3)
        (elem s za e)).setZtag (coreOf s.cur) (s.me.phys z) (x.et = 3)).popJob s.cur 1) := by
  rw [show exec .mxeTileJob s = execMxeTileJob s from rfl, execMxeTileJob, hready]
  dsimp only
  rw [hk]
  dsimp only
  rw [hbad]
  rfl

theorem exec_mxeTileJob_qpos {x : QPosA} (hready : s.jobReady s.cur 1 = some j) (hk : j.k = .tile (.qpos x) z za o v)
    (hbad : s.mxeBad s.cur j [] [z] = none) :
    exec .mxeTileJob s = .next ((s.upd fun m => m.ws x.sd (m.rq (BitVec.ofNat 2 z))).popJob s.cur 1) := by
  rw [show exec .mxeTileJob s = execMxeTileJob s from rfl, execMxeTileJob, hready]
  dsimp only
  rw [hk]
  dsimp only
  rw [hbad]

theorem exec_mxeTileJob_qset {x : QSetA} (hready : s.jobReady s.cur 1 = some j) (hk : j.k = .tile (.qset x) z za o v)
    (hbad : s.mxeBad s.cur j [] [] = none) : exec .mxeTileJob s =
      .next ((s.upd fun m => { m with qbad := m.qbad.filter (· != z) }.wq (BitVec.ofNat 2 z)
        (qMake (o.ea.toNat % 2 ^ 18) ((o.ea.toNat + 2 * v.toNat) % 2 ^ 18) 0 false)).popJob s.cur 1) := by
  rw [show exec .mxeTileJob s = execMxeTileJob s from rfl, execMxeTileJob, hready]
  dsimp only
  rw [hk]
  dsimp only
  rw [hbad]

/-- The key of byte `a` of a tile image in memory. -/
def imageKey (s : State) (o : Opd) (a : Nat) : Nat := (physKey s s.cur o.sp ((o.ea.toNat + a) % 2 ^ 64)).getD 0

theorem exec_mxeTileJob_zld {x : ZMem} (hready : s.jobReady s.cur 1 = some j) (hk : j.k = .tile (.zld x) z za o v)
    (hbad : s.mxeBad s.cur j [] [] = none)
    (hue : ∀ b < 64, s.rd8 (s.jobRdr s.cur j) (poisonKey (imageKey s o (64 * b))) = 0) : ∃ vas, exec .mxeTileJob s =
      .next (((s.fillTile (coreOf s.cur) (s.me.phys z) fun e =>
        BitVec.ofNat 32 (s.rdNat (s.jobRdr s.cur j) (imageKey s o (4 * e)) 4)).countBlocks s.cur j vas).1.popJob s.cur 1) := by
  have hnone : (((List.range 64).map fun b => o.ea.toNat + 64 * b).find? fun b =>
      s.rd8 (s.jobRdr s.cur j) (poisonKey (imageKey s o (b - o.ea.toNat))) != 0) = none := by
    simp only [List.find?_eq_none, List.mem_map, List.mem_range]
    rintro _ ⟨b, hb, rfl⟩
    rw [Nat.add_sub_cancel_left, hue b hb]
    decide
  rw [show exec .mxeTileJob s = execMxeTileJob s from rfl, execMxeTileJob, hready]
  dsimp only
  rw [hk]
  dsimp only
  rw [hbad]
  dsimp only
  simp only [← imageKey.eq_def]
  rw [hnone]
  exact ⟨_, rfl⟩

/-- The bytes of the image of the tile that a task names `za`, and the cells that ZST writes of it at `key` (R167). -/
def imageBytes (s : State) (za : Nat) : List Byte :=
  (List.range 1024).flatMap fun e => leBytes 4 (s.tile (coreOf s.cur) (s.me.phys za) e).toNat
def imageCells (s : State) (za key : Nat) : List Host.Cell :=
  dataCells key (imageBytes s za) ++
    (List.range 64).flatMap fun b => bfdCells (key + 64 * b) (if s.isInt (coreOf s.cur) (s.me.phys za) then 0 else 0x0800)

theorem exec_mxeTileJob_zst {x : ZMem} (hready : s.jobReady s.cur 1 = some j) (hk : j.k = .tile (.zst x) z za o v)
    (hbad : s.mxeBad s.cur j [za] [] = none) : exec .mxeTileJob s =
      .next ((s.jobStore s.cur j (imageCells s za ((physKey s s.cur o.sp o.ea.toNat).getD 0))).popJob s.cur 1) := by
  rw [show exec .mxeTileJob s = execMxeTileJob s from rfl, execMxeTileJob, hready]
  dsimp only
  rw [hk]
  dsimp only
  rw [hbad, imageCells, imageBytes]

end Run

/-! ## ZZERO, ZCVT, ZLD, QPOS and QSET (R167-R169) -/

theorem isInt_setZtag (s : State) (core phys : Nat) (int : Bool) : (s.setZtag core phys int).isInt core phys = int := by
  cases int <;> simp [State.isInt, State.setZtag]

/-- A job that writes elements of tile z and sets its type, before it ends. -/
theorem setZtag_jobEnded {s u : State} (hexit : s.me.exiting = false) {z : Nat} {sel : Nat → Prop} {g : Nat → W32 → W32}
    (h : TileWrites (coreOf s.cur) (s.me.phys z) sel g s u) (int : Bool) :
    let t := (u.setZtag (coreOf s.cur) (s.me.phys z) int).popJob s.cur 1
    t.mem = s.mem ∧ t.me.mxe = popped s s.me.mxe ∧ (∀ e, sel e → elem t z e = g e (elem s z e)) ∧
      t.isInt (coreOf s.cur) (s.me.phys z) = int := by
  obtain ⟨hframe, hvals⟩ := h
  have hme : (u.setZtag (coreOf s.cur) (s.me.phys z) int).me = s.me := hframe.me
  obtain ⟨hcur, hcyc, -, hmem, -⟩ := hframe
  have hend := popJob_jobEnded (s := s) (u := u.setZtag (coreOf s.cur) (s.me.phys z) int) hcur hcyc (by rw [hme, hexit]) (by rw [hme])
  have helem := hend.elem (congrArg Master.zbase hme) z
  obtain ⟨hmem', -, hztag, -, hmxe, -⟩ := hend
  exact ⟨hmem'.trans hmem, hmxe, fun e he => (helem e).trans ((hvals e).1 he),
    (congrArg (List.contains · _) hztag).trans (isInt_setZtag ..)⟩

/-- A job that writes registers alone. -/
theorem upd_jobEnded {s : State} (hexit : s.me.exiting = false) {f : Master → Master} (hf : (f s.me).exiting = s.me.exiting)
    (hq : (f s.me).mxe = s.me.mxe) : let t := (s.upd f).popJob s.cur 1
    t.mem = s.mem ∧ t.me.mxe = popped s s.me.mxe ∧ SameFiles t.me (f s.me) := by
  obtain ⟨hmem, -, -, -, hmxe, hfiles, -⟩ := popJob_jobEnded (s := s) (u := s.upd f) rfl rfl (by rw [me_upd, hf, hexit])
    (by rw [me_upd, hq])
  rw [me_upd] at hfiles
  exact ⟨hmem, hmxe, hfiles⟩

/-- A job that writes elements of tile z alone, before it ends. -/
theorem tileWrites_jobEnded {s u : State} (hexit : s.me.exiting = false) {z : Nat} {sel : Nat → Prop} {g : Nat → W32 → W32}
    (h : TileWrites (coreOf s.cur) (s.me.phys z) sel g s u) : let t := u.popJob s.cur 1
    t.mem = s.mem ∧ t.me.mxe = popped s s.me.mxe ∧ SameFiles t.me s.me ∧
      t.isInt (coreOf s.cur) (s.me.phys z) = s.isInt (coreOf s.cur) (s.me.phys z) ∧ ∀ e, sel e → elem t z e = g e (elem s z e) := by
  obtain ⟨hframe, hvals⟩ := h
  have hme := hframe.me
  obtain ⟨hcur, hcyc, -, hmem, hztag⟩ := hframe
  have hend := popJob_jobEnded hcur hcyc (by rw [hme, hexit]) (by rw [hme])
  have helem := hend.elem (congrArg Master.zbase hme) z
  obtain ⟨hmem', -, hztag', -, hmxe, hfiles, -⟩ := hend
  exact ⟨hmem'.trans hmem, hmxe, hme ▸ hfiles, congrArg (List.contains · _) (hztag'.trans hztag),
    fun e he => (helem e).trans ((hvals e).1 he)⟩

end Sys2Proof.Machine
end

section
/-! SUPPORT. ZST (spec/07: R160, R167): a job's store into the own LS, piece by piece, and the cells of a tile image. -/

namespace Sys2Proof.Machine

open Sys2Proof.Claims

/-! ## A job's store outside GLOB (R160) -/

/-- A store outside GLOB leaves the tiles, and of the masters everything but whether they wait. -/
def StoreFrame (s u : State) : Prop :=
  u.cur = s.cur ∧ u.cyc = s.cyc ∧ u.tiles = s.tiles ∧ u.ztag = s.ztag ∧ ∀ p, SameButWait (u.ms p) (s.ms p)

theorem StoreFrame.refl (s : State) : StoreFrame s s := ⟨rfl, rfl, rfl, rfl, fun _ => .refl _⟩

theorem StoreFrame.trans {s u w : State} (h : StoreFrame s u) (h' : StoreFrame u w) : StoreFrame s w := by
  obtain ⟨hcur, hcyc, htiles, hztag, hms⟩ := h
  obtain ⟨hcur', hcyc', htiles', hztag', hms'⟩ := h'
  exact ⟨hcur'.trans hcur, hcyc'.trans hcyc, htiles'.trans htiles, hztag'.trans hztag, fun p => (hms' p).trans (hms p)⟩

theorem StoreFrame.me {s u : State} (h : StoreFrame s u) : SameButWait u.me s.me := by
  obtain ⟨hcur, -, -, -, hms⟩ := h
  rw [State.me, hcur]
  exact hms s.cur

/-- A store outside GLOB is performed at once, and wakes those that wait for its words. -/
theorem jobPut_of_not_glob {k : Nat} (hk : isGlobKey k = false) (s : State) (pos : Nat) (j : Job) (cells : List Host.Cell) :
    StoreFrame s (s.jobPut pos j k cells) ∧ (s.jobPut pos j k cells).mem = setCells s.mem cells := by
  have hput : s.jobPut pos j k cells =
      State.wakeWords { s with mem := setCells s.mem cells } ((cells.filter fun (c : Host.Cell) => c.1 < 2 ^ 72).map Prod.fst) := by
    unfold State.jobPut State.store
    rw [hk]
    rfl
  rw [hput]
  exact ⟨⟨rfl, rfl, rfl, rfl, fun p => wakeAll_sameButWait { s with mem := setCells s.mem cells } _ p⟩, rfl⟩

theorem foldl_jobPut {l : List (Nat × List Host.Cell)} (hl : ∀ x ∈ l, isGlobKey x.1 = false) (s : State) (pos : Nat) (j : Job) :
    let u := l.foldl (fun s ((k, cs) : Nat × List Host.Cell) => s.jobPut pos j k cs) s
    StoreFrame s u ∧ u.mem = setCells s.mem (l.flatMap Prod.snd) := by
  induction l generalizing s with
  | nil => exact ⟨.refl s, rfl⟩
  | cons x l ih =>
    obtain ⟨k, cs⟩ := x
    obtain ⟨hframe, hmem⟩ := jobPut_of_not_glob (hl (k, cs) List.mem_cons_self) s pos j cs
    obtain ⟨hframe', hmem'⟩ := ih (fun y hy => hl y (List.mem_cons_of_mem _ hy)) (s.jobPut pos j k cs)
    rw [hmem, ← setCells_append] at hmem'
    exact ⟨hframe.trans hframe', hmem'⟩

/-- A cell belongs to a piece of its store if its block holds a data byte of it. -/
theorem mem_splitCells {cells : List Host.Cell} {c : Host.Cell} : c ∈ (splitCells cells).flatMap Prod.snd ↔
    c ∈ cells ∧ ∃ d ∈ cells, d.1 < 2 ^ 72 ∧ d.1 / 65536 = blockOfCell c.1 / 1024 := by
  simp only [splitCells, List.mem_flatMap, List.mem_map, List.mem_eraseDups, List.mem_filter, decide_eq_true_eq]
  constructor
  · rintro ⟨_, ⟨_, ⟨d, ⟨hd, hlt⟩, rfl⟩, rfl⟩, hc⟩
    obtain ⟨hc, hp⟩ := List.mem_filter.1 hc
    exact ⟨hc, d, hd, hlt, (of_decide_eq_true hp).symm⟩
  · rintro ⟨hc, d, hd, hlt, hp⟩
    exact ⟨_, ⟨_, ⟨d, ⟨hd, hlt⟩, rfl⟩, rfl⟩, List.mem_filter.2 ⟨hc, decide_eq_true hp.symm⟩⟩

/-- A piece is named by one of its cells. -/
theorem splitCells_key {cells : List Host.Cell} {x : Nat × List Host.Cell} (hx : x ∈ splitCells cells) : ∃ c ∈ cells, x.1 = c.1 := by
  simp only [splitCells, List.mem_map, List.mem_eraseDups, List.mem_filter, decide_eq_true_eq] at hx
  obtain ⟨_, ⟨d, ⟨hd, hlt⟩, rfl⟩, rfl⟩ := hx
  have hmem : d ∈ cells.filter fun c => blockOfCell c.1 / 1024 = d.1 / 65536 := by
    refine List.mem_filter.2 ⟨hd, decide_eq_true ?_⟩
    rw [blockOfCell, if_pos hlt]
    omega
  dsimp only
  generalize hmine : (cells.filter fun c => blockOfCell c.1 / 1024 = d.1 / 65536) = mine at hmem
  cases mine with
  | nil => simp at hmem
  | cons c r =>
    have hc : c ∈ c :: r := List.mem_cons_self
    rw [← hmine] at hc
    exact ⟨c, (List.mem_filter.1 hc).1, rfl⟩

/-! ## The image of a tile (R167) -/

theorem leBytes_getElem? (n x i : Nat) : (leBytes n x)[i]? = if i < n then some (BitVec.ofNat 8 (x / 256 ^ i)) else none := by
  induction n generalizing x i with
  | zero => rfl
  | succ n ih =>
    cases i with
    | zero => simp [leBytes]
    | succ i => simp [leBytes, ih, Nat.pow_succ', Nat.div_div_eq_div_mul]

theorem leBytes_length (n x : Nat) : (leBytes n x).length = n := by
  induction n generalizing x with
  | zero => rfl
  | succ n ih => simp [leBytes, ih]

/-- A place in a list of chunks of one length. -/
theorem flatMap_getElem? {α β : Type} {f : α → List β} {n : Nat} (hf : ∀ a, (f a).length = n) (l : List α) {e i : Nat} {a : α}
    (ha : l[e]? = some a) (hi : i < n) : (l.flatMap f)[n * e + i]? = (f a)[i]? := by
  induction l generalizing e with
  | nil => simp at ha
  | cons b l ih =>
    rw [List.flatMap_cons]
    cases e with
    | zero =>
      obtain rfl : b = a := by simpa using ha
      rw [Nat.mul_zero, Nat.zero_add, List.getElem?_append_left (by rw [hf]; exact hi)]
    | succ e =>
      rw [List.getElem?_append_right (by rw [hf, Nat.mul_succ]; omega), hf, Nat.mul_succ,
        show n * e + n + i - n = n * e + i by omega]
      exact ih (by simpa using ha)

theorem mem_bytesAt {k : Nat} {bs : List Byte} {c : Host.Cell} : c ∈ bytesAt k bs ↔ ∃ i, c.1 = k + i ∧ bs[i]? = some c.2 := by
  induction bs generalizing k with
  | nil => simp [bytesAt]
  | cons b r ih =>
    rw [bytesAt, List.mem_cons, ih]
    constructor
    · rintro (rfl | ⟨i, hk, hi⟩)
      · exact ⟨0, rfl, rfl⟩
      · exact ⟨i + 1, by omega, by simpa using hi⟩
    · rintro ⟨i, hk, hi⟩
      cases i with
      | zero => exact .inl (Prod.ext hk (by simpa using hi.symm))
      | succ i => exact .inr ⟨i, by omega, by simpa using hi⟩

theorem imageBytes_length (s : State) (za : Nat) : (imageBytes s za).length = 4096 := by
  simp only [imageBytes, List.length_flatMap, leBytes_length, List.map_const', List.length_range, List.sum_replicate, smul_eq_mul]

theorem imageBytes_getElem? (s : State) (za : Nat) {e i : Nat} (he : e < 1024) (hi : i < 4) :
    (imageBytes s za)[4 * e + i]? = some ((elem s za e).extractLsb' (8 * i) 8) := by
  rw [imageBytes, flatMap_getElem? (fun e => leBytes_length 4 _) _ (List.getElem?_range he) hi, leBytes_getElem?, if_pos hi]
  refine congrArg some (BitVec.eq_of_toNat_eq ?_)
  rw [BitVec.toNat_ofNat, BitVec.extractLsb'_toNat, Nat.shiftRight_eq_div_pow, Nat.pow_mul]
  rfl

/-- A cell of a tile image: a byte, a cleared tag or poison mark above every descriptor, or a byte of a block's descriptor. -/
theorem imageCells_cases {s : State} {za key : Nat} {c : Host.Cell} (h : c ∈ imageCells s za key) :
    (∃ i < 4096, c.1 = key + i ∧ (imageBytes s za)[i]? = some c.2) ∨ 2 * 2 ^ 72 ≤ c.1 ∨
    ∃ b < 64, c ∈ bfdCells (key + 64 * b) (if s.isInt (coreOf s.cur) (s.me.phys za) then 0 else 0x0800) := by
  rcases List.mem_append.1 h with h | h
  · rw [dataCells, List.append_assoc] at h
    rcases List.mem_append.1 h with h | h
    · obtain ⟨i, hkey, hi⟩ := mem_bytesAt.1 h
      have hlt := (List.getElem?_eq_some_iff.1 hi).1
      rw [imageBytes_length] at hlt
      exact .inl ⟨i, hlt, hkey, hi⟩
    · exact .inr (.inl (tagClears_poisonClears_cell h).1)
  · obtain ⟨b, hb, hc⟩ := List.mem_flatMap.1 h
    exact .inr (.inr ⟨b, List.mem_range.1 hb, hc⟩)

theorem imageCells_data (s : State) (za key : Nat) {e i : Nat} (he : e < 1024) (hi : i < 4) :
    (key + 4 * e + i, (elem s za e).extractLsb' (8 * i) 8) ∈ imageCells s za key :=
  List.mem_append_left _ (List.mem_append_left _ (List.mem_append_left _
    (mem_bytesAt.2 ⟨4 * e + i, Nat.add_assoc .., imageBytes_getElem? s za he hi⟩)))

theorem imageCells_bfd (s : State) (za key : Nat) {b : Nat} (hb : b < 64) {c : Host.Cell}
    (hc : c ∈ bfdCells (key + 64 * b) (if s.isInt (coreOf s.cur) (s.me.phys za) then 0 else 0x0800)) : c ∈ imageCells s za key :=
  List.mem_append_right _ (List.mem_flatMap.2 ⟨b, List.mem_range.2 hb, hc⟩)

/-- A data write at `key` of 4,096 bytes, in whole blocks of LS or CLU. -/
def ImagePlace (key : Nat) : Prop := 2 ^ 68 ≤ key ∧ key + 4096 ≤ 2 ^ 72 ∧ key % 64 = 0

theorem mem_bfdCells {k : Nat} {f : BitVec 16} {c : Host.Cell} :
    c ∈ bfdCells k f ↔ c = (2 ^ 72 + 2 * (k / 64), f.extractLsb' 0 8) ∨ c = (2 ^ 72 + 2 * (k / 64) + 1, f.extractLsb' 8 8) := by
  simp only [bfdCells, bfdKey, List.mem_cons, List.not_mem_nil, or_false, Nat.add_zero]

/-- No cell of such an image stands in GLOB. -/
theorem imageCells_not_glob {s : State} {za key : Nat} (hp : ImagePlace key) {c : Host.Cell} (h : c ∈ imageCells s za key) :
    isGlobKey c.1 = false := by
  obtain ⟨hlo, hhi, -⟩ := hp
  refine decide_eq_false (Nat.not_lt.2 ?_)
  rcases imageCells_cases h with ⟨i, -, hc, -⟩ | hc | ⟨b, -, hc⟩
  · omega
  · omega
  · rcases mem_bfdCells.1 hc with rfl | rfl <;> dsimp only <;> omega

/-- Every data byte and descriptor of such an image is in a piece of its store. -/
theorem mem_pieces {s : State} {za key : Nat} (hp : ImagePlace key) {c : Host.Cell} (h : c ∈ imageCells s za key)
    {e : Nat} (he : e < 1024) (hblock : blockOfCell c.1 = (key + 4 * e) / 64) :
    c ∈ (splitCells (imageCells s za key)).flatMap Prod.snd := by
  obtain ⟨-, hhi, -⟩ := hp
  refine mem_splitCells.2 ⟨h, _, imageCells_data s za key he (Nat.zero_lt_succ 3), ?_, ?_⟩
  · dsimp only
    omega
  · rw [hblock]
    dsimp only
    omega

/-- What memory holds after the store of a tile image (R167, R217). -/
theorem image_stored {s : State} {za key : Nat} (hp : ImagePlace key) (m : Tab Byte) :
    let n := setCells m ((splitCells (imageCells s za key)).flatMap Prod.snd)
    (∀ e < 1024, ∀ i < 4, Tab.get 0 n (key + 4 * e + i) = (elem s za e).extractLsb' (8 * i) 8) ∧
    (∀ b < 64, Tab.get 0 n (bfdKey (key + 64 * b) 0) = 0 ∧
      Tab.get 0 n (bfdKey (key + 64 * b) 1) = if s.isInt (coreOf s.cur) (s.me.phys za) then 0 else 8) ∧
    ∀ k < 2 ^ 72, k < key ∨ key + 4096 ≤ k → Tab.get 0 n k = Tab.get 0 m k := by
  have hp' := hp
  obtain ⟨hlo, hhi, h64⟩ := hp'
  refine ⟨fun e he i hi => ?data, fun b hb => ?bfd, fun k hk hout => ?frame⟩
  case data =>
    refine get_setCells_of_mem ⟨_, mem_pieces hp (imageCells_data s za key he hi) he ?_, rfl⟩ fun c hc hkey => ?_
    · rw [blockOfCell, if_pos (by dsimp only; omega)]
      dsimp only
      omega
    · rcases imageCells_cases (mem_splitCells.1 hc).1 with ⟨n, hn, hck, hbyte⟩ | hck | ⟨b, -, hcb⟩
      · obtain rfl : n = 4 * e + i := by omega
        exact Option.some.inj (hbyte.symm.trans (imageBytes_getElem? s za he hi))
      · omega
      · rcases mem_bfdCells.1 hcb with rfl | rfl <;> dsimp only at hkey <;> omega
  case bfd =>
    have hget : ∀ c ∈ bfdCells (key + 64 * b) (if s.isInt (coreOf s.cur) (s.me.phys za) then 0 else 0x0800),
        Tab.get 0 (setCells m ((splitCells (imageCells s za key)).flatMap Prod.snd)) c.1 = c.2 := fun c hc => by
      refine get_setCells_of_mem ⟨c, mem_pieces hp (imageCells_bfd s za key hb hc) (e := 16 * b) (by omega) ?_, rfl⟩ fun d hd hkey => ?_
      · rcases mem_bfdCells.1 hc with rfl | rfl <;> unfold blockOfCell <;> dsimp only <;>
          rw [if_neg (by omega), if_pos (by omega)] <;> omega
      · rcases imageCells_cases (mem_splitCells.1 hd).1 with ⟨n, hn, hdk, -⟩ | hdk | ⟨b', -, hdb⟩
        · rcases mem_bfdCells.1 hc with rfl | rfl <;> dsimp only at hkey <;> omega
        · rcases mem_bfdCells.1 hc with rfl | rfl <;> dsimp only at hkey <;> omega
        · rcases mem_bfdCells.1 hc with rfl | rfl <;> rcases mem_bfdCells.1 hdb with rfl | rfl <;> dsimp only at hkey
          · rfl
          · omega
          · omega
          · rfl
    refine ⟨(hget _ List.mem_cons_self).trans ?_, (hget _ (List.mem_cons_of_mem _ List.mem_cons_self)).trans ?_⟩
    · dsimp only
      split <;> rfl
    · dsimp only
      split <;> rfl
  case frame =>
    refine get_setCells_of_notMem _ _ _ fun c hc hkey => ?_
    rcases imageCells_cases (mem_splitCells.1 hc).1 with ⟨n, hn, hck, -⟩ | hck | ⟨b, -, hcb⟩
    · omega
    · omega
    · rcases mem_bfdCells.1 hcb with rfl | rfl <;> dsimp only at hkey <;> omega

/-- A tile image stored into the own LS, and the end of the job. -/
theorem zst_result {s : State} {j : Job} {za key : Nat} (hexit : s.me.exiting = false) (hp : ImagePlace key) :
    let t := (s.jobStore s.cur j (imageCells s za key)).popJob s.cur 1
    t.me.mxe = popped s s.me.mxe ∧ SameFiles t.me s.me ∧ t.tiles = s.tiles ∧ t.ztag = s.ztag ∧
      t.mem = setCells s.mem ((splitCells (imageCells s za key)).flatMap Prod.snd) := by
  have hkeys : ∀ x ∈ splitCells (imageCells s za key), isGlobKey x.1 = false := fun x hx => by
    obtain ⟨c, hc, e⟩ := splitCells_key hx
    rw [e, imageCells_not_glob hp hc]
  obtain ⟨hframe, hmem⟩ := foldl_jobPut hkeys s s.cur j
  have hme := hframe.me
  obtain ⟨hcur, hcyc, htiles, hztag, -⟩ := hframe
  obtain ⟨hmem', htiles', hztag', -, hmxe, hfiles, -⟩ :=
    popJob_jobEnded hcur hcyc (hme.exiting.trans hexit) (congrArg List.tail (hme.queue 1))
  exact ⟨hmxe, sameFiles_trans hfiles hme.files, htiles'.trans htiles, hztag'.trans hztag, hmem'.trans hmem⟩

/-- A 64-byte aligned place in an own LS. -/
theorem imagePlace_lsKey {pos ea : Nat} (h64 : ea % 64 = 0) (hlt : ea + 4096 ≤ 0x40000) : ImagePlace (lsKey (coreOf pos) ea) := by
  have hcore : coreOf pos < 2 ^ 20 := by
    have := Nat.mod_lt pos (Nat.two_pow_pos 24)
    unfold coreOf homePos
    omega
  unfold ImagePlace lsKey
  omega

/-- A stream set starts outside every run (R169). -/
theorem qMake_start (a n : Nat) : qMake a n 0 false = BitVec.ofNat 64 (a + n * 2 ^ 18) := by simp [qMake]

/-- A q register written and its error gone changes no other register, nor whether the task exits, nor its queue. -/
theorem wq_clearBad (m : Master) (b : List Nat) (r : QReg) (x : W64) : SameFiles ({ m with qbad := b }.wq r x) (m.wq r x) ∧
    ({ m with qbad := b }.wq r x).exiting = m.exiting ∧ ({ m with qbad := b }.wq r x).mxe = m.mxe :=
  ⟨⟨rfl, rfl, rfl, rfl, rfl⟩, rfl, rfl⟩

/-- Settles O14: each job writes its tile, registers or cells, and ends. -/
theorem tileJobResults : Obligations.TileJobResults := by
  unfold Obligations.TileJobResults
  intro s j z za o v hhead
  obtain ⟨hready, hexit, hbad, -, -⟩ := head_of_atHead hhead
  have hnone := mxeBad_none (s := s) hbad s.cur
  refine ⟨fun x hk => ?zzero, fun x hk hb => ?zcvt, fun x hk hb => ?qpos, fun x hk hue => ?zld, fun x hk hb hsp h64 hlt => ?zst,
    fun x hk => ?qset⟩
  case zzero =>
    obtain ⟨hmem, hmxe, helem, hint⟩ := setZtag_jobEnded hexit (fillTile_tileWrites s _ _ fun _ => 0) (decide (x.et = 3))
    exact ⟨_, exec_mxeTileJob_zzero hready hk hnone, hmem, hmxe, helem, hint⟩
  case zcvt =>
    obtain ⟨hmem, hmxe, helem, -⟩ := setZtag_jobEnded hexit (fillTile_tileWrites s _ _ _) (decide (x.et = 3))
    exact ⟨_, exec_mxeTileJob_zcvt hready hk hb, hmem, hmxe, helem⟩
  case qpos =>
    have hfiles := filesOnly_ws s.me x.sd (s.me.rq (BitVec.ofNat 2 z))
    obtain ⟨hmem, hmxe, hres⟩ := upd_jobEnded (f := fun m => m.ws x.sd (m.rq (BitVec.ofNat 2 z))) hexit hfiles.exiting (hfiles.queue 1)
    exact ⟨_, exec_mxeTileJob_qpos hready hk hb, hmem, hmxe, hres⟩
  case zld =>
    obtain ⟨vas, hexec⟩ := exec_mxeTileJob_zld hready hk hnone hue
    obtain ⟨hmem, hmxe, hfiles, hint, helem⟩ :=
      tileWrites_jobEnded hexit (countBlocks_tileWrites (fillTile_tileWrites s _ _ _) s.cur j vas)
    exact ⟨_, hexec, hmem, hmxe, hfiles, hint, helem⟩
  case zst =>
    have hplace : ImagePlace (lsKey (coreOf s.cur) o.ea.toNat) := imagePlace_lsKey h64 hlt
    have hkey : (physKey s s.cur o.sp o.ea.toNat).getD 0 = lsKey (coreOf s.cur) o.ea.toNat := by
      rw [hsp, physKey, if_pos rfl, if_pos (by omega)]
      rfl
    have hexec := exec_mxeTileJob_zst hready hk hb
    rw [hkey] at hexec
    obtain ⟨hmxe, hfiles, htiles, hztag, hmem⟩ := zst_result (za := za) (j := j) hexit hplace
    have hstored := image_stored (s := s) (za := za) hplace s.mem
    rw [← hmem] at hstored
    exact ⟨_, hexec, hmxe, hfiles, htiles, hztag, hstored⟩
  case qset =>
    obtain ⟨hq, hqexit, hqmxe⟩ := wq_clearBad s.me (s.me.qbad.filter (· != z)) (BitVec.ofNat 2 z)
      (qMake (o.ea.toNat % 2 ^ 18) ((o.ea.toNat + 2 * v.toNat) % 2 ^ 18) 0 false)
    obtain ⟨hmem, hmxe, hres⟩ := upd_jobEnded (s := s) hexit
      (f := fun m => { m with qbad := m.qbad.filter (· != z) }.wq (BitVec.ofNat 2 z)
        (qMake (o.ea.toNat % 2 ^ 18) ((o.ea.toNat + 2 * v.toNat) % 2 ^ 18) 0 false)) hqexit hqmxe
    rw [← qMake_start]
    exact ⟨_, exec_mxeTileJob_qset hready hk hnone, hmem, hmxe, sameFiles_trans hres hq⟩

end Sys2Proof.Machine
end

section
/-! SUPPORT. Steps of multiplications (spec/07: R146, R148, R154, R164): what a step makes of the tile, how the head of the queue goes on
after it, and what a rejected step leaves. -/

namespace Sys2Proof.Machine

open Sys2Proof.Claims

/-! ## Merging into a tile (R146, R148) -/

/-- What a merge makes of an element: the integer sum of R148 on an INT32 tile, and else the sum of R146. -/
def mergeElem (int : Bool) (zs : List Int) (ps : List Num) (old : W32) : W32 :=
  if int then stepInt old zs
  else match stepSum (some old.toNat) ps with
  | some x => BitVec.ofNat 32 x
  | none => old

/-- The merge of element `e`. -/
def State.mergeAt (s : State) (core phys e : Nat) (int : Bool) (zs : List Int) (ps : List Num) : State :=
  let old := s.tile core phys e
  if int then s.setTile core phys e (stepInt old zs)
  else match stepSum (some old.toNat) ps with
  | some x => s.setTile core phys e (BitVec.ofNat 32 x)
  | none => s

/-- The merge of `m` rows of `n` elements, element (i, l) with the terms of (i, l). -/
def State.mergeTile (s : State) (core phys m n : Nat) (int : Bool) (zs : Nat → Nat → List Int)
    (ps : Nat → Nat → List Num) : State :=
  (List.range m).foldl (fun u i => (List.range n).foldl (fun u l => u.mergeAt core phys (32 * i + l) int (zs i l) (ps i l)) u) s

theorem mergeAt_tileWrites (s : State) {core phys e : Nat} {int : Bool} {zs : List Int} {ps : List Num} {g : Nat → W32 → W32}
    (hg : g e = mergeElem int zs ps) : TileWrites core phys (· = e) g s (s.mergeAt core phys e int zs ps) := by
  unfold State.mergeAt
  dsimp only
  split
  case isTrue hint => exact tileWrites_setTile s core phys e (by rw [hg, mergeElem, if_pos hint])
  case isFalse hint =>
    split
    case h_1 x hx => exact tileWrites_setTile s core phys e (by rw [hg, mergeElem, if_neg hint, hx])
    case h_2 hx =>
      refine ⟨.refl s, fun d => ⟨?_, fun _ => rfl⟩⟩
      rintro rfl
      rw [hg, mergeElem, if_neg hint, hx]

/-- A merge writes the elements of its rows and columns, each once. -/
theorem mergeTile_tileWrites (s : State) (core phys m : Nat) {n : Nat} (hn : n ≤ 32) (int : Bool) (zs : Nat → Nat → List Int)
    (ps : Nat → Nat → List Num) :
    TileWrites core phys (fun d => d / 32 < m ∧ d % 32 < n) (fun d => mergeElem int (zs (d / 32) (d % 32)) (ps (d / 32) (d % 32))) s
      (s.mergeTile core phys m n int zs ps) := by
  have hrow : ∀ i < m, ∀ u : State, TileWrites core phys (fun d => d / 32 = i ∧ d % 32 < n)
      (fun d => mergeElem int (zs (d / 32) (d % 32)) (ps (d / 32) (d % 32))) u
      ((List.range n).foldl (fun u l => u.mergeAt core phys (32 * i + l) int (zs i l) (ps i l)) u) := fun i _ u => by
    refine (foldl_tileWrites (sel := fun l d => d = 32 * i + l) (fun l hl u => mergeAt_tileWrites u ?_)
      (fun d j l hj hl => by omega) u).congr fun d => ⟨fun ⟨hd, hl⟩ => ⟨d % 32, hl, by omega⟩, fun ⟨l, hl, hd⟩ => by omega⟩
    rw [show (32 * i + l) / 32 = i by omega, show (32 * i + l) % 32 = l by omega]
  exact (foldl_tileWrites hrow (fun d i j hi hj => hi.1.symm.trans hj.1) s).congr fun d =>
    ⟨fun ⟨hi, hl⟩ => ⟨d / 32, hi, rfl, hl⟩, fun ⟨i, hi, hd, hl⟩ => ⟨hd ▸ hi, hl⟩⟩

/-! ## The head of the queue goes on (R156) -/

/-- The job at the head of the task's matrix queue has taken a unit of its work, and stands there yet. -/
def UnitTaken (s u : State) (j : Job) : Prop :=
  u.cur = s.cur ∧ u.cyc = s.cyc ∧ u.me.exiting = s.me.exiting ∧ u.me.zbase = s.me.zbase ∧
  ∃ j', u.me.mxe = j' :: s.me.mxe.tail ∧ j'.k = j.k ∧ j'.unit = j.unit + 1 ∧ j'.ord = j.ord ∧ j'.held = j.held

theorem setHead_me {u : State} {j : Job} {r : List Job} (hq : u.me.mxe = j :: r) (j' : Job) :
    (u.setHead u.cur 1 j').me = u.me.setQueue 1 (j' :: r) := by
  have hq' : (u.ms u.cur).queue 1 = j :: r := hq
  rw [State.setHead, State.me, mxeTook_ms, State.updM, hq']
  exact me_setM_cur ..

theorem BindsOnly.unitFrame {s u w : State} (h : BindsOnly u w) (hu : UnitFrame s u) : UnitFrame s w := by
  obtain ⟨l, p, rfl⟩ := h
  exact hu

theorem BindsOnly.tiles {s u : State} (h : BindsOnly s u) : u.tiles = s.tiles := by
  obtain ⟨l, p, rfl⟩ := h
  rfl

/-- The advance of the head, after a unit's work. -/
theorem setHead_unitTaken {s w : State} {j j' : Job} {r : List Job} (hq : s.me.mxe = j :: r) (hw : UnitFrame s w) (hk : j'.k = j.k)
    (hunit : j'.unit = j.unit + 1) (hord : j'.ord = j.ord) (hheld : j'.held = j.held) : let u := w.setHead s.cur 1 j'
    UnitTaken s u j ∧ u.mem = s.mem ∧ u.tiles = w.tiles ∧ SameFiles u.me s.me := by
  have hme : (w.setHead s.cur 1 j').me = s.me.setQueue 1 (j' :: r) := by
    rw [← hw.me, ← hw.1]
    exact setHead_me (hw.me ▸ hq) j'
  obtain ⟨hcur, hcyc, -, hmem, -⟩ := hw
  have htiles : (w.setHead s.cur 1 j').tiles = w.tiles := (mxeTook_tiles ..).1
  refine ⟨⟨hcur, (mxeTook_cyc ..).trans hcyc, ?_, ?_, j', ?_, hk, hunit, hord, hheld⟩, hmem, htiles, ?_⟩
  · rw [hme, setQueue_exiting]
  · rw [hme, setQueue_zbase]
  · rw [hme, hq]
    rfl
  · rw [hme]
    exact setQueue_files ..

/-- The impressions of a unit's blocks, and the advance of the head. -/
theorem counted_unitTaken {s w : State} {j : Job} {r : List Job} (hq : s.me.mxe = j :: r) (hw : UnitFrame s w) (vas : List Nat) :
    let u := (w.countBlocks s.cur j vas).1.setHead s.cur 1 { (w.countBlocks s.cur j vas).2 with unit := j.unit + 1 }
    UnitTaken s u j ∧ u.mem = s.mem ∧ u.tiles = w.tiles ∧ SameFiles u.me s.me := by
  have hframe : UnitFrame s (w.countBlocks s.cur j vas).1 := (bindsOnly_countBlocks w s.cur j vas).unitFrame hw
  have htiles : (w.countBlocks s.cur j vas).1.tiles = w.tiles := (bindsOnly_countBlocks w s.cur j vas).tiles
  obtain ⟨htaken, hmem, htiles', hfiles⟩ :=
    setHead_unitTaken (j' := { (w.countBlocks s.cur j vas).2 with unit := j.unit + 1 }) hq hframe rfl rfl rfl rfl
  exact ⟨htaken, hmem, htiles'.trans htiles, hfiles⟩

/-- The q register of the stream after its walk (R154). -/
def State.walked (s : State) (q : Option Nat) (q' : W64) : State :=
  match q with
  | none => s
  | some n => s.upd fun m => m.wq (BitVec.ofNat 2 n) q'

theorem UnitTaken.walked {s u : State} {j : Job} (h : UnitTaken s u j) (hfiles : SameFiles u.me s.me) (q : Option Nat) (q' : W64) :
    UnitTaken s (u.walked q q') j ∧ SameFiles (u.walked q q').me (afterWalk s.me q q') := by
  cases q with
  | none => exact ⟨h, hfiles⟩
  | some n =>
    obtain ⟨hcur, hcyc, hexit, hzbase, hhead⟩ := h
    obtain ⟨hs, hv, hm, hc, hq⟩ := hfiles
    have hme : (u.walked (some n) q').me = u.me.wq (BitVec.ofNat 2 n) q' := me_upd ..
    refine ⟨⟨hcur, hcyc, ?_, ?_, ?_⟩, ?_⟩
    · rw [hme]
      exact hexit
    · rw [hme]
      exact hzbase
    · rw [hme]
      exact hhead
    · rw [hme]
      exact ⟨hs, hv, hm, hc, congrArg (Tab.set 0 · _ q') hq⟩

theorem walked_mem_tiles (s : State) (q : Option Nat) (q' : W64) :
    (s.walked q q').mem = s.mem ∧ (s.walked q q').tiles = s.tiles := by
  cases q <;> exact ⟨rfl, rfl⟩

/-- A job of `k` units whose head has taken its last one leaves the queue. -/
def State.finishStep (s : State) (k : Nat) (j : Job) : State :=
  match s.headJob s.cur 1 with
  | some j' => if !j'.held && j'.unit ≥ k && j'.ord = j.ord then s.popJob s.cur 1 else s
  | none => s

theorem finishStep_of_held {s : State} (h : (s.headJob s.cur 1).any fun j => j.held) (k : Nat) (j : Job) : s.finishStep k j = s := by
  unfold State.finishStep
  cases hj : s.headJob s.cur 1 with
  | none => rfl
  | some j' =>
    have hheld : j'.held = true := by simpa [hj] using h
    simp [hheld]

/-- What a finished step leaves, and that the job has stepped. -/
theorem UnitTaken.finishStep {s u : State} {j : Job} (h : UnitTaken s u j) (hexit : s.me.exiting = false) (hheld : j.held = false)
    (k : Nat) : let t := u.finishStep k j
    Stepped s t j k ∧ t.mem = u.mem ∧ SameFiles t.me u.me ∧ t.tiles = u.tiles ∧ t.cur = s.cur ∧ t.me.zbase = s.me.zbase := by
  obtain ⟨hcur, hcyc, hexit', hzbase, j', hq, hk, hunit, hord, hheld'⟩ := h
  have hhead : u.headJob u.cur 1 = some j' := congrArg List.head? hq
  have hfin : u.finishStep k j = if k ≤ j.unit + 1 then u.popJob u.cur 1 else u := by
    rw [State.finishStep, hhead]
    simp [hheld', hheld, hord, hunit]
  rw [hfin]
  by_cases hlast : k ≤ j.unit + 1
  · rw [if_pos hlast, hcur]
    obtain ⟨hmem, htiles, -, hcur', hmxe, hfiles, hz⟩ := popJob_jobEnded hcur hcyc (hexit'.trans hexit) (by rw [hq]; rfl)
    refine ⟨?_, hmem, hfiles, htiles, hcur', hz.trans hzbase⟩
    rw [Stepped, if_neg (by omega)]
    exact hmxe
  · rw [if_neg hlast]
    refine ⟨?_, rfl, ⟨rfl, rfl, rfl, rfl, rfl⟩, rfl, hcur, hzbase⟩
    rw [Stepped, if_pos (by omega), hq]
    exact ⟨by simp [hk, hunit], rfl⟩

theorem UnitTaken.head {s u : State} {j : Job} (h : UnitTaken s u j) (hheld : j.held = false) :
    (u.headJob s.cur 1).any (fun x => x.held) = false := by
  obtain ⟨hcur, -, -, -, j', hq, -, -, -, hheld'⟩ := h
  have hhead : u.headJob s.cur 1 = some j' := hcur ▸ congrArg List.head? hq
  rw [hhead]
  exact hheld'.trans hheld

/-! ## A rejected step (R148, R158) -/

/-- Dooming a launch leaves the tiles and the acting position. -/
theorem doomBy_tiles_cur (s : State) (pos : Nat) : (s.doomBy pos).tiles = s.tiles ∧ (s.doomBy pos).cur = s.cur := by
  unfold State.doomBy
  split
  · exact ⟨rfl, rfl⟩
  · exact ⟨updLaunch_tiles .., updLaunch_cur ..⟩

theorem logEng_tiles_cur (s : State) (pos eng : Nat) (f : Flt) :
    (s.logEng pos eng f).tiles = s.tiles ∧ (s.logEng pos eng f).cur = s.cur := by
  unfold State.logEng
  split <;> exact ⟨rfl, rfl⟩

theorem freeze_tiles_cur (s : State) (pos eng : Nat) (f : Flt) (pc next : W64) :
    (s.freeze pos eng f pc next).tiles = s.tiles ∧ (s.freeze pos eng f pc next).cur = s.cur := by
  obtain ⟨htiles, hcur⟩ := logEng_tiles_cur s pos eng f
  rw [freeze_eq]
  split
  · exact ⟨(doomBy_tiles_cur ..).1.trans htiles, (doomBy_tiles_cur ..).2.trans hcur⟩
  · exact ⟨htiles, hcur⟩

/-- A job's fault leaves memory, tiles and registers, freezes the task and holds the head of the queue. -/
theorem jobFault_frozen {s : State} {j : Job} {r : List Job} (hq : s.me.mxe = j :: r) (f : Flt) : let t := s.jobFault s.cur 1 j f
    t.mem = s.mem ∧ t.tiles = s.tiles ∧ SameFiles t.me s.me ∧ t.me.st = .frozen ∧ t.cur = s.cur ∧
      (t.headJob s.cur 1).any (fun x => x.held) := by
  let u := s.setM s.cur (s.me.setQueue 1 (s.me.mxe.map fun x => { x with held := true }))
  have hfault : s.jobFault s.cur 1 j f = u.freeze s.cur 1 f j.pc (u.ms s.cur).pc := rfl
  have hu : u.ms s.cur = s.me.setQueue 1 (s.me.mxe.map fun x => { x with held := true }) := ms_setM_same ..
  have hms : (s.jobFault s.cur 1 j f).ms s.cur = (u.ms s.cur).frozenAt s.cyc (u.ms s.cur).pc := by
    rw [hfault, freeze_ms, if_pos rfl]
    rfl
  obtain ⟨htiles, hcur⟩ := freeze_tiles_cur u s.cur 1 f j.pc (u.ms s.cur).pc
  have hme : (s.jobFault s.cur 1 j f).me = (u.ms s.cur).frozenAt s.cyc (u.ms s.cur).pc := by
    rw [State.me, hfault, hcur, ← hfault, ← hms]
    rfl
  have hhead : (s.jobFault s.cur 1 j f).headJob s.cur 1 = (u.ms s.cur).mxe.head? := by
    rw [State.headJob, hms]
    rfl
  refine ⟨freeze_mem .., htiles, ?_, ?_, hcur, ?_⟩
  · rw [hme, hu]
    exact setQueue_files ..
  · rw [hme]
    rfl
  · rw [hhead, hu, hq]
    rfl

end Sys2Proof.Machine
end

section
/-! SUPPORT. The results of MXE_KSTEP and MMAS_SLICE (spec/07: R146, R148, R154, R156, R164). -/

namespace Sys2Proof.Machine

open Sys2Proof.Claims

/-! ## A performed step (R146, R148) -/

section Step
variable {s : State} {j : Job} {z m n p q : Nat} {a b : Mop}

/-- A block of an operand that an INT32 tile accepts (R148). -/
def takesInt (s : State) (rd : Rdr) (pos : Nat) (x : Mop) (c : Nat) : Bool :=
  1 ≤ bfdFmt (s.blockBfd rd pos x c) && bfdFmt (s.blockBfd rd pos x c) ≤ 3 && bfdScale (s.blockBfd rd pos x c) = 0

/-- The exact products of element (i, l) in a step, as the engine pairs them. -/
def stepTerms (s : State) (rd : Rdr) (pos : Nat) (a b : Mop) (p q unit i l : Nat) : List Num :=
  let ks := (List.range (kOf p q)).map (unit * kOf p q + ·)
  List.zipWith Num.mul
    (ks.map fun k => s.mopElem rd pos a (bfdFmt (s.blockBfd rd pos a ((a.blocks p (kOf p q) unit).headD 0))) p i k)
    (ks.map fun k => s.mopElem rd pos b (bfdFmt (s.blockBfd rd pos b ((b.blocks q (kOf p q) unit).headD 0))) q l k)

theorem stepTerms_eq (rd : Rdr) (pos unit i l : Nat) : stepTerms s rd pos a b p q unit i l =
    ((List.range (kOf p q)).map (unit * kOf p q + ·)).map fun k =>
      Num.mul (s.mopElem rd pos a (bfdFmt (s.blockBfd rd pos a ((a.blocks p (kOf p q) unit).headD 0))) p i k)
        (s.mopElem rd pos b (bfdFmt (s.blockBfd rd pos b ((b.blocks q (kOf p q) unit).headD 0))) q l k) := by
  rw [stepTerms, List.zipWith_map, List.zipWith_self]

/-- The merge of a step's products into its tile, and what it makes of element `e`. -/
def stepMerge (s : State) (j : Job) (z : Nat) (a b : Mop) (m n p q : Nat) : State :=
  s.mergeTile (coreOf s.cur) (s.me.phys z) m n (s.isInt (coreOf s.cur) (s.me.phys z))
    (fun i l => (stepTerms s (s.jobRdr s.cur j) s.cur a b p q j.unit i l).map (Num.truncAt 0))
    (stepTerms s (s.jobRdr s.cur j) s.cur a b p q j.unit)
def stepElem (s : State) (j : Job) (z : Nat) (a b : Mop) (p q e : Nat) (old : W32) : W32 :=
  mergeElem (s.isInt (coreOf s.cur) (s.me.phys z))
    ((stepTerms s (s.jobRdr s.cur j) s.cur a b p q j.unit (e / 32) (e % 32)).map (Num.truncAt 0))
    (stepTerms s (s.jobRdr s.cur j) s.cur a b p q j.unit (e / 32) (e % 32)) old

theorem stepMerge_tileWrites (hn : n ≤ 32) : TileWrites (coreOf s.cur) (s.me.phys z) (fun d => d / 32 < m ∧ d % 32 < n)
    (stepElem s j z a b p q) s (stepMerge s j z a b m n p q) :=
  mergeTile_tileWrites s (coreOf s.cur) (s.me.phys z) m hn (s.isInt (coreOf s.cur) (s.me.phys z))
    (fun i l => (stepTerms s (s.jobRdr s.cur j) s.cur a b p q j.unit i l).map (Num.truncAt 0))
    (stepTerms s (s.jobRdr s.cur j) s.cur a b p q j.unit)

theorem find_poison_none {rd : Rdr} {x : Mop} {bs : List Nat} (h : ∀ c ∈ bs, s.rd8 rd (poisonKey (x.key s s.cur c)) = 0) :
    (bs.find? fun c => s.rd8 rd (poisonKey (x.key s s.cur c)) != 0) = none :=
  List.find?_eq_none.2 fun c hc => by simp [h c hc]

/-- The first block of a step that the tile rejects, with its operand (R148). -/
def rejectedBlock (s : State) (j : Job) (z : Nat) (a b : Mop) (p q : Nat) : Option (Mop × Nat) :=
  if s.isInt (coreOf s.cur) ((s.ms s.cur).phys z) then
    (((a.blocks p (kOf p q) j.unit).find? fun c => !takesInt s (s.jobRdr s.cur j) s.cur a c).map fun c => (a, c)) <|>
      (((b.blocks q (kOf p q) j.unit).find? fun c => !takesInt s (s.jobRdr s.cur j) s.cur b c).map fun c => (b, c))
  else none

theorem rejectedBlock_eq_none (h : s.isInt (coreOf s.cur) (s.me.phys z) = true →
    (∀ c ∈ a.blocks p (kOf p q) j.unit, takesInt s (s.jobRdr s.cur j) s.cur a c = true) ∧
      ∀ c ∈ b.blocks q (kOf p q) j.unit, takesInt s (s.jobRdr s.cur j) s.cur b c = true) :
    rejectedBlock s j z a b p q = none := by
  unfold rejectedBlock
  split
  case isFalse => rfl
  case isTrue hint =>
    obtain ⟨ha, hb⟩ := h hint
    rw [List.find?_eq_none.2 fun c hc => by simp [ha c hc], List.find?_eq_none.2 fun c hc => by simp [hb c hc]]
    rfl

theorem rejectedBlock_eq_some (hint : s.isInt (coreOf s.cur) (s.me.phys z) = true)
    (h : (∃ c ∈ a.blocks p (kOf p q) j.unit, takesInt s (s.jobRdr s.cur j) s.cur a c = false) ∨
      ∃ c ∈ b.blocks q (kOf p q) j.unit, takesInt s (s.jobRdr s.cur j) s.cur b c = false) :
    ∃ x c, rejectedBlock s j z a b p q = some (x, c) := by
  replace hint : s.isInt (coreOf s.cur) ((s.ms s.cur).phys z) = true := hint
  rw [← Prod.exists (p := fun y => rejectedBlock s j z a b p q = some y), ← Option.isSome_iff_exists, rejectedBlock, if_pos hint]
  simpa [List.find?_isSome] using h

/-- A step none of whose blocks is rejected merges its products, and one with a rejected block is a fault of the job. -/
theorem kstep_cases (m n : Nat) (hsize : s.stepSizes (s.jobRdr s.cur j) s.cur a b j.unit = some (p, q))
    (ha : ∀ c ∈ a.blocks p (kOf p q) j.unit, s.rd8 (s.jobRdr s.cur j) (poisonKey (a.key s s.cur c)) = 0)
    (hb : ∀ c ∈ b.blocks q (kOf p q) j.unit, s.rd8 (s.jobRdr s.cur j) (poisonKey (b.key s s.cur c)) = 0) :
    let u := stepMerge s j z a b m n p q
    (rejectedBlock s j z a b p q = none → ∃ vas, s.kstep s.cur j z a b m n =
      (u.countBlocks s.cur j vas).1.setHead s.cur 1 { (u.countBlocks s.cur j vas).2 with unit := j.unit + 1 }) ∧
    (∀ x c, rejectedBlock s j z a b p q = some (x, c) → ∃ f, s.kstep s.cur j z a b m n = s.jobFault s.cur 1 j f) := by
  unfold State.kstep
  dsimp only
  rw [hsize]
  dsimp only
  rw [find_poison_none ha, find_poison_none hb, show ((none : Option Nat) <|> none) = none from rfl]
  dsimp only
  simp only [rejectedBlock, takesInt]
  refine ⟨fun h => ⟨plateVas a (a.blocks p (kOf p q) j.unit) ++ plateVas b (b.blocks q (kOf p q) j.unit), ?_⟩, fun x c h => ?_⟩
  · rw [h]
    rfl
  · rw [h]
    exact ⟨_, rfl⟩

end Step

/-! ## MXE_KSTEP (R146, R148, R154, R156) -/

/-- No entry of a stream without an error mark is in error (R154, R170). -/
theorem clean_stream {s : State} {r : Rdr} {core : Nat} (h : ∀ off < 2 ^ 18, s.rd8 r (poisonKey (lsKey core off)) = 0) (off : Nat)
    (hoff : off < 2 ^ 18) :
    (s.rd8 r (poisonKey (lsKey core off)) != 0 || s.rd8 r (poisonKey (lsKey core ((off + 1) % 2 ^ 18))) != 0) = false := by
  rw [h off hoff, h _ (Nat.mod_lt _ (Nat.two_pow_pos 18))]
  rfl

section Kstep
variable {s : State} {j : Job} {z m n k mcm mc sa sb : Nat} {oa ob : Opd} {ta tb bgs : Bool} {qo : Option Nat} {q' : W64}
  (hready : s.jobReady s.cur 1 = some j) (hk : j.k = .mma z oa ob sa sb m n k ta tb mcm mc qo bgs)
  (hunit : j.unit < k)
include hready hk hunit

/-- A step that the walk performs: a fault leaves the step as it is, and otherwise the walk and the end of the job follow it. -/
theorem exec_mxeKstep_perform (hbad : j.bad = false) (hwalk : WalksTo s j qo q' true) (hz : s.mxeBad s.cur j [z] [] = none) :
    let u := s.kstep s.cur j z { o := oa, st := sa, tr := ta, rows := m } { o := ob, st := sb, tr := tb, rows := n } m n
    u.cur = s.cur → exec .mxeKstep s =
      .next (if (u.headJob s.cur 1).any (fun x => x.held) then u else (u.walked qo q').finishStep k j) := by
  intro u hcur
  have hover : ¬ j.unit ≥ k := by omega
  rw [show exec .mxeKstep s = execMxeKstep s from rfl, execMxeKstep, hready]
  dsimp only
  rw [hk]
  obtain _ | qn := qo
  · dsimp only [Option.toList, mopsOf]
    rw [ite_self, mxeBad_none hbad, if_neg hover]
    simp only [hz]
    change Host.Outcome.next (u.finishStep k j) = .next (if _ then u else u.finishStep k j)
    split
    case isTrue hheld => rw [finishStep_of_held (by rwa [hcur]) k j]
    case isFalse => rfl
  · obtain ⟨hq, hpoison, hstream⟩ := hwalk
    dsimp only [Option.toList, mopsOf]
    rw [if_neg hover, hq]
    dsimp only
    rw [if_neg hover, qWalk_of_walk (clean_stream hpoison) hstream]
    simp only [hz]
    rfl

/-- A step that the walk omits. -/
theorem exec_mxeKstep_skip (hwalk : WalksTo s j qo q' false) :
    exec .mxeKstep s = .next (((s.setHead s.cur 1 { j with unit := j.unit + 1 }).walked qo q').finishStep k j) := by
  have hover : ¬ j.unit ≥ k := by omega
  obtain _ | qn := qo
  · exact absurd hwalk Bool.false_ne_true
  · obtain ⟨hq, hpoison, hstream⟩ := hwalk
    rw [show exec .mxeKstep s = execMxeKstep s from rfl, execMxeKstep, hready]
    dsimp only
    rw [hk]
    dsimp only [Option.toList]
    rw [if_neg hover, hq]
    dsimp only
    rw [if_neg hover, qWalk_of_walk (clean_stream hpoison) hstream]
    rfl

end Kstep

/-- The walk and the end of the job, once a unit of its work is done. -/
theorem UnitTaken.ends {s u : State} {j : Job} (h : UnitTaken s u j) (hfiles : SameFiles u.me s.me) (hexit : s.me.exiting = false)
    (hheld : j.held = false) (k : Nat) (qo : Option Nat) (q' : W64) : let t := (u.walked qo q').finishStep k j
    t.mem = u.mem ∧ t.tiles = u.tiles ∧ SameFiles t.me (afterWalk s.me qo q') ∧ Stepped s t j k ∧
      ∀ z e, elem t z e = u.tile (coreOf s.cur) (s.me.phys z) e := by
  obtain ⟨hwalked, hfiles'⟩ := h.walked hfiles qo q'
  obtain ⟨hstep, hmem, hfiles'', htiles, hcur, hzbase⟩ := hwalked.finishStep hexit hheld k
  obtain ⟨hmem', htiles'⟩ := walked_mem_tiles u qo q'
  refine ⟨hmem.trans hmem', htiles.trans htiles', sameFiles_trans hfiles'' hfiles', hstep, fun z e => ?_⟩
  unfold elem State.tile Master.phys
  rw [htiles, htiles', hcur, hzbase]

section Results
variable {s : State} {j : Job} {z m n k mcm mc sa sb p q : Nat} {oa ob : Opd} {ta tb bgs : Bool} {qo : Option Nat} {q' : W64}
  (hhead : AtHead s 1 j) (hk : j.k = .mma z oa ob sa sb m n k ta tb mcm mc qo bgs) (hunit : j.unit < k)
include hhead hk hunit

/-- A step that the walk omits leaves memory and tiles. -/
theorem kstep_skipped (hwalk : WalksTo s j qo q' false) : ∃ t, exec .mxeKstep s = .next t ∧ t.mem = s.mem ∧ t.tiles = s.tiles ∧
    SameFiles t.me (afterWalk s.me qo q') ∧ Stepped s t j k := by
  obtain ⟨hready, hexit, -, hheld, r, hq⟩ := head_of_atHead hhead
  obtain ⟨htaken, hmem, htiles, hfiles⟩ :=
    setHead_unitTaken (j' := { j with unit := j.unit + 1 }) hq (.refl s) rfl rfl rfl rfl
  obtain ⟨hmem', htiles', hfiles', hstep, -⟩ := htaken.ends hfiles hexit hheld k qo q'
  exact ⟨_, exec_mxeKstep_skip hready hk hunit hwalk, hmem'.trans hmem, htiles'.trans htiles, hfiles', hstep⟩

variable (hwalk : WalksTo s j qo q' true) (hz : s.mxeBad s.cur j [z] [] = none)
  {a b : Mop} (hma : a = { o := oa, st := sa, tr := ta, rows := m }) (hmb : b = { o := ob, st := sb, tr := tb, rows := n })
  (hsize : s.stepSizes (s.jobRdr s.cur j) s.cur a b j.unit = some (p, q))
  (ha : ∀ c ∈ a.blocks p (kOf p q) j.unit, s.rd8 (s.jobRdr s.cur j) (poisonKey (a.key s s.cur c)) = 0)
  (hb : ∀ c ∈ b.blocks q (kOf p q) j.unit, s.rd8 (s.jobRdr s.cur j) (poisonKey (b.key s s.cur c)) = 0)
include hwalk hz hma hmb hsize ha hb

/-- A performed step merges the products of its elements into the tile. -/
theorem kstep_merged (hn : n ≤ 32) (hrej : rejectedBlock s j z a b p q = none) : ∃ t, exec .mxeKstep s = .next t ∧
    SameFiles t.me (afterWalk s.me qo q') ∧ Stepped s t j k ∧ ∀ e, elem t z e =
      if e / 32 < m ∧ e % 32 < n then stepElem s j z a b p q e (elem s z e) else elem s z e := by
  obtain ⟨hready, hexit, hbad, hheld, r, hq⟩ := head_of_atHead hhead
  obtain ⟨vas, hrun⟩ := (kstep_cases (z := z) m n hsize ha hb).1 hrej
  obtain ⟨hframe, hvals⟩ := stepMerge_tileWrites (z := z) (j := j) (m := m) (a := a) (b := b) (p := p) (q := q) (s := s) hn
  obtain ⟨htaken, -, htiles, hfiles⟩ := counted_unitTaken hq hframe vas
  rw [← hrun] at htaken htiles hfiles
  obtain ⟨-, -, hfiles', hstep, helem⟩ := htaken.ends hfiles hexit hheld k qo q'
  have hexec := exec_mxeKstep_perform hready hk hunit hbad hwalk hz (hma ▸ hmb ▸ htaken.1)
  rw [← hma, ← hmb, htaken.head hheld, if_neg Bool.false_ne_true] at hexec
  refine ⟨_, hexec, hfiles', hstep, fun e => (helem z e).trans ?_⟩
  unfold State.tile
  rw [htiles]
  split
  case isTrue he => exact (hvals e).1 he
  case isFalse he => exact (hvals e).2 he

/-- A step with a block that the tile rejects freezes the task, with no effect. -/
theorem kstep_frozen {x : Mop} {c : Nat} (hrej : rejectedBlock s j z a b p q = some (x, c)) : ∃ t, exec .mxeKstep s = .next t ∧
    t.mem = s.mem ∧ t.tiles = s.tiles ∧ SameFiles t.me s.me ∧ t.me.st = .frozen := by
  obtain ⟨hready, hexit, hbad, hheld, r, hq⟩ := head_of_atHead hhead
  obtain ⟨f, hrun⟩ := (kstep_cases (z := z) m n hsize ha hb).2 x c hrej
  obtain ⟨hmem, htiles, hfiles, hst, hcur, hheld'⟩ := jobFault_frozen hq f
  rw [← hrun] at hmem htiles hfiles hst hcur hheld'
  have hexec := exec_mxeKstep_perform hready hk hunit hbad hwalk hz (hma ▸ hmb ▸ hcur)
  rw [← hma, ← hmb, if_pos hheld'] at hexec
  exact ⟨_, hexec, hmem, htiles, hfiles, hst⟩

end Results

/-! ## The two kinds of tile (R146, R148) -/

theorem takesInt_iff {s : State} {rd : Rdr} {pos : Nat} {x : Mop} {c : Nat} : takesInt s rd pos x c = true ↔
    1 ≤ bfdFmt (s.blockBfd rd pos x c) ∧ bfdFmt (s.blockBfd rd pos x c) ≤ 3 ∧ bfdScale (s.blockBfd rd pos x c) = 0 := by
  simp [takesInt, and_assoc]

theorem takesInt_eq_false {s : State} {rd : Rdr} {pos : Nat} {x : Mop} {c : Nat} : takesInt s rd pos x c = false ↔
    ¬ (1 ≤ bfdFmt (s.blockBfd rd pos x c) ∧ bfdFmt (s.blockBfd rd pos x c) ≤ 3 ∧ bfdScale (s.blockBfd rd pos x c) = 0) := by
  rw [← takesInt_iff, Bool.not_eq_true]

/-- The merge of integer products (R148). -/
theorem mergeElem_int {rd : Rdr} {s : State} {pos p q unit i l : Nat} {a b : Mop} {va vb : Nat → Nat → Int}
    (ha : ∀ x ∈ (List.range (kOf p q)).map (unit * kOf p q + ·),
      s.mopElem rd pos a (bfdFmt (s.blockBfd rd pos a ((a.blocks p (kOf p q) unit).headD 0))) p i x = Num.ofInt (va i x))
    (hb : ∀ x ∈ (List.range (kOf p q)).map (unit * kOf p q + ·),
      s.mopElem rd pos b (bfdFmt (s.blockBfd rd pos b ((b.blocks q (kOf p q) unit).headD 0))) q l x = Num.ofInt (vb l x))
    (ps : List Num) (old : W32) :
    mergeElem true ((stepTerms s rd pos a b p q unit i l).map (Num.truncAt 0)) ps old =
      BitVec.ofInt 32 (saturate 32 (old.toInt +
        (((List.range (kOf p q)).map (unit * kOf p q + ·)).map fun x => va i x * vb l x).sum)) := by
  have hterms : (stepTerms s rd pos a b p q unit i l).map (Num.truncAt 0) =
      ((List.range (kOf p q)).map (unit * kOf p q + ·)).map fun x => va i x * vb l x := by
    rw [stepTerms_eq, List.map_map (g := Num.truncAt 0)]
    refine List.map_congr_left fun x hx => ?_
    rw [Function.comp_apply, ha x hx, hb x hx, mul_ofInt_truncAt]
  rw [mergeElem, if_pos rfl, hterms, stepInt_eq]

/-! ## MMAS_SLICE (R164) -/

/-- The word of an MMAS slice that is merged into element (i, l). -/
def sliceWord (s : State) (j : Job) (o : Opd) (st rs i l : Nat) : W32 :=
  BitVec.ofNat 32 (s.rdNat (s.jobRdr s.cur j) ((physKey s s.cur o.sp ((o.ea.toNat + j.unit * st + i * rs + 4 * l) % 2 ^ 64)).getD 0) 4)

theorem exec_mmasSlice {s : State} {j : Job} {z m n k st rs : Nat} {o : Opd} (hready : s.jobReady s.cur 1 = some j)
    (hk : j.k = .mmas z o st m n k rs) (hunit : j.unit < k) (hz : s.mxeBad s.cur j [z] [] = none)
    (hue : ∀ i < m, ∀ b ∈ blocksOf (o.ea.toNat + j.unit * st + i * rs) (4 * n),
      s.rd8 (s.jobRdr s.cur j) (poisonKey ((physKey s s.cur o.sp (b % 2 ^ 64)).getD 0)) = 0) :
    let w := s.mergeTile (coreOf s.cur) (s.me.phys z) m n (s.isInt (coreOf s.cur) (s.me.phys z))
      (fun i l => [(sliceWord s j o st rs i l).toInt]) (fun i l => [ffF.num (sliceWord s j o st rs i l).toNat])
    ∃ vas, let u := (w.countBlocks s.cur j vas).1.setHead s.cur 1 { (w.countBlocks s.cur j vas).2 with unit := j.unit + 1 }
      exec .mmasSlice s = .next (if j.unit + 1 ≥ k then u.popJob s.cur 1 else u) := by
  have hover : ¬ j.unit ≥ k := by omega
  have hclean : (((List.range m).flatMap fun i => blocksOf (o.ea.toNat + j.unit * st + i * rs) (4 * n)).eraseDups.find? fun b =>
      s.rd8 (s.jobRdr s.cur j) (poisonKey ((physKey s s.cur o.sp (b % 2 ^ 64)).getD 0)) != 0) = none := by
    simp only [List.find?_eq_none, List.mem_eraseDups, List.mem_flatMap, List.mem_range]
    rintro b ⟨i, hi, hb⟩
    rw [hue i hi b hb]
    decide
  rw [show exec .mmasSlice s = execMmasSlice s from rfl, execMmasSlice, hready]
  dsimp only
  rw [hk]
  dsimp only
  rw [if_neg hover, hz]
  dsimp only
  rw [if_neg hover, hclean]
  exact ⟨_, rfl⟩

/-- The elements of a tile, whether the unit was the job's last or not. -/
theorem UnitTaken.elem {s u : State} {j : Job} (h : UnitTaken s u j) (hexit : s.me.exiting = false) (last : Prop) [Decidable last]
    (z e : Nat) :
    Claims.elem (if last then u.popJob s.cur 1 else u) z e = u.tile (coreOf s.cur) (s.me.phys z) e := by
  obtain ⟨hcur, hcyc, hexit', hzbase, j', hq, -⟩ := h
  split
  case isTrue =>
    exact (popJob_jobEnded hcur hcyc (hexit'.trans hexit) (by rw [hq]; rfl)).elem hzbase z e
  case isFalse =>
    unfold Claims.elem Master.phys
    rw [hcur, hzbase]

/-- A slice merges the words of its image. -/
theorem mmasSlice_merged {s : State} {j : Job} {z m n k st rs : Nat} {o : Opd} (hhead : AtHead s 1 j)
    (hk : j.k = .mmas z o st m n k rs) (hn : n ≤ 32) (hunit : j.unit < k) (hz : s.mxeBad s.cur j [z] [] = none)
    (hue : ∀ i < m, ∀ b ∈ blocksOf (o.ea.toNat + j.unit * st + i * rs) (4 * n),
      s.rd8 (s.jobRdr s.cur j) (poisonKey ((physKey s s.cur o.sp (b % 2 ^ 64)).getD 0)) = 0) :
    ∃ t, exec .mmasSlice s = .next t ∧ ∀ e, elem t z e =
      if e / 32 < m ∧ e % 32 < n then
        mergeElem (s.isInt (coreOf s.cur) (s.me.phys z)) [(sliceWord s j o st rs (e / 32) (e % 32)).toInt]
          [ffF.num (sliceWord s j o st rs (e / 32) (e % 32)).toNat] (elem s z e)
      else elem s z e := by
  obtain ⟨hready, hexit, -, -, r, hq⟩ := head_of_atHead hhead
  obtain ⟨vas, hexec⟩ := exec_mmasSlice hready hk hunit hz hue
  obtain ⟨hframe, hvals⟩ := mergeTile_tileWrites s (coreOf s.cur) (s.me.phys z) m hn (s.isInt (coreOf s.cur) (s.me.phys z))
    (fun i l => [(sliceWord s j o st rs i l).toInt]) (fun i l => [ffF.num (sliceWord s j o st rs i l).toNat])
  obtain ⟨htaken, -, htiles, -⟩ := counted_unitTaken hq hframe vas
  refine ⟨_, hexec, fun e => (htaken.elem hexit _ z e).trans ?_⟩
  unfold State.tile
  rw [htiles]
  split
  case isTrue he => exact (hvals e).1 he
  case isFalse he => exact (hvals e).2 he

/-- Settles O15: each step merges its products or its image by the engine's sum, whose clauses are those of R146. -/
theorem matrixStepResults : Obligations.MatrixStepResults := by
  unfold Obligations.MatrixStepResults
  intro s j hhead
  refine ⟨fun z m n k mcm mc sa sb oa ob ta tb bgs qo q' hk _ hn hunit => ⟨kstep_skipped hhead hk hunit, ?mma⟩,
    ?mmas, stepSum_result⟩
  case mma =>
    intro p q A B rd ks as bs fa fb okInt hwalk hz hsize ha hb
    refine ⟨fun hint => ?float, fun hint => ⟨fun va vb hokA hokB hva hvb => ?int, fun hrej => ?rejected⟩⟩
    case float =>
      have hrej : rejectedBlock s j z A B p q = none := rejectedBlock_eq_none fun h => by simp [hint] at h
      obtain ⟨t, hexec, hfiles, hstep, helem⟩ := kstep_merged hhead hk hunit hwalk hz rfl rfl hsize ha hb hn hrej
      refine ⟨t, hexec, hfiles, hstep, fun e _ => ?_⟩
      rw [helem e, stepElem, hint, stepTerms_eq]
      rfl
    case int =>
      have hrej : rejectedBlock s j z A B p q = none := rejectedBlock_eq_none fun _ =>
        ⟨fun c hc => takesInt_iff.2 (hokA c hc), fun c hc => takesInt_iff.2 (hokB c hc)⟩
      obtain ⟨t, hexec, hfiles, hstep, helem⟩ := kstep_merged hhead hk hunit hwalk hz rfl rfl hsize ha hb hn hrej
      refine ⟨t, hexec, hfiles, hstep, fun e _ => ?_⟩
      rw [helem e, stepElem, hint]
      split
      case isTrue he => exact mergeElem_int (hva _ he.1) (hvb _ he.2) _ _
      case isFalse => rfl
    case rejected =>
      obtain ⟨x, c, hrej⟩ : ∃ x c, rejectedBlock s j z A B p q = some (x, c) := rejectedBlock_eq_some hint
        (hrej.imp (fun ⟨c, hc, hno⟩ => ⟨c, hc, takesInt_eq_false.2 hno⟩)
          fun ⟨c, hc, hno⟩ => ⟨c, hc, takesInt_eq_false.2 hno⟩)
      exact kstep_frozen hhead hk hunit hwalk hz rfl rfl hsize ha hb hrej
  case mmas =>
    intro z m n k st rs o hk _ hn hunit hz key hue
    obtain ⟨t, hexec, helem⟩ := mmasSlice_merged hhead hk hn hunit hz hue
    refine ⟨t, hexec, fun e _ => ?_⟩
    have hword : ∀ a, BitVec.ofNat 32 (a % 2 ^ 32) = BitVec.ofNat 32 a := fun a => BitVec.eq_of_toNat_eq (by simp)
    have he := helem e
    rw [mergeElem, stepInt_eq, List.sum_singleton, sliceWord, BitVec.toNat_ofNat, ← hword] at he
    exact he

end Sys2Proof.Machine
end

section
/-! SUPPORT. Acceptance into the attention queue (spec/08: R183-R191): that ATQ, ATM, KVAPP and KVDESC queue their job once their checks
have passed, and that ATC of a complete post completes at once. -/

namespace Sys2Proof.Machine

open Sys2Proof.Claims

/-! ## Acceptance (R183) -/

/-- A job of kind `k` stands last in queue `e` of the acting task, whose o is `o` and whose PC is still at the instruction; beside the
queue, kept values and TBMASK of the task nothing has changed. -/
def Placed (s v : State) (e : Nat) (k : JobK) (o : BitVec 4) : Prop :=
  v.cur = s.cur ∧ v.mem = s.mem ∧ v.vers = s.vers ∧ v.tiles = s.tiles ∧ v.ztag = s.ztag ∧ SameReqs v.reqs s.reqs ∧
  (∀ p, p ≠ s.cur → v.ms p = s.ms p) ∧
  ∃ j kept tb, v.me = { s.me.setQueue e (s.me.queue e ++ [j]) with kept := kept, tbmask := tb, o := o } ∧
    j.k = k ∧ j.pc = s.me.pc ∧ j.unit = 0 ∧ j.held = false

theorem enqueue_placed (s : State) (e : Nat) (k : JobK) (rd wr : List Fp) : Placed s (s.enqueue e k rd wr) e k s.me.o := by
  refine ⟨rfl, rfl, rfl, rfl, rfl, rfl, fun p hp => enqueue_ms_ne s e k rd wr hp, acceptedJob s e k rd wr, s.me.kept, s.me.tbmask, ?_,
    rfl, rfl, rfl, rfl⟩
  rw [enqueue_me]
  obtain ⟨_, _, _, _, h⟩ := setQueue_eq s.me e (s.me.queue e ++ [acceptedJob s e k rd wr])
  rw [h]

/-- Changes of the acting master's TBMASK and o keep the job in its place. -/
theorem Placed.upd {s v : State} {e : Nat} {k : JobK} {o o' : BitVec 4} (h : Placed s v e k o) {f : Master → Master}
    (hf : ∃ tb, f v.me = { v.me with tbmask := tb, o := o' }) : Placed s (v.upd f) e k o' := by
  obtain ⟨hcur, hmem, hvers, htiles, hztag, hreqs, hms, j, kept, _, hme, hj⟩ := h
  obtain ⟨tb, hf⟩ := hf
  refine ⟨hcur, hmem, hvers, htiles, hztag, hreqs, fun p hp => ?_, j, kept, tb, ?_, hj⟩
  · rw [upd_eq, ms_setM, if_neg (hcur ▸ hp)]
    exact hms p hp
  · rw [me_upd, hf, hme]

theorem setTb_eq (m : Master) (b : Option Nat) : ∃ tb, m.setTb b = { m with tbmask := tb } := by
  cases b
  · exact ⟨m.tbmask, rfl⟩
  · exact ⟨_, rfl⟩

theorem Placed.setTb {s v : State} {e : Nat} {k : JobK} {o : BitVec 4} (h : Placed s v e k o) (b : Option Nat) :
    Placed s (v.upd fun m => m.setTb b) e k o := by
  have ho : v.me.o = o := by
    obtain ⟨-, -, -, -, -, -, -, _, _, _, hme, -⟩ := h
    rw [hme]
  obtain ⟨tb, htb⟩ := setTb_eq v.me b
  exact h.upd ⟨tb, by rw [htb, ← ho]⟩

/-- An acquire drops a kept value, and marks requests whose value it will not keep; nothing else changes (R213). -/
theorem dropKeptAll_eq (s : State) : ∃ kept reqs, s.dropKeptAll = { s.upd fun m => { m with kept := kept } with reqs := reqs } ∧
    SameReqs reqs s.reqs := by
  have hkept : ∃ kept, (match s.me.kept with
      | some _ => { s.me with kept := none }
      | none => s.me) = { s.me with kept := kept } := by
    cases s.me.kept with
    | none => exact ⟨s.me.kept, rfl⟩
    | some v => exact ⟨none, rfl⟩
  obtain ⟨kept, hkept⟩ := hkept
  refine ⟨kept, s.dropKeptAll.reqs, ?_, ?_⟩
  · rw [upd_eq]
    dsimp only
    rw [← hkept]
    rfl
  · unfold SameReqs State.dropKeptAll State.unkeep
    dsimp only
    rw [List.map_map]
    refine List.map_congr_left fun r _ => ?_
    dsimp only [Function.comp]
    split
    · split <;> rfl
    · rfl

/-- Of a master it changes the kept value alone. -/
theorem dropKeptAll_ms (s : State) (p : Nat) : ∃ kept, s.dropKeptAll.ms p = { s.ms p with kept := kept } := by
  obtain ⟨kept, reqs, e, -⟩ := dropKeptAll_eq s
  have hms : s.dropKeptAll.ms p = if p = s.cur then { s.me with kept := kept } else s.ms p := by
    rw [e]
    exact ms_setM ..
  rw [hms]
  split
  · next hp => exact ⟨kept, by rw [hp]; rfl⟩
  · exact ⟨(s.ms p).kept, rfl⟩

theorem Placed.dropKeptAll {s v : State} {e : Nat} {k : JobK} {o : BitVec 4} (h : Placed s v e k o) :
    Placed s v.dropKeptAll e k o := by
  obtain ⟨hcur, hmem, hvers, htiles, hztag, hreqs, hms, j, _, tb, hme, hj⟩ := h
  obtain ⟨kept, reqs, hdrop, hsame⟩ := dropKeptAll_eq v
  rw [hdrop]
  refine ⟨hcur, hmem, hvers, htiles, hztag, hsame.trans hreqs, fun p hp => ?_, j, kept, tb, ?_, hj⟩
  · exact (ms_setM ..).trans ((if_neg (hcur ▸ hp)).trans (hms p hp))
  · show (v.upd fun m => { m with kept := kept }).me = _
    rw [me_upd, hme]

/-- Completing with the PC at the next instruction ends the acceptance. -/
theorem Placed.advance {s v : State} {e : Nat} (he : e < 4) {k : JobK} {o : BitVec 4} (h : Placed s v e k o) (p : Bool) (words : Nat) :
    QueuedO s (v.advance p (v.me.next words)) e k words o := by
  obtain ⟨hcur, hmem, hvers, htiles, hztag, hreqs, hms, j, kept, tb, hme, hj⟩ := h
  obtain ⟨hfiles, hspecials, hpend, hqueue⟩ := advance_me_kept v p (v.me.next words)
  have hpc := advance_me_pc v p (v.me.next words)
  have ho := advance_me_o v p (v.me.next words)
  obtain ⟨_, _, _, _, hset⟩ := setQueue_eq s.me e (s.me.queue e ++ [j])
  have hq : ∀ f < 4, v.me.queue f = if f = e then s.me.queue e ++ [j] else s.me.queue f := fun f hf => by
    rw [hme, ← setQueue_queue s.me he hf]
    rfl
  rw [hme, hset] at hfiles hspecials hpend hpc ho
  refine ⟨(advance_cur ..).trans hcur, (advance_mem ..).trans hmem, (advance_vers ..).trans hvers, (advance_tiles ..).trans htiles,
    (advance_ztag ..).trans hztag, ?_, ?_, ?_, ?_, ?_, ?_, fun f hf hne => ?_, fun p hp => ?_, j, ?_, hj⟩
  · rw [advance_reqs]
    exact hreqs
  · rw [hme, hset, hpc]
    rfl
  · rw [hme, hset, ho]
  · rw [hme, hset]
    exact hfiles
  · rw [hme, hset]
    exact hspecials
  · rw [hme, hset, hpend]
  · rw [hqueue, hq f hf, if_neg hne]
  · rw [advance_ms_ne _ _ _ (hcur ▸ hp), hms p hp]
  · rw [hqueue, hq e he, if_pos rfl]

/-- The same with o as the mode says (R275). -/
theorem Placed.done {s v : State} {e : Nat} (he : e < 4) {k : JobK} (h : Placed s v e k s.me.o) (hd : Hd) (words : Nat) :
    Queued s (v.done hd words) e k words hd := by
  have hnext : v.me.next words = (v.upd fun m => { m with o := oRdy }).me.next words := by rw [me_upd]; rfl
  unfold Queued rdy State.done
  by_cases hn : hd.nr = 0
  · rw [if_pos hn, if_pos hn]
    exact h.advance he ..
  · rw [if_neg hn, if_neg hn, hnext]
    exact (h.upd (o' := oRdy) ⟨v.me.tbmask, rfl⟩).advance he ..

/-- With a free entry and nothing to wait for, an attention job is accepted (R183). -/
theorem attAccept_of_free {s : State} (hfree : FreeEntry s 3) {busy : State → Option (BitVec 4 × Park)} (hbusy : busy s = none) (h : Hd)
    (k : JobK) (rd wr : List Fp) (fin : State → State) : s.attAccept h k rd wr fin busy = fin (s.enqueue 3 k rd wr) := by
  obtain ⟨-, horphan, hlen⟩ := hfree
  have hfull : s.engFull 3 = false := decide_eq_false (by omega)
  rw [State.attAccept, proofCheck_of_none horphan, hfull, hbusy]
  rfl

theorem attAccept_queuedO {s : State} (hfree : FreeEntry s 3) {busy : State → Option (BitVec 4 × Park)} (hbusy : busy s = none) {h : Hd}
    {k : JobK} {rd wr : List Fp} {fin : State → State} {words : Nat} {o : BitVec 4}
    (hfin : QueuedO s (fin (s.enqueue 3 k rd wr)) 3 k words o) : QueuedO s (s.attAccept h k rd wr fin busy) 3 k words o := by
  rwa [attAccept_of_free hfree hbusy]

/-! ## The four queued instructions (R185, R188, R189, R191) -/

theorem atq_queued {s : State} {x : AtqA} (hfree : FreeEntry s 3)
    (hR : s.areaFlt s.cur 0 (s.me.rc x.mem.cap) [pStore] (s.me.ea x.mem).toNat 64 64 true = none)
    (hD : s.descAreaFlt s.cur 1 (s.me.rc x.cD) [pLoad, pLdcap] (s.me.rc x.cD).cursor.toNat spGlobAny false = none)
    (hQ : s.areaFlt s.cur 2 (s.me.rc x.cQ) [pLoad] (s.me.rc x.cQ).cursor.toNat 64 64 false = none) (hposts : s.me.postCount < 4) :
    ∃ t, execAtq x s = .next t ∧
      Queued s t 3 (.atq (s.me.rc x.mem.cap) (s.me.rc x.cD) (s.me.rc x.cQ) (s.me.ea x.mem)) x.h.words x.h := by
  refine ⟨_, gate_engine hfree.1 .., ?_⟩
  dsimp only
  rw [hR, hD, hQ]
  exact attAccept_queuedO hfree (if_neg (by omega)) ((enqueue_placed ..).dropKeptAll.done (by decide) x.h x.h.words)

theorem atm_queued {s : State} {x : MemA} (hfree : FreeEntry s 3)
    (hR : s.areaFlt s.cur 0 (s.me.rc x.mem.cap) [pLoad, pStore] (s.me.ea x.mem).toNat 64 64 true = none)
    (hclear : ∀ f ∈ toLimit s.cur (s.me.rc x.mem.cap) (s.me.ea x.mem).toNat,
      ∀ g ∈ s.me.postFps ++ s.me.att.flatMap (fun j => match j.k with | .atq .. => j.wr | _ => []), g.meets f.sp f.lo f.hi = false) :
    ∃ t, execAtm x s = .next t ∧ QueuedO s t 3 (.atm (s.me.rc x.mem.cap) (s.me.ea x.mem)) x.h.words s.me.o := by
  refine ⟨_, gate_engine hfree.1 .., ?_⟩
  dsimp only
  rw [hR]
  refine attAccept_queuedO hfree (if_neg ?_) ((enqueue_placed ..).advance (by decide) x.h.p x.h.words)
  simp only [List.any_eq_true, not_exists, not_and, Bool.not_eq_true]
  exact hclear

theorem kvapp_queued {s : State} {x : KvappA} (hfree : FreeEntry s 3)
    (hD : s.descAreaFlt s.cur 0 (s.me.rc x.mem.cap) [pLoad, pStore] (s.me.ea x.mem).toNat spImm true = none)
    (hS : s.areaFlt s.cur 1 (s.me.rc x.cS) [pLoad] (s.me.rc x.cS).cursor.toNat 0 64 false = none) :
    ∃ t, execKvapp x s = .next t ∧
      Queued s t 3 (.kvapp x.sd.toNat (s.me.rc x.mem.cap) (s.me.ea x.mem) (s.me.rc x.cS) (s.me.rs x.sd)) x.h.words x.h := by
  refine ⟨_, gate_engine hfree.1 .., ?_⟩
  dsimp only
  rw [hD, hS]
  exact attAccept_queuedO hfree rfl (((enqueue_placed ..).setTb _).done (by decide) x.h x.h.words)

/-- A KVDESC whose checks pass logs what it read in error, and is accepted; the destination's TBMASK bit is set (R25, R191). -/
theorem execKvdesc_of_ok {s : State} {x : KvdescA} (hk : IsTask s)
    (hD : s.descAreaFlt s.cur 0 (s.me.rc x.mem.cap) [pStore, pStcap] (s.me.ea x.mem).toNat spImm true = none)
    (hS : s.areaFlt s.cur 2 (s.me.rc x.cS) [pLoad] (s.me.rc x.cS).cursor.toNat 16 16 false = none)
    {image : Nat} (himage : image = lsKey (coreOf s.cur) (s.me.rc x.cS).cursor.toNat)
    (hahead : s.unitAhead s.cur image 16 = []) {par : BitVec 128}
    (hpar : par = BitVec.ofNat 128 (s.rdNat (s.rdr s.cur s.me.proof) image 16)) (hok : (Desc.ofParams (s.me.rc x.cK) par 0 0).ok = true)
    (hflt : s.descFlt s.cur 1 (Desc.ofParams (s.me.rc x.cK) par 0 0) (s.illegalFlt s.cur s.me.pc) = none) :
    execKvdesc x s = .next ((s.noteUe (s.rdr s.cur s.me.proof) 0 (s.me.rc x.cS).cursor image 16).attAccept x.h
      (.kvdesc (s.me.ea x.mem) (s.me.rc x.cK) par) [] []
      (fun t => taken x.h (t.touch t.cur ((physKey t t.cur 3 (s.me.ea x.mem).toNat).getD 0))) fun _ => none) := by
  subst himage hpar
  rw [execKvdesc, gate_engine hk]
  dsimp only
  rw [hD, hS, hahead, hok, hflt]
  rfl

theorem kvdesc_queued {s : State} {x : KvdescA} (hfree : FreeEntry s 3)
    (hD : s.descAreaFlt s.cur 0 (s.me.rc x.mem.cap) [pStore, pStcap] (s.me.ea x.mem).toNat spImm true = none)
    (hS : s.areaFlt s.cur 2 (s.me.rc x.cS) [pLoad] (s.me.rc x.cS).cursor.toNat 16 16 false = none)
    {image : Nat} (himage : image = lsKey (coreOf s.cur) (s.me.rc x.cS).cursor.toNat)
    (hahead : s.unitAhead s.cur image 16 = []) {par : BitVec 128}
    (hpar : par = BitVec.ofNat 128 (s.rdNat (s.rdr s.cur s.me.proof) image 16)) (hok : (Desc.ofParams (s.me.rc x.cK) par 0 0).ok = true)
    (hflt : s.descFlt s.cur 1 (Desc.ofParams (s.me.rc x.cK) par 0 0) (s.illegalFlt s.cur s.me.pc) = none) :
    ∃ t, execKvdesc x s = .next t ∧ Queued s t 3 (.kvdesc (s.me.ea x.mem) (s.me.rc x.cK) par) x.h.words x.h := by
  have hlog := logsOnly_noteUe s (s.rdr s.cur s.me.proof) 0 (s.me.rc x.cS).cursor image 16
  have hexec := execKvdesc_of_ok hfree.1 hD hS himage hahead hpar hok hflt
  rw [attAccept_of_free (hlog.freeEntry hfree) rfl] at hexec
  exact ⟨_, hexec, hlog.prepares.queued (((enqueue_placed ..).setTb _).done (by decide) x.h x.h.words)⟩

/-! ## ATC (R187) -/

/-- A read that meets no error logs none. -/
theorem noteUe_of_none {s : State} {r : Rdr} {key n : Nat} (h : s.ueIn r key n = none) (eng : Nat) (ea : W64) :
    s.noteUe r eng ea key n = s := by
  rw [State.noteUe, List.filter_eq_nil_iff.2 (List.find?_eq_none.1 h)]
  rfl

/-- Completing with RDY is a step of the master alone (R275). -/
theorem done_eq_stepped {s : State} (hk : s.me.kind ≠ .empty) (h : Hd) (words : Nat) :
    s.done h words = stepped s h.p (nextPc s words) (if h.nr = 0 then s.me else { s.me with o := 0 }) := by
  unfold State.done
  by_cases hn : h.nr = 0
  · rw [if_pos hn, if_pos hn, advance_eq_stepped hk]
    rfl
  · rw [if_neg hn, if_neg hn, upd_advance_eq_stepped hk rfl rfl]
    rfl

theorem atc_complete {s : State} {x : MemA} (hk : IsTask s) (horphan : s.me.orphan = none)
    (hflt : s.areaFlt s.cur 0 (s.me.rc x.mem.cap) [pLoad] (s.me.ea x.mem).toNat 64 64 false = none)
    {k : Nat} (hkey : k = lsKey (coreOf s.cur) (s.me.ea x.mem).toNat) {r : Rdr} (hr : r = s.rdr s.cur s.me.proof)
    (hahead : s.unitAhead s.cur k 8 = []) (hue : s.ueIn r k 8 = none) (hcounts : s.rdNat r k 4 = s.rdNat r (k + 4) 4) :
    execAtc x s = .next (stepped s x.h.p (nextPc s x.h.words) (if x.h.nr = 0 then s.me else { s.me with o := 0 })) := by
  subst hkey hr
  have hkind : s.me.kind ≠ .empty := by rw [show s.me.kind = .task from hk]; decide
  rw [execAtc, gate_engine hk]
  dsimp only
  rw [hflt]
  dsimp only
  rw [proofCheck_of_none horphan, hahead, noteUe_of_none hue, if_pos hcounts, done_eq_stepped hkind]
  rfl

/-- Settles O16: each queued instruction passes its checks and is placed in the queue, and ATC finds the two counts equal. -/
theorem attentionAcceptanceAndTest : Obligations.AttentionAcceptanceAndTest := by
  unfold Obligations.AttentionAcceptanceAndTest
  refine ⟨fun s hfree => ⟨fun x hR hD hQ hposts => ?atq, fun x hR hclear => ?atm, fun x hD hS => ?kvapp,
    fun x hD hS hahead => ?kvdesc⟩, fun s x hk horphan hflt => ?atc⟩
  case atq => exact atq_queued hfree hR hD hQ hposts
  case atm => exact atm_queued hfree hR hclear
  case kvapp => exact kvapp_queued hfree hD hS
  case kvdesc =>
    intro par d hok hdesc
    exact kvdesc_queued hfree hD hS rfl hahead rfl hok hdesc
  case atc =>
    intro k r hahead hue hcounts
    exact atc_complete hk horphan hflt rfl rfl hahead hue hcounts

end Sys2Proof.Machine
end

section
/-! SUPPORT. Steps of the attention queue's jobs (spec/08: R183, R184): what the checks of a job see of the state, what its reads, logs,
writes and stores leave of its task, and what the end of the job and the advance of the head change. -/

namespace Sys2Proof.Machine

open Sys2Proof.Claims

/-! ## What reads and checks see -/

/-- Two states in which every reader reads the same bytes and every check of a job has the same answer: they may differ in fault
packets, waits, kept values and requests. -/
structure SameView (s u : State) : Prop where
  mem : u.mem = s.mem
  batches : u.batches = s.batches
  vers : u.vers = s.vers
  stale : u.stale = s.stale
  halo : u.halo = s.halo
  proofs : u.proofs = s.proofs
  pages : u.pages = s.pages
  ranges : u.ranges = s.ranges
  launches : u.launches = s.launches
  cores : u.cores = s.cores
  parts : u.parts = s.parts
  partOf : ∀ p, u.partOf p = s.partOf p
  kind : ∀ p, (u.ms p).kind = (s.ms p).kind
  lslot : ∀ p, (u.ms p).lslot = (s.ms p).lslot

theorem SameView.trans {s u w : State} (h : SameView s u) (h' : SameView u w) : SameView s w where
  mem := h'.mem.trans h.mem
  batches := h'.batches.trans h.batches
  vers := h'.vers.trans h.vers
  stale := h'.stale.trans h.stale
  halo := h'.halo.trans h.halo
  proofs := h'.proofs.trans h.proofs
  pages := h'.pages.trans h.pages
  ranges := h'.ranges.trans h.ranges
  launches := h'.launches.trans h.launches
  cores := h'.cores.trans h.cores
  parts := h'.parts.trans h.parts
  partOf p := (h'.partOf p).trans (h.partOf p)
  kind p := (h'.kind p).trans (h.kind p)
  lslot p := (h'.lslot p).trans (h.lslot p)

theorem LogsOnly.sameView {s u : State} (h : LogsOnly s u) : SameView s u := by
  obtain ⟨d, rfl, hpart⟩ := h
  exact ⟨rfl, rfl, rfl, rfl, rfl, rfl, rfl, rfl, rfl, rfl, rfl, fun p => hpart (dieOf p), fun _ => rfl, fun _ => rfl⟩

theorem sameView_dropKeptAll (s : State) : SameView s s.dropKeptAll := by
  refine ⟨rfl, rfl, rfl, rfl, rfl, rfl, rfl, rfl, rfl, rfl, rfl, fun _ => rfl, fun p => ?_, fun p => ?_⟩
  all_goals
    obtain ⟨kept, e⟩ := dropKeptAll_ms s p
    rw [e]

namespace SameView
variable {s u : State}

theorem rd8 (h : SameView s u) (r : Rdr) (k : Nat) : u.rd8 r k = s.rd8 r k := by
  simp only [State.rd8, State.view, State.dieByte, h.mem, h.batches, h.vers, h.stale, h.halo]

theorem rdBytes (h : SameView s u) (r : Rdr) (k n : Nat) : u.rdBytes r k n = s.rdBytes r k n := by
  induction n generalizing k with
  | zero => rfl
  | succ n ih => rw [State.rdBytes, State.rdBytes, h.rd8, ih]

theorem rdNat (h : SameView s u) (r : Rdr) (k n : Nat) : u.rdNat r k n = s.rdNat r k n := by
  rw [State.rdNat, State.rdNat, h.rdBytes]

theorem rdBfd (h : SameView s u) (r : Rdr) (k : Nat) : u.rdBfd r k = s.rdBfd r k := by
  simp only [State.rdBfd, h.rd8]

theorem jobRdr (h : SameView s u) (pos : Nat) (j : Job) : u.jobRdr pos j = s.jobRdr pos j := by
  simp only [State.jobRdr, State.rdr, State.chain, h.proofs]

theorem msWord (h : SameView s u) (key : Nat) : u.msWord key = s.msWord key := h.rdNat ..

theorem pageAt (h : SameView s u) (part va : Nat) : u.pageAt part va = s.pageAt part va := by
  simp only [State.pageAt, h.pages]

theorem haloForeign (h : SameView s u) (pos ea len : Nat) : u.haloForeign pos ea len = s.haloForeign pos ea len := by
  simp only [State.haloForeign, State.regions, State.part, h.partOf, h.launches, h.parts]

theorem leaseFlt (h : SameView s u) (pos : Nat) (a : Acc) : u.leaseFlt pos a = s.leaseFlt pos a := by
  simp only [State.leaseFlt, State.faultPage, State.launch?, h.pageAt, h.partOf, h.launches, h.ranges, h.kind, h.lslot]
  rfl

theorem illegalFlt (h : SameView s u) (pos : Nat) (pc : W64) : u.illegalFlt pos pc = s.illegalFlt pos pc := by
  simp only [State.illegalFlt, State.codeWord, h.rdNat, h.partOf]

theorem descFlt (h : SameView s u) (pos opn : Nat) (d : Desc) (bad : Flt) : u.descFlt pos opn d bad = s.descFlt pos opn d bad := by
  simp only [State.descFlt, State.sliceFlt, h.leaseFlt, h.pageAt, h.partOf]

theorem rowFlt (h : SameView s u) (pos : Nat) (d : Desc) (p n : Nat) : u.rowFlt pos d p n = s.rowFlt pos d p n := by
  simp only [State.rowFlt, h.haloForeign]

theorem postFlt (h : SameView s u) (pos : Nat) (j : Job) (cR cQ : Cap) (ea : W64) (d : Desc) :
    u.postFlt pos j cR cQ ea d = s.postFlt pos j cR cQ ea d := by
  simp only [State.postFlt, State.queryBad, State.inAlloc, State.core, h.descFlt, h.illegalFlt, h.jobRdr, h.rdBfd, h.cores, h.lslot]
  rfl

end SameView

/-! ## What a step leaves of its task -/

/-- Two masters differ at most in whether and where they wait, in ERRST and TBMASK, and in a kept value. -/
def SameWork (m n : Master) : Prop :=
  ∃ st park wait woke place err tb kept,
    m = { n with st := st, park := park, wait := wait, woke := woke, place := place, errst := err, tbmask := tb, kept := kept }

theorem SameWork.refl (m : Master) : SameWork m m := ⟨m.st, m.park, m.wait, m.woke, m.place, m.errst, m.tbmask, m.kept, rfl⟩

theorem SameWork.trans {a b c : Master} (h : SameWork a b) (h' : SameWork b c) : SameWork a c := by
  obtain ⟨st, park, wait, woke, place, err, tb, kept, rfl⟩ := h
  obtain ⟨_, _, _, _, _, _, _, _, rfl⟩ := h'
  exact ⟨st, park, wait, woke, place, err, tb, kept, rfl⟩

theorem SameButWait.sameWork {m n : Master} (h : SameButWait m n) : SameWork m n := by
  obtain ⟨st, park, wait, woke, place, rfl⟩ := h
  exact ⟨st, park, wait, woke, place, n.errst, n.tbmask, n.kept, rfl⟩

theorem SameWork.kept {m n : Master} (h : SameWork m n) : m.att = n.att ∧ m.exiting = n.exiting ∧ SameFiles m n := by
  obtain ⟨_, _, _, _, _, _, _, _, rfl⟩ := h
  exact ⟨rfl, rfl, rfl, rfl, rfl, rfl, rfl⟩

/-- The acting position and the cycle stand, and the master at `pos` does the same work. -/
def WorkFrame (pos : Nat) (s u : State) : Prop := u.cur = s.cur ∧ u.cyc = s.cyc ∧ SameWork (u.ms pos) (s.ms pos)

theorem WorkFrame.refl (pos : Nat) (s : State) : WorkFrame pos s s := ⟨rfl, rfl, .refl _⟩

theorem WorkFrame.trans {pos : Nat} {s u w : State} (h : WorkFrame pos s u) (h' : WorkFrame pos u w) : WorkFrame pos s w := by
  obtain ⟨hcur, hcyc, hms⟩ := h
  obtain ⟨hcur', hcyc', hms'⟩ := h'
  exact ⟨hcur'.trans hcur, hcyc'.trans hcyc, hms'.trans hms⟩

/-- The acting task does the same work: its attention queue, its end and its registers stand. -/
theorem WorkFrame.me {s u : State} (h : WorkFrame s.cur s u) : u.cur = s.cur ∧ u.cyc = s.cyc ∧ u.me.att = s.me.att ∧
    u.me.exiting = s.me.exiting ∧ SameFiles u.me s.me := by
  obtain ⟨hcur, hcyc, hms⟩ := h
  rw [← show u.me = u.ms s.cur from congrArg u.ms hcur] at hms
  exact ⟨hcur, hcyc, hms.kept⟩

theorem LogsOnly.workFrame {s u : State} (h : LogsOnly s u) (pos : Nat) : WorkFrame pos s u := by
  obtain ⟨d, rfl, -⟩ := h
  exact .refl pos s

theorem workFrame_wakeAll (pos : Nat) (s : State) (f : Nat → Master → Bool) : WorkFrame pos s (s.wakeAll f) :=
  ⟨rfl, rfl, (wakeAll_sameButWait s f pos).sameWork⟩

theorem workFrame_dropKeptAll (pos : Nat) (s : State) : WorkFrame pos s s.dropKeptAll := by
  obtain ⟨kept, e⟩ := dropKeptAll_ms s pos
  refine ⟨rfl, rfl, ?_⟩
  rw [e]
  exact ⟨_, _, _, _, _, (s.ms pos).errst, (s.ms pos).tbmask, kept, rfl⟩

/-- A write of words of memory at their unit may end waits, and leaves the task's work. -/
theorem workFrame_unitWrite (pos : Nat) (s : State) (k : Nat) (bs : List Byte) : WorkFrame pos s (s.unitWrite k bs) :=
  workFrame_wakeAll pos { s with mem := setCells s.mem (dataCells k bs) } _

theorem workFrame_putLs (pos : Nat) (s : State) (core off : Nat) (bs : List Byte) : WorkFrame pos s (s.putLs core off bs) :=
  workFrame_unitWrite ..

theorem workFrame_putBfd (pos : Nat) (s : State) (core off n : Nat) (f : BitVec 16) : WorkFrame pos s (s.putBfd core off n f) :=
  ⟨rfl, rfl, .refl _⟩

theorem workFrame_setMsWord (pos : Nat) (s : State) (k x : Nat) : WorkFrame pos s (s.setMsWord k x) :=
  workFrame_wakeAll pos { s with mem := setCells s.mem (dataCells k (leBytes 4 x)) } _

theorem workFrame_doomBy (pos : Nat) (s : State) (p : Nat) : WorkFrame pos s (s.doomBy p) := by
  unfold State.doomBy State.doom
  split
  · exact .refl pos s
  · exact ⟨updLaunch_cur .., updLaunch_cyc .., by rw [State.ms, updLaunch_masters]; exact .refl _⟩

theorem workFrame_touch (pos : Nat) (s : State) (k : Nat) : WorkFrame pos s (s.touch pos k) := by
  obtain ⟨tb, htb⟩ := setTb_eq (s.ms pos) (s.tbBit pos k)
  refine ⟨rfl, rfl, ?_⟩
  rw [State.touch, State.updM, ms_setM_same, htb]
  exact ⟨_, _, _, _, _, (s.ms pos).errst, tb, (s.ms pos).kept, rfl⟩

/-! ## Stores (R197, R203) -/

/-- A store leaves the acting position, the cycle and every master. -/
def MastersKept (s u : State) : Prop := u.cur = s.cur ∧ u.cyc = s.cyc ∧ u.masters = s.masters

theorem MastersKept.refl (s : State) : MastersKept s s := ⟨rfl, rfl, rfl⟩

theorem MastersKept.trans {s u w : State} (h : MastersKept s u) (h' : MastersKept u w) : MastersKept s w := by
  obtain ⟨hcur, hcyc, hms⟩ := h
  obtain ⟨hcur', hcyc', hms'⟩ := h'
  exact ⟨hcur'.trans hcur, hcyc'.trans hcyc, hms'.trans hms⟩

theorem MastersKept.workFrame {s u : State} (h : MastersKept s u) (pos : Nat) : WorkFrame pos s u := by
  obtain ⟨hcur, hcyc, hms⟩ := h
  refine ⟨hcur, hcyc, ?_⟩
  rw [State.ms, hms]
  exact .refl _

theorem mastersKept_noteSent (s : State) (pos l : Nat) : MastersKept s (s.noteSent pos l) := by
  unfold State.noteSent
  split
  · exact .refl s
  · exact ⟨rfl, rfl, rfl⟩

theorem mastersKept_send (s : State) (pos home req : Nat) (o : Ord) (cells : List Host.Cell) (push : Bool) (todo : List Nat)
    (proof : Nat) : MastersKept s (s.send pos home req o cells push todo proof) :=
  MastersKept.trans (u := { s with batches := _, nextReq := s.nextReq + 1 }) ⟨rfl, rfl, rfl⟩ (mastersKept_noteSent ..)

theorem mastersKept_toCopies (s : State) (pos home req : Nat) (o : Ord) (cells : List Host.Cell) (ds : List Nat) (proof : Nat) :
    MastersKept s (s.toCopies pos home req o cells ds proof) := by
  unfold State.toCopies
  split
  · exact .refl s
  · exact (mastersKept_send s pos home req o cells false ds proof).trans ⟨rfl, rfl, rfl⟩

theorem mastersKept_ownLines (s : State) (pos : Nat) (no : Bool) (cells : List Host.Cell) : MastersKept s (s.ownLines pos no cells) := by
  unfold State.ownLines
  split
  · exact .refl s
  · exact foldl_related .refl .trans (fun _ _ => ⟨rfl, rfl, rfl⟩) _ s

theorem mastersKept_storeImm (s : State) (pos home req : Nat) (ms : Bool) (o : Ord) (cells : List Host.Cell) :
    MastersKept s (s.storeImm pos home req ms o cells).1 := by
  unfold State.storeImm
  dsimp only
  split
  · exact MastersKept.trans (u := s.applyHome _ cells) ⟨rfl, rfl, rfl⟩ (mastersKept_toCopies ..)
  · exact mastersKept_send ..

theorem mastersKept_applyTagged (s : State) (ds : List Nat) (l p : Nat) (cells : List Host.Cell) :
    MastersKept s (s.applyTagged ds l p cells).1 :=
  ⟨updLaunch_cur .., updLaunch_cyc .., updLaunch_masters ..⟩

theorem mastersKept_store (s : State) (pos proof : Nat) (dead : Bool) (req : Nat) (o : Ord) (k : Nat) (cells : List Host.Cell) :
    MastersKept s (s.store pos proof dead req o k cells).1 := by
  have howned : ∀ pk no, MastersKept s ((s.countWrite (dieOf pos) pk).ownLines pos no cells) := fun pk no =>
    MastersKept.trans (u := s.countWrite (dieOf pos) pk) ⟨rfl, rfl, rfl⟩ (mastersKept_ownLines ..)
  unfold State.store
  split
  case isTrue =>
    split
    · exact .refl s
    · next pk p _ =>
      dsimp only
      split
      · exact .refl s
      · split
        · exact (howned pk _).trans (mastersKept_storeImm ..)
        · split
          · exact (howned pk _).trans (mastersKept_send ..)
          · exact (howned pk _).trans ((mastersKept_applyTagged ..).trans (mastersKept_toCopies ..))
  case isFalse =>
    split
    · exact mastersKept_send ..
    · exact ⟨rfl, rfl, rfl⟩

/-- A job's store may wake its task and set its ERRST, and leaves its work. -/
theorem workFrame_jobPut (pos : Nat) (s : State) (j : Job) (k : Nat) (cells : List Host.Cell) :
    WorkFrame pos s (s.jobPut pos j k cells) := by
  have hstore := (mastersKept_store s pos j.proof j.dead 0 {} k cells).workFrame pos
  have herr : ∀ u : State, WorkFrame pos u (u.updM pos fun m => m.setErr errOvf) := fun u => by
    refine ⟨rfl, rfl, ?_⟩
    rw [State.updM, ms_setM_same]
    exact ⟨_, _, _, _, _, _, (u.ms pos).tbmask, (u.ms pos).kept, rfl⟩
  unfold State.jobPut
  dsimp only
  refine hstore.trans (WorkFrame.trans ?_ (workFrame_wakeAll pos _ _))
  split
  · exact (herr _).trans (workFrame_doomBy ..)
  · exact .refl pos _

theorem workFrame_jobStore (pos : Nat) (s : State) (j : Job) (cells : List Host.Cell) : WorkFrame pos s (s.jobStore pos j cells) :=
  foldl_related (R := WorkFrame pos) (.refl pos) .trans (fun u (x : Nat × List Host.Cell) => workFrame_jobPut pos u j x.1 x.2)
    (splitCells cells) s

/-! ## The head of the attention queue (R183) -/

/-- The head of the attention queue that is ready is the task's. -/
theorem att_of_atHead {s : State} {j : Job} (h : AtHead s 3 j) :
    s.jobReady s.cur 3 = some j ∧ s.me.exiting = false ∧ j.bad = false ∧ s.me.att = j :: s.me.att.tail := by
  obtain ⟨-, hexit, -, hready, hbad⟩ := h
  refine ⟨hready, hexit, hbad, ?_⟩
  have hcan : s.jobCan s.cur 3 = some j := hready
  unfold State.jobCan at hcan
  split at hcan
  · next i hi =>
    split at hcan
    · obtain rfl := Option.some.inj hcan
      obtain ⟨r, hr⟩ := List.head?_eq_some_iff.1 (show s.me.att.head? = some i from hi)
      rw [hr]
      rfl
    · simp at hcan
  · simp at hcan

/-- The head of the attention queue has taken a step. -/
theorem setHead_att {s u : State} {j : Job} (hu : WorkFrame s.cur s u) (hq : s.me.att = j :: s.me.att.tail) (j' : Job) :
    (u.setHead s.cur 3 j').me.att = j' :: s.me.att.tail := by
  obtain ⟨hcur, -, hatt, -, -⟩ := hu.me
  have hq' : (u.ms u.cur).queue 3 = j :: s.me.att.tail := hatt.trans hq
  have hme : (u.setHead s.cur 3 j').me = u.me.setQueue 3 (j' :: s.me.att.tail) := by
    rw [← hcur, State.setHead, State.me, mxeTook_ms, State.updM, hq']
    exact me_setM_cur ..
  rw [hme]
  rfl

theorem retireIf_scans (s : State) (pos : Nat) : (s.retireIf pos).scans = s.scans := by
  unfold State.retireIf
  dsimp only
  split <;> rfl

theorem markerWake_scans (s : State) (pos : Nat) : (s.markerWake pos).scans = s.scans := by
  unfold State.markerWake
  dsimp only
  split
  · exact retireIf_scans ..
  · split
    · rfl
    · split
      · rfl
      · split <;> rfl
      · split <;> rfl
      · rfl

theorem popJob_scans (s : State) (pos e : Nat) : (s.popJob pos e).scans = s.scans := by
  rw [popJob_eq, markerWake_scans, State.mxeTook]
  split <;> rfl

/-- The end of the job at the head of the attention queue, whose task is not at its end: the next job comes to the head; memory, scans,
registers and o stay. -/
theorem popJob_att {s u : State} (hcur : u.cur = s.cur) (hcyc : u.cyc = s.cyc) (hexit : u.me.exiting = false)
    (hq : u.me.att = s.me.att) : let t := u.popJob s.cur 3
    t.cur = s.cur ∧ t.mem = u.mem ∧ t.scans = u.scans ∧ t.me.att = popped s s.me.att ∧ SameFiles t.me u.me ∧ t.me.o = u.me.o := by
  rw [← hcur]
  obtain ⟨hmem, hcur', hms⟩ := popJob_kept (s := u) (pos := u.cur) hexit 3
  rw [← show (u.popJob u.cur 3).me = (u.popJob u.cur 3).ms u.cur from congrArg _ hcur'] at hms
  refine ⟨hcur', hmem, popJob_scans .., ?_, sameFiles_trans hms.files (setQueue_files ..), ?_⟩
  · calc (u.popJob u.cur 3).me.att
      _ = popped u u.me.att := (hms.queue 3).trans (setQueue_queue _ (by decide) (by decide) _)
      _ = popped s s.me.att := popped_congr hcyc (congrArg _ hq)
  · obtain ⟨_, _, _, _, _, e⟩ := hms
    rw [e]
    exact setQueue_o ..

/-- A job's fault freezes its task, and leaves memory and registers. -/
theorem jobFault_freezes (s : State) (pos e : Nat) (j : Job) (f : Flt) : let t := s.jobFault pos e j f
    t.cur = s.cur ∧ t.mem = s.mem ∧ (t.ms pos).st = .frozen ∧ SameFiles (t.ms pos) (s.ms pos) := by
  have hms : (s.jobFault pos e j f).ms pos =
      ((s.ms pos).setQueue e (((s.ms pos).queue e).map fun x => { x with held := true })).frozenAt s.cyc
        ((s.ms pos).setQueue e (((s.ms pos).queue e).map fun x => { x with held := true })).pc := by
    unfold State.jobFault State.updM
    dsimp only
    rw [freeze_ms, if_pos rfl, ms_setM_same]
    rfl
  refine ⟨(freeze_tiles_cur ..).2, freeze_mem .., ?_, ?_⟩
  · rw [hms]
    rfl
  · rw [hms]
    exact setQueue_files ..

end Sys2Proof.Machine
end

section
/-! SUPPORT. Posts and scans (spec/08: R177-R180, R185, R186): the scans that an ATQ posts, a place taken at an ABU, a record made and a
record landed. -/

namespace Sys2Proof.Machine

open Sys2Proof.Claims

/-! ## ATQ_EXECUTE (R185, R186) -/

/-- The scans that a post sends, one for each slice, to the ABU of the page that holds it. -/
def postScans (s : State) (pos id : Nat) (d : Desc) : List Scan :=
  (List.range d.np).map fun i =>
    { id := id + 1 + i, pos := pos, post := id, slice := i
      abu := ((s.pageAt (s.partOf pos) (d.base i)).map fun x => abuOf x.2.home x.1).getD 0
      acc := false, after := s.observed pos, img := none }

/-- Sends the `n` scans of a post. -/
def State.sendScans (s : State) (pos n : Nat) (scans : List Scan) : State :=
  scans.foldl (fun s _ => s.noteSent pos (s.ms pos).lslot) { s with nextReq := s.nextReq + 1 + n, scans := s.scans ++ scans }

/-- Keeps a post that is not complete already. -/
def State.keepPost (s : State) (pos : Nat) (p : Post) : State :=
  if p.np = 0 then s else s.updM pos fun m => { m with posts := m.posts ++ [p] }

/-- The post of an ATQ, whose query a reader finds at `qk`. -/
def newPost (s : State) (r : Rdr) (j : Job) (cR : Cap) (ea : W64) (d : Desc) (qk qlen : Nat) : Post :=
  { id := s.nextReq, ea := ea, lim := cR.top, d := d, np := d.np, q := s.rdBytes r qk qlen
    qfmt := (blocksOf qk qlen).map (s.rdBfd r ·), landed := [], ord := j.ord }

/-- The query read, and the header of the result area written (R175). -/
def State.putHeader (s : State) (r : Rdr) (core : Nat) (cQ : Cap) (ea : W64) (d : Desc) (qk qlen : Nat) : State :=
  ((s.noteUe r 3 cQ.cursor qk qlen).putLs core ea.toNat (headerBytes d)).putBfd core ea.toNat 64 0

/-- An ATQ that passes its checks writes the header, sends its scans and ends. -/
theorem exec_atqExecute {s : State} {j : Job} {cR cD cQ : Cap} {ea : W64} (hready : s.jobReady s.cur 3 = some j) (hbad : j.bad = false)
    (hk : j.k = .atq cR cD cQ ea) {r : Rdr} (hr : r = s.jobRdr s.cur j) {dk : Nat}
    (hdk : dk = (physKey s s.cur cD.space cD.cursor.toNat).getD 0) {d : Desc} (hd : d = s.readDesc r dk) {u : State}
    (hu : u = (s.noteUe r 3 cD.cursor dk 64).dropKeptAll) (hflt : u.postFlt s.cur j cR cQ ea d = none)
    {qk qlen : Nat} (hqk : qk = lsKey (coreOf s.cur) cQ.cursor.toNat) (hqlen : qlen = d.dim * fmtBits (bfdFmt (u.rdBfd r qk)) / 8) :
    exec .atqExecute s = .next (((((u.putHeader r (coreOf s.cur) cQ ea d qk qlen).sendScans s.cur d.np
      (postScans u s.cur u.nextReq d)).keepPost s.cur (newPost u r j cR ea d qk qlen)).popJob s.cur 3).postWake s.cur ea) := by
  rw [show exec .atqExecute s = execAtqExecute s from rfl, execAtqExecute, hready]
  simp only [hk, hbad, Bool.false_eq_true, if_false, ← hr, ← hdk, ← hd, ← hu, hflt, ← hqk, ← hqlen]
  rfl

theorem noteSent_scans (s : State) (pos l : Nat) : (s.noteSent pos l).scans = s.scans := by
  unfold State.noteSent
  split <;> rfl

theorem noteRecv_scans (s : State) (pos l : Nat) : (s.noteRecv pos l).scans = s.scans := by
  unfold State.noteRecv
  split <;> rfl

theorem LogsOnly.scans {s u : State} (h : LogsOnly s u) : u.scans = s.scans := by
  obtain ⟨d, rfl, -⟩ := h
  rfl

theorem putHeader_scans (s : State) (r : Rdr) (core : Nat) (cQ : Cap) (ea : W64) (d : Desc) (qk qlen : Nat) :
    (s.putHeader r core cQ ea d qk qlen).scans = s.scans := (logsOnly_noteUe s r 3 cQ.cursor qk qlen).scans

theorem workFrame_putHeader (pos : Nat) (s : State) (r : Rdr) (core : Nat) (cQ : Cap) (ea : W64) (d : Desc) (qk qlen : Nat) :
    WorkFrame pos s (s.putHeader r core cQ ea d qk qlen) :=
  ((logsOnly_noteUe s r 3 cQ.cursor qk qlen).workFrame pos).trans ((workFrame_putLs ..).trans (workFrame_putBfd ..))

theorem mastersKept_sendScans (s : State) (pos n : Nat) (scans : List Scan) : MastersKept s (s.sendScans pos n scans) :=
  MastersKept.trans (u := { s with nextReq := s.nextReq + 1 + n, scans := s.scans ++ scans }) ⟨rfl, rfl, rfl⟩
    (foldl_related (R := MastersKept) .refl .trans (fun _ _ => mastersKept_noteSent ..) scans _)

theorem sendScans_scans (s : State) (pos n : Nat) (scans : List Scan) : (s.sendScans pos n scans).scans = s.scans ++ scans :=
  foldl_related (R := fun s u => u.scans = s.scans) (fun _ => rfl) (fun h h' => Eq.trans h' h) (fun _ _ => noteSent_scans ..) scans
    { s with nextReq := s.nextReq + 1 + n, scans := s.scans ++ scans }

/-- Keeping a post changes the posts of its task alone. -/
theorem keepPost_kept (s : State) (p : Post) : let t := s.keepPost s.cur p
    t.scans = s.scans ∧ t.cur = s.cur ∧ t.cyc = s.cyc ∧ t.me.att = s.me.att ∧ t.me.exiting = s.me.exiting := by
  unfold State.keepPost
  split
  · exact ⟨rfl, rfl, rfl, rfl, rfl⟩
  · have hme : (s.updM s.cur fun m => { m with posts := m.posts ++ [p] }).me = { s.me with posts := s.me.posts ++ [p] } := me_upd s _
    refine ⟨rfl, rfl, rfl, ?_, ?_⟩ <;> rw [hme]

theorem postWake_kept (s : State) (pos : Nat) (ea : W64) :
    (s.postWake pos ea).scans = s.scans ∧ (s.postWake pos ea).me.att = s.me.att :=
  ⟨rfl, (wakeAll_sameButWait s _ s.cur).queue 3⟩

/-- A scan of the post is one of its slices, on its way to the ABU of the page that holds the slice. -/
theorem mem_postScans {s : State} {pos id : Nat} {d : Desc} {y : Scan} (hy : y ∈ postScans s pos id d) :
    y.pos = pos ∧ y.acc = false ∧ y.img = none ∧
      ∀ pk p, s.pageAt (s.partOf pos) (d.base y.slice) = some (pk, p) → y.abu = abuOf p.home pk := by
  obtain ⟨i, -, rfl⟩ := List.mem_map.1 hy
  refine ⟨rfl, rfl, rfl, fun pk p hp => ?_⟩
  dsimp only at hp ⊢
  rw [hp]
  rfl

theorem postScans_slice (s : State) (pos id : Nat) (d : Desc) : (postScans s pos id d).map (·.slice) = List.range d.np := by
  rw [postScans, List.map_map]
  exact List.map_id _

/-- Between its checks and its end, an ATQ writes the header and appends its scans; the checks see no change before them. -/
theorem atq_steps {s : State} {j : Job} {cR cD cQ : Cap} {ea : W64} (hready : s.jobReady s.cur 3 = some j) (hbad : j.bad = false)
    (hk : j.k = .atq cR cD cQ ea) {d : Desc}
    (hd : d = s.readDesc (s.jobRdr s.cur j) ((physKey s s.cur cD.space cD.cursor.toNat).getD 0))
    (hflt : s.postFlt s.cur j cR cQ ea d = none) : ∃ u w p, SameView s u ∧ WorkFrame s.cur s w ∧
      w.scans = s.scans ++ postScans u s.cur u.nextReq d ∧
      exec .atqExecute s = .next (((w.keepPost s.cur p).popJob s.cur 3).postWake s.cur ea) := by
  have hlog := logsOnly_noteUe s (s.jobRdr s.cur j) 3 cD.cursor ((physKey s s.cur cD.space cD.cursor.toNat).getD 0) 64
  have hview := hlog.sameView.trans (sameView_dropKeptAll _)
  have hread := (hlog.workFrame s.cur).trans (workFrame_dropKeptAll ..)
  refine ⟨_, _, _, hview, ?_, ?_, exec_atqExecute hready hbad hk rfl rfl hd rfl ((hview.postFlt ..).trans hflt) rfl rfl⟩
  · exact (hread.trans (workFrame_putHeader ..)).trans ((mastersKept_sendScans ..).workFrame _)
  · rw [sendScans_scans, putHeader_scans]
    exact congrArg (· ++ _) hlog.scans

/-- An ATQ that passes its checks posts its scans and frees its entry (R185, R186). -/
theorem atq_posts {s : State} {j : Job} {cR cD cQ : Cap} {ea : W64} (hhead : AtHead s 3 j) (hk : j.k = .atq cR cD cQ ea) {d : Desc}
    (hd : d = s.readDesc (s.jobRdr s.cur j) ((physKey s s.cur cD.space cD.cursor.toNat).getD 0))
    (hflt : s.postFlt s.cur j cR cQ ea d = none) :
    ∃ t new, exec .atqExecute s = .next t ∧ t.scans = s.scans ++ new ∧ new.map (·.slice) = List.range d.np ∧
      (∀ y ∈ new, y.pos = s.cur ∧ y.acc = false ∧ y.img = none ∧
        ∀ pk p, s.pageAt (s.partOf s.cur) (d.base y.slice) = some (pk, p) → y.abu = abuOf p.home pk) ∧
      t.me.att = popped s s.me.att := by
  obtain ⟨hready, hexit, hbad, -⟩ := att_of_atHead hhead
  obtain ⟨u, w, p, hview, hwork, hscans, hexec⟩ := atq_steps hready hbad hk hd hflt
  obtain ⟨hcur, hcyc, hatt, hexit', -⟩ := hwork.me
  obtain ⟨hpscans, hpcur, hpcyc, hpatt, hpexit⟩ := keepPost_kept w p
  rw [hcur] at hpscans hpcur hpcyc hpatt hpexit
  obtain ⟨-, -, htscans, htatt, -, -⟩ :=
    popJob_att (s := s) hpcur (hpcyc.trans hcyc) (hpexit.trans (hexit'.trans hexit)) (hpatt.trans hatt)
  refine ⟨_, postScans u s.cur u.nextReq d, hexec, ?_, postScans_slice .., fun y hy => ?_, ?_⟩
  · rw [(postWake_kept ..).1, htscans, hpscans, hscans]
  · obtain ⟨hpos, hacc, himg, habu⟩ := mem_postScans hy
    rw [hview.partOf] at habu
    exact ⟨hpos, hacc, himg, fun pk q hq => habu pk q ((hview.pageAt ..).trans hq)⟩
  · rw [(postWake_kept ..).2, htatt]

/-! ## ABU_REQUEST_ACCEPT (R179) -/

/-- The oldest scan of its die that waits for an ABU with a free place is accepted there. -/
theorem abuRequest_accepted {s : State} {x : Scan} (hx : s.scans.find? (fun y => y.id = s.cur) = some x) (hacc : x.acc = false)
    (hold : ∀ y ∈ s.scans, y.acc = false → y.abu = x.abu → dieOf y.pos = dieOf x.pos → x.id ≤ y.id)
    (hroom : (s.scans.filter fun y => y.acc && y.abu = x.abu && y.img.isNone).length < 64) :
    exec .abuRequestAccept s = .next { s with scans := (s.scans.filter fun y => y.id != x.id) ++ [{ x with acc := true }] } := by
  have hahead : (s.scans.any fun y => !y.acc && y.abu = x.abu && dieOf y.pos = dieOf x.pos && y.id < x.id) = false := by
    refine List.any_eq_false.2 fun y hy h => ?_
    simp only [Bool.and_eq_true, Bool.not_eq_true', decide_eq_true_eq] at h
    obtain ⟨⟨⟨hy', habu⟩, hdie⟩, hlt⟩ := h
    exact absurd (hold y hy hy' habu hdie) (by omega)
  rw [show exec .abuRequestAccept s = execAbuRequestAccept s from rfl, execAbuRequestAccept, hx]
  dsimp only
  rw [hacc, hahead, if_neg]
  simpa using hroom

/-! ## ABU_SLICE_SCAN (R177, R178, R180) -/

/-- A record begins with its slice's number (R176). -/
theorem recordBytes_take (slice m l tok stat errbg errrow : Nat) (acc : List Nat) :
    (recordBytes slice m l tok stat errbg errrow acc).take 4 = leBytes 4 slice := by
  simp only [recordBytes, List.append_assoc]
  exact List.take_left' (leBytes_length 4 slice)

/-- A scan whose turn it is makes its record, whatever it finds in the slice; memory stays. -/
theorem abuSlice_scanned {s : State} {x : Scan} {p : Post} (hx : s.scans.find? (fun y => y.id = s.cur) = some x)
    (hp : s.postOf x = some p) (hacc : x.acc = true) (himg : x.img = none)
    (hfirst : s.scans.find? (fun y => y.acc && y.abu = x.abu && y.img.isNone) = some x) (hwait : s.waiting x.after = false) :
    ∃ t bs, exec .abuSliceScan s = .next t ∧ bs.take 4 = leBytes 4 x.slice ∧ t.mem = s.mem ∧
      t.scans = s.scans.map fun y => if y.id = x.id then { y with img := some bs } else y := by
  have hgo : (!x.acc || x.img.isSome || (some x).map (·.id) != some x.id || s.waiting x.after) = false := by
    simp [hacc, himg, hwait]
  rw [show exec .abuSliceScan s = execAbuSliceScan s from rfl, execAbuSliceScan, hx]
  dsimp only
  rw [hp, hfirst]
  dsimp only
  rw [hgo, if_neg Bool.false_ne_true]
  split
  · exact ⟨_, _, rfl, recordBytes_take .., rfl, rfl⟩
  · exact ⟨_, _, rfl, recordBytes_take .., rfl, rfl⟩
  · exact ⟨_, _, rfl, recordBytes_take .., rfl, rfl⟩

/-! ## ABU_RECORD_LAND (R175, R176, R185) -/

/-- A record that has landed leaves the scans, with the last of its post as with another. -/
theorem abuRecord_landed {s : State} {x : Scan} {p : Post} {bs : List Byte} (hx : s.scans.find? (fun y => y.id = s.cur) = some x)
    (hp : s.postOf x = some p) (himg : x.img = some bs) :
    ∃ t, exec .abuRecordLand s = .next t ∧ t.scans = s.scans.filter fun y => y.id != x.id := by
  rw [show exec .abuRecordLand s = execAbuRecordLand s from rfl, execAbuRecordLand, hx]
  dsimp only
  rw [himg, hp]
  refine ⟨_, rfl, ?_⟩
  dsimp only
  split
  · exact (markerWake_scans ..).trans (noteRecv_scans ..)
  · exact noteRecv_scans ..

/-- Settles O17: the post's scans are those that it appends, and each unit's step takes its scan one place on. -/
theorem attentionPostAndScan : Obligations.AttentionPostAndScan := by
  unfold Obligations.AttentionPostAndScan
  refine ⟨fun s j cR cD cQ ea hhead hk => ?post, fun s x hx hacc hold hroom => abuRequest_accepted hx hacc hold hroom,
    fun s x p hx hp hacc himg hfirst hwait => abuSlice_scanned hx hp hacc himg hfirst hwait,
    fun s x p bs hx hp himg => abuRecord_landed hx hp himg⟩
  intro d hflt
  exact atq_posts hhead hk rfl hflt

end Sys2Proof.Machine
end

section
/-! SUPPORT. Merges, appends and descriptors (spec/08: R182, R184, R188-R191): a merge's outcome, an append's reservation, rows and
publication, a descriptor's write, and what the memory-side unit makes of a killed append. -/

namespace Sys2Proof.Machine

open Sys2Proof.Claims

/-! ## The merge (R182, R188) -/

/-- A fold whose steps add 1 to their count at the bad elements alone has counted these. -/
theorem foldl_snd_eq_countP {α β : Type} {f : β × Nat → α → β × Nat} {bad : α → Bool}
    (hf : ∀ x a, (f x a).2 = x.2 + if bad a then 1 else 0) (l : List α) (x : β × Nat) : (l.foldl f x).2 = x.2 + l.countP bad := by
  induction l generalizing x with
  | nil => rfl
  | cons a l ih =>
    rw [List.foldl_cons, ih, hf, List.countP_cons]
    omega

/-- How an ATM that has counted `err` records in error leaves o and ERRST (R188). -/
def Master.merged (m : Master) (err : Nat) : Master := if err = 0 then m.setO oRdy else (m.setO oErr).setErr errAbu

theorem merged_kept (m : Master) (err : Nat) : (m.merged err).att = m.att ∧ (m.merged err).exiting = m.exiting ∧
    (m.merged err).o = if err = 0 then 0x0 else 0x8 := by
  unfold Master.merged
  split <;> exact ⟨rfl, rfl, rfl⟩

/-- An ATM whose area is good writes its results, and o by whether a record carries an error. -/
theorem exec_atmExecute {s : State} {j : Job} {cR : Cap} {ea : W64} (hready : s.jobReady s.cur 3 = some j) (hbad : j.bad = false)
    (hk : j.k = .atm cR ea) {r : Rdr} (hr : r = s.jobRdr s.cur j) {k : Nat} (hkey : k = lsKey (coreOf s.cur) ea.toNat) {np dim : Nat}
    (hnp : np = s.rdNat r k 4) (hdim : dim = s.rdNat r (k + 12) 2) (hok : [64, 128, 192, 256].contains dim = true)
    (hbound : ea.toNat + (np + 1) * (64 + 4 * dim) ≤ cR.top) {u : State} (hu : u = s.noteUe r 3 ea k ((np + 1) * (64 + 4 * dim))) :
    ∃ w err, WorkFrame s.cur u w ∧ (err = 0 ↔ ∀ i < np, u.rdNat r (k + (64 + 4 * dim) + i * (64 + 4 * dim) + 16) 2 = 0) ∧
      exec .atmExecute s = .next ((w.updM s.cur fun m => m.merged err).popJob s.cur 3) := by
  rw [show exec .atmExecute s = execAtmExecute s from rfl, execAtmExecute, hready]
  simp only [hk, hbad, Bool.false_eq_true, if_false, ← hr, ← hkey, ← hnp, ← hdim, hok, Bool.not_true, hbound, decide_true, ← hu]
  refine ⟨_, _, (workFrame_putLs ..).trans (workFrame_putLs ..), ?_, rfl⟩
  rw [foldl_snd_eq_countP (bad := fun i => u.rdNat r (k + (64 + 4 * dim) + i * (64 + 4 * dim) + 16) 2 != 0), Nat.zero_add,
    List.countP_eq_zero]
  · simp only [List.mem_range, bne_iff_ne, ne_eq, not_not]
  · intro x i
    split
    · rfl
    · split <;> rfl

/-- Writes of the acting master alone, before its job ends. -/
theorem updM_popJob_att {s w : State} (hw : WorkFrame s.cur s w) (hexit : s.me.exiting = false) {f : Master → Master}
    (hatt : (f w.me).att = w.me.att) (hfexit : (f w.me).exiting = w.me.exiting) : let t := (w.updM s.cur f).popJob s.cur 3
    t.mem = w.mem ∧ t.me.att = popped s s.me.att ∧ SameFiles t.me (f w.me) ∧ t.me.o = (f w.me).o := by
  obtain ⟨hcur, hcyc, hwatt, hwexit, -⟩ := hw.me
  have hme : (w.updM s.cur f).me = f w.me := by
    rw [← hcur]
    exact me_upd w f
  obtain ⟨-, hmem, -, hpop, hfiles, ho⟩ := popJob_att (s := s) (u := w.updM s.cur f) hcur hcyc
    (by rw [hme, hfexit, hwexit, hexit]) (by rw [hme, hatt, hwatt])
  rw [hme] at hfiles ho
  exact ⟨hmem, hpop, hfiles, ho⟩

theorem atm_merged {s : State} {j : Job} {cR : Cap} {ea : W64} (hhead : AtHead s 3 j) (hk : j.k = .atm cR ea) {r : Rdr}
    (hr : r = s.jobRdr s.cur j) {k : Nat} (hkey : k = lsKey (coreOf s.cur) ea.toNat) {np dim : Nat} (hnp : np = s.rdNat r k 4)
    (hdim : dim = s.rdNat r (k + 12) 2) (hok : dim = 64 ∨ dim = 128 ∨ dim = 192 ∨ dim = 256)
    (hbound : ea.toNat + (np + 1) * (64 + 4 * dim) ≤ cR.top) : ∃ t, exec .atmExecute s = .next t ∧ t.me.att = popped s s.me.att ∧
      t.me.o = if ∀ i < np, s.rdNat r (k + (64 + 4 * dim) + i * (64 + 4 * dim) + 16) 2 = 0 then 0x0 else 0x8 := by
  obtain ⟨hready, hexit, hbad, -⟩ := att_of_atHead hhead
  have hlog := logsOnly_noteUe s r 3 ea k ((np + 1) * (64 + 4 * dim))
  obtain ⟨w, err, hwork, herr, hexec⟩ := exec_atmExecute hready hbad hk hr hkey hnp hdim (by simpa using hok) hbound rfl
  simp only [hlog.sameView.rdNat] at herr
  obtain ⟨hfatt, hfexit, hfo⟩ := merged_kept w.me err
  obtain ⟨-, hatt, -, ho⟩ := updM_popJob_att (f := fun m => m.merged err) ((hlog.workFrame s.cur).trans hwork) hexit hfatt hfexit
  refine ⟨_, hexec, hatt, ?_⟩
  simp only [← herr]
  exact ho.trans hfo

/-! ## Reservations (R189) -/

/-- What a KVAPP does with `n` tokens from `p` on, once its descriptor is checked. -/
def State.reserve (s : State) (pos : Nat) (j : Job) (sd key : Nat) (d : Desc) (p n : Nat) : State :=
  if n = 0 || p + n > d.nsl * d.cap then
    (s.updM pos fun m => m.ws (BitVec.ofNat 6 sd) (BitVec.allOnes 64)).popJob pos 3
  else match s.rowFlt pos d p n with
    | some f => s.jobFault pos 3 j f
    | none => (s.setMsWord (key + 4) (p + n)).setHead pos 3 { j with res := some p, kd := some d }

/-- A KVAPP without a reservation reads its descriptor whole, and with its checks passed goes on to reserve. -/
theorem exec_kvappExecute_reserve {s : State} {j : Job} {sd : Nat} {cD cS : Cap} {ea n : W64} (hready : s.jobReady s.cur 3 = some j)
    (hbad : j.bad = false) (hk : j.k = .kvapp sd cD ea cS n) (hres : j.res = none) {key : Nat}
    (hkey : key = (physKey s s.cur cD.space ea.toNat).getD 0) {d : Desc} (hd : d = s.readDesc (s.jobRdr s.cur j) key)
    {u : State} (hu : u = s.noteUe (s.jobRdr s.cur j) 3 ea key 64)
    (hflt : u.descFlt s.cur 3 d (u.illegalFlt s.cur j.pc) = none) (hbase : cS.base ≤ cS.cursor.toNat)
    (htop : cS.cursor.toNat + n.toNat * (d.krow + d.vrow) ≤ cS.top) :
    exec .kvappExecute s = .next (u.reserve s.cur j sd key d (u.msWord (key + 4)) n.toNat) := by
  rw [show exec .kvappExecute s = execKvappExecute s from rfl, execKvappExecute, hready]
  simp only [hk, hres, hbad, Bool.false_eq_true, if_false, ← hkey, ← hd, ← hu, hflt, hbase, htop, decide_true, Bool.and_self, if_true,
    State.reserve]
  rfl

theorem sameFiles_ws {m n : Master} (h : SameFiles m n) (r : SReg) (x : W64) : SameFiles (m.ws r x) (n.ws r x) := by
  obtain ⟨hs, hv, hm, hc, hq⟩ := h
  unfold Master.ws
  split
  · exact ⟨hs, hv, hm, hc, hq⟩
  · exact ⟨congrArg (Tab.set 0 · _ x) hs, hv, hm, hc, hq⟩

/-- The result of an append written to its register, before the job ends. -/
theorem ws_popJob_att {s w : State} (hw : WorkFrame s.cur s w) (hexit : s.me.exiting = false) (sd : SReg) (x : W64) :
    let t := (w.updM s.cur fun m => m.ws (BitVec.ofNat 6 sd.toNat) x).popJob s.cur 3
    t.mem = w.mem ∧ t.me.att = popped s s.me.att ∧ SameFiles t.me (s.me.ws sd x) := by
  have hws := filesOnly_ws w.me (BitVec.ofNat 6 sd.toNat) x
  obtain ⟨-, -, -, -, hfiles⟩ := hw.me
  obtain ⟨hmem, hatt, htfiles, -⟩ := updM_popJob_att hw hexit (f := fun m => m.ws (BitVec.ofNat 6 sd.toNat) x) (hws.queue 3) hws.exiting
  refine ⟨hmem, hatt, sameFiles_trans htfiles ?_⟩
  rw [BitVec.ofNat_toNat, BitVec.setWidth_eq]
  exact sameFiles_ws hfiles sd x

/-- The rows fault exactly if one of them lies in another die's halo tile (R205). -/
theorem rowFlt_eq_none_iff {s : State} {pos : Nat} {d : Desc} {p n : Nat} : s.rowFlt pos d p n = none ↔
    ∀ i < n, (s.haloForeign pos (d.keyRow (p + i)) d.krow || s.haloForeign pos (d.valRow (p + i)) d.vrow) = false := by
  simp only [State.rowFlt, List.findSome?_eq_none_iff, List.mem_flatMap, List.mem_range, List.mem_cons, List.not_mem_nil, or_false,
    Bool.or_eq_false_iff]
  constructor
  · intro h i hi
    have hk := h _ ⟨i, hi, .inl rfl⟩
    have hv := h _ ⟨i, hi, .inr rfl⟩
    exact ⟨by simpa using hk, by simpa using hv⟩
  · rintro h _ ⟨i, hi, rfl | rfl⟩
    · simp [(h i hi).1]
    · simp [(h i hi).2]

section Reserve
variable {s u : State} {j : Job} {sd : SReg} {key p n : Nat} {d : Desc}

/-- No tokens, or tokens past the capacity: all ones are written (R189). -/
theorem reserve_fails (hu : WorkFrame s.cur s u) (hexit : s.me.exiting = false) (h : n = 0 ∨ d.nsl * d.cap < p + n) :
    let t := u.reserve s.cur j sd.toNat key d p n
    t.mem = u.mem ∧ t.me.att = popped s s.me.att ∧ SameFiles t.me (s.me.ws sd (BitVec.allOnes 64)) := by
  rw [State.reserve, if_pos (by simpa using h)]
  exact ws_popJob_att hu hexit sd _

/-- A row in another die's halo tile freezes the task. -/
theorem reserve_freezes (hu : WorkFrame s.cur s u) (hn : n ≠ 0) (hcap : p + n ≤ d.nsl * d.cap) (hrow : u.rowFlt s.cur d p n ≠ none) :
    let t := u.reserve s.cur j sd.toNat key d p n
    t.mem = u.mem ∧ t.me.st = .frozen ∧ SameFiles t.me s.me := by
  obtain ⟨f, hf⟩ := Option.ne_none_iff_exists'.1 hrow
  obtain ⟨hcur, -, -, -, hfiles⟩ := hu.me
  obtain ⟨htcur, hmem, hst, htfiles⟩ := jobFault_freezes u s.cur 3 j f
  have hme : (u.jobFault s.cur 3 j f).me = (u.jobFault s.cur 3 j f).ms s.cur := congrArg _ (htcur.trans hcur)
  rw [State.reserve, if_neg (by simp; omega), hf]
  dsimp only
  rw [hme]
  refine ⟨hmem, hst, sameFiles_trans htfiles ?_⟩
  rw [← show u.me = u.ms s.cur from congrArg u.ms hcur]
  exact hfiles

/-- Other tokens are reserved at the descriptor's home, and the job keeps the descriptor. -/
theorem reserve_reserves (hu : WorkFrame s.cur s u) (hq : s.me.att = j :: s.me.att.tail) (hn : n ≠ 0) (hcap : p + n ≤ d.nsl * d.cap)
    (hrow : u.rowFlt s.cur d p n = none) : let t := u.reserve s.cur j sd.toNat key d p n
    t.mem = setCells u.mem (dataCells (key + 4) (leBytes 4 (p + n))) ∧
      t.me.att = { j with res := some p, kd := some d } :: s.me.att.tail := by
  rw [State.reserve, if_neg (by simp; omega), hrow]
  exact ⟨rfl, setHead_att (hu.trans (workFrame_setMsWord ..)) hq _⟩

end Reserve

/-! ## Rows (R189) -/

theorem SameBytes.trans {s u w : State} (h : SameBytes s u) (h' : SameBytes u w) : SameBytes s w := by
  obtain ⟨hmem, hbatches, hvers, hstale⟩ := h
  obtain ⟨hmem', hbatches', hvers', hstale'⟩ := h'
  exact ⟨hmem'.trans hmem, hbatches'.trans hbatches, hvers'.trans hvers, hstale'.trans hstale⟩

theorem LogsOnly.sameBytes {s u : State} (h : LogsOnly s u) : SameBytes s u := by
  obtain ⟨d, rfl, -⟩ := h
  exact ⟨rfl, rfl, rfl, rfl⟩

theorem sameBytes_doomBy (s : State) (pos : Nat) : SameBytes s (s.doomBy pos) := by
  unfold State.doomBy State.doom
  split
  · exact ⟨rfl, rfl, rfl, rfl⟩
  · exact ⟨updLaunch_mem .., updLaunch_batches .., updLaunch_vers .., updLaunch_stale ..⟩

/-- The errors of a copied row are logged, and nothing else of the state changes. -/
theorem copyRow_logs (s : State) (pos : Nat) (j : Job) (off dst len : Nat) :
    LogsOnly ((s.jobStore pos j (rowCells s (s.jobRdr pos j) (lsKey (coreOf pos) off) dst len)).touch pos dst)
      (s.copyRow pos j off dst len).1 :=
  foldl_related (R := LogsOnly) .refl .trans (fun _ _ => logsOnly_queuePacket ..) _ _

theorem workFrame_copyRow (s : State) (pos : Nat) (j : Job) (off dst len : Nat) : WorkFrame pos s (s.copyRow pos j off dst len).1 :=
  ((workFrame_jobStore ..).trans (workFrame_touch ..)).trans ((copyRow_logs ..).workFrame pos)

/-- A copied row is stored as its cells say, and is in error exactly if one of its blocks is. -/
theorem copyRow_row (s : State) (pos : Nat) (j : Job) (off dst len : Nat) :
    SameBytes (s.jobStore pos j (rowCells s (s.jobRdr pos j) (lsKey (coreOf pos) off) dst len)) (s.copyRow pos j off dst len).1 ∧
    ((s.copyRow pos j off dst len).2 = true ↔
      ∃ b < len / 64, s.rd8 (s.jobRdr pos j) (poisonKey (lsKey (coreOf pos) off + 64 * b)) ≠ 0) := by
  refine ⟨SameBytes.trans ⟨rfl, rfl, rfl, rfl⟩ (copyRow_logs s pos j off dst len).sameBytes, ?_⟩
  show (!((List.range (len / 64)).filter fun b =>
    s.rd8 (s.jobRdr pos j) (poisonKey (lsKey (coreOf pos) off + 64 * b)) != 0).isEmpty) = true ↔ _
  simp

/-- A KVAPP with a reservation stores the two rows of its next token, and an error in one dooms the launch. -/
theorem exec_kvappExecute_store {s : State} {j : Job} {sd : Nat} {cD cS : Cap} {ea n : W64} {p : Nat} {d : Desc}
    (hready : s.jobReady s.cur 3 = some j) (hk : j.k = .kvapp sd cD ea cS n) (hres : j.res = some p) (hkd : j.kd = some d)
    (hunit : j.unit < n.toNat)
    {u w : State × Bool}
    (hu : u = s.copyRow s.cur j (cS.cursor.toNat + j.unit * d.krow) (globKey (s.partOf s.cur) (d.keyRow (p + j.unit))) d.krow)
    (hw : w = u.1.copyRow s.cur j (cS.cursor.toNat + n.toNat * d.krow + j.unit * d.vrow)
      (globKey (s.partOf s.cur) (d.valRow (p + j.unit))) d.vrow) :
    ∃ ids, exec .kvappExecute s = .next ((if u.2 || w.2 then w.1.doomBy s.cur else w.1).setHead s.cur 3
      { j with unit := j.unit + 1, after := ids }) := by
  rw [show exec .kvappExecute s = execKvappExecute s from rfl, execKvappExecute, hready]
  simp only [hk, hres, hkd, ge_iff_le, Nat.not_le.2 hunit, if_false, Option.getD_some, ← hu, ← hw]
  exact ⟨_, rfl⟩

theorem kvapp_stores {s : State} {j : Job} {sd : Nat} {cD cS : Cap} {ea n : W64} {p : Nat} {d : Desc} (hhead : AtHead s 3 j)
    (hk : j.k = .kvapp sd cD ea cS n) (hres : j.res = some p) (hkd : j.kd = some d) (hunit : j.unit < n.toNat) {u w : State × Bool}
    (hu : u = s.copyRow s.cur j (cS.cursor.toNat + j.unit * d.krow) (globKey (s.partOf s.cur) (d.keyRow (p + j.unit))) d.krow)
    (hw : w = u.1.copyRow s.cur j (cS.cursor.toNat + n.toNat * d.krow + j.unit * d.vrow)
      (globKey (s.partOf s.cur) (d.valRow (p + j.unit))) d.vrow) :
    ∃ t ids, exec .kvappExecute s = .next t ∧ t.me.att = { j with unit := j.unit + 1, after := ids } :: s.me.att.tail ∧
      SameBytes w.1 t := by
  obtain ⟨hready, -, -, hq⟩ := att_of_atHead hhead
  obtain ⟨ids, hexec⟩ := exec_kvappExecute_store hready hk hres hkd hunit hu hw
  have hwork : WorkFrame s.cur s w.1 := hw ▸ WorkFrame.trans (hu ▸ workFrame_copyRow ..) (workFrame_copyRow ..)
  refine ⟨_, ids, hexec, setHead_att (hwork.trans ?_) hq _, ?_⟩
  · split
    · exact workFrame_doomBy ..
    · exact .refl ..
  · split
    · exact sameBytes_doomBy w.1 s.cur
    · exact ⟨rfl, rfl, rfl, rfl⟩

/-! ## Publication (R189) -/

/-- A KVAPP whose rows and earlier accesses are performed, and whose turn has come, adds to LEN and ends. -/
theorem exec_kvappPublish {s : State} {j : Job} {sd : Nat} {cD cS : Cap} {ea n : W64} {p : Nat} (hhead : s.headJob s.cur 3 = some j)
    (hk : j.k = .kvapp sd cD ea cS n) (hres : j.res = some p) (hheld : j.held = false) (hunit : n.toNat ≤ j.unit)
    (hwait : s.waiting j.after = false) {key : Nat} (hkey : key = (physKey s s.cur cD.space ea.toNat).getD 0) (hlen : s.msWord key = p) :
    exec .kvappPublish s = .next (((s.setMsWord key (p + n.toNat)).updM s.cur
      fun m => m.ws (BitVec.ofNat 6 sd) (BitVec.ofNat 64 p)).popJob s.cur 3) := by
  rw [show exec .kvappPublish s = execKvappPublish s from rfl, execKvappPublish, hhead]
  simp only [hk, hres, ← hkey, hheld, hwait, hlen, Nat.not_lt.2 hunit, decide_false, bne_self_eq_false, Bool.or_self, Bool.false_eq_true,
    if_false]

/-! ## KVDESC_EXECUTE (R184, R191) -/

/-- A KVDESC that has sent its write ends once that has been applied. -/
theorem exec_kvdescExecute_sent {s : State} {j : Job} {ea : W64} {cK : Cap} {par : BitVec 128} (hready : s.jobReady s.cur 3 = some j)
    (hbad : j.bad = false) (hk : j.k = .kvdesc ea cK par) (hunit : j.unit ≠ 0) (happ : s.applied s.cur = true) :
    exec .kvdescExecute s = .next (s.popJob s.cur 3) := by
  rw [show exec .kvdescExecute s = execKvdescExecute s from rfl, execKvdescExecute, hready]
  simp only [hk, hbad, hunit, happ, Bool.false_eq_true, if_false, if_true]

/-- Another sends it first. -/
theorem exec_kvdescExecute_send {s : State} {j : Job} {ea : W64} {cK : Cap} {par : BitVec 128} (hready : s.jobReady s.cur 3 = some j)
    (hbad : j.bad = false) (hk : j.k = .kvdesc ea cK par) (hunit : j.unit = 0) : ∃ cells key,
      let u := (s.jobStore s.cur j cells).touch s.cur key
      exec .kvdescExecute s = .next (if u.applied s.cur then u.popJob s.cur 3 else u.setHead s.cur 3 { j with unit := 1 }) := by
  rw [show exec .kvdescExecute s = execKvdescExecute s from rfl, execKvdescExecute, hready]
  simp only [hk, hbad, hunit, Bool.false_eq_true, if_false, if_true]
  exact ⟨_, _, rfl⟩

theorem kvdesc_steps {s : State} {j : Job} {ea : W64} {cK : Cap} {par : BitVec 128} (hhead : AtHead s 3 j) (hk : j.k = .kvdesc ea cK par)
    (happ : s.applied s.cur = true) : ∃ t, exec .kvdescExecute s = .next t ∧
      (j.unit ≠ 0 → t.me.att = popped s s.me.att ∧ t.mem = s.mem ∧ SameFiles t.me s.me) ∧
      (j.unit = 0 → t.me.att = popped s s.me.att ∨ t.me.att = { j with unit := 1 } :: s.me.att.tail) := by
  obtain ⟨hready, hexit, hbad, hq⟩ := att_of_atHead hhead
  by_cases hunit : j.unit = 0
  · obtain ⟨cells, key, hexec⟩ := exec_kvdescExecute_send hready hbad hk hunit
    have hwork := (workFrame_jobStore s.cur s j cells).trans (workFrame_touch s.cur _ key)
    refine ⟨_, hexec, fun h => absurd hunit h, fun _ => ?_⟩
    split
    · obtain ⟨hcur, hcyc, hatt, hexit', -⟩ := hwork.me
      exact .inl (popJob_att hcur hcyc (hexit'.trans hexit) hatt).2.2.2.1
    · exact .inr (setHead_att hwork hq _)
  · obtain ⟨-, hmem, -, hatt, hfiles, -⟩ := popJob_att (s := s) rfl rfl hexit rfl
    exact ⟨_, exec_kvdescExecute_sent hready hbad hk hunit happ, fun _ => ⟨hatt, hmem, hfiles⟩, fun h => absurd h hunit⟩

/-! ## KILLED_KVAPP_COMPLETE (R190) -/

/-- The poison marks of the rows that a killed append has not stored. -/
def poisonRows (x : Orphaned) : List Host.Cell :=
  (List.range (x.count - x.rows)).flatMap fun i =>
    (blocksOf (globKey x.part (x.d.keyRow (x.p + x.rows + i))) x.d.krow ++
      blocksOf (globKey x.part (x.d.valRow (x.p + x.rows + i))) x.d.vrow).map fun b => (poisonKey b, (1 : Byte))

/-- The unit poisons the rows not stored, logs the error at the descriptor's home and publishes the reservation in its turn. -/
theorem exec_killedKvappComplete {s : State} {x : Orphaned} {pk : Nat} {p : Page}
    (hx : s.orphaned.find? (fun y => y.id = s.cur) = some x) (hwait : s.waiting x.after = false) (hlen : s.msWord x.desc = x.p)
    (hpage : s.pageOfKey x.desc = some (pk, p)) : ∃ u : State, u = (({ s with mem := setCells s.mem (poisonRows x) } : State).logUeDie
        p.home x.lnch 2 (BitVec.ofNat 64 (x.desc / 64 * 64 % 2 ^ 64)) (BitVec.ofNat 64 (x.p * 2 ^ 32 + x.count))).setMsWord x.desc
          (x.p + x.count) ∧
      exec .killedKvappComplete s = .next { u with orphaned := u.orphaned.filter fun y => y.id != x.id } := by
  refine ⟨_, rfl, ?_⟩
  rw [show exec .killedKvappComplete s = execKilledKvappComplete s from rfl, execKilledKvappComplete, hx]
  simp only [hlen, hwait, hpage, Nat.lt_irrefl, decide_false, Bool.or_self, Bool.false_eq_true, if_false, if_true]
  rfl

theorem mem_poisonRows {x : Orphaned} {i b : Nat} (hlo : x.rows ≤ i) (hhi : i < x.count)
    (hb : b ∈ blocksOf (globKey x.part (x.d.keyRow (x.p + i))) x.d.krow ++ blocksOf (globKey x.part (x.d.valRow (x.p + i))) x.d.vrow) :
    (poisonKey b, (1 : Byte)) ∈ poisonRows x := by
  refine List.mem_flatMap.2 ⟨i - x.rows, List.mem_range.2 (by omega), List.mem_map.2 ⟨b, ?_, rfl⟩⟩
  rwa [show x.p + x.rows + (i - x.rows) = x.p + i by omega]

theorem poisonRows_value {x : Orphaned} {c : Host.Cell} (h : c ∈ poisonRows x) : c.2 = 1 := by
  obtain ⟨i, -, hc⟩ := List.mem_flatMap.1 h
  obtain ⟨b, -, rfl⟩ := List.mem_map.1 hc
  rfl

/-- A write of less than a block of bytes names no poison mark. -/
theorem dataCells_ne_poisonKey {k : Nat} {bs : List Byte} (hk : k < 2 ^ 72) (hn : bs.length < 64) {c : Host.Cell}
    (h : c ∈ dataCells k bs) (b : Nat) : c.1 ≠ poisonKey b := by
  have hpoison : 4 * 2 ^ 72 ≤ poisonKey b := Nat.le_add_right ..
  rcases List.mem_append.1 h with h | h
  · rcases List.mem_append.1 h with h | h
    · have := (bytesAt_key h).2
      omega
    · unfold tagClears at h
      split at h
      · simp at h
      · obtain ⟨i, hi, rfl⟩ := List.mem_map.1 h
        have := List.mem_range.1 hi
        dsimp only
        omega
  · obtain ⟨a, -, ha⟩ := List.mem_filterMap.1 h
    rw [if_neg (by simp; omega)] at ha
    simp at ha

/-- The bytes of a data write read back. -/
theorem get_setCells_dataCells (m : Tab Byte) {k : Nat} {bs : List Byte} (hk : k < 2 ^ 72) (hn : bs.length ≤ 2 ^ 72) {i : Nat}
    (hi : i < bs.length) : Tab.get 0 (setCells m (dataCells k bs)) (k + i) = bs.getD i 0 := by
  rw [dataCells, List.append_assoc, setCells_append, get_setCells_of_notMem, get_setCells_bytesAt _ _ _ _ hi, List.getD_eq_getElem _ _ hi]
  intro c hc
  have := (tagClears_poisonClears_cell hc).1
  omega

/-- The killed append's reservation is complete. -/
theorem killedKvapp_completed {s : State} {x : Orphaned} {pk : Nat} {p : Page}
    (hx : s.orphaned.find? (fun y => y.id = s.cur) = some x) (hwait : s.waiting x.after = false) (hlen : s.msWord x.desc = x.p)
    (hdesc : x.desc < 2 ^ 72) (hpage : s.pageOfKey x.desc = some (pk, p)) :
    ∃ t, exec .killedKvappComplete s = .next t ∧ (t.orphaned = s.orphaned.filter fun y => y.id != x.id) ∧
      (∀ i, x.rows ≤ i → i < x.count →
        ∀ b ∈ blocksOf (globKey x.part (x.d.keyRow (x.p + i))) x.d.krow ++ blocksOf (globKey x.part (x.d.valRow (x.p + i))) x.d.vrow,
          Tab.get 0 t.mem (poisonKey b) = 1) ∧
      (∀ i < 4, Tab.get 0 t.mem (x.desc + i) = (leBytes 4 (x.p + x.count)).getD i 0) ∧
      ∃ k, (t.die p.home).pkts = (s.die p.home).pkts ++ [k] ∧ k.type = 1 ∧ k.cause = 0x0B ∧
        k.d2 = BitVec.ofNat 64 (x.desc / 64 * 64 % 2 ^ 64) ∧ k.d3 = BitVec.ofNat 64 (x.p * 2 ^ 32 + x.count) := by
  obtain ⟨u, hu, hexec⟩ := exec_killedKvappComplete hx hwait hlen hpage
  have hmem : u.mem = setCells (setCells s.mem (poisonRows x)) (dataCells x.desc (leBytes 4 (x.p + x.count))) := by
    rw [hu]
    rfl
  have hlength := leBytes_length 4 (x.p + x.count)
  refine ⟨_, hexec, ?_, fun i hlo hhi b hb => ?_, fun i hi => ?_, ?_⟩
  · rw [hu]
    rfl
  · show Tab.get 0 u.mem _ = 1
    rw [hmem, get_setCells_of_notMem _ _ _ fun c hc => dataCells_ne_poisonKey hdesc (by omega) hc b]
    exact get_setCells_of_mem ⟨_, mem_poisonRows hlo hhi hb, rfl⟩ fun c hc _ => poisonRows_value hc
  · show Tab.get 0 u.mem _ = _
    rw [hmem]
    exact get_setCells_dataCells _ hdesc (by omega) (by omega)
  · rw [hu]
    exact ⟨_, congrArg Die.pkts (die_setDie_same ..), rfl, rfl, rfl, rfl⟩

/-- Settles O18: the job at the head ends, goes on or freezes as its step's result says; the unit completes what a kill has left. -/
theorem mergeAppendAndDescriptors : Obligations.MergeAppendAndDescriptors := by
  unfold Obligations.MergeAppendAndDescriptors
  refine ⟨⟨fun s j cR ea hhead hk => ?merge, fun s j sd cD cS ea n hhead hk hres => ?reserve,
    fun s j sd cD cS ea n p d hhead hk hres hkd hunit => ?store, fun s pos j off dst len => copyRow_row s pos j off dst len,
    fun s j sd cD cS ea n p _ hexit hhead hk hres hheld hunit hwait => ?publish⟩,
    fun s j ea cK par hhead hk happ => kvdesc_steps hhead hk happ,
    fun s x pk p hx hwait hlen hdesc hpage => killedKvapp_completed hx hwait hlen hdesc hpage⟩
  case merge =>
    intro r k np dim hok hbound
    exact atm_merged hhead hk rfl rfl rfl rfl hok hbound
  case reserve =>
    intro key d hflt hbase htop p foreign
    obtain ⟨hready, hexit, hbad, hq⟩ := att_of_atHead hhead
    have hlog := logsOnly_noteUe s (s.jobRdr s.cur j) 3 ea key 64
    have hview := hlog.sameView
    have hexec := exec_kvappExecute_reserve hready hbad hk hres rfl rfl rfl
      (by rw [hview.descFlt, hview.illegalFlt]; exact hflt) hbase htop
    rw [hview.msWord] at hexec
    have hmem := hlog.prepares.2.1
    have hzero : n.toNat = 0 ↔ n = 0 := (BitVec.toNat_inj (y := 0)).trans .rfl
    refine ⟨fun h => ?fails, fun hn hcap hrow => ?freezes, fun hn hcap hrow => ?reserves⟩
    case fails =>
      obtain ⟨htmem, hatt, hfiles⟩ := reserve_fails (j := j) (key := key) (hlog.workFrame s.cur) hexit (h.imp_left hzero.2)
      exact ⟨_, hexec, hatt, hfiles, htmem.trans hmem⟩
    case freezes =>
      obtain ⟨i, hi, hforeign⟩ := hrow
      obtain ⟨htmem, hst, hfiles⟩ := reserve_freezes (j := j) (sd := sd) (key := key) (hlog.workFrame s.cur)
        (fun h => hn (hzero.1 h)) hcap (fun h => by rw [hview.rowFlt] at h; exact absurd (hforeign.symm.trans (rowFlt_eq_none_iff.1 h i hi)) (by decide))
      exact ⟨_, hexec, hst, htmem.trans hmem, hfiles⟩
    case reserves =>
      obtain ⟨htmem, hatt⟩ := reserve_reserves (sd := sd) (key := key) (hlog.workFrame s.cur) hq (fun h => hn (hzero.1 h)) hcap
        ((hview.rowFlt ..).trans (rowFlt_eq_none_iff.2 hrow))
      exact ⟨_, hexec, hatt, htmem.trans (by rw [hmem])⟩
  case store =>
    intro src u w
    exact kvapp_stores hhead hk hres hkd hunit rfl rfl
  case publish =>
    intro key hlen
    obtain ⟨hmem, hatt, hfiles⟩ := ws_popJob_att (workFrame_setMsWord s.cur s key (p + n.toNat)) hexit sd (BitVec.ofNat 64 p)
    exact ⟨_, exec_kvappPublish hhead hk hres hheld hunit hwait rfl hlen, hatt, hfiles, hmem⟩

end Sys2Proof.Machine
end

section

/-!
# The canonical form of memory, step by step
What leaves the memory as it is, what keeps its canonical form (rising keys, nothing listed that reads 0), and from that O60: each
operation of the state once, each instruction and event once, then the step (SPEC.md's state; notes/assumptions/4).
-/

namespace Sys2Proof.Machine

/-! ## Operations that leave the memory as it is -/

theorem foldl_fst_mem {α β : Type} (f : State × β → α → State × β) (h : ∀ p a, (f p a).1.mem = p.1.mem) (l : List α) (p : State × β) :
    (l.foldl f p).1.mem = p.1.mem := by
  induction l generalizing p with
  | nil => rfl
  | cons a l ih => exact (ih _).trans (h _ _)

@[simp] theorem updM_mem (s : State) (pos : Nat) (f : Master → Master) : (s.updM pos f).mem = s.mem := rfl

@[simp] theorem upd_mem (s : State) (f : Master → Master) : (s.upd f).mem = s.mem := rfl

@[simp] theorem updCore_mem (s : State) (n : Nat) (f : Core → Core) : (s.updCore n f).mem = s.mem := rfl

@[simp] theorem updDie_mem (s : State) (d : Nat) (f : Die → Die) : (s.updDie d f).mem = s.mem := rfl

@[simp] theorem updPart_mem (s : State) (p : Nat) (f : Part → Part) : (s.updPart p f).mem = s.mem := rfl

@[simp] theorem setLaunch_mem (s : State) (slot : Nat) (l : Launch) : (s.setLaunch slot l).mem = s.mem := rfl

@[simp] theorem setHalos_mem (s : State) (party : Nat) (hs : List Halo) : (s.setHalos party hs).mem = s.mem := by
  unfold State.setHalos
  split <;> simp

@[simp] theorem collect_mem (s : State) (die line : Nat) : (s.collect die line).mem = s.mem := rfl

@[simp] theorem takeAll_mem (s : State) (core line : Nat) : (s.takeAll core line).mem = s.mem := rfl

@[simp] theorem takeOne_mem (s : State) (core line : Nat) : (s.takeOne core line).mem = s.mem := by
  unfold State.takeOne
  dsimp only
  (repeat' split) <;> simp

@[simp] theorem logUe_mem (s : State) (pos eng site : Nat) (d2 d3 : W64) : (s.logUe pos eng site d2 d3).mem = s.mem := rfl

@[simp] theorem logUeDie_mem (s : State) (die lnch site : Nat) (d2 d3 : W64) : (s.logUeDie die lnch site d2 d3).mem = s.mem := rfl

@[simp] theorem slotFreed_mem (s : State) (pool : Nat) : (s.slotFreed pool).mem = s.mem := by
  unfold State.slotFreed
  dsimp only
  (repeat' split) <;> simp

@[simp] theorem grantSlots_mem (s : State) : s.grantSlots.mem = s.mem := by simp [State.grantSlots, foldl_mem]

@[simp] theorem retire_mem (s : State) (pos : Nat) : (s.retire pos).mem = s.mem := rfl

@[simp] theorem retireIf_mem (s : State) (pos : Nat) : (s.retireIf pos).mem = s.mem := by
  unfold State.retireIf
  dsimp only
  (repeat' split) <;> simp

@[simp] theorem thaw_mem (s : State) (pos : Nat) : (s.thaw pos).mem = s.mem := by simp [State.thaw]

@[simp] theorem markerWake_keeps_mem (s : State) (pos : Nat) : (s.markerWake pos).mem = s.mem := by
  unfold State.markerWake; dsimp only; (repeat' split) <;> simp

@[simp] theorem reqEnd_mem (s : State) (r : Req) : (s.reqEnd r).mem = s.mem := by
  unfold State.reqEnd
  dsimp only
  rw [markerWake_keeps_mem]
  (repeat' split) <;> simp

@[simp] theorem exitTask_mem (s : State) : s.exitTask.mem = s.mem := by simp [State.exitTask]

@[simp] theorem orphaned1_mem (s : State) (np : Nat) : (s.orphaned1 np).mem = s.mem := by
  unfold State.orphaned1
  dsimp only
  (repeat' split) <;> simp

@[simp] theorem wakeHolds_mem (s : State) : s.wakeHolds.mem = s.mem := by
  unfold State.wakeHolds
  exact foldl_mem _ (fun _ _ => markerWake_keeps_mem ..) _ _

@[simp] theorem touch_mem (s : State) (pos k : Nat) : (s.touch pos k).mem = s.mem := rfl

@[simp] theorem touchUnit_mem (s : State) (pos k : Nat) : (s.touchUnit pos k).mem = s.mem := by
  unfold State.touchUnit
  split <;> simp

@[simp] theorem overflow_mem (s : State) (pos : Nat) : (s.overflow pos).mem = s.mem := by simp [State.overflow]

@[simp] theorem awaitWindow_mem (s : State) (key : Nat) : (s.awaitWindow key).mem = s.mem := rfl

@[simp] theorem wakeBusy_mem (s : State) (die : Nat) : (s.wakeBusy die).mem = s.mem := rfl

@[simp] theorem askLines_mem (s : State) (write : Bool) (lines : List Nat) : (s.askLines write lines).mem = s.mem := by
  unfold State.askLines
  exact foldl_mem _ (fun _ _ => by split <;> rfl) _ _

@[simp] theorem attempt_mem (s : State) (write : Bool) (all miss : List Nat) : (s.attempt write all miss).mem = s.mem := by
  unfold State.attempt
  dsimp only
  (repeat' split) <;> simp

@[simp] theorem transferBusy_mem (s : State) (h : Hd) (words : Nat) (write : Bool) (all miss : List Nat) (a : W64) :
    (s.transferBusy h words write all miss a).mem = s.mem := by simp [State.transferBusy]

@[simp] theorem linesUsed_mem (s : State) (ext : List (Nat × Nat)) : (s.linesUsed ext).mem = s.mem := by
  unfold State.linesUsed
  exact foldl_mem _ (fun _ _ => by dsimp only; split <;> rfl) _ _

@[simp] theorem unkeep_mem (s : State) (f : Nat → Nat → Bool) : (s.unkeep f).mem = s.mem := rfl

@[simp] theorem dropKept_mem (s : State) (sp : Nat) (ea : W64) (n : Nat) : (s.dropKept sp ea n).mem = s.mem := by
  unfold State.dropKept
  split <;> simp

@[simp] theorem dropKeptAll_mem (s : State) : s.dropKeptAll.mem = s.mem := rfl

@[simp] theorem dropOthers_mem (s : State) (i : Instr) (key : Nat) : (s.dropOthers i key).mem = s.mem := rfl

@[simp] theorem loaded_mem (s : State) (h : Hd) (words : Nat) (ws : List RegW) (flt : Option Flt) : (s.loaded h words ws flt).mem = s.mem := by
  unfold State.loaded
  dsimp only
  (repeat' split) <;> simp

@[simp] theorem reaches_mem (s : State) (ext : List (Nat × Nat)) : (s.reaches ext).mem = s.mem := rfl

@[simp] theorem lineLand_mem (s : State) (core line : Nat) (write : Bool) : (s.lineLand core line write).mem = s.mem := by
  unfold State.lineLand
  dsimp only
  (repeat' split) <;> simp

@[simp] theorem deliver_mem (s : State) (h : Hd) (words : Nat) (ext : List (Nat × Nat)) (ws : List RegW) (flt : Option Flt) (k : ReqK)
    (after : List Nat) :
    (s.deliver h words ext ws flt k after).mem = s.mem := by
  unfold State.deliver
  dsimp only
  (repeat' split) <;> simp [foldl_mem]

@[simp] theorem stored_mem (s : State) (h : Hd) (words : Nat) (r : Stored) : (s.stored h words r).mem = s.mem := by
  unfold State.stored
  split <;> simp

@[simp] theorem pushTile_mem (s : State) (pos req : Nat) (h : Halo) (i : Nat) (own : List Host.Cell) : (s.pushTile pos req h i own).mem = s.mem := by
  unfold State.pushTile
  dsimp only
  (repeat' split) <;> simp

@[simp] theorem relPush_mem (s : State) (cells : List Host.Cell) : (s.relPush cells).1.mem = s.mem := by
  unfold State.relPush
  exact foldl_fst_mem _ (fun _ _ => by dsimp only; split <;> simp) _ _

@[simp] theorem release_mem (s : State) (ord : BitVec 2) (scope : BitVec 3) (cells : List Host.Cell) : (s.release ord scope cells).1.mem = s.mem := by
  unfold State.release
  split <;> simp

@[simp] theorem noteUe_mem (s : State) (r : Rdr) (eng : Nat) (ea : W64) (key n : Nat) : (s.noteUe r eng ea key n).mem = s.mem := by
  unfold State.noteUe
  exact foldl_mem _ (fun _ _ => logUe_mem ..) _ _

@[simp] theorem loadRemote_mem (s : State) (i : Instr) (h : Hd) (c : Cap) (ea : W64) (key : Nat) (after : List Nat) :
    (s.loadRemote i h c ea key after).mem = s.mem := by
  unfold State.loadRemote
  dsimp only
  (repeat' split) <;> simp

@[simp] theorem useTurn15_mem (s : State) (core : Nat) : (s.useTurn15 core).mem = s.mem := rfl

@[simp] theorem wakeLine_mem (s : State) (core line : Nat) : (s.wakeLine core line).mem = s.mem := rfl

@[simp] theorem returned_mem (s : State) (r : Req) (ws : List RegW) (flt : Option Flt) (try' : Bool) : (s.returned r ws flt try').mem = s.mem := by
  unfold State.returned
  dsimp only
  (repeat' split) <;> simp

@[simp] theorem performLoad_mem (s : State) (r : Req) : (s.performLoad r).mem = s.mem := by
  unfold State.performLoad
  dsimp only
  (repeat' split) <;> simp

@[simp] theorem enqueue_mem (s : State) (e : Nat) (k : JobK) (rd wr : List Fp) : (s.enqueue e k rd wr).mem = s.mem := rfl

@[simp] theorem accept_mem (s : State) (h : Hd) (words e : Nat) (k : JobK) (rd wr : List Fp) : (s.accept h words e k rd wr).mem = s.mem := by
  unfold State.accept
  split <;> simp

@[simp] theorem setHead_mem (s : State) (pos e : Nat) (j : Job) : (s.setHead pos e j).mem = s.mem := by simp [State.setHead, mxeTook_mem]

@[simp] theorem engineWake_mem (s : State) (pos e : Nat) : (s.engineWake pos e).mem = s.mem := rfl

@[simp] theorem popJob_mem (s : State) (pos e : Nat) : (s.popJob pos e).mem = s.mem := by simp [State.popJob, mxeTook_mem]

@[simp] theorem jobFault_mem (s : State) (pos e : Nat) (j : Job) (f : Flt) : (s.jobFault pos e j f).mem = s.mem := by simp [State.jobFault]

@[simp] theorem jobUe_mem (s : State) (pos e : Nat) (j : Job) (block units : Nat) : (s.jobUe pos e j block units).mem = s.mem := by simp [State.jobUe]

@[simp] theorem plateBind_mem (s : State) (pos : Nat) (c : Cap) (ea len : Nat) : (s.plateBind pos c ea len).mem = s.mem := by
  unfold State.plateBind
  split
  · rfl
  · exact foldl_mem _ (fun _ _ => by dsimp only; (repeat' split) <;> simp) _ _

@[simp] theorem strike_mem (s : State) (part lslot va : Nat) : (s.strike part lslot va).mem = s.mem := by
  unfold State.strike
  split <;> simp

@[simp] theorem countBlocks_mem (s : State) (pos : Nat) (j : Job) (vas : List Nat) :
    (s.countBlocks pos j vas).1.mem = s.mem := by simp [State.countBlocks, foldl_mem]

@[simp] theorem setTile_mem (s : State) (core phys e : Nat) (x : W32) : (s.setTile core phys e x).mem = s.mem := rfl

@[simp] theorem setZtag_mem (s : State) (core phys : Nat) (int : Bool) : (s.setZtag core phys int).mem = s.mem := rfl

@[simp] theorem fillTile_mem (s : State) (core phys : Nat) (f : Nat → W32) : (s.fillTile core phys f).mem = s.mem := by
  unfold State.fillTile
  exact foldl_mem _ (fun _ _ => setTile_mem ..) _ _

@[simp] theorem kstep_mem (s : State) (pos : Nat) (j : Job) (z : Nat) (a b : Mop) (m n : Nat) : (s.kstep pos j z a b m n).mem = s.mem := by
  unfold State.kstep
  dsimp only
  split
  · exact jobFault_mem ..
  split
  · exact jobUe_mem ..
  split
  · exact jobFault_mem ..
  rw [setHead_mem, countBlocks_mem]
  refine foldl_mem _ (fun _ _ => foldl_mem _ (fun _ _ => ?_) _ _) _ _
  (repeat' split) <;> simp

@[simp] theorem settle_mem (s : State) : s.settle.mem = s.mem := by simp [State.settle]

@[simp] theorem sendUnit_mem (s : State) (ready : Bool) (key : Nat) (slot : Bool) (i : Instr) (opd : Opd) (c : Cap) (a b : W64) (v : W1024)
    (after : List Nat) :
    (s.sendUnit ready key slot i opd c a b v after).mem = s.mem := by
  unfold State.sendUnit
  split <;> simp

@[simp] theorem parkAt_mem (s : State) (h : Pl) (ea : W64) (key : Nat) (v : W32) : (s.parkAt h ea key v).mem = s.mem := by
  unfold State.parkAt
  dsimp only
  (repeat' split) <;> simp

@[simp] theorem wakeRing_mem (s : State) (k : Nat) (full : Bool) : (s.wakeRing k full).mem = s.mem := by simp [State.wakeRing]

@[simp] theorem noteRing_mem (s : State) (pos k : Nat) (put : Bool) : (s.noteRing pos k put).mem = s.mem := by
  unfold State.noteRing
  split <;> simp

@[simp] theorem unitUe_mem (s : State) (h : Hd) (words site : Nat) (block : W64) (returns : Bool) (zero : Master → Master) :
    (s.unitUe h words site block returns zero).mem = s.mem := by
  unfold State.unitUe
  split <;> simp

@[simp] theorem cbGet_mem (s : State) (h : Hd) (b : Nat) (obj : W64) (r : VReg) : (s.cbGet h b obj r).mem = s.mem := by
  unfold State.cbGet
  dsimp only
  (repeat' split) <;> simp

@[simp] theorem taken_mem (h : Hd) (s : State) : (taken h s).mem = s.mem := by simp [taken]

@[simp] theorem postWake_mem (s : State) (pos : Nat) (ea : W64) : (s.postWake pos ea).mem = s.mem := rfl

@[simp] theorem touchRows_mem (s : State) (sp ea rows len stride : Nat) : (s.touchRows sp ea rows len stride).mem = s.mem := by
  unfold State.touchRows
  exact foldl_fst_mem _ (fun _ _ => by (repeat' split) <;> simp) _ _

@[simp] theorem reportCopies_mem (s : State) (h : Hd) (words : Nat) : (s.reportCopies h words).mem = s.mem := by
  unfold State.reportCopies
  split <;> simp

@[simp] theorem setReplica_mem (s : State) (part die : Nat) (vas : List Nat) (on : Bool) : (s.setReplica part die vas on).mem = s.mem := rfl

@[simp] theorem setHalo_mem (s : State) (part : Nat) (h : Halo) (on : Bool) : (s.setHalo part h on).mem = s.mem := by
  unfold State.setHalo
  exact foldl_mem _ (fun _ _ => foldl_mem _ (fun _ _ => setReplica_mem ..) _ _) _ _

@[simp] theorem putBatch_mem (s : State) (b : Batch) : (s.putBatch b).mem = s.mem := by
  unfold State.putBatch
  split <;> simp

@[simp] theorem collectFor_mem (s : State) (b : Batch) (die : Nat) : (s.collectFor b die).mem = s.mem := by
  unfold State.collectFor
  split
  · exact foldl_mem _ (fun _ _ => collect_mem ..) _ _
  · split <;> simp

@[simp] theorem collectAt_mem (s : State) (b : Batch) : (s.collectAt b).mem = s.mem := by
  unfold State.collectAt
  split <;> simp

@[simp] theorem applyCopy_mem (s : State) (b : Batch) (die : Nat) : (s.applyCopy b die).mem = s.mem := by
  unfold State.applyCopy
  dsimp only
  (repeat' split) <;> simp

@[simp] theorem fillLine_mem (s : State) (core line : Nat) (write : Bool) : (s.fillLine core line write).mem = s.mem := by
  unfold State.fillLine
  dsimp only
  (repeat' split) <;> simp

@[simp] theorem wordWait_mem (s : State) (h : Hd) (o : BitVec 4) (c k : Nat) (obj : W64) :
    (s.wordWait h o c k obj).mem = s.mem := by simp [State.wordWait]

@[simp] theorem wakeBar_mem (s : State) (inst : Nat) : (s.wakeBar inst).mem = s.mem := rfl

@[simp] theorem sendBar_mem (s : State) (i : Instr) (inst : Nat) (a : W64) (mark : Bool) (after : List Nat) :
    (s.sendBar i inst a mark after).mem = s.mem := by simp [State.sendBar]

@[simp] theorem barClaim_mem (s : State) (x : BarA) (inst : Nat) (a : W64) : (s.barClaim x inst a).mem = s.mem := by
  unfold State.barClaim
  dsimp only
  (repeat' split) <;> simp

@[simp] theorem barArrive_mem (s : State) (inst : Nat) : (s.barArrive inst).1.mem = s.mem := rfl

@[simp] theorem dropBars_mem (s : State) (lslot : Nat) : (s.dropBars lslot).mem = s.mem := by
  unfold State.dropBars
  exact foldl_mem _ (fun _ _ => by dsimp only; split <;> simp) _ _

@[simp] theorem logAt_mem (s : State) (pos : Nat) (ea : W64) (k blk : Nat) : (s.logAt pos ea k blk).mem = s.mem := by
  unfold State.logAt
  split <;> simp

@[simp] theorem performs_mem (s : State) (r : Req) : (s.performs r).mem = s.mem := by
  unfold State.performs
  split <;> simp

@[simp] theorem newLaunch_mem (s : State) (part q : Nat) (x : BitVec 1024) (slot root : Nat) : (s.newLaunch part q x slot root).mem = s.mem := rfl

@[simp] theorem hostReads_mem (s : State) (part q : Nat) : (s.hostReads part q).mem = s.mem := by
  unfold State.hostReads
  split <;> simp

@[simp] theorem stalls_mem (s : State) : s.stalls.mem = s.mem := rfl

@[simp] theorem dropTiles_mem (s : State) (core z n : Nat) : (s.dropTiles core z n).mem = s.mem := rfl

@[simp] theorem grantTiles_mem (s : State) (core pos base n : Nat) : (s.grantTiles core pos base n).mem = s.mem := rfl

@[simp] theorem joinPool_mem (s : State) (lslot core : Nat) : (s.joinPool lslot core).mem = s.mem := by
  unfold State.joinPool
  dsimp only
  (repeat' split) <;> simp

@[simp] theorem sansLower_mem (s : State) (l : Launch) (core : Nat) : (s.sansLower l core).mem = s.mem := rfl

@[simp] theorem reportCycle_mem (s : State) (part : Nat) (c : List (List Nat)) : (s.reportCycle part c).mem = s.mem := by
  unfold State.reportCycle
  exact foldl_mem _ (fun _ _ => by dsimp only; split <;> simp) _ _

@[simp] theorem forget_mem (s : State) (lo n : Nat) : (s.forget lo n).mem = s.mem := rfl

@[simp] theorem scanPage_mem (s : State) (k : Nat) : (s.scanPage k).mem = s.mem := by
  unfold State.scanPage
  dsimp only
  (repeat' split) <;> simp

@[simp] theorem dropWords_mem (s : State) (pos va n : Nat) (scope : BitVec 3) : (s.dropWords pos va n scope).mem = s.mem := by
  unfold State.dropWords
  split <;> simp

@[simp] theorem markSegment_mem (s : State) (r : MapReq) (d : DescF) : (s.markSegment r d).mem = s.mem := rfl

@[simp] theorem translateHere_mem (s : State) (key : TransKey) : (s.translateHere key).mem = s.mem := by
  unfold State.translateHere
  split <;> simp

@[simp] theorem multicast_mem (s : State) (key : TransKey) : (s.multicast key).mem = s.mem := by
  unfold State.multicast
  split <;> simp

@[simp] theorem prnewAt_mem (s : State) (x : SS) (a : W64) : (s.prnewAt x a).mem = s.mem := by
  unfold State.prnewAt
  dsimp only
  (repeat' split) <;> simp

@[simp] theorem prsetAt_mem (s : State) (x : SH) (a : W64) : (s.prsetAt x a).mem = s.mem := by
  unfold State.prsetAt
  dsimp only
  (repeat' split) <;> simp

@[simp] theorem resolveAt_mem (s : State) (x : SH) (a : W64) (st' : Nat) : (s.resolveAt x a st').mem = s.mem := by
  unfold State.resolveAt
  dsimp only
  (repeat' split) <;> simp

@[simp] theorem openPlate_mem (s : State) (part id lo hi : Nat) : (s.openPlate part id lo hi).mem = s.mem := rfl

@[simp] theorem statement_mem (s : State) (kind id : Nat) (nonce : W64) (held : Bool) : (s.statement kind id nonce held).2.mem = s.mem := rfl

@[simp] theorem issue_mem (s : State) (kind id : Nat) (b : List Byte) : (s.issue kind id b).mem = s.mem := rfl

@[simp] theorem reportSaved_mem (s : State) (q : Report) (bs : List Byte) : (s.reportSaved q bs).mem = s.mem := by
  unfold State.reportSaved
  dsimp only
  (repeat' split) <;> simp

@[simp] theorem toCollector_mem (s : State) (ok : Bool) (i : Instr) (a b : W64) : (s.toCollector ok i a b).mem = s.mem := by
  unfold State.toCollector
  split <;> simp

@[simp] theorem leaveSlot_mem (s : State) (id pos key : Nat) : (s.leaveSlot id pos key).mem = s.mem := rfl

@[simp] theorem saveEdge_mem (s : State) (part : Nat) (p : Pre) : (s.saveEdge part p).mem = s.mem := by
  unfold State.saveEdge
  dsimp only [updPart_mem]
  exact foldl_mem _ (fun _ _ => by split <;> simp) _ _

@[simp] theorem orphanAppends_mem (s : State) (pos : Nat) (m : Master) : (s.orphanAppends pos m).mem = s.mem := by
  unfold State.orphanAppends
  exact foldl_mem _ (fun _ _ => by split <;> rfl) _ _

@[simp] theorem recheck_mem (s : State) (pos : Nat) : (s.recheck pos).mem = s.mem := by
  unfold State.recheck
  dsimp only
  (repeat' split) <;> simp

@[simp] theorem rewait_mem (s : State) (pos : Nat) : (s.rewait pos).mem = s.mem := by
  unfold State.rewait
  dsimp only
  (repeat' split) <;> simp [State.onBehalf]

@[simp] theorem dropVersions_mem (s : State) (id lslot : Nat) : (s.dropVersions id lslot).mem = s.mem := by simp [State.dropVersions]

@[simp] theorem retireProof_mem (s : State) (id : Nat) : (s.retireProof id).mem = s.mem := rfl

@[simp] theorem cancelEdge_mem (s : State) : s.cancelEdge.mem = s.mem := by
  unfold State.cancelEdge
  dsimp only
  (repeat' split) <;> simp [foldl_mem]

@[simp] theorem passProof_mem (s : State) (x : Nat) : (s.passProof x).mem = s.mem := by
  unfold State.passProof
  split <;> simp

@[simp] theorem passEdge_mem (s : State) : s.passEdge.mem = s.mem := by simp [State.passEdge, foldl_mem]

@[simp] theorem settlePlates_mem (s : State) (l : Launch) : (s.settlePlates l).mem = s.mem := by
  unfold State.settlePlates
  exact foldl_mem _ (fun _ _ => by dsimp only; split <;> simp) _ _

@[simp] theorem dropLaunch_mem (s : State) (slot : Nat) (l : Launch) : (s.dropLaunch slot l).mem = s.mem := by
  unfold State.dropLaunch
  dsimp only
  rw [foldl_mem _ (fun _ _ => setHalo_mem ..), dropBars_mem]
  exact foldl_mem _ (by simp) _ _

@[simp] theorem govern_mem (s : State) (slot : Nat) (l : Launch) : (s.govern slot l).mem = s.mem := by
  unfold State.govern
  dsimp only
  (repeat' split) <;> simp

@[simp] theorem governEdge_mem (s : State) : s.governEdge.mem = s.mem := by
  unfold State.governEdge
  exact foldl_mem _ (fun _ _ => by dsimp only; split <;> simp) _ _

@[simp] theorem reportEdge_mem (s : State) : s.reportEdge.mem = s.mem := by simp [State.reportEdge, foldl_mem]

@[simp] theorem checkpointEdge_mem (s : State) : s.checkpointEdge.mem = s.mem := by
  unfold State.checkpointEdge
  exact foldl_mem _ (fun _ _ => by dsimp only; split <;> simp) _ _

@[simp] theorem closeEdge_mem (s : State) : s.closeEdge.mem = s.mem := by
  unfold State.closeEdge
  exact foldl_mem _ (fun _ _ => by dsimp only; split <;> simp) _ _

@[simp] theorem scanDie_mem (s : State) (die : Nat) : (s.scanDie die).mem = s.mem := by simp [State.scanDie, foldl_mem]

@[simp] theorem ageIds_mem (s : State) : s.ageIds.mem = s.mem := rfl

@[simp] theorem serviceEdge_mem (s : State) : s.serviceEdge.mem = s.mem := rfl

@[simp] theorem resolveEnd_mem (s : State) : s.resolveEnd.mem = s.mem := by simp [State.resolveEnd, foldl_mem]

@[simp] theorem mapDie_mem (s : State) (part die : Nat) : (s.mapDie part die).mem = s.mem := by
  unfold State.mapDie
  dsimp only

@[simp] theorem startSvcs_mem (s : State) (die : Nat) : (s.startSvcs die).mem = s.mem := rfl

@[simp] theorem logStep_mem (s : State) (die step : Nat) : (s.logStep die step).mem = s.mem := rfl

@[simp] theorem dark_mem (s : State) (step : Nat) : (s.dark step).mem = s.mem := rfl

@[simp] theorem examine_mem (s : State) : s.examine.mem = s.mem := rfl

/-! ## Outcomes with a canonical memory -/

/-- The outcome's state, where there is one, has a canonical memory. -/
def Canonical : Out → Prop
  | .next t => Mem.wf t.mem = true
  | _ => True

@[simp] theorem canonical_next (t : State) : Canonical (.next t) ↔ Mem.wf t.mem = true := Iff.rfl

theorem next_canonical {t : State} (h : Mem.wf t.mem = true) : Canonical (.next t) := h

/-! ## Operations and instructions that keep the form, in the order of the model -/

theorem gate_canonical {s : State} {g : Grp} {nr : BitVec 2} {k : State → State} (hw : Mem.wf s.mem = true) (h : Mem.wf (k s).mem = true) :
    Canonical (s.gate g nr k) := by
  unfold State.gate
  rw [canonical_next]
  split
  · exact h
  · simpa using hw

theorem onBehalf_wf {s : State} {k : State → State} (pos : Nat) (hw : Mem.wf s.mem = true)
    (h : ∀ t : State, Mem.wf t.mem = true → Mem.wf (k t).mem = true) : Mem.wf (s.onBehalf pos k).mem = true :=
  h { s with cur := pos } hw

@[simp] theorem proofCheck_wf {s : State} {k : State → State} (hw : Mem.wf s.mem = true) (h : Mem.wf (k s).mem = true) :
    Mem.wf (s.proofCheck k).mem = true := by
  unfold State.proofCheck
  split
  · simpa using hw
  · exact h

theorem access_wf {s : State} {h : Hd} {words : Nat} {a : Acc} {k : State → Nat → State} (hw : Mem.wf s.mem = true)
    (hk : ∀ key, Mem.wf (k s key).mem = true) : Mem.wf (s.access h words a k).mem = true := by
  unfold State.access
  split
  · simpa using hw
  · refine proofCheck_wf hw ?_
    (repeat' split) <;> simp [hw, hk]

theorem accessHeld_wf {s : State} {h : Hd} {words : Nat} {a : Acc} {k : State → Nat → State} (hw : Mem.wf s.mem = true)
    (hk : ∀ key, Mem.wf (k s key).mem = true) : Mem.wf (s.accessHeld h words a k).mem = true :=
  access_wf hw fun _ => by split <;> simp [hw, hk]

/-- A fold over a state and an answer whose steps keep the form keeps it. -/

theorem foldl_fst_wf {α β : Type} (f : State × β → α → State × β) (h : ∀ p a, Mem.wf p.1.mem = true → Mem.wf (f p a).1.mem = true)
    (l : List α) (p : State × β) (hw : Mem.wf p.1.mem = true) : Mem.wf (l.foldl f p).1.mem = true := by
  induction l generalizing p with
  | nil => exact hw
  | cons a l ih => exact ih _ (h _ _ hw)

@[simp] theorem putStore_wf (s : State) (after : List Nat) (pieces : List (Nat × List Host.Cell)) (hw : Mem.wf s.mem = true) :
    Mem.wf (s.putStore after pieces).1.mem = true := by
  unfold State.putStore
  dsimp only
  rw [linesUsed_mem, apply_ite State.mem, ite_self]
  refine foldl_fst_wf _ (fun _ _ h => ?_) _ _ ?_
  · simpa using store_wf _ _ _ _ _ _ _ _ h
  · dsimp only
    split <;> simpa using hw

theorem load_canonical (g : Grp) (i : Instr) (h : Hd) (ord : BitVec 2) (mem : MemOp) (perms : List Nat) (len align : Nat) (block : Bool) (s : State)
    (hw : Mem.wf s.mem = true) : Canonical (load g i h ord mem perms len align block s) := by
  refine gate_canonical hw (access_wf hw fun _ => ?_)
  dsimp only
  (repeat' split) <;> simp [hw]

theorem execLdv_canonical (x : MemV) (s : State) (hw : Mem.wf s.mem = true) : Canonical (execLdv x s) := by
  unfold execLdv
  split <;> exact load_canonical _ _ _ _ _ _ _ _ _ _ hw

@[simp] theorem ctlPut_wf (s : State) (i : Instr) (key : Nat) (x y : W64) (v : W1024)
    (hw : Mem.wf s.mem = true) : Mem.wf (State.ctlPut s i key x y v).mem = true := by
  unfold State.ctlPut
  split <;> simp [hw, storeTag_wf, ctlStore_wf]

theorem storeI_canonical (g : Grp) (i : Instr) (h : Hd) (ord : BitVec 2) (scope : BitVec 3) (mem : MemOp) (perms : List Nat) (len align : Nat)
    (block : Bool) (mk : Master → W128) (ra : Master → W64) (rv : Master → W1024) (rc : Master → Cap) (s : State) (hw : Mem.wf s.mem = true) :
    Canonical (storeI g i h ord scope mem perms len align block mk ra rv rc s) := by
  refine gate_canonical hw (access_wf hw fun key => ?_)
  dsimp only
  split
  · simpa using hw
  split
  · simpa using hw
  split
  · split
    · simpa using hw
    · simpa using ctlPut_wf _ _ _ _ _ _ (by simpa using hw)
  · rw [stored_mem]
    exact putStore_wf _ _ _ (by simpa using hw)

theorem storeS_canonical (i : Instr) (n : Nat) (x : MemS) (s : State) (hw : Mem.wf s.mem = true) : Canonical (storeS i n x s) :=
  storeI_canonical _ _ _ _ _ _ _ _ _ _ _ _ _ _ _ hw

theorem gather_canonical {x : MemG} {write : Bool} {k : State → List (Nat × Nat) → State} {s : State} (hw : Mem.wf s.mem = true)
    (hk : ∀ (t : State) acts, Mem.wf t.mem = true → Mem.wf (k t acts).mem = true) : Canonical (gather x write k s) := by
  refine gate_canonical hw ?_
  dsimp only
  split
  · simpa using hw
  refine proofCheck_wf hw ?_
  split
  · simpa using hw
  split
  · simpa using hw
  split
  · simpa using hw
  split
  · simpa using hw
  split
  · simpa using hw
  · exact hk _ _ (by rwa [foldl_mem _ fun _ _ => dropKept_mem ..])

theorem execLdg_canonical (x : MemG) (s : State) (hw : Mem.wf s.mem = true) : Canonical (execLdg x s) :=
  gather_canonical hw fun _ _ ht => by simpa using ht

theorem execSts_canonical (x : MemG) (s : State) (hw : Mem.wf s.mem = true) : Canonical (execSts x s) := by
  refine gather_canonical hw fun t acts ht => ?_
  dsimp only
  rw [stored_mem]
  exact putStore_wf _ _ _ (foldl_wf _ (fun _ _ h => ctlStore_wf _ _ (by simpa using h)) _ _ ht)

theorem execPref_canonical (x : PrefA) (s : State) (hw : Mem.wf s.mem = true) : Canonical (execPref x s) := by
  refine gate_canonical hw ?_
  dsimp only
  split <;> simp [hw]

theorem execActiveMessageServe_canonical (s : State) (hw : Mem.wf s.mem = true) : Canonical (execActiveMessageServe s) := by
  refine next_canonical ?_
  (repeat' split) <;> simp [hw, wf_setCells]

@[simp] theorem jobPut_wf (s : State) (pos : Nat) (j : Job) (key : Nat) (cells : List Host.Cell)
    (hw : Mem.wf s.mem = true) : Mem.wf (State.jobPut s pos j key cells).mem = true := by
  unfold State.jobPut
  dsimp only
  (repeat' split) <;> simp [hw, store_wf]

@[simp] theorem jobStore_wf (s : State) (pos : Nat) (j : Job) (cells : List Host.Cell) (hw : Mem.wf s.mem = true) :
    Mem.wf (s.jobStore pos j cells).mem = true :=
  foldl_wf _ (fun _ _ h => jobPut_wf _ _ _ _ _ h) _ _ hw

theorem mxeAccept_wf {s : State} (h : Hd) (words : Nat) (k : JobK) (rd wr : List Fp) (bind : State → State) (hw : Mem.wf s.mem = true)
   (hb : Mem.wf (bind s).mem = true) : Mem.wf (s.mxeAccept h words k rd wr bind).mem = true := by
  unfold State.mxeAccept
  refine proofCheck_wf hw ?_
  (repeat' split) <;> simp [hw, hb]

@[simp] theorem mmaIssue_wf (s : State) (h : Hd) (words z : Nat) (ca cb : Cap) (ea eb : W64) (sa sb m n k : Nat) (ta tb : Bool)
    (mc : Option Nat) (q : Option Nat) (bgs : Bool) (hw : Mem.wf s.mem = true) :
    Mem.wf (s.mmaIssue h words z ca cb ea eb sa sb m n k ta tb mc q bgs).mem = true := by
  unfold State.mmaIssue
  dsimp only
  split
  · simpa using hw
  · exact mxeAccept_wf _ _ _ _ _ _ hw (by simpa using hw)

theorem tpCheck_wf (m : Master) (t : TP) (strides : List (Nat × Nat × Cap)) {k : State → State} {s : State} (hw : Mem.wf s.mem = true) (h :
    Mem.wf (k s).mem = true) :
    Mem.wf (tpCheck m t strides k s).mem = true := by
  unfold tpCheck
  (repeat' split) <;> simp [hw, h]

theorem execMma_canonical (x : Mma) (s : State) (hw : Mem.wf s.mem = true) : Canonical (execMma x s) := by
  refine gate_canonical hw ?_
  dsimp only
  split
  · simpa using hw
  · exact tpCheck_wf _ _ _ hw (mmaIssue_wf _ _ _ _ _ _ _ _ _ _ _ _ _ _ _ _ _ _ hw)

theorem execMmas_canonical (x : Mma) (s : State) (hw : Mem.wf s.mem = true) : Canonical (execMmas x s) := by
  refine gate_canonical hw ?_
  dsimp only
  split
  · simpa using hw
  refine tpCheck_wf _ _ _ hw ?_
  split
  · simpa using hw
  · exact mxeAccept_wf _ _ _ _ _ _ hw (by simpa using hw)

theorem execMmaBgs_canonical (x : MmaBgs) (s : State) (hw : Mem.wf s.mem = true) : Canonical (execMmaBgs x s) := by
  refine gate_canonical hw ?_
  dsimp only
  have hn : Mem.wf (s.noteUe (s.rdr s.cur 0) 0 0 (lsKey (coreOf s.cur) 0) 64).mem = true := by simpa using hw
  split
  · simpa using hw
  split
  · simpa using hw
  split
  · exact mxeAccept_wf _ _ _ _ _ _ hn hn
  · exact mmaIssue_wf _ _ _ _ _ _ _ _ _ _ _ _ _ _ _ _ _ _ hn

theorem execZzero_canonical (x : ZZeroA) (s : State) (hw : Mem.wf s.mem = true) : Canonical (execZzero x s) := by
  refine gate_canonical hw ?_
  split <;> simp [hw]

theorem execZcvt_canonical (x : ZCvtA) (s : State) (hw : Mem.wf s.mem = true) : Canonical (execZcvt x s) := by
  refine gate_canonical hw ?_
  split <;> simp [hw]

theorem tileMem_canonical (x : ZMem) (i : Instr) (write : Bool) (s : State) (hw : Mem.wf s.mem = true) : Canonical (tileMem x i write s) := by
  refine gate_canonical hw ?_
  dsimp only
  split
  · simpa using hw
  split
  · simpa using hw
  · exact mxeAccept_wf _ _ _ _ _ _ hw (by split <;> simpa using hw)

theorem execQset_canonical (x : QSetA) (s : State) (hw : Mem.wf s.mem = true) : Canonical (execQset x s) := by
  refine gate_canonical hw ?_
  dsimp only
  split
  · simp [hw]
  refine proofCheck_wf hw ?_
  (repeat' split) <;> simp [hw]

theorem execQpos_canonical (x : QPosA) (s : State) (hw : Mem.wf s.mem = true) : Canonical (execQpos x s) :=
  gate_canonical hw (by simp [hw])

theorem execMxeKstep_canonical (s : State) (hw : Mem.wf s.mem = true) : Canonical (execMxeKstep s) := by
  refine next_canonical ?_
  dsimp only
  (repeat' split) <;> simp [hw]

theorem execMmasSlice_canonical (s : State) (hw : Mem.wf s.mem = true) : Canonical (execMmasSlice s) := by
  refine next_canonical ?_
  dsimp only
  split
  · exact hw
  split
  · split
    · rwa [jobFault_mem]
    split
    · rwa [popJob_mem]
    split
    · rwa [jobUe_mem]
    rw [apply_ite State.mem, popJob_mem, ite_self, setHead_mem, countBlocks_mem,
      foldl_mem _ fun _ _ => foldl_mem _ (fun _ _ => by (repeat' split) <;> simp) _ _]
    exact hw
  · exact hw

theorem execMxeTileJob_canonical (s : State) (hw : Mem.wf s.mem = true) : Canonical (execMxeTileJob s) := by
  refine next_canonical ?_
  split
  · exact hw
  split
  · dsimp only
    generalize s.mxeBad s.cur _ _ _ = bad
    cases bad with
    | some f => rwa [jobFault_mem]
    | none =>
    dsimp only
    split
    · rwa [popJob_mem, setZtag_mem, fillTile_mem]
    · rwa [popJob_mem, setZtag_mem, fillTile_mem]
    · split
      · rwa [jobUe_mem]
      · rwa [popJob_mem, countBlocks_mem, fillTile_mem]
    · rw [popJob_mem]
      exact jobStore_wf _ _ _ _ hw
    · rwa [popJob_mem]
    · rwa [popJob_mem]
    · exact hw
  · exact hw

theorem execUnassignedOpcode_canonical (w : W32) (stage : Nat) (s : State)
    (hw : Mem.wf s.mem = true) : Canonical (execUnassignedOpcode w stage s) :=
  next_canonical (by simp [hw])

theorem execFetchFault_canonical (cause : Nat) (va : W64) (s : State)
    (hw : Mem.wf s.mem = true) : Canonical (execFetchFault cause va s) := by
  refine next_canonical ?_
  split <;> simp [hw]

theorem imm_canonical (s : State) (p : Bool) (words : Nat) (f : Master → Master)
    (hw : Mem.wf s.mem = true) : Canonical (State.imm s p words f) :=
  gate_canonical hw (by simp [hw])

theorem alu_canonical (f : W64 → W64 → W64) (x : Alu) (s : State) (hw : Mem.wf s.mem = true) : Canonical (alu f x s) := by
  refine next_canonical ?_
  split <;> simp [hw]

theorem divide_canonical (f : W64 → W64 → W64) (x : Alu) (s : State) (hw : Mem.wf s.mem = true) : Canonical (divide f x s) :=
  gate_canonical hw (by simp [hw])

theorem alu1_canonical (f : W64 → W64) (x : Alu1) (s : State) (hw : Mem.wf s.mem = true) : Canonical (alu1 f x s) := by
  refine next_canonical ?_
  split <;> simp [hw]

theorem execSel_canonical (x : Sel) (s : State) (hw : Mem.wf s.mem = true) : Canonical (execSel x s) := by
  refine next_canonical ?_
  split <;> simp [hw]

theorem execAddi_canonical (x : Addi) (s : State) (hw : Mem.wf s.mem = true) : Canonical (execAddi x s) := by
  refine next_canonical ?_
  split <;> simp [hw]

theorem execLi_canonical (x : Li) (s : State) (hw : Mem.wf s.mem = true) : Canonical (execLi x s) := by
  refine next_canonical ?_
  split <;> simp [hw]

theorem execBfx_canonical (x : Bf) (s : State) (hw : Mem.wf s.mem = true) : Canonical (execBfx x s) := by
  refine next_canonical ?_
  split <;> simp [hw]

theorem execBfi_canonical (x : Bf) (s : State) (hw : Mem.wf s.mem = true) : Canonical (execBfi x s) := by
  refine next_canonical ?_
  split <;> simp [hw]

theorem branch_canonical {n : Nat} (g : Grp) (p : Bool) (off : Off n) (taken : Master → Bool) (s : State)
    (hw : Mem.wf s.mem = true) : Canonical (branch g p off taken s) :=
  gate_canonical hw (by simp [hw])

theorem execCall_canonical (x : Br) (s : State) (hw : Mem.wf s.mem = true) : Canonical (execCall x s) :=
  gate_canonical hw (by simp [hw])

theorem jumpi_canonical (link : Bool) (x : Jmpi) (s : State) (hw : Mem.wf s.mem = true) : Canonical (jumpi link x s) := by
  refine gate_canonical hw ?_
  dsimp only
  (repeat' split) <;> simp [hw]

theorem execMfs_canonical (x : Mfs) (s : State) (hw : Mem.wf s.mem = true) : Canonical (execMfs x s) := by
  refine gate_canonical hw ?_
  split <;> simp [hw]

theorem execMts_canonical (x : Mfs) (s : State) (hw : Mem.wf s.mem = true) : Canonical (execMts x s) := by
  refine gate_canonical hw ?_
  split <;> simp [hw]

theorem execRdcyc_canonical (x : Rdcyc) (s : State) (hw : Mem.wf s.mem = true) : Canonical (execRdcyc x s) := by
  refine next_canonical ?_
  split <;> simp [hw]

theorem trap_canonical (cause : Nat) (skip : Bool) (x : Trap) (s : State) (hw : Mem.wf s.mem = true) : Canonical (trap cause skip x s) :=
  gate_canonical hw (by simp [hw])

theorem taskI_canonical (h : Pl) (f : Master → Master) (s : State) (hw : Mem.wf s.mem = true) : Canonical (taskI h f s) :=
  gate_canonical hw (by simp [hw])

theorem execEngst_canonical (x : S1) (s : State) (hw : Mem.wf s.mem = true) : Canonical (execEngst x s) := by
  refine next_canonical ?_
  split <;> simp [hw]

theorem reply_wf {s : State} {k : State → State} (r : Req) (hw : Mem.wf s.mem = true)
    (h : ∀ t : State, Mem.wf t.mem = true → Mem.wf (k t).mem = true) : Mem.wf (s.reply r k).mem = true := by
  have hw' : Mem.wf (s.reqEnd r).mem = true := by simpa using hw
  unfold State.reply
  dsimp only
  split
  · simpa using onBehalf_wf nowhere hw' h
  split
  · exact hw'
  have hk := onBehalf_wf (s := (s.reqEnd r).updM r.pos fun m => { (if m.st = .parked then m.unpark s.cyc else m) with await := false }) r.pos
    (by simpa using hw') h
  (repeat' split) <;> simpa using hk

theorem execPark_canonical (x : ParkA) (s : State) (hw : Mem.wf s.mem = true) : Canonical (execPark x s) := by
  refine gate_canonical hw (access_wf hw fun _ => ?_)
  dsimp only
  (repeat' split) <;> simp [hw]

theorem execParkReread_canonical (s : State) (hw : Mem.wf s.mem = true) : Canonical (execParkReread s) := by
  refine next_canonical ?_
  (repeat' split) <;> simp [hw]

theorem execPostedResultReturn_canonical (s : State) (hw : Mem.wf s.mem = true) : Canonical (execPostedResultReturn s) := by
  refine next_canonical ?_
  split
  · exact hw
  split
  · exact hw
  split
  · rwa [returned_mem]
  · rwa [returned_mem]
  · rwa [returned_mem]
  · exact reply_wf _ hw fun _ ht => proofCheck_wf ht (by rwa [parkAt_mem])
  · rwa [apply_ite State.mem, performLoad_mem, ite_self]

theorem execWaitlimExpiry_canonical (s : State) (hw : Mem.wf s.mem = true) : Canonical (execWaitlimExpiry s) := by
  refine next_canonical ?_
  dsimp only
  (repeat' split) <;> simp [hw]

theorem execRecordlessReissue_canonical (s : State) (hw : Mem.wf s.mem = true) : Canonical (execRecordlessReissue s) := by
  refine next_canonical ?_
  (repeat' split) <;> simp [hw]

theorem execDivideResultWrite_canonical (s : State) (hw : Mem.wf s.mem = true) : Canonical (execDivideResultWrite s) := by
  refine next_canonical ?_
  split <;> simp [hw]

@[simp] theorem qPut_wf (s : State) (pos k : Nat) (x : W64) (hw : Mem.wf s.mem = true) : Mem.wf (State.qPut s pos k x).mem = true := by
  unfold State.qPut
  (repeat' split) <;> simp [hw, wf_setCells]

@[simp] theorem qGet_wf (s : State) (pos k : Nat) (hw : Mem.wf s.mem = true) : Mem.wf (State.qGet s pos k).mem = true := by
  unfold State.qGet
  (repeat' split) <;> simp [hw, wf_setCells]

@[simp] theorem qEffect_wf (s : State) (op : QOp) (h : Hd) (words : Nat) (r : SReg) (x : W64) (k : Nat) (obj : W64)
    (hw : Mem.wf s.mem = true) : Mem.wf (State.qEffect s op h words r x k obj).mem = true := by
  unfold State.qEffect
  dsimp only
  (repeat' split) <;> simp [hw]

@[simp] theorem fifoIssue_wf (s : State) (i : Instr) (h : Hd) (c : Cap) (ea : W64) (perms : List Nat) (rel : Bool) (a b : W64) (v : W1024)
    (hw : Mem.wf s.mem = true) :
    Mem.wf (s.fifoIssue i h c ea perms rel a b v).mem = true := by
  unfold State.fifoIssue
  dsimp only
  split
  · simpa using hw
  refine proofCheck_wf hw ?_
  split
  · simpa using hw
  split
  · simpa using hw
  · rw [sendUnit_mem, apply_ite State.mem, touch_mem, ite_self]
    exact hw

theorem queueI_canonical (op : QOp) (i : Instr) (x : RMem) (s : State) (hw : Mem.wf s.mem = true) : Canonical (queueI op i x s) := by
  refine gate_canonical hw ?_
  dsimp only
  split
  · refine accessHeld_wf hw fun key => ?_
    split
    · simpa using hw
    split
    · simpa using hw
    split
    · simpa using hw
    split
    · simpa using hw
    · exact qEffect_wf _ _ _ _ _ _ _ _ hw
  · exact fifoIssue_wf _ _ _ _ _ _ _ _ _ _ hw

theorem execCbput_canonical (x : CbA) (s : State) (hw : Mem.wf s.mem = true) : Canonical (execCbput x s) :=
  gate_canonical hw (by simp [hw])

theorem execCbget_canonical (x : CbA) (s : State) (hw : Mem.wf s.mem = true) : Canonical (execCbget x s) :=
  gate_canonical hw (by simp [hw])

theorem execCbfree_canonical (x : CbfreeA) (s : State) (hw : Mem.wf s.mem = true) : Canonical (execCbfree x s) :=
  gate_canonical hw (by simp [hw])

@[simp] theorem cbPut_wf (s : State) (h : Hd) (b : Nat) (obj : W64) (v : W1024) (hw : Mem.wf s.mem = true) :
    Mem.wf (s.cbPut h b obj v).mem = true := by
  unfold State.cbPut
  dsimp only
  split
  · simpa using hw
  · rw [done_mem, noteRing_mem, wakeRing_mem, setBank_mem]
    exact foldl_wf _ (fun _ _ ht => unitWrite_wf _ _ _ ht) _ _ hw

@[simp] theorem wakeRings_mem (s : State) (k : Nat) (full : Bool) (n : Nat) : (s.wakeRings k full n).mem = s.mem := by
  induction n generalizing s with
  | zero => rfl
  | succ n ih => exact (ih _).trans (wakeRing_mem ..)

@[simp] theorem cbFree_mem (s : State) (h : Hd) (b : Nat) (r : SReg) (x : W64) : (s.cbFree h b r x).mem = s.mem := by
  simp [State.cbFree]

theorem execFifoPerform_canonical (s : State) (hw : Mem.wf s.mem = true) : Canonical (execFifoPerform s) := by
  have run : ∀ (r : Req) (b : Nat) (f : State → State) (flt : Flt), (∀ t : State, Mem.wf t.mem = true → Mem.wf (f t).mem = true) →
      Mem.wf (s.reply r fun s => s.proofCheck fun s => if (s.bank b).mode != 2 then s.fault flt else f s).mem = true := by
    intro r b f flt hf
    refine reply_wf r hw fun t ht => proofCheck_wf ht ?_
    split
    · simpa using ht
    · exact hf t ht
  refine next_canonical ?_
  dsimp only
  split
  · exact hw
  split
  · split
    · exact hw
    split
    · exact run _ _ _ _ fun t ht => qEffect_wf _ _ _ _ _ _ _ _ ht
    · exact run _ _ _ _ fun t ht => qEffect_wf _ _ _ _ _ _ _ _ ht
    · exact run _ _ _ _ fun t ht => qEffect_wf _ _ _ _ _ _ _ _ ht
    · exact run _ _ _ _ fun t ht => qEffect_wf _ _ _ _ _ _ _ _ ht
    · exact run _ _ _ _ fun t ht => cbPut_wf _ _ _ _ _ ht
    · exact run _ _ _ _ fun t ht => by rwa [cbGet_mem]
    · exact run _ _ _ _ fun t ht => by rwa [cbFree_mem]
    · exact run _ _ _ _ fun t ht => qEffect_wf _ _ _ _ _ _ _ _ ht
    · exact run _ _ _ _ fun t ht => qEffect_wf _ _ _ _ _ _ _ _ ht
    · exact hw
  · exact hw

theorem vxe_canonical (h : Hd) (i : Instr) (a b : Master → W64) (s : State) (hw : Mem.wf s.mem = true) : Canonical (vxe h i a b s) :=
  gate_canonical hw (by simp [hw])

theorem execVxeExecute_canonical (s : State) (hw : Mem.wf s.mem = true) : Canonical (execVxeExecute s) := by
  refine next_canonical ?_
  (repeat' split) <;> simp [hw]

theorem attAccept_wf {s : State} (h : Hd) (k : JobK) (rd wr : List Fp) (fin : State → State)
    (busy : State → Option (BitVec 4 × Park)) (hw : Mem.wf s.mem = true) (hf : ∀ t : State, Mem.wf t.mem = true → Mem.wf (fin t).mem = true) :
    Mem.wf (s.attAccept h k rd wr fin busy).mem = true := by
  unfold State.attAccept
  refine proofCheck_wf hw ?_
  split
  · simp [hw]
  split
  · simp [hw]
  · exact hf _ (by simpa using hw)

theorem execAtq_canonical (x : AtqA) (s : State) (hw : Mem.wf s.mem = true) : Canonical (execAtq x s) := by
  refine gate_canonical hw ?_
  dsimp only
  split
  · simp [hw]
  refine proofCheck_wf hw ?_
  (repeat' split) <;> simp [hw]

theorem execAtc_canonical (x : MemA) (s : State) (hw : Mem.wf s.mem = true) : Canonical (execAtc x s) := by
  refine gate_canonical hw ?_
  dsimp only
  split
  · simp [hw]
  refine proofCheck_wf hw ?_
  (repeat' split) <;> simp [hw]

theorem execAtm_canonical (x : MemA) (s : State) (hw : Mem.wf s.mem = true) : Canonical (execAtm x s) := by
  refine gate_canonical hw ?_
  dsimp only
  split
  · simp [hw]
  refine proofCheck_wf hw ?_
  (repeat' split) <;> simp [hw]

theorem execKvapp_canonical (x : KvappA) (s : State) (hw : Mem.wf s.mem = true) : Canonical (execKvapp x s) := by
  refine gate_canonical hw ?_
  dsimp only
  split
  · simp [hw]
  refine proofCheck_wf hw ?_
  (repeat' split) <;> simp [hw]

theorem execKvdesc_canonical (x : KvdescA) (s : State) (hw : Mem.wf s.mem = true) : Canonical (execKvdesc x s) := by
  refine gate_canonical hw ?_
  dsimp only
  split
  · simpa using hw
  split
  · simpa using hw
  split
  · simpa using hw
  · exact attAccept_wf _ _ _ _ _ _ (by rwa [noteUe_mem]) fun _ ht => by rwa [taken_mem, touch_mem]

theorem execAtqExecute_canonical (s : State) (hw : Mem.wf s.mem = true) : Canonical (execAtqExecute s) := by
  refine next_canonical ?_
  split
  · exact hw
  next j hready =>
  split
  · next cR cD cQ ea hk =>
    split
    · rw [jobFault_mem]; exact hw
    extract_lets pos r dk d u core qk qlen p s1 scans s2 s2' s3
    have hu : Mem.wf u.mem = true := by simpa [u] using hw
    split
    · rw [jobFault_mem]; exact hu
    have h1 : Mem.wf s1.mem = true := putBfd_wf _ _ _ _ _ (putLs_wf _ _ _ _ (by rw [noteUe_mem]; exact hu))
    have h2 : s2'.mem = s1.mem := foldl_mem _ (fun _ _ => noteSent_mem ..) _ _
    have h3 : s3.mem = s2'.mem := by dsimp only [s3]; split <;> rfl
    rw [postWake_mem, popJob_mem, h3, h2]
    exact h1
  · exact hw

theorem execAbuRequestAccept_canonical (s : State) (hw : Mem.wf s.mem = true) : Canonical (execAbuRequestAccept s) := by
  refine next_canonical ?_
  dsimp only
  (repeat' split) <;> simp [hw]

theorem execAbuSliceScan_canonical (s : State) (hw : Mem.wf s.mem = true) : Canonical (execAbuSliceScan s) := by
  refine next_canonical ?_
  dsimp only
  (repeat' split) <;> simp [hw]

theorem execAbuRecordLand_canonical (s : State) (hw : Mem.wf s.mem = true) : Canonical (execAbuRecordLand s) := by
  refine next_canonical ?_
  dsimp only
  split
  · exact hw
  split
  · split
    · simpa using putLs_wf _ _ _ _ (putBfd_wf _ _ _ _ _ (putBfd_wf _ _ _ _ _ (putLs_wf _ _ _ _ hw)))
    · simpa using putLs_wf _ _ _ _ (putBfd_wf _ _ _ _ _ (putBfd_wf _ _ _ _ _ (putLs_wf _ _ _ _ hw)))
  · exact hw

theorem execAtmExecute_canonical (s : State) (hw : Mem.wf s.mem = true) : Canonical (execAtmExecute s) := by
  refine next_canonical ?_
  dsimp only
  (repeat' split) <;> simp [hw, putLs_wf]

@[simp] theorem copyRow_wf (s : State) (pos : Nat) (j : Job) (off dst len : Nat) (hw : Mem.wf s.mem = true) :
    Mem.wf (s.copyRow pos j off dst len).1.mem = true := by
  unfold State.copyRow
  dsimp only
  rw [foldl_mem _ fun _ _ => logUe_mem .., touch_mem]
  exact jobStore_wf _ _ _ _ hw

theorem execKvappExecute_canonical (s : State) (hw : Mem.wf s.mem = true) : Canonical (execKvappExecute s) := by
  refine next_canonical ?_
  dsimp only
  (repeat' split) <;> simp [hw, setMsWord_wf]

theorem execKvappPublish_canonical (s : State) (hw : Mem.wf s.mem = true) : Canonical (execKvappPublish s) := by
  refine next_canonical ?_
  dsimp only
  (repeat' split) <;> simp [hw, setMsWord_wf]

theorem execKilledKvappComplete_canonical (s : State) (hw : Mem.wf s.mem = true) : Canonical (execKilledKvappComplete s) := by
  refine next_canonical ?_
  dsimp only
  (repeat' split) <;> simp [hw, wf_setCells, setMsWord_wf]

theorem execKvdescExecute_canonical (s : State) (hw : Mem.wf s.mem = true) : Canonical (execKvdescExecute s) := by
  unfold execKvdescExecute
  split
  · exact hw
  split
  · extract_lets pos key bytes cells s1
    clear_value cells key
    have h1 : Mem.wf s1.mem = true := by
      rw [touch_mem]
      exact jobStore_wf _ _ _ _ hw
    clear_value s1
    split
    · rwa [canonical_next, jobFault_mem]
    split
    · split
      · rwa [canonical_next, popJob_mem]
      · rwa [canonical_next, setHead_mem]
    · rwa [canonical_next, apply_ite State.mem, popJob_mem, ite_self]
  · exact hw

theorem capI_canonical (p : Bool) (words : Nat) (f : Master → Flt ⊕ Master) (s : State)
    (hw : Mem.wf s.mem = true) : Canonical (capI p words f s) := by
  refine gate_canonical hw ?_
  split <;> simp [hw]

theorem execCsetb_canonical (x : CsetbA) (s : State) (hw : Mem.wf s.mem = true) : Canonical (execCsetb x s) := by
  refine next_canonical ?_
  dsimp only
  (repeat' split) <;> simp [hw]

theorem execCadd_canonical (x : CaddA) (s : State) (hw : Mem.wf s.mem = true) : Canonical (execCadd x s) := by
  refine next_canonical ?_
  dsimp only
  (repeat' split) <;> simp [hw]

theorem execCrestr_canonical (x : CrestrA) (s : State) (hw : Mem.wf s.mem = true) : Canonical (execCrestr x s) := by
  refine next_canonical ?_
  dsimp only
  (repeat' split) <;> simp [hw]

theorem execCsub_canonical (x : CsubA) (s : State) (hw : Mem.wf s.mem = true) : Canonical (execCsub x s) := by
  refine next_canonical ?_
  split <;> simp [hw]

theorem sealI_canonical (x : CsealA) (perm : Nat) (from' to' : Nat → Nat) (s : State)
    (hw : Mem.wf s.mem = true) : Canonical (sealI x perm from' to' s) := by
  refine next_canonical ?_
  dsimp only
  (repeat' split) <;> simp [hw]

theorem execCgetb_canonical (x : CgetA) (s : State) (hw : Mem.wf s.mem = true) : Canonical (execCgetb x s) := by
  refine next_canonical ?_
  split <;> simp [hw]

theorem execCgetl_canonical (x : CgetA) (s : State) (hw : Mem.wf s.mem = true) : Canonical (execCgetl x s) := by
  refine next_canonical ?_
  split <;> simp [hw]

theorem execCgetp_canonical (x : CgetA) (s : State) (hw : Mem.wf s.mem = true) : Canonical (execCgetp x s) := by
  refine next_canonical ?_
  split <;> simp [hw]

theorem execCtag_canonical (x : CgetA) (s : State) (hw : Mem.wf s.mem = true) : Canonical (execCtag x s) := by
  refine next_canonical ?_
  split <;> simp [hw]

theorem execCclr_canonical (x : CmovA) (s : State) (hw : Mem.wf s.mem = true) : Canonical (execCclr x s) := by
  refine next_canonical ?_
  split <;> simp [hw]

theorem execCmov_canonical (x : CmovA) (s : State) (hw : Mem.wf s.mem = true) : Canonical (execCmov x s) := by
  refine next_canonical ?_
  split <;> simp [hw]

@[simp] theorem copyIssue_wf (x : CpyA) (rows len drs srs align : Nat) (big : Bool) (s : State) (hw : Mem.wf s.mem = true) :
    Mem.wf (copyIssue x rows len drs srs align big s).mem = true := by
  unfold copyIssue
  dsimp only
  split
  · simpa using hw
  refine proofCheck_wf hw ?_
  split
  · simpa using hw
  split <;> simpa using hw

theorem execCpy_canonical (x : CpyA) (s : State) (hw : Mem.wf s.mem = true) : Canonical (execCpy x s) :=
  gate_canonical hw (by simp [hw])

theorem execCpyt_canonical (x : CpyA) (s : State) (hw : Mem.wf s.mem = true) : Canonical (execCpyt x s) :=
  gate_canonical hw (by simp [hw])

theorem execCpeChunk_canonical (s : State) (hw : Mem.wf s.mem = true) : Canonical (execCpeChunk s) := by
  refine next_canonical ?_
  dsimp only
  (repeat' split) <;> simp [hw]

theorem execCpyw_canonical (x : SS) (s : State) (hw : Mem.wf s.mem = true) : Canonical (execCpyw x s) := by
  refine gate_canonical hw ?_
  dsimp only
  split <;> simp [hw]

theorem execAmsg_canonical (x : AmsgA) (s : State) (hw : Mem.wf s.mem = true) : Canonical (execAmsg x s) := by
  refine gate_canonical hw ?_
  dsimp only
  split
  · simp [hw]
  refine proofCheck_wf hw ?_
  (repeat' split) <;> simp [hw]

theorem execHandlerStart_canonical (s : State) (hw : Mem.wf s.mem = true) : Canonical (execHandlerStart s) := by
  refine next_canonical ?_
  dsimp only
  (repeat' split) <;> simp [hw]

theorem execHret_canonical (x : S1) (s : State) (hw : Mem.wf s.mem = true) : Canonical (execHret x s) :=
  gate_canonical hw (by simp [hw])

theorem execAmsgReply_canonical (s : State) (hw : Mem.wf s.mem = true) : Canonical (execAmsgReply s) := by
  refine next_canonical ?_
  dsimp only
  (repeat' split) <;> simp [hw]

theorem execBankmode_canonical (x : BankA) (s : State) (hw : Mem.wf s.mem = true) : Canonical (execBankmode x s) := by
  refine gate_canonical hw ?_
  dsimp only
  (repeat' split) <;> simp [hw]

theorem execBankSwitchComplete_canonical (s : State) (hw : Mem.wf s.mem = true) : Canonical (execBankSwitchComplete s) := by
  refine next_canonical ?_
  dsimp only
  split
  · exact hw
  split
  · exact hw
  refine foldl_wf _ (fun t _ ht => ?_) _ _ ?_
  · split
    · simpa using ht
    · exact ht
  · rw [wakeAll_mem]
    split
    · exact hw
    · exact clearBank_wf _ _ hw

theorem execHalo_canonical (x : HaloA) (s : State) (hw : Mem.wf s.mem = true) : Canonical (execHalo x s) := by
  refine gate_canonical hw ?_
  dsimp only
  (repeat' split) <;> simp [hw]

theorem execHaloComplete_canonical (s : State) (hw : Mem.wf s.mem = true) : Canonical (execHaloComplete s) := by
  refine next_canonical ?_
  dsimp only
  (repeat' split) <;> simp [hw]

theorem execHalopush_canonical (x : MemA) (s : State) (hw : Mem.wf s.mem = true) : Canonical (execHalopush x s) := by
  refine gate_canonical hw ?_
  dsimp only
  split
  · simp [hw]
  refine proofCheck_wf hw ?_
  (repeat' split) <;> simp [hw]

theorem execHaloPushApply_canonical (s : State) (hw : Mem.wf s.mem = true) : Canonical (execHaloPushApply s) := by
  refine next_canonical ?_
  dsimp only
  (repeat' split) <;> simp [hw]

@[simp] theorem applyBatch_wf (s : State) (b : Batch) (hw : Mem.wf s.mem = true) : Mem.wf (State.applyBatch s b).mem = true := by
  unfold State.applyBatch
  dsimp only
  (repeat' split) <;> simp [hw, wf_setCells, applyHome_wf]

theorem execWriteBatchApply_canonical (s : State) (hw : Mem.wf s.mem = true) : Canonical (execWriteBatchApply s) := by
  refine next_canonical ?_
  (repeat' split) <;> simp [hw]

theorem execWritebackApply_canonical (s : State) (hw : Mem.wf s.mem = true) : Canonical (execWritebackApply s) := by
  refine next_canonical ?_
  (repeat' split) <;> simp [hw]

theorem execLineFill_canonical (s : State) (hw : Mem.wf s.mem = true) : Canonical (execLineFill s) := by
  refine next_canonical ?_
  dsimp only
  split
  · exact hw
  · rwa [foldl_mem _ fun _ _ => fillLine_mem ..]

theorem execPersistentTokenRelease_canonical (s : State) (hw : Mem.wf s.mem = true) : Canonical (execPersistentTokenRelease s) := by
  refine next_canonical ?_
  dsimp only
  (repeat' split) <;> simp [hw]

theorem execHomeCountWindow_canonical (s : State) (hw : Mem.wf s.mem = true) : Canonical (execHomeCountWindow s) := by
  refine next_canonical ?_
  dsimp only
  (repeat' split) <;> simp [hw]

theorem execHomeMove_canonical (part page die : Nat) (s : State) (hw : Mem.wf s.mem = true) : Canonical (execHomeMove part page die s) := by
  refine next_canonical ?_
  dsimp only
  (repeat' split) <;> simp [hw]

theorem execRequestForward_canonical (die part page : Nat) (s : State)
    (hw : Mem.wf s.mem = true) : Canonical (execRequestForward die part page s) := by
  refine next_canonical ?_
  dsimp only
  (repeat' split) <;> simp [hw]

theorem execHltMissFill_canonical (die part page : Nat) (s : State)
    (hw : Mem.wf s.mem = true) : Canonical (execHltMissFill die part page s) := by
  refine next_canonical ?_
  dsimp only
  (repeat' split) <;> simp [hw]

theorem execPageTierMigrate_canonical (s : State) (hw : Mem.wf s.mem = true) : Canonical (execPageTierMigrate s) := by
  refine next_canonical ?_
  dsimp only
  (repeat' split) <;> simp [hw]

@[simp] theorem wordEffect_wf (s : State) (i : Instr) (k : Nat) (a b : W64) (obj : W64)
    (hw : Mem.wf s.mem = true) : Mem.wf (State.wordEffect s i k a b obj).mem = true := by
  unfold State.wordEffect
  dsimp only
  (repeat' split) <;> simp [hw, wf_setCells, setFe_wf]

theorem wordI_canonical (g : Grp) (i : Instr) (h : Hd) (ord : BitVec 2) (scope : BitVec 3) (mem : MemOp) (write touch excl : Bool)
    (ra rb : Master → W64) (s : State)
    (hw : Mem.wf s.mem = true) : Canonical (wordI g i h ord scope mem write touch excl ra rb s) := by
  refine gate_canonical hw (access_wf hw fun _ => ?_)
  dsimp only
  (repeat' split) <;> simp [hw]

theorem execBarc_canonical (x : BarA) (s : State) (hw : Mem.wf s.mem = true) : Canonical (execBarc x s) := by
  refine gate_canonical hw ?_
  split <;> simp [hw]

theorem execBara_canonical (x : BarA) (s : State) (hw : Mem.wf s.mem = true) : Canonical (execBara x s) := by
  refine gate_canonical hw ?_
  dsimp only
  (repeat' split) <;> simp [hw]

theorem execBart_canonical (x : BarA) (s : State) (hw : Mem.wf s.mem = true) : Canonical (execBart x s) := by
  refine gate_canonical hw ?_
  dsimp only
  (repeat' split) <;> simp [hw]

theorem execBarrierGenAdvance_canonical (s : State) (hw : Mem.wf s.mem = true) : Canonical (execBarrierGenAdvance s) := by
  refine next_canonical ?_
  dsimp only
  (repeat' split) <;> simp [hw]

@[simp] theorem amoStep_wf (s : State) (i : Instr) (n k : Nat) (a b : W64)
    (hw : Mem.wf s.mem = true) : Mem.wf (State.amoStep s i n k a b).1.mem = true := by
  unfold State.amoStep
  dsimp only
  (repeat' split) <;> simp [hw, wf_setCells]

@[simp] theorem amoAt_wf (s : State) (pos : Nat) (i : Instr) (sd : SReg) (n : Nat) (ea : W64) (k : Nat) (a b : W64)
    (hw : Mem.wf s.mem = true) : Mem.wf (State.amoAt s pos i sd n ea k a b).1.mem = true := by
  unfold State.amoAt
  split <;> simp [hw]

theorem amoIssue_wf {s : State} (h : Hd) (mem : MemOp) (perms : List Nat) (n : Nat) {k : State → Nat → Opd → State} (hw : Mem.wf s.mem = true)
   (hk : ∀ key o, Mem.wf (k s key o).mem = true) : Mem.wf (s.amoIssue h mem perms n k).mem = true := by
  unfold State.amoIssue
  dsimp only
  split
  · simpa using hw
  refine proofCheck_wf hw ?_
  (repeat' split) <;> simp [hw, hk]

theorem amoI_canonical (i : Instr) (x : AmoA) (s : State) (hw : Mem.wf s.mem = true) : Canonical (amoI i x s) := by
  refine gate_canonical hw (amoIssue_wf _ _ _ _ hw fun key o => ?_)
  have hat := amoAt_wf (s.dropKept o.sp o.ea (amoBytes x.et)) s.cur i x.sd (amoBytes x.et) o.ea key (s.me.rs x.sd) (s.me.rs x.sb)
    (by simpa using hw)
  dsimp only
  by_cases hacq : ordAcq x.ord = true
  · (repeat' split) <;> simpa using ‹_›
  · (repeat' split) <;> simpa using ‹_›

theorem execAmoPerform_canonical (s : State) (hw : Mem.wf s.mem = true) : Canonical (execAmoPerform s) := by
  refine next_canonical ?_
  dsimp only
  (repeat' split) <;> simp [hw]

@[simp] theorem redAt_wf (s : State) (pos : Nat) (i : Instr) (n : Nat) (ea : W64) (k : Nat) (b : W64)
    (hw : Mem.wf s.mem = true) : Mem.wf (State.redAt s pos i n ea k b).mem = true := by
  unfold State.redAt
  (repeat' split) <;> simp [hw]

theorem redI_canonical (i : Instr) (x : RedA) (s : State) (hw : Mem.wf s.mem = true) : Canonical (redI i x s) := by
  refine gate_canonical hw (amoIssue_wf _ _ _ _ hw fun key o => ?_)
  dsimp only
  split
  · simpa using hw
  split
  · rw [done_mem]
    exact redAt_wf _ _ _ _ _ _ _ (by simpa using hw)
  · simpa using hw

theorem execRedPerform_canonical (s : State) (hw : Mem.wf s.mem = true) : Canonical (execRedPerform s) := by
  refine next_canonical ?_
  (repeat' split) <;> simp [hw]

theorem execRedw_canonical (x : SH) (s : State) (hw : Mem.wf s.mem = true) : Canonical (execRedw x s) := by
  refine gate_canonical hw ?_
  dsimp only
  (repeat' split) <;> simp [hw]

@[simp] theorem ringEffect_wf (s : State) (op : QOp) (h : Hd) (r : SReg) (x : W64) (k : Nat) (obj : W64) (hw : Mem.wf s.mem = true) :
    Mem.wf (s.ringEffect op h r x k obj).mem = true := by
  refine proofCheck_wf hw ?_
  split
  · simpa using hw
  · exact qEffect_wf _ _ _ _ _ _ _ _ hw

theorem execSyncRemotePerform_canonical (s : State) (hw : Mem.wf s.mem = true) : Canonical (execSyncRemotePerform s) := by
  have word : ∀ (r : Req) (i : Instr) (key : Nat) (flt : Flt) (a b ea : W64), Mem.wf ((s.performs r).reply r fun s => s.proofCheck fun s =>
      if isClu key && !(s.bank (bankOfKey key)).sw.isEmpty then s.notReady (unitHd i) (unitHd i).words oBusy .busy ea
      else if isClu key && (s.bank (bankOfKey key)).mode != 1 then s.fault flt
      else s.wordEffect i key a b ea).mem = true := by
    intro r i key flt a b ea
    refine reply_wf r (by rwa [performs_mem]) fun t ht => proofCheck_wf ht ?_
    split
    · rwa [notReady_mem]
    split
    · rwa [fault_mem]
    · exact wordEffect_wf _ _ _ _ _ _ ht
  refine next_canonical ?_
  dsimp only
  split
  · exact hw
  split
  · split
    · exact hw
    split
    · exact word _ _ _ _ _ _ _
    · exact word _ _ _ _ _ _ _
    · exact word _ _ _ _ _ _ _
    · exact word _ _ _ _ _ _ _
    · exact word _ _ _ _ _ _ _
    · exact word _ _ _ _ _ _ _
    · exact word _ _ _ _ _ _ _
    · exact reply_wf _ hw fun _ ht => by rwa [barClaim_mem]
    · rwa [returned_mem, barArrive_mem]
    · split
      · exact hw
      · exact reply_wf _ hw fun _ ht => ringEffect_wf _ _ _ _ _ _ _ ht
    · split
      · exact hw
      · exact reply_wf _ hw fun _ ht => ringEffect_wf _ _ _ _ _ _ _ ht
    · split
      · rw [reqEnd_mem]
        exact ctlPut_wf _ _ _ _ _ _ hw
      · exact hw
  · exact hw

@[simp] theorem completion_wf (s : State) (part q usertag cause status lnch : Nat)
    (hw : Mem.wf s.mem = true) : Mem.wf (State.completion s part q usertag cause status lnch).mem = true := by
  unfold State.completion
  dsimp only
  (repeat' split) <;> simp [hw, devWrite_wf]

theorem takeRecord_wf {s t : State} {part q : Nat} {x : BitVec 1024} {tag host : Bool} (hw : Mem.wf s.mem = true)
    (h : s.takeRecord part q x tag host = some t) : Mem.wf t.mem = true := by
  unfold State.takeRecord at h
  dsimp only at h
  split at h
  · obtain rfl := Option.some.inj h
    exact completion_wf _ _ _ _ _ _ _ hw
  split at h
  · rw [Option.ite_none_left_eq_some] at h
    obtain ⟨-, h⟩ := h
    obtain rfl := Option.some.inj h
    exact hw
  · cases h

theorem execDispatchTakeRecord_canonical (s : State) (hw : Mem.wf s.mem = true) : Canonical (execDispatchTakeRecord s) := by
  refine next_canonical ?_
  dsimp only
  split
  · split
    · rwa [hostReads_mem]
    split
    · next s1 h =>
      rw [updPart_mem]
      exact takeRecord_wf (by rwa [hostReads_mem]) h
    · rwa [hostReads_mem]
  · split
    · exact hw
    split
    · rwa [hostReads_mem]
    split
    · next s1 h =>
      rw [setSq_mem]
      exact takeRecord_wf (by rwa [hostReads_mem]) h
    · rwa [hostReads_mem]

theorem execSubmissionDoorbell_canonical (part q : Nat) (puts : W32) (s : State)
    (hw : Mem.wf s.mem = true) : Canonical (execSubmissionDoorbell part q puts s) :=
  next_canonical (by simp [hw])

@[simp] theorem placeGroup_wf (s : State) (lslot : Nat) (l : Launch) (arg : Cap) (gang grp core off : Nat) (hw : Mem.wf s.mem = true) :
    Mem.wf (s.placeGroup lslot l arg gang grp core off).mem = true := by
  unfold State.placeGroup
  dsimp only
  rw [foldl_mem _ (by simp), joinPool_mem]
  exact grantLs_wf _ _ _ _ _ _ _ hw

theorem execGangDispatch_canonical (slot core : Nat) (offs : List Nat) (s : State) (hw : Mem.wf s.mem = true) :
    Canonical (execGangDispatch slot core offs s) := by
  refine next_canonical ?_
  dsimp only
  split
  · exact hw
  split
  · split
    · exact hw
    · rw [wakeAll_mem, updPart_mem, updLaunch_mem]
      exact foldl_wf _ (fun _ _ ht => placeGroup_wf _ _ _ _ _ _ _ _ ht) _ _ hw
  · exact hw

theorem execStallReport_canonical (s : State) (hw : Mem.wf s.mem = true) : Canonical (execStallReport s) := by
  refine next_canonical ?_
  dsimp only
  (repeat' split) <;> simp [hw]

theorem execStageItemTake_canonical (s : State) (hw : Mem.wf s.mem = true) : Canonical (execStageItemTake s) := by
  refine next_canonical ?_
  dsimp only
  (repeat' split) <;> simp [hw, grantLs_wf]

theorem execGang_canonical (x : GangA) (s : State) (hw : Mem.wf s.mem = true) : Canonical (execGang x s) := by
  refine gate_canonical hw ?_
  dsimp only
  (repeat' split) <;> simp [hw]

@[simp] theorem stageIssue_wf (s : State) (i : Instr) (h : Hd) (sn : Nat) (a : W64) (put : Bool) (hw : Mem.wf s.mem = true) :
    Mem.wf (s.stageIssue i h sn a put).mem = true := by
  unfold State.stageIssue
  dsimp only
  split
  · rw [illegal_mem]; exact hw
  split
  · rw [illegal_mem]; exact hw
  split
  · rw [fault_mem]; exact hw
  refine proofCheck_wf hw ?_
  split
  · rw [notReady_mem]; exact hw
  split
  · rw [notReady_mem]; exact hw
  · rw [sendUnit_mem, apply_ite State.mem, touchUnit_mem, ite_self]
    exact hw

theorem execSpawn_canonical (x : SpawnA) (s : State) (hw : Mem.wf s.mem = true) : Canonical (execSpawn x s) :=
  gate_canonical hw (by simp [hw])

theorem execSqget_canonical (x : SH) (s : State) (hw : Mem.wf s.mem = true) : Canonical (execSqget x s) :=
  gate_canonical hw (by simp [hw])

theorem execExit_canonical (_x : Pl) (s : State) (hw : Mem.wf s.mem = true) : Canonical (execExit _x s) :=
  gate_canonical hw (by simp [hw])

theorem execLnch_canonical (x : RMem) (s : State) (hw : Mem.wf s.mem = true) : Canonical (execLnch x s) := by
  refine gate_canonical hw ?_
  dsimp only
  split
  · rwa [illegal_mem]
  refine accessHeld_wf hw fun key => ?_
  split
  · rwa [illegal_mem, noteUe_mem]
  split
  · rwa [notReady_mem, noteUe_mem]
  · rwa [done_mem, upd_mem, updLaunch_mem, noteUe_mem]

theorem execSetprio_canonical (x : S1) (s : State) (hw : Mem.wf s.mem = true) : Canonical (execSetprio x s) := by
  refine gate_canonical hw ?_
  dsimp only
  (repeat' split) <;> simp [hw]

theorem execGovcfg_canonical (x : SS) (s : State) (hw : Mem.wf s.mem = true) : Canonical (execGovcfg x s) := by
  refine gate_canonical hw ?_
  dsimp only
  (repeat' split) <;> simp [hw]

theorem execDlcfg_canonical (x : SH) (s : State) (hw : Mem.wf s.mem = true) : Canonical (execDlcfg x s) := by
  refine gate_canonical hw ?_
  dsimp only
  split <;> simp [hw]

theorem execRoundStart_canonical (s : State) (hw : Mem.wf s.mem = true) : Canonical (execRoundStart s) := by
  refine next_canonical ?_
  split <;> simp [hw]

theorem execEndSweep_canonical (s : State) (hw : Mem.wf s.mem = true) : Canonical (execEndSweep s) := by
  refine next_canonical ?_
  (repeat' split) <;> simp [hw]

theorem execDeadlockExamine_canonical (s : State) (hw : Mem.wf s.mem = true) : Canonical (execDeadlockExamine s) := by
  refine next_canonical ?_
  dsimp only
  split
  · exact hw
  · rwa [updPart_mem, foldl_mem _ fun _ _ => reportCycle_mem ..]

theorem execLease_canonical (x : RMem) (s : State) (hw : Mem.wf s.mem = true) : Canonical (execLease x s) := by
  refine gate_canonical hw (access_wf hw fun _ => ?_)
  dsimp only
  (repeat' split) <;> simp [hw]

theorem execLeaseComplete_canonical (id : Nat) (ok : Bool) (s : State) (hw : Mem.wf s.mem = true) : Canonical (execLeaseComplete id ok s) := by
  refine next_canonical ?_
  dsimp only
  have fail : ∀ (r : Req) (x : RMem)
    (code : W64), Mem.wf (s.reply r fun s => (s.upd fun m => m.ws x.sr code).final x.h x.h.words oFalse).mem = true :=
    fun r _ _ => reply_wf r hw fun _ ht => by rwa [final_mem]
  split
  · exact hw
  split
  · split
    · exact reply_wf _ hw fun _ ht => by rwa [notReady_mem]
    split
    · exact fail _ _ _
    split
    · exact fail _ _ _
    split
    · exact fail _ _ _
    · exact reply_wf _ (foldl_wf _ (fun _ _ ht => mapPage_wf _ _ _ _ ht) _ _ hw) fun _ ht => by rwa [done_mem]
  · exact hw

theorem execLrev_canonical (x : SS) (s : State) (hw : Mem.wf s.mem = true) : Canonical (execLrev x s) := by
  refine gate_canonical hw ?_
  dsimp only
  split <;> simp [hw]

theorem execLrevComplete_canonical (s : State) (hw : Mem.wf s.mem = true) : Canonical (execLrevComplete s) := by
  refine next_canonical ?_
  dsimp only
  split
  · exact hw
  split
  · split
    · exact hw
    split
    · exact reply_wf _ hw fun _ ht => by rwa [final_mem]
    · rw [wakeAll_mem]
      exact reply_wf _ hw fun _ ht => by rwa [done_mem]
  · exact hw

theorem execXinv_canonical (x : SS) (s : State) (hw : Mem.wf s.mem = true) : Canonical (execXinv x s) := by
  refine gate_canonical hw ?_
  dsimp only
  split <;> simp [hw]

theorem execXinvComplete_canonical (s : State) (hw : Mem.wf s.mem = true) : Canonical (execXinvComplete s) := by
  refine next_canonical ?_
  dsimp only
  split
  · exact hw
  split
  · split
    · exact reply_wf _ hw fun _ ht => by rwa [final_mem]
    split
    · exact foldl_wf _ (fun _ _ ht => by rwa [scanPage_mem]) _ _ hw
    split
    · exact hw
    · exact reply_wf _ (foldl_wf _ (fun _ _ ht => unmap_wf _ _ _ _ ht) _ _ hw) fun _ ht => by rwa [done_mem]
  · exact hw

theorem execWritebackCopyDone_canonical (s : State) (hw : Mem.wf s.mem = true) : Canonical (execWritebackCopyDone s) := by
  refine next_canonical ?_
  dsimp only
  split
  · exact hw
  split
  · exact hw
  · rw [foldl_mem _ fun _ _ => logUeDie_mem ..]
    split <;> exact hw

theorem execWritebackFlashDone_canonical (part page : Nat) (ok : Bool) (s : State)
    (hw : Mem.wf s.mem = true) : Canonical (execWritebackFlashDone part page ok s) := by
  refine next_canonical ?_
  dsimp only
  (repeat' split) <;> simp [hw]

theorem execIcsync_canonical (x : ParkA) (s : State) (hw : Mem.wf s.mem = true) : Canonical (execIcsync x s) := by
  refine gate_canonical hw ?_
  dsimp only
  (repeat' split) <;> simp [hw]

theorem execIcsyncComplete_canonical (s : State) (hw : Mem.wf s.mem = true) : Canonical (execIcsyncComplete s) := by
  refine next_canonical ?_
  split
  · exact hw
  split
  · exact reply_wf _ (by rwa [dropWords_mem]) fun _ ht => by rwa [done_mem]
  · exact hw

theorem execMapExecutable_canonical (r : MapReq) (s : State) (hw : Mem.wf s.mem = true) : Canonical (execMapExecutable r s) := by
  refine next_canonical ?_
  dsimp only
  split
  · exact hw
  split
  · exact hw
  split
  · exact hw
  split
  · exact hw
  · rw [drew_mem, markSegment_mem]
    exact foldl_wf _ (fun _ _ ht => mapImage_wf _ _ _ _ _ ht) _ _ hw

theorem execFuseRaise_canonical (floor : Bool) (v : Nat) (s : State) (hw : Mem.wf s.mem = true) : Canonical (execFuseRaise floor v s) := by
  refine next_canonical ?_
  dsimp only
  (repeat' split) <;> simp [hw]

theorem execTranslationRequest_canonical (key : TransKey) (s : State)
    (hw : Mem.wf s.mem = true) : Canonical (execTranslationRequest key s) := by
  refine next_canonical ?_
  (repeat' split) <;> simp [hw]

theorem execTranslationRecordReceive_canonical (r : TransRec) (s : State)
    (hw : Mem.wf s.mem = true) : Canonical (execTranslationRecordReceive r s) := by
  refine next_canonical ?_
  (repeat' split) <;> simp [hw]

theorem execTranslationTimeout_canonical (key : TransKey) (s : State)
    (hw : Mem.wf s.mem = true) : Canonical (execTranslationTimeout key s) := by
  refine next_canonical ?_
  (repeat' split) <;> simp [hw]

theorem execCodePatch_canonical (part : Nat) (va : W64) (w : W32) (s : State)
    (hw : Mem.wf s.mem = true) : Canonical (execCodePatch part va w s) := by
  refine next_canonical ?_
  dsimp only
  (repeat' split) <;> simp [hw, wf_setCells]

@[simp] theorem toTable_wf (s : State) (bits : Nat) (i : Instr) (a : W64)
    (hw : Mem.wf s.mem = true) : Mem.wf (State.toTable s bits i a).mem = true := by
  unfold State.toTable
  split <;> simp [hw]

theorem execPrnew_canonical (x : SS) (s : State) (hw : Mem.wf s.mem = true) : Canonical (execPrnew x s) :=
  gate_canonical hw (by simp [hw])

theorem execPrset_canonical (x : SH) (s : State) (hw : Mem.wf s.mem = true) : Canonical (execPrset x s) :=
  gate_canonical hw (by simp [hw])

theorem execPrpass_canonical (x : SH) (s : State) (hw : Mem.wf s.mem = true) : Canonical (execPrpass x s) :=
  gate_canonical hw (by simp [hw])

theorem execPrcan_canonical (x : SH) (s : State) (hw : Mem.wf s.mem = true) : Canonical (execPrcan x s) :=
  gate_canonical hw (by simp [hw])

theorem execPrst_canonical (x : SSP) (s : State) (hw : Mem.wf s.mem = true) : Canonical (execPrst x s) :=
  gate_canonical hw (by simp [hw])

theorem execProrv_canonical (x : ProrvA) (s : State) (hw : Mem.wf s.mem = true) : Canonical (execProrv x s) :=
  gate_canonical hw (by simp [hw])

theorem execProofTableReply_canonical (s : State) (hw : Mem.wf s.mem = true) : Canonical (execProofTableReply s) := by
  refine next_canonical ?_
  split
  · exact hw
  split
  · exact reply_wf _ hw fun _ ht => by rwa [prnewAt_mem]
  · exact reply_wf _ hw fun _ ht => by rwa [prsetAt_mem]
  · exact reply_wf _ hw fun _ ht => by rwa [resolveAt_mem]
  · exact reply_wf _ hw fun _ ht => by rwa [resolveAt_mem]
  · exact reply_wf _ hw fun _ ht => by rwa [done_mem]
  · exact hw

theorem execPlate_canonical (x : PlateA) (s : State) (hw : Mem.wf s.mem = true) : Canonical (execPlate x s) := by
  refine gate_canonical hw ?_
  dsimp only
  (repeat' split) <;> simp [hw]

theorem execPlateComplete_canonical (s : State) (hw : Mem.wf s.mem = true) : Canonical (execPlateComplete s) := by
  refine next_canonical ?_
  split
  · exact hw
  split
  · dsimp only
    split
    · exact reply_wf _ hw fun _ ht => by rwa [final_mem]
    · exact reply_wf _ (by split <;> exact hw) fun _ ht => by rwa [done_mem]
  · exact hw

theorem execImprd_canonical (x : ImprdA) (s : State) (hw : Mem.wf s.mem = true) : Canonical (execImprd x s) := by
  refine gate_canonical hw ?_
  dsimp only
  split
  · rwa [fault_mem]
  refine accessHeld_wf hw fun key => ?_
  split
  · rwa [notReady_mem]
  · rwa [done_mem]

theorem execImprdReportWrite_canonical (s : State) (hw : Mem.wf s.mem = true) : Canonical (execImprdReportWrite s) := by
  refine next_canonical ?_
  (repeat' split) <;> simp [hw, wf_setCells]

theorem execPlateCloseRequest_canonical (s : State) (hw : Mem.wf s.mem = true) : Canonical (execPlateCloseRequest s) := by
  refine next_canonical ?_
  dsimp only
  (repeat' split) <;> simp [hw]

theorem execPlateCloseFinish_canonical (s : State) (hw : Mem.wf s.mem = true) : Canonical (execPlateCloseFinish s) := by
  refine next_canonical ?_
  dsimp only
  (repeat' split) <;> simp [hw]

theorem execCheckpointDurable_canonical (s : State) (hw : Mem.wf s.mem = true) : Canonical (execCheckpointDurable s) := by
  refine next_canonical ?_
  dsimp only
  (repeat' split) <;> simp [hw]

theorem execCheckpointFailure_canonical (s : State) (hw : Mem.wf s.mem = true) : Canonical (execCheckpointFailure s) := by
  refine next_canonical ?_
  dsimp only
  (repeat' split) <;> simp [hw]

theorem execPreempt_canonical (x : SSS) (s : State) (hw : Mem.wf s.mem = true) : Canonical (execPreempt x s) :=
  gate_canonical hw (by simp [hw])

theorem execResume_canonical (x : SSS) (s : State) (hw : Mem.wf s.mem = true) : Canonical (execResume x s) :=
  gate_canonical hw (by simp [hw])

theorem execFreeze_canonical (x : SSP) (s : State) (hw : Mem.wf s.mem = true) : Canonical (execFreeze x s) :=
  gate_canonical hw (by simp [hw])

@[simp] theorem preemptAt_wf (s : State) (r : Req) (x : SSS) (a b : W64) (hw : Mem.wf s.mem = true) : Mem.wf (s.preemptAt r x a b).mem = true := by
  unfold State.preemptAt
  extract_lets part t kill live falseOut pos
  clear_value live
  have hf : Mem.wf falseOut.mem = true := reply_wf _ hw fun _ ht => by rwa [final_mem]
  cases live with
  | none => exact hf
  | some i =>
  dsimp only
  split
  · exact hf
  split
  · exact reply_wf _ hw fun _ ht => by rwa [notReady_mem]
  · dsimp only
    rwa [apply_ite State.mem, updLaunch_mem, updPart_mem, ite_self]

theorem runAt_wf {s : State} {e : State → Out} (cur arg : Nat) (hw : Mem.wf s.mem = true)
    (h : ∀ t : State, Mem.wf t.mem = true → Canonical (e t)) : Mem.wf (s.runAt cur arg e).mem = true := by
  unfold State.runAt
  have he := h { s with cur := cur, arg := arg } hw
  split
  · next t e => rw [e] at he; exact he
  · exact hw

@[simp] theorem sweepSent_wf (s : State) (hw : Mem.wf s.mem = true) : Mem.wf s.sweepSent.mem = true := by
  unfold State.sweepSent
  refine foldl_wf _ (fun t r ht => ?_) _ _ (foldl_wf _ (fun t b ht => ?_) _ _ hw)
  · split
    · exact runAt_wf _ _ ht execPostedResultReturn_canonical
    split
    · exact ht
    · exact runAt_wf _ _ (runAt_wf _ _ (runAt_wf _ _ (runAt_wf _ _ ht execAmoPerform_canonical) execRedPerform_canonical)
        execFifoPerform_canonical) execSyncRemotePerform_canonical
  · split
    · exact foldl_wf _ (fun _ _ h => runAt_wf _ _ h execHaloPushApply_canonical) _ _ ht
    · exact foldl_wf _ (fun _ _ h => runAt_wf _ _ h execWriteBatchApply_canonical) _ _ ht

theorem flushN_wf (n : Nat) (s : State) (hw : Mem.wf s.mem = true) : Mem.wf (State.flushN n s).mem = true := by
  induction n generalizing s with
  | zero => exact hw
  | succ n ih =>
    unfold State.flushN
    split
    · exact hw
    · exact ih _ (sweepSent_wf s hw)

@[simp] theorem flush_wf (s : State) (hw : Mem.wf s.mem = true) : Mem.wf s.flush.mem = true := flushN_wf _ s hw

@[simp] theorem performSent_wf (s : State) (lslot : Nat) (hw : Mem.wf s.mem = true) : Mem.wf (State.performSent s lslot).mem = true := by
  simp [State.performSent, hw]

@[simp] theorem killLaunch_wf (s : State) (lslot : Nat) (hw : Mem.wf s.mem = true) : Mem.wf (s.killLaunch lslot).1.mem = true := by
  unfold State.killLaunch
  dsimp only
  rw [dropBars_mem, foldl_mem _ fun _ _ => slotFreed_mem ..]
  dsimp only
  rw [foldl_mem _ fun _ _ => retire_mem ..]
  dsimp only
  rw [foldl_mem _ fun _ _ => orphanAppends_mem .., foldl_mem _ fun _ _ => orphanAppends_mem ..]
  exact performSent_wf s lslot hw

@[simp] theorem preEdge_wf (s : State) (part : Nat) (p : Pre) (hw : Mem.wf s.mem = true) : Mem.wf (State.preEdge s part p).mem = true := by
  unfold State.preEdge
  split <;> simp [hw]

@[simp] theorem saveTask_wf (s : State) (pos : Nat) (leaves : Bool) (hw : Mem.wf s.mem = true) : Mem.wf (s.saveTask pos leaves).mem = true := by
  have h0 : ∀ l : List Nat, ∀ n, Mem.wf (l.foldl (fun s _ => s.noteRecv pos n) s).mem = true := fun l n => by
    rwa [foldl_mem _ fun _ _ => noteRecv_mem ..]
  unfold State.saveTask
  dsimp only
  split
  · exact clearLs_wf _ _ _ _ (h0 _ _)
  · exact h0 _ _

@[simp] theorem saveTasks_wf (s : State) (ps leaving : List Nat) (hw : Mem.wf s.mem = true) : Mem.wf (s.saveTasks ps leaving).mem = true :=
  foldl_wf _ (fun _ _ ht => saveTask_wf _ _ _ ht) _ _ hw

theorem execPreemptComplete_canonical (s : State) (hw : Mem.wf s.mem = true) : Canonical (execPreemptComplete s) := by
  refine next_canonical ?_
  dsimp only
  split
  · exact hw
  split
  · split
    · exact hw
    · refine reply_wf _ (by rw [wakeAll_mem]; exact saveTasks_wf _ _ _ hw) fun _ ht => ?_
      rwa [apply_ite State.mem, final_mem, done_mem, upd_mem, ite_self]
  · exact hw

theorem placeAlloc_wf {s t : State} {r : Save} {core : Nat} (hw : Mem.wf s.mem = true) (h : s.placeAlloc r core = some t) :
    Mem.wf t.mem = true := by
  unfold State.placeAlloc at h
  split at h
  · cases h
  split at h
  · cases h
  dsimp only at h
  rw [Option.ite_none_left_eq_some] at h
  obtain ⟨-, h⟩ := h
  obtain rfl := Option.some.inj h
  exact wf_setCells _ _ (clearLs_wf _ _ _ _ (putShape_wf _ _ _ hw))

theorem loadTask_mem {s t : State} {key core z : Nat} {r : Save} (h : s.loadTask key r core z = some t) : t.mem = s.mem := by
  unfold State.loadTask at h
  split at h
  · dsimp only at h
    rw [Option.ite_none_left_eq_some] at h
    obtain ⟨-, h⟩ := h
    obtain rfl := Option.some.inj h
    rw [apply_ite State.mem, rewait_mem, recheck_mem, ite_self, apply_ite State.mem, updCore_mem, ite_self, foldl_mem]
    · rfl
    · intro u x
      rw [noteSent_mem]
  · cases h

theorem resumeWays_wf {s t : State} {key clu : Nat} (hw : Mem.wf s.mem = true) (h : t ∈ s.resumeWays key clu) : Mem.wf t.mem = true := by
  have load : ∀ (u : State) (r : Save) (c : Nat), Mem.wf u.mem = true →
      t ∈ (u.tileFits c r.m.zcount).filterMap (fun z => u.loadTask key r c z) → Mem.wf t.mem = true := by
    intro u r c hu ht
    obtain ⟨z, -, hz⟩ := List.mem_filterMap.1 ht
    rwa [loadTask_mem hz]
  unfold State.resumeWays at h
  dsimp only at h
  split at h
  · simp at h
  split at h
  · exact load s _ _ hw h
  split at h
  · simp at h
  · next s1 hs1 =>
    cases hr : Tab.find? s1.saves key with
    | none => simp [hr] at h
    | some r =>
      rw [hr] at h
      exact load s1 r _ (placeAlloc_wf hw hs1) h

theorem resumeKeysIn_wf {clu : Nat} {k : State → Option State} (hk : ∀ s t, Mem.wf s.mem = true → k s = some t → Mem.wf t.mem = true)
    (keys : List Nat) {s t : State} (hw : Mem.wf s.mem = true) (h : resumeKeysIn clu k keys s = some t) : Mem.wf t.mem = true := by
  induction keys generalizing s with
  | nil => exact hk s t hw h
  | cons key ks ih =>
    obtain ⟨s1, hs1, h1⟩ := List.exists_of_findSome?_eq_some h
    exact ih (resumeWays_wf hw hs1) h1

theorem resumeGangs_wf {part : Nat} {pin : Bool} (gs : List (List Nat)) {s t : State} (hw : Mem.wf s.mem = true)
    (h : resumeGangs part pin gs s = some t) : Mem.wf t.mem = true := by
  induction gs generalizing s t with
  | nil =>
    obtain rfl := Option.some.inj h
    exact hw
  | cons g gs ih =>
    unfold resumeGangs at h
    split at h
    · exact ih hw h
    · obtain ⟨c, -, hc⟩ := List.exists_of_findSome?_eq_some h
      exact resumeKeysIn_wf (fun _ _ hs ht => ih hs ht) g hw hc

theorem resumeAll_wf {s t : State} {part : Nat} {pin : Bool} {keys : List Nat} (hw : Mem.wf s.mem = true)
    (h : s.resumeAll part pin keys = some t) : Mem.wf t.mem = true := resumeGangs_wf _ hw h

@[simp] theorem resumeAt_wf (s : State) (r : Req) (x : SSS) (a b : W64) (hw : Mem.wf s.mem = true) : Mem.wf (s.resumeAt r x a b).mem = true := by
  unfold State.resumeAt
  extract_lets part t falseOut ok keys leaving
  have hf : Mem.wf falseOut.mem = true := reply_wf r hw fun _ ht => by rwa [final_mem]
  have hok : ∀ (t : State) (n : Nat), Mem.wf t.mem = true → Mem.wf (ok t n).mem = true :=
    fun t n ht => reply_wf r ht fun _ h => by rwa [done_mem]
  clear_value leaving
  split
  · split
    · split
      · exact hf
      split
      · exact hw
      · exact hok _ _ (by rwa [recheck_mem, thaw_mem])
    · exact hf
  · split
    · exact hw
    split
    · exact hf
    cases ht : s.resumeAll part (b = 1) keys with
    | some s1 => exact hok _ _ (by rw [wakeAll_mem]; exact resumeAll_wf hw ht)
    | none => exact reply_wf r hw fun _ ht => by rwa [notReady_mem]

@[simp] theorem freezeAt_wf (s : State) (r : Req) (x : SSP) (a : W64) (hw : Mem.wf s.mem = true) : Mem.wf (s.freezeAt r x a).mem = true := by
  unfold State.freezeAt
  extract_lets t h s1
  have h1 : Mem.wf s1.mem = true := by
    dsimp only [s1]
    split
    · rwa [reqEnd_mem]
    · exact hw
  split
  · exact reply_wf _ hw fun _ ht => by rwa [final_mem]
  split
  · exact hw
  extract_lets s2
  have h2 : Mem.wf s2.mem = true := by
    dsimp only [s2]
    split <;> exact h1
  split
  · exact h2
  · exact reply_wf _ h2 fun _ ht => by rwa [done_mem]

theorem execCollectorPerform_canonical (s : State) (hw : Mem.wf s.mem = true) : Canonical (execCollectorPerform s) := by
  refine next_canonical ?_
  (repeat' split) <;> simp [hw]

theorem execFaultPacketWrite_canonical (s : State) (hw : Mem.wf s.mem = true) : Canonical (execFaultPacketWrite s) := by
  unfold execFaultPacketWrite
  extract_lets die d base puts gets idx more
  clear_value base puts gets idx more
  split
  · split
    · exact next_canonical (unitWrite_wf _ _ _ (unitWrite_wf _ _ _ (by rwa [setDie_mem])))
    · exact hw
  · split
    · exact next_canonical (unitWrite_wf _ _ _ (by rwa [setDie_mem]))
    · exact hw

theorem execWindowWrite_canonical (die : Nat) (va v : W64) (s : State)
    (hw : Mem.wf s.mem = true) : Canonical (execWindowWrite die va v s) := by
  refine next_canonical ?_
  split <;> simp [hw, regWrite_wf]

theorem setPoison_wf (s : State) (k : Nat) (hw : Mem.wf s.mem = true) : Mem.wf (Tab.set 0 s.mem (poisonKey k) 1) = true :=
  Tab.wf_set 0 s.mem (poisonKey k) 1 hw

theorem execUncorrectableError_canonical (site : ErrSite) (single : Bool) (s : State) (hw : Mem.wf s.mem = true) :
    Canonical (execUncorrectableError site single s) := by
  refine next_canonical ?_
  split
  · exact hw
  cases site with
  | block k => exact setPoison_wf s k hw
  | link l => exact hw
  | tile core t => exact hw
  | qreg pos n => dsimp only; split <;> exact hw
  | queue pos e n => dsimp only; split <;> exact hw

@[simp] theorem commitBytes_wf (s : State) (root : Nat) (hw : Mem.wf s.mem = true) : Mem.wf (s.commitBytes root).mem = true := by
  unfold State.commitBytes
  dsimp only
  rw [foldl_mem _ (by intro s a; (repeat' split) <;> rfl)]
  exact wf_setCells _ _ hw

@[simp] theorem endLaunch_wf (s : State) (slot : Nat) (l : Launch) (hw : Mem.wf s.mem = true) : Mem.wf (State.endLaunch s slot l).mem = true := by
  unfold State.endLaunch
  dsimp only
  (repeat' split) <;> simp [hw]

@[simp] theorem commitEdge_wf (s : State) (hw : Mem.wf s.mem = true) : Mem.wf s.commitEdge.mem = true := by
  unfold State.commitEdge
  refine foldl_wf _ (fun t x ht => ?_) _ _ hw
  split
  · split
    · exact ht
    · exact endLaunch_wf _ _ _ ht
  · exact ht

@[simp] theorem preemptEdge_wf (s : State) (kill : Bool) (hw : Mem.wf s.mem = true) : Mem.wf (s.preemptEdge kill).mem = true :=
  foldl_wf _ (fun _ _ ht => foldl_wf _ (fun _ _ h => preEdge_wf _ _ _ h) _ _ ht) _ _ hw

@[simp] theorem received_wf (s : State) (hw : Mem.wf s.mem = true) : Mem.wf s.received.mem = true := by
  unfold State.received
  refine foldl_wf _ (fun t x ht => ?_) _ _ (foldl_wf _ (fun t r ht => ?_) _ _ (flush_wf s hw))
  · exact runAt_wf _ _ (runAt_wf _ _ ht execAbuRequestAccept_canonical) execAbuRecordLand_canonical
  · refine runAt_wf _ _ (runAt_wf _ _ (runAt_wf _ _ ?_ execCollectorPerform_canonical) execPlateComplete_canonical) execHaloComplete_canonical
    have drew : ∀ c : Bool, Mem.wf (if c then t.drew else t).mem = true := fun c => by split <;> exact ht
    exact iteInduction (motive := fun u : State => Mem.wf u.mem = true) (fun _ => drew _)
      fun _ => runAt_wf _ _ (drew _) execProofTableReply_canonical

theorem execRoundMarkerArrival_canonical (s : State) (hw : Mem.wf s.mem = true) : Canonical (execRoundMarkerArrival s) := by
  refine next_canonical ?_
  (repeat' split) <;> simp [hw]

theorem execRoundEdgeApply_canonical (s : State) (hw : Mem.wf s.mem = true) : Canonical (execRoundEdgeApply s) := by
  refine next_canonical ?_
  split
  · exact hw
  extract_lets s0 src s0' s1 s2 s3
  have h1 : Mem.wf s1.mem = true := by
    refine commitEdge_wf _ ?_
    rw [passEdge_mem, cancelEdge_mem]
    exact preemptEdge_wf s0' true hw
  have h2 : Mem.wf s2.mem = true := by
    rw [serviceEdge_mem, closeEdge_mem, checkpointEdge_mem, reportEdge_mem, governEdge_mem, resolveEnd_mem]
    exact preemptEdge_wf s1 false h1
  rwa [wakeAll_mem, foldl_mem _ fun _ _ => scanDie_mem ..]

@[simp] theorem mapPart_wf (s : State) (part die : Nat) (hw : Mem.wf s.mem = true) : Mem.wf (State.mapPart s part die).mem = true := by
  simp [State.mapPart, hw, wf_setCells]

@[simp] theorem joinDie_wf (s : State) (die part : Nat) (hw : Mem.wf s.mem = true) : Mem.wf (s.joinDie die part).mem = true := by
  unfold State.joinDie
  dsimp only
  rw [startSvcs_mem, mapDie_mem]
  split
  · exact mapPart_wf _ _ _ hw
  · exact hw

theorem execPowerOn_canonical (s : State) (hw : Mem.wf s.mem = true) : Canonical (execPowerOn s) := by
  refine next_canonical ?_
  dsimp only
  (repeat' split) <;> simp [hw]

theorem execDieBringup_canonical (die : Nat) (ok : Bool) (s : State) (hw : Mem.wf s.mem = true) : Canonical (execDieBringup die ok s) := by
  refine next_canonical ?_
  dsimp only
  (repeat' split) <;> simp [hw]

theorem execHbmTrainingComplete_canonical (die : Nat) (ok : Bool) (s : State)
    (hw : Mem.wf s.mem = true) : Canonical (execHbmTrainingComplete die ok s) := by
  refine next_canonical ?_
  (repeat' split) <;> simp [hw]

theorem execPowerLoss_canonical (s : State) : Canonical (execPowerLoss s) := reset_mem_wf

theorem execPartitionChange_canonical (parts : List Nat) (s : State) (hw : Mem.wf s.mem = true) : Canonical (execPartitionChange parts s) := by
  refine next_canonical ?_
  dsimp only
  split
  · exact hw
  · exact foldl_wf _ (fun _ _ ht => joinDie_wf _ _ _ ht) _ _ (foldl_wf _ (fun _ _ ht => endPart_wf _ _ ht) _ _ hw)

theorem execIslandClockSet_canonical (die k : Nat) (s : State) (hw : Mem.wf s.mem = true) : Canonical (execIslandClockSet die k s) := by
  refine next_canonical ?_
  split <;> simp [hw]

theorem execPowerCapSet_canonical (s : State) (hw : Mem.wf s.mem = true) : Canonical (execPowerCapSet s) :=
  next_canonical (by simp [hw])

theorem execPowerWindow_canonical (s : State) (hw : Mem.wf s.mem = true) : Canonical (execPowerWindow s) := by
  refine next_canonical ?_
  dsimp only
  split
  · exact hw
  split
  · exact hw
  · exact foldl_wf _ (fun _ _ ht => by split <;> exact ht) _ _ hw

theorem execAbucfgWrite_canonical (die : Nat) (v : W32) (s : State) (hw : Mem.wf s.mem = true) : Canonical (execAbucfgWrite die v s) := by
  refine next_canonical ?_
  split <;> simp [hw]

theorem execRegisterWrite_canonical (part : Nat) (va v : W64) (s : State)
    (hw : Mem.wf s.mem = true) : Canonical (execRegisterWrite part va v s) := by
  refine next_canonical ?_
  split <;> simp [hw, regWrite_wf]

theorem execHostMemoryWrite_canonical (part : Nat) (va : W64) (bytes : List Byte) (s : State)
    (hw : Mem.wf s.mem = true) : Canonical (execHostMemoryWrite part va bytes s) := by
  refine next_canonical ?_
  (repeat' split) <;> simp [hw, ctlStore_wf, arrive_wf]

theorem execPodAccess_canonical (part : Nat) (va : W64) (wr : Bool) (bytes : List Byte) (s : State)
    (hw : Mem.wf s.mem = true) : Canonical (execPodAccess part va wr bytes s) := by
  refine next_canonical ?_
  split <;> simp [hw, arrive_wf]

theorem execPortTraining_canonical (port : Port) (gen : Nat) (s : State)
    (hw : Mem.wf s.mem = true) : Canonical (execPortTraining port gen s) := by
  refine next_canonical ?_
  (repeat' split) <;> simp [hw]

theorem execSpdmRequest_canonical (r : SpdmReq) (s : State) (hw : Mem.wf s.mem = true) : Canonical (execSpdmRequest r s) := by
  refine next_canonical ?_
  (repeat' split) <;> simp [hw]

theorem execFence_canonical (x : FenceA) (s : State) (hw : Mem.wf s.mem = true) : Canonical (execFence x s) := by
  refine gate_canonical hw ?_
  dsimp only
  split <;> simp [hw]

theorem execFenceProbeEcho_canonical (s : State) (hw : Mem.wf s.mem = true) : Canonical (execFenceProbeEcho s) := by
  refine next_canonical ?_
  (repeat' split) <;> simp [hw]

theorem execEngwait_canonical (x : EngwaitA) (s : State) (hw : Mem.wf s.mem = true) : Canonical (execEngwait x s) := by
  refine gate_canonical hw ?_
  dsimp only
  (repeat' split) <;> simp [hw]

@[simp] theorem placeWord_wf (s : State) (nbits w : Nat) (hw : Mem.wf s.mem = true) : Mem.wf (State.placeWord s nbits w).mem = true := by
  simp [State.placeWord, hw, wf_setCells]

/-! ## The step -/

/-- Every step of the model from a canonical memory ends in one, whatever the instruction or event: each arm's lemma above. -/
theorem exec_canonical (i : Instr) (s : State) (hw : Mem.wf s.mem = true) : Canonical (exec i s) := by
  unfold exec
  cases i with
  | add _ | sub _ | mul _ | mulh _ | mulhu _ | and _ | or _ | xor _
  | andn _ | shl _ | shr _ | sra _ | rot _ | min _ | max _ | minu _
  | maxu _ | seq _ | sne _ | slt _ | sltu _ => exact alu_canonical _ _ _ hw
  | div _ | divu _ | rem _ | remu _ => exact divide_canonical _ _ _ hw
  | sel _ => exact execSel_canonical _ _ hw
  | addi _ => exact execAddi_canonical _ _ hw
  | li _ => exact execLi_canonical _ _ hw
  | clz _ | ctz _ | popc _ | mov _ => exact alu1_canonical _ _ _ hw
  | sxt _ | zxt _ | nop _ => exact imm_canonical _ _ _ _ hw
  | bfx _ => exact execBfx_canonical _ _ hw
  | bfi _ => exact execBfi_canonical _ _ hw
  | br _ | bz _ | bnz _ | beq _ | bne _ | blt _ | bge _ | bltu _
  | bgeu _ | boc _ | bnr _ | brdy _ => exact branch_canonical _ _ _ _ _ hw
  | call _ => exact execCall_canonical _ _ hw
  | calli _ | jmpi _ => exact jumpi_canonical _ _ _ hw
  | ret _ => exact gate_canonical hw (by simp [hw])
  | trap _ | bkpt _ => exact trap_canonical _ _ _ _ hw
  | mfs _ => exact execMfs_canonical _ _ hw
  | mts _ => exact execMts_canonical _ _ hw
  | rdcyc _ => exact execRdcyc_canonical _ _ hw
  | vadd _ | vsub _ | vmul _ | vmulh _ | vmin _ | vmax _ | vabs _ | vand _
  | vor _ | vxor _ | vshl _ | vshr _ | vsra _ | vadds _ | vsubs _ | vfadd _
  | vfsub _ | vfmul _ | vfma _ | vfmin _ | vfmax _ | vrcp _ | vrsq _ | vex2 _
  | vlg2 _ | vcvt _ | vcmp _ | vfcmp _ | vsel _ | vred _ | vperm _ | vbcast _
  | vins _ | vext _ | vslide _ | vdsx _ | vmov _ | mand _ | mor _ | mxor _
  | mnot _ | mpop _ | mfirst _ => exact vxe_canonical _ _ _ _ _ hw
  | vxeExecute => exact execVxeExecute_canonical _ hw
  | mma _ => exact execMma_canonical _ _ hw
  | mmas _ => exact execMmas_canonical _ _ hw
  | mmaBgs _ => exact execMmaBgs_canonical _ _ hw
  | zzero _ => exact execZzero_canonical _ _ hw
  | zld _ | zst _ => exact tileMem_canonical _ _ _ _ hw
  | zcvt _ => exact execZcvt_canonical _ _ hw
  | qset _ => exact execQset_canonical _ _ hw
  | qpos _ => exact execQpos_canonical _ _ hw
  | mxeKstep => exact execMxeKstep_canonical _ hw
  | mmasSlice => exact execMmasSlice_canonical _ hw
  | mxeTileJob => exact execMxeTileJob_canonical _ hw
  | atq _ => exact execAtq_canonical _ _ hw
  | atc _ => exact execAtc_canonical _ _ hw
  | atm _ => exact execAtm_canonical _ _ hw
  | kvapp _ => exact execKvapp_canonical _ _ hw
  | kvdesc _ => exact execKvdesc_canonical _ _ hw
  | atqExecute => exact execAtqExecute_canonical _ hw
  | abuRequestAccept => exact execAbuRequestAccept_canonical _ hw
  | abuSliceScan => exact execAbuSliceScan_canonical _ hw
  | abuRecordLand => exact execAbuRecordLand_canonical _ hw
  | atmExecute => exact execAtmExecute_canonical _ hw
  | kvappExecute => exact execKvappExecute_canonical _ hw
  | kvappPublish => exact execKvappPublish_canonical _ hw
  | kvdescExecute => exact execKvdescExecute_canonical _ hw
  | killedKvappComplete => exact execKilledKvappComplete_canonical _ hw
  | ldB _ | ldH _ | ldW _ | ldD _ | ldc _ => exact load_canonical _ _ _ _ _ _ _ _ _ _ hw
  | stB _ | stH _ | stW _ | stD _ => exact storeS_canonical _ _ _ _ hw
  | ldv _ => exact execLdv_canonical _ _ hw
  | stv _ | stc _ => exact storeI_canonical _ _ _ _ _ _ _ _ _ _ _ _ _ _ _ hw
  | ldg _ => exact execLdg_canonical _ _ hw
  | sts _ => exact execSts_canonical _ _ hw
  | pref _ => exact execPref_canonical _ _ hw
  | cpy _ => exact execCpy_canonical _ _ hw
  | cpyt _ => exact execCpyt_canonical _ _ hw
  | cpyw _ => exact execCpyw_canonical _ _ hw
  | cpeChunk => exact execCpeChunk_canonical _ hw
  | amsg _ => exact execAmsg_canonical _ _ hw
  | hret _ => exact execHret_canonical _ _ hw
  | bankmode _ => exact execBankmode_canonical _ _ hw
  | bankSwitchComplete => exact execBankSwitchComplete_canonical _ hw
  | halo _ => exact execHalo_canonical _ _ hw
  | halopush _ => exact execHalopush_canonical _ _ hw
  | haloPushApply => exact execHaloPushApply_canonical _ hw
  | activeMessageServe => exact execActiveMessageServe_canonical _ hw
  | handlerStart => exact execHandlerStart_canonical _ hw
  | amsgReply => exact execAmsgReply_canonical _ hw
  | fence _ => exact execFence_canonical _ _ hw
  | engwait _ => exact execEngwait_canonical _ _ hw
  | fenceProbeEcho => exact execFenceProbeEcho_canonical _ hw
  | geto _ | yield _ => exact taskI_canonical _ _ _ hw
  | park _ => exact execPark_canonical _ _ hw
  | parkReread => exact execParkReread_canonical _ hw
  | engst _ => exact execEngst_canonical _ _ hw
  | qput _ | qget _ | qpeek _ | qcnt _ => exact queueI_canonical _ _ _ _ hw
  | fifoPerform => exact execFifoPerform_canonical _ hw
  | ldsy _ | stsy _ | ldpk _ | feset _ | feget _ | waitge _ | waiteq _ => exact wordI_canonical _ _ _ _ _ _ _ _ _ _ _ _ hw
  | syncRemotePerform => exact execSyncRemotePerform_canonical _ hw
  | bara _ => exact execBara_canonical _ _ hw
  | bart _ => exact execBart_canonical _ _ hw
  | barc _ => exact execBarc_canonical _ _ hw
  | barrierGenAdvance => exact execBarrierGenAdvance_canonical _ hw
  | amoAdd _ | amoSub _ | amoMin _ | amoMax _ | amoMinu _ | amoMaxu _ | amoAnd _ | amoOr _
  | amoXor _ | amoSwp _ | amocas _ => exact amoI_canonical _ _ _ hw
  | amoPerform => exact execAmoPerform_canonical _ hw
  | redAdd _ | redMin _ | redMax _ | redAnd _ | redOr _ | redXor _ | redFadd _ => exact redI_canonical _ _ _ hw
  | redPerform => exact execRedPerform_canonical _ hw
  | redw _ => exact execRedw_canonical _ _ hw
  | cbput _ => exact execCbput_canonical _ _ hw
  | cbget _ => exact execCbget_canonical _ _ hw
  | cbfree _ => exact execCbfree_canonical _ _ hw
  | gang _ => exact execGang_canonical _ _ hw
  | spawn _ => exact execSpawn_canonical _ _ hw
  | sqget _ => exact execSqget_canonical _ _ hw
  | exit _ => exact execExit_canonical _ _ hw
  | lnch _ => exact execLnch_canonical _ _ hw
  | setprio _ => exact execSetprio_canonical _ _ hw
  | govcfg _ => exact execGovcfg_canonical _ _ hw
  | dlcfg _ => exact execDlcfg_canonical _ _ hw
  | submissionDoorbell _ _ _ => exact execSubmissionDoorbell_canonical _ _ _ _ hw
  | dispatchTakeRecord => exact execDispatchTakeRecord_canonical _ hw
  | gangDispatch _ _ _ => exact execGangDispatch_canonical _ _ _ _ hw
  | stageItemTake => exact execStageItemTake_canonical _ hw
  | stallReport => exact execStallReport_canonical _ hw
  | roundStart => exact execRoundStart_canonical _ hw
  | roundMarkerArrival => exact execRoundMarkerArrival_canonical _ hw
  | roundEdgeApply => exact execRoundEdgeApply_canonical _ hw
  | endSweep => exact execEndSweep_canonical _ hw
  | deadlockExamine => exact execDeadlockExamine_canonical _ hw
  | csetb _ => exact execCsetb_canonical _ _ hw
  | cadd _ => exact execCadd_canonical _ _ hw
  | csub _ => exact execCsub_canonical _ _ hw
  | crestr _ => exact execCrestr_canonical _ _ hw
  | cseal _ | cunseal _ => exact sealI_canonical _ _ _ _ _ hw
  | cgetb _ => exact execCgetb_canonical _ _ hw
  | cgetl _ => exact execCgetl_canonical _ _ hw
  | cgetp _ => exact execCgetp_canonical _ _ hw
  | ctag _ => exact execCtag_canonical _ _ hw
  | cclr _ => exact execCclr_canonical _ _ hw
  | cmov _ => exact execCmov_canonical _ _ hw
  | lease _ => exact execLease_canonical _ _ hw
  | lrev _ => exact execLrev_canonical _ _ hw
  | xinv _ => exact execXinv_canonical _ _ hw
  | icsync _ => exact execIcsync_canonical _ _ hw
  | imprd _ => exact execImprd_canonical _ _ hw
  | plate _ => exact execPlate_canonical _ _ hw
  | imprdReportWrite => exact execImprdReportWrite_canonical _ hw
  | plateCloseRequest => exact execPlateCloseRequest_canonical _ hw
  | plateCloseFinish => exact execPlateCloseFinish_canonical _ hw
  | checkpointDurable => exact execCheckpointDurable_canonical _ hw
  | checkpointFailure => exact execCheckpointFailure_canonical _ hw
  | prnew _ => exact execPrnew_canonical _ _ hw
  | prset _ => exact execPrset_canonical _ _ hw
  | prpass _ => exact execPrpass_canonical _ _ hw
  | prcan _ => exact execPrcan_canonical _ _ hw
  | prst _ => exact execPrst_canonical _ _ hw
  | prorv _ => exact execProrv_canonical _ _ hw
  | preempt _ => exact execPreempt_canonical _ _ hw
  | resume _ => exact execResume_canonical _ _ hw
  | freeze _ => exact execFreeze_canonical _ _ hw
  | preemptComplete => exact execPreemptComplete_canonical _ hw
  | windowWrite _ _ _ => exact execWindowWrite_canonical _ _ _ _ hw
  | postedResultReturn => exact execPostedResultReturn_canonical _ hw
  | waitlimExpiry => exact execWaitlimExpiry_canonical _ hw
  | recordlessReissue => exact execRecordlessReissue_canonical _ hw
  | divideResultWrite => exact execDivideResultWrite_canonical _ hw
  | persistentTokenRelease => exact execPersistentTokenRelease_canonical _ hw
  | writeBatchApply => exact execWriteBatchApply_canonical _ hw
  | writebackApply => exact execWritebackApply_canonical _ hw
  | homeCountWindow => exact execHomeCountWindow_canonical _ hw
  | homeMove _ _ _ => exact execHomeMove_canonical _ _ _ _ hw
  | requestForward _ _ _ => exact execRequestForward_canonical _ _ _ _ hw
  | pageTierMigrate => exact execPageTierMigrate_canonical _ hw
  | hltMissFill _ _ _ => exact execHltMissFill_canonical _ _ _ _ hw
  | faultPacketWrite => exact execFaultPacketWrite_canonical _ hw
  | writebackCopyDone => exact execWritebackCopyDone_canonical _ hw
  | writebackFlashDone _ _ _ => exact execWritebackFlashDone_canonical _ _ _ _ hw
  | mapExecutable _ => exact execMapExecutable_canonical _ _ hw
  | fuseRaise _ _ => exact execFuseRaise_canonical _ _ _ hw
  | translationRequest _ => exact execTranslationRequest_canonical _ _ hw
  | translationRecordReceive _ => exact execTranslationRecordReceive_canonical _ _ hw
  | translationTimeout _ => exact execTranslationTimeout_canonical _ _ hw
  | codePatch _ _ _ => exact execCodePatch_canonical _ _ _ _ hw
  | partitionChange _ => exact execPartitionChange_canonical _ _ hw
  | powerOn => exact execPowerOn_canonical _ hw
  | dieBringup _ _ => exact execDieBringup_canonical _ _ _ hw
  | hbmTrainingComplete _ _ => exact execHbmTrainingComplete_canonical _ _ _ hw
  | powerLoss => exact execPowerLoss_canonical _
  | powerCapSet => exact execPowerCapSet_canonical _ hw
  | islandClockSet _ _ => exact execIslandClockSet_canonical _ _ _ hw
  | powerWindow => exact execPowerWindow_canonical _ hw
  | abucfgWrite _ _ => exact execAbucfgWrite_canonical _ _ _ hw
  | registerWrite _ _ _ => exact execRegisterWrite_canonical _ _ _ _ hw
  | unassignedOpcode _ _ => exact execUnassignedOpcode_canonical _ _ _ hw
  | fetchFault _ _ => exact execFetchFault_canonical _ _ _ hw
  | lineFill => exact execLineFill_canonical _ hw
  | proofTableReply => exact execProofTableReply_canonical _ hw
  | collectorPerform => exact execCollectorPerform_canonical _ hw
  | leaseComplete _ _ => exact execLeaseComplete_canonical _ _ _ hw
  | lrevComplete => exact execLrevComplete_canonical _ hw
  | xinvComplete => exact execXinvComplete_canonical _ hw
  | icsyncComplete => exact execIcsyncComplete_canonical _ hw
  | plateComplete => exact execPlateComplete_canonical _ hw
  | haloComplete => exact execHaloComplete_canonical _ hw
  | uncorrectableError _ _ => exact execUncorrectableError_canonical _ _ _ hw
  | hostMemoryWrite _ _ _ => exact execHostMemoryWrite_canonical _ _ _ _ hw
  | podAccess _ _ _ _ => exact execPodAccess_canonical _ _ _ _ _ hw
  | portTraining _ _ => exact execPortTraining_canonical _ _ _ hw
  | spdmRequest _ => exact execSpdmRequest_canonical _ _ hw

/-- What a step executes, or the passing cycle, starts from the memory as it stands. -/
theorem step_wf {s t : State} (hw : Mem.wf s.mem = true) (h : step s = .next t) : Mem.wf t.mem = true := by
  rw [← ready_mem] at hw
  obtain ⟨i, u, hu, ht⟩ | ⟨-, rfl⟩ := step_cases h
  · have hc := exec_canonical i u ((upcoming_mem hu).symm ▸ hw)
    rwa [ht, canonical_next] at hc
  · rwa [tick_mem]

/-- Settles O60, instruction by instruction and event by event: each keeps the canonical form. -/
theorem stepKeepsMemoryCanonical : Obligations.StepKeepsMemoryCanonical := by
  unfold Obligations.StepKeepsMemoryCanonical
  exact fun _ _ => step_wf

end Sys2Proof.Machine

end

section

/-!
# Tiers and write-backs (spec/10, spec/19)
Each event once, as an equation for each branch of its test, and from them O49.
-/

namespace Sys2Proof.Machine

open Sys2Proof.Claims

/-! ## Tables and blocks -/

theorem putCells_cons (m : Tab Byte) (c : Host.Cell) (cs : List Host.Cell) : putCells m (c :: cs) = putCells (Tab.put m c.1 c.2) cs := rfl

/-- Putting cells leaves what none of them names. -/
theorem find?_putCells_of_notMem (m : Tab Byte) (cs : List Host.Cell) (k : Nat) (h : ∀ c ∈ cs, c.1 ≠ k) :
    Tab.find? (putCells m cs) k = Tab.find? m k := by
  induction cs generalizing m with
  | nil => rfl
  | cons c cs ih =>
    rw [putCells_cons, ih _ fun d hd => h d (List.mem_cons_of_mem c hd)]
    exact Tab.find?_put_ne m c.2 (h c List.mem_cons_self).symm

/-- Bytes put at rising keys are found there. -/
theorem find?_putCells_bytesAt (m : Tab Byte) (k : Nat) (bs : List Byte) (i : Nat) (h : i < bs.length) :
    Tab.find? (putCells m (bytesAt k bs)) (k + i) = some bs[i] := by
  induction bs generalizing m k i with
  | nil => simp at h
  | cons b r ih =>
    rw [bytesAt, putCells_cons]
    cases i with
    | zero =>
      rw [find?_putCells_of_notMem]
      · simp
      · intro c hc e
        have := (bytesAt_key hc).1
        omega
    | succ i =>
      rw [show k + (i + 1) = k + 1 + i by omega, ih _ (k + 1) i (by simpa using h)]
      rfl

/-- The blocks of a range of whole blocks. -/
theorem mem_blocksOf_aligned {k n b : Nat} (hk : k % 64 = 0) (hn : n % 64 = 0) : b ∈ blocksOf k n ↔ ∃ i < n / 64, b = k + 64 * i := by
  unfold blocksOf
  split
  · next h0 => simp [h0]
  · simp only [List.mem_map, List.mem_range]
    constructor
    · rintro ⟨i, hi, rfl⟩
      exact ⟨i, by omega, by omega⟩
    · rintro ⟨i, hi, rfl⟩
      exact ⟨i, by omega, by omega⟩

theorem pageBytes_mod (psz : Nat) : pageBytes psz % 64 = 0 := by
  unfold pageBytes
  (repeat' split) <;> rfl

theorem flashKey_add (nsid flba i : Nat) : flashKey nsid flba i = flashKey nsid flba 0 + i := by
  simp only [flashKey, Nat.add_zero]

theorem globKey_pageBase_mod (part pk : Nat) : globKey part (pageBase pk) % 64 = 0 := by
  unfold globKey pageBase
  omega

/-! ## The tier of a page (R198, R453) -/

/-- What the migration tests of a page. -/
def mayMigrate (s : State) (p : Page) : Prop :=
  p.tier = 2 ∧ p.ms = false ∧ (p.t2 = false ∨ (s.part s.cur).full = true) ∧ pageBytes p.psz ≤ s.roomIn (!p.t2) p.home

theorem exec_pageTierMigrate {s : State} {p : Page} (hp : Tab.find? s.pages (pageNo s.cur s.arg) = some p) (h : mayMigrate s p) :
    exec .pageTierMigrate s = .next { s with pages := Tab.put s.pages (pageNo s.cur s.arg) { p with t2 := !p.t2 } } := by
  obtain ⟨htier, hms, hfull, hroom⟩ := h
  unfold pageNo at hp
  have hc : (p.tier = 2 && !p.ms && (!p.t2 || (s.part s.cur).full) && decide (pageBytes p.psz ≤ s.roomIn (!p.t2) p.home)) = true := by
    simpa [htier, hms, hroom] using hfull
  simp [exec, execPageTierMigrate, hp, hc, pageNo]

theorem exec_pageTierMigrate_stays {s : State} {p : Page} (hp : Tab.find? s.pages (pageNo s.cur s.arg) = some p) (h : ¬ mayMigrate s p) :
    exec .pageTierMigrate s = .next s := by
  unfold pageNo at hp
  have hc : (p.tier = 2 && !p.ms && (!p.t2 || (s.part s.cur).full) && decide (pageBytes p.psz ≤ s.roomIn (!p.t2) p.home)) = false := by
    refine Bool.eq_false_iff.2 fun hc => h ?_
    simpa [mayMigrate, and_assoc] using hc
  simp [exec, execPageTierMigrate, hp, hc]

/-! ## The staging copy and the flash write (R358, R443) -/

/-- Errors met with no task behind them are logged, and nothing else changes. -/
theorem logsOnly_logUeDies (s : State) (l : List Nat) (home : Nat) :
    LogsOnly s (l.foldl (fun s b => s.logUeDie home 0 4 (BitVec.ofNat 64 (b % 2 ^ 64)) 0) s) :=
  foldl_related (R := LogsOnly) .refl .trans (fun _ _ => logsOnly_queuePacket ..) l s

/-- The block is in error where its home keeps it. -/
def badBlock (s : State) (b : Nat) : Bool := s.rd8 Rdr.home (poisonKey b) != 0

theorem exec_writebackCopyDone_bad {s : State} {p : Page} (hp : Tab.find? s.pages (pageNo s.cur s.arg) = some p) (hwb : p.wb = 2)
    {i : Nat} (hi : i < pageBytes p.psz / 64) (hbad : badBlock s (globKey s.cur (pageBase (pageNo s.cur s.arg)) + 64 * i) = true) :
    ∃ t q, exec .writebackCopyDone s = .next t ∧ t.mem = s.mem ∧ t.staging = s.staging ∧
      Tab.find? t.pages (pageNo s.cur s.arg) = some q ∧ q.wb = 1 := by
  have hne : ((blocksOf (globKey s.cur (pageBase (pageNo s.cur s.arg))) (pageBytes p.psz)).filter (badBlock s)).isEmpty = false := by
    refine Bool.eq_false_iff.2 fun h => ?_
    rw [List.isEmpty_iff, List.filter_eq_nil_iff] at h
    exact h _ ((mem_blocksOf_aligned (globKey_pageBase_mod ..) (pageBytes_mod _)).2 ⟨i, hi, rfl⟩) hbad
  let q := { p with wb := 1, again := false, dord := s.nextReq }
  let u : State := { s with pages := Tab.put s.pages (pageNo s.cur s.arg) q, nextReq := s.nextReq + 1 }
  obtain ⟨d, hd, -⟩ := logsOnly_logUeDies u ((blocksOf (globKey s.cur (pageBase (pageNo s.cur s.arg))) (pageBytes p.psz)).filter (badBlock s)) p.home
  refine ⟨{ u with dies := d }, q, ?_, rfl, rfl, Tab.find?_put_same .., rfl⟩
  unfold badBlock at hne hd
  unfold pageNo at hp hne hd
  simp only [exec, execWritebackCopyDone, hp, hwb, hne]
  exact congrArg _ hd

theorem exec_writebackCopyDone_staged {s : State} {p : Page} (hp : Tab.find? s.pages (pageNo s.cur s.arg) = some p) (hwb : p.wb = 2)
    (hgood : ∀ i < pageBytes p.psz / 64, badBlock s (globKey s.cur (pageBase (pageNo s.cur s.arg)) + 64 * i) = false) :
    exec .writebackCopyDone s = .next { s with
      pages := Tab.put s.pages (pageNo s.cur s.arg) { p with wb := 3, again := false }
      staging := Tab.put s.staging (pageNo s.cur s.arg) (s.pageImage s.cur (pageNo s.cur s.arg) p) } := by
  have hnil : (blocksOf (globKey s.cur (pageBase (pageNo s.cur s.arg))) (pageBytes p.psz)).filter (badBlock s) = [] := by
    refine List.filter_eq_nil_iff.2 fun b hb => ?_
    obtain ⟨i, hi, rfl⟩ := (mem_blocksOf_aligned (globKey_pageBase_mod ..) (pageBytes_mod _)).1 hb
    simp [hgood i hi]
  unfold badBlock at hnil
  unfold pageNo at hp hnil
  simp only [exec, execWritebackCopyDone, hp, hwb, hnil]
  rfl

theorem exec_writebackFlashDone_ok {s : State} {part page : Nat} {p : Page} (hp : Tab.find? s.pages (pageNo part page) = some p)
    (hwb : p.wb = 3) :
    exec (.writebackFlashDone part page true) s = .next { s with
      pages := Tab.put s.pages (pageNo part page)
        { p with wb := if p.again then 1 else 0, again := false, dord := if p.again then s.nextReq else p.dord }
      nextReq := s.nextReq + 1
      staging := Tab.del s.staging (pageNo part page)
      flash := putCells s.flash (bytesAt (flashKey p.nsid p.flba 0) (Tab.get [] s.staging (pageNo part page))) } := by
  unfold pageNo at hp
  simp only [exec, execWritebackFlashDone, hp, hwb]
  rfl

theorem exec_writebackFlashDone_failed {s : State} {part page : Nat} {p : Page} (hp : Tab.find? s.pages (pageNo part page) = some p)
    (hwb : p.wb = 3) :
    ∃ k : Packet, k.type = 1 ∧ k.cause = cStorage ∧ exec (.writebackFlashDone part page false) s = .next (State.queuePacket { s with
      pages := Tab.put s.pages (pageNo part page) { p with wb := 1, again := false, dord := s.nextReq }
      nextReq := s.nextReq + 1
      staging := Tab.del s.staging (pageNo part page) } p.home k) := by
  unfold pageNo at hp
  simp only [exec, execWritebackFlashDone, hp, hwb]
  exact ⟨_, rfl, rfl, rfl⟩

/-- Settles O49, event by event. -/
theorem tiersAndWritebacks : Obligations.TiersAndWritebacks := by
  unfold Obligations.TiersAndWritebacks
  intro s
  constructor
  · intro p hp
    refine ⟨fun htier hms hfull hroom => exec_pageTierMigrate hp ⟨htier, hms, hfull, hroom⟩, fun hstays => ?_, ?_⟩
    · refine exec_pageTierMigrate_stays hp fun ⟨htier, hms, hfull, hroom⟩ => ?_
      obtain h | h | ⟨ht2, h⟩ | h := hstays
      · exact h htier
      · simp [hms] at h
      · simp [ht2, h] at hfull
      · omega
    · intro bad hwb
      constructor
      · rintro ⟨i, hi, hbad⟩
        exact exec_writebackCopyDone_bad hp hwb hi (bne_iff_ne.2 hbad)
      · intro hgood
        refine ⟨_, exec_writebackCopyDone_staged hp hwb fun i hi => ?_, rfl, rfl, Tab.find?_put_same .., Tab.find?_put_same ..⟩
        exact bne_eq_false_iff_eq.2 (not_not.1 (hgood i hi))
  · intro part page p img hp hwb himg
    have himg' : Tab.get [] s.staging (pageNo part page) = img := by simp [Tab.get, himg]
    constructor
    · refine ⟨_, exec_writebackFlashDone_ok hp hwb, rfl, rfl, fun ha => ?_, fun ha => ⟨_, Tab.find?_put_same .., by simp [ha]⟩, fun i hi => ?_⟩
      · rw [Tab.find?_put_same]
        simp [ha]
      · dsimp only
        rw [himg', List.getD_eq_getElem _ _ hi, flashKey_add _ _ i, find?_putCells_bytesAt _ _ _ _ hi]
    · obtain ⟨k, htype, hcause, hexec⟩ := exec_writebackFlashDone_failed hp hwb
      exact ⟨_, _, k, hexec, rfl, rfl, Tab.find?_put_same .., rfl, queuePacket_pkts .., htype, hcause⟩

end Sys2Proof.Machine
end

section

/-!
# Lines, tokens and homes (spec/10, spec/11, spec/14)
What moves the tokens of one line, the fill of a line from it, and the events of a page's home: O48.
-/

namespace Sys2Proof.Machine

open Sys2Proof.Claims

/-! ## Operations that move the tokens of one line -/

/-- Tokens of line `l` that the L1 numbered `n` holds. -/
def State.tokens (s : State) (n l : Nat) : Nat := Tab.get 0 (s.core n).l1 l

/-- Between the states, tokens and holders of copies of `line` have changed at most, as far as memory, pages and cores go. -/
structure MovesLine (line : Nat) (s t : State) : Prop where
  mem : t.mem = s.mem
  pages : t.pages = s.pages
  cores : ∀ n, t.core n = { s.core n with l1 := (t.core n).l1 }
  others : ∀ n l, l ≠ line → t.tokens n l = s.tokens n l
  copies : ∀ l, l ≠ line → Tab.get [] t.copies l = Tab.get [] s.copies l

theorem MovesLine.refl (line : Nat) (s : State) : MovesLine line s s := ⟨rfl, rfl, fun _ => rfl, fun _ _ _ => rfl, fun _ _ => rfl⟩

theorem MovesLine.trans {line : Nat} {s t u : State} (h : MovesLine line s t) (g : MovesLine line t u) : MovesLine line s u where
  mem := g.mem.trans h.mem
  pages := g.pages.trans h.pages
  cores n := by rw [g.cores n, h.cores n]
  others n l hl := (g.others n l hl).trans (h.others n l hl)
  copies l hl := (g.copies l hl).trans (h.copies l hl)

/-- What an operation that leaves memory, pages, cores and copies does to lines: nothing. -/
theorem MovesLine.of_eq {line : Nat} {s t : State} (hmem : t.mem = s.mem) (hpages : t.pages = s.pages) (hcores : t.cores = s.cores)
    (hcopies : t.copies = s.copies) : MovesLine line s t := by
  have hcore : ∀ n, t.core n = s.core n := fun n => by unfold State.core; rw [hcores]
  refine ⟨hmem, hpages, fun n => by rw [hcore n], fun n l _ => ?_, fun l _ => by rw [hcopies]⟩
  unfold State.tokens
  rw [hcore n]

/-- One L1's entry of the line changes. -/
theorem movesLine_updCore (line : Nat) (s : State) (n : Nat) (g : Tab Nat → Tab Nat)
    (hg : ∀ t l, l ≠ line → Tab.get 0 (g t) l = Tab.get 0 t l) : MovesLine line s (s.updCore n fun c => { c with l1 := g c.l1 }) := by
  refine ⟨rfl, rfl, fun m => ?_, fun m l hl => ?_, fun _ _ => rfl⟩
  · rw [State.updCore, core_setCore]
    split
    · next h => rw [h]
    · rfl
  · unfold State.tokens
    rw [State.updCore, core_setCore]
    split
    · next h => rw [h, hg _ _ hl]
    · rfl

theorem core_collect (s : State) (die line n : Nat) :
    (s.collect die line).core n = { s.core n with l1 := if dieOfL1 n = die then Tab.del (s.core n).l1 line else (s.core n).l1 } := by
  have h := Tab.find?_mapValues (fun n (c : Core) => if dieOfL1 n = die then { c with l1 := Tab.del c.l1 line } else c) s.cores n
  have hc : (s.collect die line).core n =
      ((Tab.find? s.cores n).map fun c => if dieOfL1 n = die then { c with l1 := Tab.del c.l1 line } else c).getD Core.empty := by
    rw [← h]
    rfl
  rw [hc]
  unfold State.core Tab.get
  cases Tab.find? s.cores n with
  | none => by_cases hd : dieOfL1 n = die <;> simp [hd, Core.empty, Tab.del]
  | some c => by_cases hd : dieOfL1 n = die <;> simp [hd]

theorem movesLine_collect (line : Nat) (s : State) (die : Nat) : MovesLine line s (s.collect die line) := by
  refine ⟨rfl, rfl, fun n => by rw [core_collect], fun n l hl => ?_, fun _ _ => rfl⟩
  unfold State.tokens
  rw [core_collect]
  dsimp only
  split
  · unfold Tab.get
    rw [Tab.find?_del_ne _ hl]
  · rfl

theorem movesLine_takeAll (line : Nat) (s : State) (core : Nat) : MovesLine line s (s.takeAll core line) :=
  (movesLine_collect line s _).trans (movesLine_updCore line _ core (fun t => Tab.put t line 256) fun t l hl => by
    unfold Tab.get
    rw [Tab.find?_put_ne _ _ hl])

theorem movesLine_takeOne (line : Nat) (s : State) (core : Nat) : MovesLine line s (s.takeOne core line) := by
  unfold State.takeOne
  split
  · exact .refl line s
  · refine .trans ?_ (movesLine_updCore line _ core (fun t => Tab.put t line 1) fun t l hl => by
      unfold Tab.get
      rw [Tab.find?_put_ne _ _ hl])
    split
    · exact .refl line s
    split
    · exact movesLine_updCore line s _ (fun t => Tab.set 0 t line (Tab.get 0 t line - 1)) fun t l hl => Tab.get_set_ne 0 t _ hl
    split
    · exact .of_eq rfl rfl rfl rfl
    · exact .refl line s

/-- A writer's L1 holds all tokens of the line, and no other L1 of its die holds one. -/
theorem tokens_takeAll (s : State) (core line n : Nat) : (s.takeAll core line).tokens n line =
    if n = core then 256 else if dieOfL1 n = dieOfL1 core then 0 else s.tokens n line := by
  unfold State.tokens State.takeAll
  rw [State.updCore, core_setCore]
  by_cases hn : n = core
  · simp [hn, Tab.get]
  · rw [if_neg hn, if_neg hn, core_collect]
    by_cases hd : dieOfL1 n = dieOfL1 core <;> simp [hd, Tab.get]

theorem tokens_takeOne (s : State) (core line : Nat) : (s.takeOne core line).tokens core line ≠ 0 := by
  unfold State.takeOne
  split
  · next h => simpa [State.tokens] using h
  · simp [State.tokens, State.updCore, Tab.get]

theorem pageOfKey_congr {s t : State} (h : t.pages = s.pages) (k : Nat) : t.pageOfKey k = s.pageOfKey k := by
  unfold State.pageOfKey State.pageAt
  rw [h]

/-! ## A line lands in an L1 (R201) -/

/-- What the landing of a line has brought about: tokens for the asking L1, all of them for a write, and a copy on its die
if the line is homed elsewhere. -/
structure Landed (s : State) (core : Nat) (write : Bool) (line : Nat) (t : State) : Prop where
  token : t.tokens core line ≠ 0
  all : write = true → t.tokens core line = 256 ∧ ∀ n, n ≠ core → dieOfL1 n = dieOfL1 core → t.tokens n line = 0
  copy : ∀ x, s.pageOfKey (line * 64) = some x → x.2.home ≠ dieOfL1 core → dieOfL1 core ∈ Tab.get [] t.copies line
  home : ∀ x, s.pageOfKey (line * 64) = some x → x.2.home = dieOfL1 core → Tab.get [] t.copies line = Tab.get [] s.copies line

/-- Moves of other lines leave what a landing brought about. -/
theorem Landed.keep {s t u : State} {core line line' : Nat} {write : Bool} (h : Landed s core write line t) (hne : line ≠ line')
    (hm : MovesLine line' t u) : Landed s core write line u where
  token := by rw [hm.others _ _ hne]; exact h.token
  all hw := ⟨(hm.others _ _ hne).trans (h.all hw).1, fun n hn hd => (hm.others _ _ hne).trans ((h.all hw).2 n hn hd)⟩
  copy x hx hx' := by rw [hm.copies _ hne]; exact h.copy x hx hx'
  home x hx hx' := (hm.copies _ hne).trans (h.home x hx hx')

theorem movesLine_copies (line : Nat) (s : State) (ds : List Nat) : MovesLine line s { s with copies := Tab.put s.copies line ds } where
  mem := rfl
  pages := rfl
  cores _ := rfl
  others _ _ _ := rfl
  copies l hl := by
    unfold Tab.get
    rw [Tab.find?_put_ne _ _ hl]

theorem takeOne_copies (s : State) (core line : Nat) : (s.takeOne core line).copies = s.copies := by
  unfold State.takeOne
  split
  · rfl
  · dsimp only [State.updCore, setCore_copies]
    split
    · rfl
    split
    · rfl
    split <;> rfl

/-- The tokens that a landing takes, before the copy is noted. -/
def State.takeTokens (s : State) (core line : Nat) (write : Bool) : State := if write then s.takeAll core line else s.takeOne core line

theorem takeTokens_copies (s : State) (core line : Nat) (write : Bool) : (s.takeTokens core line write).copies = s.copies := by
  unfold State.takeTokens
  split
  · rfl
  · exact takeOne_copies ..

theorem movesLine_takeTokens (line : Nat) (s : State) (core : Nat) (write : Bool) : MovesLine line s (s.takeTokens core line write) := by
  unfold State.takeTokens
  split
  · exact movesLine_takeAll ..
  · exact movesLine_takeOne ..

theorem lineLand_eq (s : State) (core line : Nat) (write : Bool) :
    s.lineLand core line write =
      if ((s.pageOfKey (line * 64)).map fun x => x.2.home).getD (dieOfL1 core) = dieOfL1 core ||
          (Tab.get [] s.copies line).contains (dieOfL1 core) then s.takeTokens core line write
      else { s.takeTokens core line write with
        copies := Tab.put (s.takeTokens core line write).copies line (Tab.get [] s.copies line ++ [dieOfL1 core]) } := by
  conv_rhs => rw [← takeTokens_copies s core line write]
  rfl

theorem movesLine_lineLand (line : Nat) (s : State) (core : Nat) (write : Bool) : MovesLine line s (s.lineLand core line write) := by
  rw [lineLand_eq]
  split
  · exact movesLine_takeTokens ..
  · exact (movesLine_takeTokens ..).trans (movesLine_copies ..)

theorem lineLand_tokens (s : State) (core line : Nat) (write : Bool) (n l : Nat) :
    (s.lineLand core line write).tokens n l = (s.takeTokens core line write).tokens n l := by
  rw [lineLand_eq]
  split <;> rfl

theorem landed_lineLand (s : State) (core line : Nat) (write : Bool) : Landed s core write line (s.lineLand core line write) := by
  refine ⟨?_, fun hw => ?_, fun x hx hne => ?_, fun x hx heq => ?_⟩
  · rw [lineLand_tokens]
    cases write with
    | true => simp [State.takeTokens, tokens_takeAll]
    | false => exact tokens_takeOne s core line
  · subst hw
    refine ⟨?_, fun n hn hd => ?_⟩ <;> rw [lineLand_tokens, State.takeTokens, if_pos rfl, tokens_takeAll]
    · rw [if_pos rfl]
    · rw [if_neg hn, if_pos hd]
  · rw [lineLand_eq]
    split
    · next h => simpa [hx, hne, takeTokens_copies] using h
    · simp [Tab.get]
  · rw [lineLand_eq, if_pos (by simp [hx, heq]), takeTokens_copies]

theorem movesLine_wakeAll (line : Nat) (s : State) (f : Nat → Master → Bool) : MovesLine line s (s.wakeAll f) := .of_eq rfl rfl rfl rfl

/-- The fill of a line is its landing, as far as tokens and copies go. -/
theorem fillLine_lands (s : State) (core line : Nat) (write : Bool) :
    ∃ b m, s.fillLine core line write = { s.lineLand core line write with banks := b, masters := m } := by
  unfold State.fillLine
  extract_lets s2 bank old s3
  have h3 : ∃ b, s3 = { s2 with banks := b } := by
    clear_value s2
    dsimp only [s3]
    split
    · exact ⟨_, rfl⟩
    · exact ⟨_, rfl⟩
  obtain ⟨b, h3⟩ := h3
  rw [h3]
  exact ⟨b, _, rfl⟩

theorem movesLine_fillLine (line : Nat) (s : State) (core : Nat) (write : Bool) : MovesLine line s (s.fillLine core line write) := by
  obtain ⟨b, m, h⟩ := fillLine_lands s core line write
  rw [h]
  exact (movesLine_lineLand ..).trans (.of_eq rfl rfl rfl rfl)

theorem landed_fillLine (s : State) (core line : Nat) (write : Bool) : Landed s core write line (s.fillLine core line write) := by
  obtain ⟨b, m, h⟩ := fillLine_lands s core line write
  have g := landed_lineLand s core line write
  rw [h]
  exact ⟨g.token, g.all, g.copy, g.home⟩

/-! ## The fill (R201, R202, R281) -/

/-- The oldest of the waiting requests for a line is one of them. -/
theorem oldest_mem {c : Core} {line : Nat} {e : Pers} (h : c.oldest line = some e) : e ∈ c.pers ∧ e.line = line ∧ e.got = false := by
  have fold : ∀ (l : List Pers) (r : Option Pers), (∀ e, r = some e → e ∈ c.pers ∧ e.line = line ∧ e.got = false) → (∀ x ∈ l, x ∈ c.pers) →
      ∀ e, l.foldl (fun r x => if x.line != line || x.got then r else match r with
        | some y => if x.at' < y.at' then some x else r
        | none => some x) r = some e → e ∈ c.pers ∧ e.line = line ∧ e.got = false := by
    intro l
    induction l with
    | nil => exact fun r hr _ => hr
    | cons x l ih =>
      intro r hr hl
      refine ih _ (fun e he => ?_) fun y hy => hl y (List.mem_cons_of_mem _ hy)
      have hx : (x.line != line || x.got) = false → x ∈ c.pers ∧ x.line = line ∧ x.got = false := fun h =>
        ⟨hl x List.mem_cons_self, by simpa using h⟩
      dsimp only at he
      split at he
      · exact hr e he
      · next hn =>
        have hx := hx (Bool.eq_false_iff.2 hn)
        split at he
        · split at he
          · exact Option.some.inj he ▸ hx
          · exact hr e he
        · exact Option.some.inj he ▸ hx
  exact fold c.pers none (fun _ h => by cases h) (fun _ h => h) e h

theorem mem_landing (c : Core) (line : Nat) : line ∈ c.landing line := by
  unfold Core.landing
  split
  · next e he =>
    obtain ⟨hmem, hline, hgot⟩ := oldest_mem he
    exact List.mem_map.2 ⟨e, List.mem_filter.2 ⟨hmem, by simp [hgot]⟩, hline⟩
  · exact List.mem_singleton_self line

/-- The persistent requests after a fill: those it answers hold their tokens from now. -/
def answeredPers (s : State) (c : Core) (line : Nat) : List Pers :=
  c.pers.map fun x =>
    if (c.landing line).contains x.line && !x.got && (c.oldest line).any (fun e => x.pos = e.pos && x.at' = e.at') then
      { x with at' := s.cyc, got := true } else x

/-- The state in which the lines of a fill land, one behind another. -/
def beforeLanding (s : State) : State :=
  s.updCore s.cur fun c => { c with
    pers := answeredPers s (s.core s.cur) s.arg
    fills := c.fills.filter fun ((l, _, _) : Nat × Bool × Nat) =>
      !((s.core s.cur).landing s.arg).contains l || (answeredPers s (s.core s.cur) s.arg).any fun x => x.line = l && !x.got }

theorem exec_lineFill {s : State} (hfill : ∃ e ∈ (s.core s.cur).fills, e.1 = s.arg)
    (hfree : ∀ l ∈ (s.core s.cur).landing s.arg,
      s.outranked s.cur l = false ∧ s.canTake s.cur l ((s.core s.cur).asksAll l) = true) :
    exec .lineFill s = .next (((s.core s.cur).landing s.arg).foldl
      (fun u l => u.fillLine s.cur l ((s.core s.cur).asksAll l)) (beforeLanding s)) := by
  have hasks : (s.core s.cur).filling s.arg = true := by
    obtain ⟨e, he, hl⟩ := hfill
    exact List.any_eq_true.2 ⟨e, he, by simpa using hl⟩
  have hclear : ((s.core s.cur).landing s.arg).any (fun l => s.outranked s.cur l || !s.canTake s.cur l ((s.core s.cur).asksAll l)) = false :=
    List.any_eq_false.2 fun l hl => by simp [hfree l hl]
  simp only [exec, execLineFill, hasks, hclear]
  rfl

/-- Landing lines one behind another keeps memory and pages, and of the cores all but tokens; each line stands as it landed. -/
structure LandedAll (core : Nat) (write : Nat → Bool) (ls : List Nat) (s t : State) : Prop where
  mem : t.mem = s.mem
  pages : t.pages = s.pages
  cores : ∀ n, t.core n = { s.core n with l1 := (t.core n).l1 }
  copies : ∀ l ∉ ls, Tab.get [] t.copies l = Tab.get [] s.copies l
  landed : ∀ l ∈ ls, Landed s core (write l) l t

theorem landedAll_foldl (core : Nat) (write : Nat → Bool) (ls : List Nat) (s : State) :
    LandedAll core write ls s (ls.foldl (fun u l => u.fillLine core l (write l)) s) := by
  induction ls using List.reverseRecOn with
  | nil => exact ⟨rfl, rfl, fun _ => rfl, fun _ _ => rfl, fun _ h => by cases h⟩
  | append_singleton ls l ih =>
    simp only [List.foldl_append, List.foldl_cons, List.foldl_nil]
    generalize ls.foldl (fun u l => u.fillLine core l (write l)) s = u at ih ⊢
    have hm := movesLine_fillLine l u core (write l)
    refine ⟨hm.mem.trans ih.mem, hm.pages.trans ih.pages, fun n => by rw [hm.cores n, ih.cores n], fun k hk => ?_, fun k hk => ?_⟩
    · simp only [List.mem_append, List.mem_singleton, not_or] at hk
      rw [hm.copies k hk.2, ih.copies k hk.1]
    · by_cases hkl : k = l
      · subst hkl
        obtain ⟨htoken, hall, hcopy, hhome⟩ := landed_fillLine u core k (write k)
        simp only [pageOfKey_congr ih.pages] at hcopy hhome
        refine ⟨htoken, hall, hcopy, fun x hx hx' => (hhome x hx hx').trans ?_⟩
        by_cases hin : k ∈ ls
        · exact (ih.landed k hin).home x hx hx'
        · exact ih.copies k hin
      · refine (ih.landed k ?_).keep hkl hm
        simpa [hkl] using hk

theorem core_beforeLanding (s : State) :
    ((beforeLanding s).core s.cur).pers = answeredPers s (s.core s.cur) s.arg ∧
      ∀ e ∈ ((beforeLanding s).core s.cur).fills, e.1 ∈ (s.core s.cur).landing s.arg →
        ∃ x ∈ answeredPers s (s.core s.cur) s.arg, x.line = e.1 ∧ x.got = false := by
  unfold beforeLanding
  rw [State.updCore, core_setCore_same]
  refine ⟨rfl, fun e he hin => ?_⟩
  obtain ⟨-, hkeep⟩ := List.mem_filter.1 he
  have hkept : e.1 ∉ (s.core s.cur).landing s.arg ∨
      ∃ x ∈ answeredPers s (s.core s.cur) s.arg, x.line = e.1 ∧ x.got = false := by simpa using hkeep
  exact hkept.resolve_left (not_not.2 hin)

theorem answered_mem {s : State} {c : Core} {line : Nat} {e x : Pers} (he : c.oldest line = some e) (hx : x ∈ c.pers)
    (hpos : x.pos = e.pos) (hat : x.at' = e.at') (hgot : x.got = false) : { x with at' := s.cyc, got := true } ∈ answeredPers s c line := by
  refine List.mem_map.2 ⟨x, hx, ?_⟩
  have hin : x.line ∈ c.landing line := by
    unfold Core.landing
    rw [he]
    exact List.mem_map.2 ⟨x, List.mem_filter.2 ⟨hx, by simp [hpos, hat, hgot]⟩, rfl⟩
  rw [if_pos]
  simp [he, hpos, hat, hgot, hin]

/-! ## Tokens go after 256 cycles (R281) -/

/-- A request's tokens have been held for 256 cycles. -/
def overdue (s : State) (x : Pers) : Bool := x.line = s.arg && x.got && x.at' + 256 ≤ s.cyc

theorem exec_persistentTokenRelease {s : State} (h : ∃ x ∈ (s.core s.cur).pers, overdue s x = true) :
    ∃ t, exec .persistentTokenRelease s = .next t ∧ t.mem = s.mem ∧
      (t.core s.cur).pers = (s.core s.cur).pers.filter (fun x => !overdue s x) ∧
      ((∀ x ∈ (s.core s.cur).pers, x.line = s.arg → x.got = true → overdue s x = true) → t.tokens s.cur s.arg = 0) := by
  have hany : (s.core s.cur).pers.any (overdue s) = true := List.any_eq_true.2 h
  unfold overdue at hany
  let u := s.updCore s.cur fun c => { c with pers := c.pers.filter fun x => !overdue s x }
  have hu : u.core s.cur = { s.core s.cur with pers := (s.core s.cur).pers.filter fun x => !overdue s x } := by
    simp only [u, State.updCore, core_setCore_same]
  refine ⟨(if (u.core s.cur).holds s.cyc s.arg then u else u.updCore s.cur fun c => { c with l1 := Tab.del c.l1 s.arg }).wakeBusy (dieOfL1 s.cur),
    ?_, ?_, ?_, fun hall => ?_⟩
  · simp only [exec, execPersistentTokenRelease, hany]
    rfl
  · split <;> rfl
  · unfold State.wakeBusy
    rw [wakeAll_core]
    split
    · rw [hu]
    · rw [State.updCore, core_setCore_same, hu]
  · have hholds : (u.core s.cur).holds s.cyc s.arg = false := by
      rw [hu]
      refine List.any_eq_false.2 fun x hx hx' => ?_
      obtain ⟨hx, hover⟩ := List.mem_filter.1 hx
      simp only [Bool.and_eq_true, decide_eq_true_eq] at hx'
      rw [hall x hx hx'.1.1 hx'.1.2] at hover
      cases hover
    unfold State.tokens State.wakeBusy
    rw [wakeAll_core, hholds, if_neg Bool.false_ne_true, State.updCore, core_setCore_same]
    simp [Tab.get]

/-! ## Homes (R204, R355, R453) -/

/-- Writes that a die has made to a page in the window. -/
def writesOf (s : State) (pk d : Nat) : Nat := Tab.get 0 s.wcount (pk * 32 + d)

theorem find?_foldl_del {α : Type} (base n d : Nat) (t : Tab α) (h : d < n) :
    Tab.find? ((List.range n).foldl (fun t d => Tab.del t (base + d)) t) (base + d) = none := by
  induction n with
  | zero => omega
  | succ n ih =>
    rw [List.range_succ, List.foldl_append, List.foldl_cons, List.foldl_nil]
    by_cases hd : d = n
    · rw [hd, Tab.find?_del_same]
    · rw [Tab.find?_del_ne _ (by omega)]
      exact ih (by omega)

/-- The state after the window has been counted. -/
def countedDown (s : State) (pk : Nat) : State := { s with wcount := (List.range 32).foldl (fun t d => Tab.del t (pk * 32 + d)) s.wcount }

@[simp] theorem countedDown_mem (s : State) (pk : Nat) : (countedDown s pk).mem = s.mem := by unfold countedDown; rfl
@[simp] theorem countedDown_pages (s : State) (pk : Nat) : (countedDown s pk).pages = s.pages := by unfold countedDown; rfl
@[simp] theorem countedDown_agenda (s : State) (pk : Nat) : (countedDown s pk).agenda = s.agenda := by unfold countedDown; rfl

/-- The die that wins a page's window, if one does. -/
def winner (s : State) (pk : Nat) (p : Page) : Option Nat :=
  (List.range 32).find? fun d => d != p.home && 2 * writesOf s pk d > ((List.range 32).map (writesOf s pk)).sum

theorem exec_homeCountWindow_of_some {s : State} {p : Page} {d : Nat} (hp : Tab.find? s.pages (pageNo s.cur s.arg) = some p)
    (hw : winner s (pageNo s.cur s.arg) p = some d) :
    exec .homeCountWindow s = .next (if s.movable s.cur (pageNo s.cur s.arg) p then
        { countedDown s (pageNo s.cur s.arg) with agenda := s.agenda ++ [{ i := .homeMove s.cur s.arg d, cur := s.cur, arg := s.arg }] }
      else countedDown s (pageNo s.cur s.arg)) := by
  unfold winner writesOf pageNo at hw
  unfold pageNo at hp
  simp only [exec, execHomeCountWindow, hp, hw, countedDown, pageNo]
  rfl

theorem exec_homeCountWindow_of_none {s : State} {p : Page} (hp : Tab.find? s.pages (pageNo s.cur s.arg) = some p)
    (hw : winner s (pageNo s.cur s.arg) p = none) : exec .homeCountWindow s = .next (countedDown s (pageNo s.cur s.arg)) := by
  unfold winner writesOf pageNo at hw
  unfold pageNo at hp
  simp only [exec, execHomeCountWindow, hp, hw, countedDown, pageNo]

theorem wcount_countedDown (s : State) (pk d : Nat) (hd : d < 32) : Tab.get 0 (countedDown s pk).wcount (pk * 32 + d) = 0 := by
  unfold Tab.get countedDown
  rw [find?_foldl_del _ _ _ _ hd]
  rfl

/-- The window's end as a whole: the counts start again, and the winner is to become the home where the page may move. -/
theorem homeCountWindow_step {s : State} {p : Page} (hp : Tab.find? s.pages (pageNo s.cur s.arg) = some p) :
    ∃ t, exec .homeCountWindow s = .next t ∧ t.mem = s.mem ∧ t.pages = s.pages ∧
      t.wcount = (countedDown s (pageNo s.cur s.arg)).wcount ∧
      (∀ d, winner s (pageNo s.cur s.arg) p = some d → s.movable s.cur (pageNo s.cur s.arg) p = true →
        t.agenda = s.agenda ++ [{ i := .homeMove s.cur s.arg d, cur := s.cur, arg := s.arg }]) ∧
      (s.movable s.cur (pageNo s.cur s.arg) p = false ∨ winner s (pageNo s.cur s.arg) p = none → t.agenda = s.agenda) := by
  cases hw : winner s (pageNo s.cur s.arg) p with
  | none => exact ⟨_, exec_homeCountWindow_of_none hp hw, countedDown_mem .., countedDown_pages .., rfl, fun _ h => (by cases h),
      fun _ => countedDown_agenda ..⟩
  | some e =>
    have hexec := exec_homeCountWindow_of_some hp hw
    cases hmove : s.movable s.cur (pageNo s.cur s.arg) p with
    | false =>
      rw [hmove, if_neg Bool.false_ne_true] at hexec
      exact ⟨_, hexec, countedDown_mem .., countedDown_pages .., rfl, fun _ _ h => (by cases h), fun _ => countedDown_agenda ..⟩
    | true =>
      rw [hmove, if_pos rfl] at hexec
      refine ⟨_, hexec, by simp only [countedDown_mem], by simp only [countedDown_pages], by simp only, fun d hd _ => ?_, fun h => ?_⟩
      · cases hd
        rfl
      · obtain h | h := h <;> cases h

/-- Two members of a list add up to no more than its sum. -/
theorem add_le_sum_range (f : Nat → Nat) {n a b : Nat} (ha : a < n) (hb : b < n) (hne : a ≠ b) : f a + f b ≤ ((List.range n).map f).sum := by
  rw [← List.sum_toFinset f List.nodup_range]
  have hsub : ({a, b} : Finset Nat) ⊆ (List.range n).toFinset := by
    intro x hx
    simp only [Finset.mem_insert, Finset.mem_singleton] at hx
    obtain rfl | rfl := hx <;> simpa
  calc f a + f b = ∑ x ∈ ({a, b} : Finset Nat), f x := (Finset.sum_pair hne).symm
    _ ≤ ∑ x ∈ (List.range n).toFinset, f x := Finset.sum_le_sum_of_subset hsub

/-- A die with more than half of the writes wins. -/
theorem winner_eq {s : State} {pk d : Nat} {p : Page} (hd : d < 32) (hne : d ≠ p.home)
    (hmore : ((List.range 32).map (writesOf s pk)).sum < 2 * writesOf s pk d) : winner s pk p = some d := by
  cases h : winner s pk p with
  | none =>
    have := List.find?_eq_none.1 h d (List.mem_range.2 hd)
    simp [hne, hmore] at this
  | some e =>
    have he := List.find?_some h
    have hmem := List.mem_range.1 (List.mem_of_find?_eq_some h)
    simp only [Bool.and_eq_true, bne_iff_ne, ne_eq, decide_eq_true_eq] at he
    by_contra hde
    have := add_le_sum_range (writesOf s pk) hmem hd fun hed => hde (by rw [hed])
    omega

theorem winner_none {s : State} {pk : Nat} {p : Page}
    (h : ∀ d < 32, d ≠ p.home → 2 * writesOf s pk d ≤ ((List.range 32).map (writesOf s pk)).sum) : winner s pk p = none := by
  refine List.find?_eq_none.2 fun d hd => ?_
  have := h d (List.mem_range.1 hd)
  simp only [Bool.and_eq_true, bne_iff_ne, ne_eq, decide_eq_true_eq, not_and, not_lt]
  exact this

theorem exec_homeMove {s : State} {part page die : Nat} {p : Page} (hp : Tab.find? s.pages (pageNo part page) = some p)
    (hmove : s.movable part (pageNo part page) p = true) (hdie : die ≠ p.home) (hjoined : (s.die die).joined = true)
    (hpart : (s.die die).part = part) (hroom : p.t2 = true ∨ (s.die die).full = true ∧ pageBytes p.psz ≤ s.roomIn false die) :
    ∃ b, exec (.homeMove part page die) s = .next { s with
      pages := Tab.put s.pages (pageNo part page) { p with
        home := die
        fwd := (List.range 32).filter fun d => (Tab.find? s.hlt (pageNo part page * 32 + d)).any (· != die) }
      batches := b } := by
  unfold pageNo at hp hmove
  have hstay : (!s.movable part (pageKey part (page * 65536) 0) p || decide (die = p.home) || !(s.die die).joined ||
      (s.die die).part != part || (!p.t2 && (!(s.die die).full || decide (s.roomIn false die < pageBytes p.psz)))) = false := by
    obtain h | ⟨h, h'⟩ := hroom
    · simp [hmove, hdie, hjoined, hpart, h]
    · simp [hmove, hdie, hjoined, hpart, h, Nat.not_lt.2 h']
  simp only [exec, execHomeMove, hp, hstay]
  exact ⟨_, rfl⟩

theorem exec_homeMove_stays {s : State} {part page die : Nat} {p : Page} (hp : Tab.find? s.pages (pageNo part page) = some p)
    (h : p.hpin = true ∨ p.t2 = false ∧ (s.die die).full = false) : exec (.homeMove part page die) s = .next s := by
  unfold pageNo at hp
  have hstay : (!s.movable part (pageKey part (page * 65536) 0) p || decide (die = p.home) || !(s.die die).joined ||
      (s.die die).part != part || (!p.t2 && (!(s.die die).full || decide (s.roomIn false die < pageBytes p.psz)))) = true := by
    obtain h | ⟨h, h'⟩ := h
    · simp [State.movable, h]
    · simp [h, h']
  simp only [exec, execHomeMove, hp, hstay]
  rfl

theorem exec_requestForward {s : State} {part page die : Nat} {p : Page} (hp : Tab.find? s.pages (pageNo part page) = some p)
    (h : die ∈ p.fwd) : exec (.requestForward die part page) s = .next
      { s with hlt := Tab.put s.hlt (pageNo part page * 32 + die) p.home
               pages := Tab.put s.pages (pageNo part page) { p with fwd := p.fwd.filter (· != die) } } := by
  have hc : p.fwd.contains die = true := by simpa using h
  unfold pageNo at hp
  simp only [exec, execRequestForward, hp, hc]
  rfl

theorem exec_hltMissFill {s : State} {part page die : Nat} {p : Page} (hp : Tab.find? s.pages (pageNo part page) = some p)
    (h : Tab.find? s.hlt (pageNo part page * 32 + die) = none) : exec (.hltMissFill die part page) s = .next
      { s with hlt := Tab.put s.hlt (pageNo part page * 32 + die) p.home
               tcache := if s.tcache.contains (pageNo part page) then s.tcache else pageNo part page :: s.tcache } := by
  unfold pageNo at hp h
  simp only [exec, execHltMissFill, hp, h]
  rfl

/-- Settles O48, event by event. -/
theorem linesAndHomes : Obligations.LinesAndHomes := by
  unfold Obligations.LinesAndHomes
  intro s
  refine ⟨?_, ?_, ?_, ?_⟩
  · intro c lines hfill hfree
    have h := landedAll_foldl s.cur c.asksAll lines (beforeLanding s)
    obtain ⟨hpers, hfills⟩ := core_beforeLanding s
    refine ⟨_, exec_lineFill hfill hfree, h.mem, mem_landing .., fun l hl => ?_, fun e he hin => ?_, fun e he x hx hpos hat hgot => ?_⟩
    · exact ⟨(h.landed l hl).token, (h.landed l hl).all, (h.landed l hl).copy, (h.landed l hl).home⟩
    · rw [h.cores] at he ⊢
      obtain ⟨x, hx, hxe⟩ := hfills e he hin
      exact ⟨x, hpers ▸ hx, hxe⟩
    · rw [h.cores]
      exact hpers ▸ answered_mem he hx hpos hat hgot
  · rintro ⟨x, hx, hline, hgot, hcyc⟩
    obtain ⟨t, hexec, hmem, hpers, htokens⟩ := exec_persistentTokenRelease ⟨x, hx, by simp [overdue, hline, hgot, hcyc]⟩
    refine ⟨t, hexec, hmem, fun y hy hyl hyg => ?_, fun hall => htokens fun y hy hyl hyg => ?_⟩
    · rw [hpers] at hy
      obtain ⟨-, hover⟩ := List.mem_filter.1 hy
      simpa [overdue, hyl, hyg] using hover
    · simp [overdue, hyl, hyg, hall y hy hyl hyg]
  · intro p hp
    obtain ⟨t, hexec, hmem, hpages, hcount, hmoves, hstays⟩ := homeCountWindow_step hp
    exact ⟨t, hexec, hmem, hpages, fun d hd => by rw [hcount, wcount_countedDown s _ d hd],
      fun d hd hne hmore hmove => hmoves d (winner_eq hd hne hmore) hmove, fun hno => hstays (hno.imp_right winner_none)⟩
  · intro part page die p hp
    refine ⟨fun hmove hdie hjoined hpart hroom => ?_, exec_homeMove_stays hp, exec_requestForward hp, fun h => ?_⟩
    · obtain ⟨b, hexec⟩ := exec_homeMove hp hmove hdie hjoined hpart hroom
      refine ⟨_, _, hexec, rfl, rfl, Tab.find?_put_same .., rfl, fun d hd => ?_⟩
      simp only [List.mem_filter, List.mem_range, hd, true_and]
      cases Tab.find? s.hlt (pageNo part page * 32 + d) <;> simp
    · refine ⟨_, exec_hltMissFill hp h, rfl, rfl, Tab.find?_put_same .., ?_⟩
      dsimp only
      split
      · next hc => simpa using hc
      · exact List.mem_cons_self

end Sys2Proof.Machine
end

section

/-!
# Write batches at their home and at copies (spec/10, R203, R235 to R238)
A batch's application as an equation up to tokens, waits and the batch list, and what the dies with a copy read after it: O47.
-/

namespace Sys2Proof.Machine

open Sys2Proof.Claims

/-! ## Operations on tokens and waits -/

/-- Two states differ at most in masters, cores and banks. -/
def WaitsOnly (s u : State) : Prop := ∃ m c b, u = { s with masters := m, cores := c, banks := b }

theorem WaitsOnly.refl (s : State) : WaitsOnly s s := ⟨s.masters, s.cores, s.banks, rfl⟩

theorem WaitsOnly.trans {s u w : State} (h : WaitsOnly s u) (h' : WaitsOnly u w) : WaitsOnly s w := by
  obtain ⟨_, _, _, rfl⟩ := h
  obtain ⟨m, c, b, rfl⟩ := h'
  exact ⟨m, c, b, rfl⟩

theorem waitsOnly_updM (s : State) (pos : Nat) (f : Master → Master) : WaitsOnly s (s.updM pos f) := ⟨_, s.cores, s.banks, rfl⟩

theorem waitsOnly_updCore (s : State) (n : Nat) (f : Core → Core) : WaitsOnly s (s.updCore n f) := ⟨s.masters, _, s.banks, rfl⟩

theorem waitsOnly_wakeAll (s : State) (f : Nat → Master → Bool) : WaitsOnly s (s.wakeAll f) := ⟨_, s.cores, s.banks, rfl⟩

theorem waitsOnly_retireIf (s : State) (pos : Nat) : WaitsOnly s (s.retireIf pos) := by
  unfold State.retireIf
  dsimp only
  split
  · exact ⟨_, _, s.banks, rfl⟩
  · exact .refl s

theorem waitsOnly_markerWake (s : State) (pos : Nat) : WaitsOnly s (s.markerWake pos) := by
  unfold State.markerWake
  dsimp only
  split
  · exact waitsOnly_retireIf ..
  split
  · exact .refl s
  split
  · exact waitsOnly_updM ..
  · split
    · exact .refl s
    · exact waitsOnly_updM ..
  · split
    · exact waitsOnly_updM ..
    · exact .refl s
  · exact .refl s

theorem waitsOnly_wakeHolds (s : State) : WaitsOnly s s.wakeHolds :=
  foldl_related (R := WaitsOnly) .refl .trans (fun _ _ => waitsOnly_markerWake ..) _ s

theorem waitsOnly_collect (s : State) (die line : Nat) : WaitsOnly s (s.collect die line) := ⟨s.masters, _, _, rfl⟩

theorem waitsOnly_takeAll (s : State) (core line : Nat) : WaitsOnly s (s.takeAll core line) :=
  (waitsOnly_collect ..).trans (waitsOnly_updCore ..)

theorem waitsOnly_ownLines (s : State) (pos : Nat) (no : Bool) (cells : List Host.Cell) : WaitsOnly s (s.ownLines pos no cells) := by
  unfold State.ownLines
  split
  · exact .refl s
  · exact foldl_related (R := WaitsOnly) .refl .trans (fun _ _ => waitsOnly_takeAll ..) _ s

theorem waitsOnly_collectFor (s : State) (b : Batch) (die : Nat) : WaitsOnly s (s.collectFor b die) := by
  unfold State.collectFor
  split
  · exact foldl_related (R := WaitsOnly) .refl .trans (fun _ _ => waitsOnly_collect ..) _ s
  split
  · exact waitsOnly_ownLines ..
  · exact .refl s

theorem waitsOnly_collectAt (s : State) (b : Batch) : WaitsOnly s (s.collectAt b) := by
  unfold State.collectAt
  dsimp only
  split
  · exact waitsOnly_collectFor ..
  · exact (waitsOnly_collectFor ..).trans (waitsOnly_collectFor ..)

theorem waitsOnly_noteRecv (s : State) (pos lslot : Nat) : WaitsOnly s (s.noteRecv pos lslot) := by
  unfold State.noteRecv
  split
  · exact .refl s
  · exact waitsOnly_updCore ..

/-- Putting a batch back changes the batches, beside waits. -/
theorem putBatch_eq (s : State) (b : Batch) : ∃ bs, WaitsOnly { s with batches := bs } (s.putBatch b) := by
  unfold State.putBatch
  dsimp only
  split
  · exact ⟨_, waitsOnly_noteRecv ..⟩
  · exact ⟨_, .refl _⟩

/-- Two states differ at most in masters, cores, banks and batches. -/
def BatchesMove (s u : State) : Prop := ∃ m c b bs, u = { s with masters := m, cores := c, banks := b, batches := bs }

theorem WaitsOnly.batchesMove {s u : State} (h : WaitsOnly s u) : BatchesMove s u := by
  obtain ⟨m, c, b, rfl⟩ := h
  exact ⟨m, c, b, s.batches, rfl⟩

theorem BatchesMove.trans {s u w : State} (h : BatchesMove s u) (h' : BatchesMove u w) : BatchesMove s w := by
  obtain ⟨_, _, _, _, rfl⟩ := h
  obtain ⟨m, c, b, bs, rfl⟩ := h'
  exact ⟨m, c, b, bs, rfl⟩

theorem batchesMove_putBatch (s : State) (b : Batch) : BatchesMove s (s.putBatch b) := by
  obtain ⟨bs, m, c, k, h⟩ := putBatch_eq s b
  exact ⟨m, c, k, bs, h⟩

/-- The end of a batch's application: the batch is put back, and who waited for it is woken. -/
theorem batchesMove_finish (s : State) (b : Batch) (words : List Nat) : BatchesMove s ((s.putBatch b).wakeWords words).wakeHolds :=
  (batchesMove_putBatch s b).trans ((waitsOnly_wakeAll _ _).trans (waitsOnly_wakeHolds _)).batchesMove

/-! ## A batch is applied (R203, R235) -/

/-- The bytes that the writer's own die shows once its batch is applied. -/
def shownAt (s : State) (b : Batch) : Tab (Tab Byte) := Tab.set [] s.stale b.src (b.cells.foldl b.shown (Tab.get [] s.stale b.src))

/-- The dies with a copy that apply the batch later. -/
def laterDies (s : State) (b : Batch) : List Nat := (s.copyDies b.home b.cells).filter (· != b.src)

def firstKey (b : Batch) : Nat := ((b.cells.head?).map Prod.fst).getD 0

/-- A write to GLOB memory without a proof is in memory; the dies with a copy keep what they read. -/
theorem applyBatch_glob (s : State) (b : Batch) (hp : b.proof = 0) (hg : isGlobKey (firstKey b) = true) :
    BatchesMove { s with mem := setCells s.mem b.cells, stale := keepStale { s with stale := shownAt s b } (laterDies s b) b.cells }
      (s.applyBatch b) := by
  unfold State.applyBatch
  obtain ⟨m, c, k, h⟩ := waitsOnly_collectAt s b
  unfold firstKey at hg
  simp only [h, hp, hg, bne_self_eq_false, Bool.false_eq_true, if_false, if_true]
  exact BatchesMove.trans ⟨m, c, k, s.batches, rfl⟩ (batchesMove_finish _ _ _)

theorem applyBatch_other (s : State) (b : Batch) (hp : b.proof = 0) (hg : isGlobKey (firstKey b) = false) :
    BatchesMove { s with mem := setCells s.mem b.cells } (s.applyBatch b) := by
  unfold State.applyBatch
  unfold firstKey at hg
  simp only [hp, hg, bne_self_eq_false, Bool.false_eq_true, if_false]
  exact batchesMove_finish _ _ _

/-- The versions and the use that a tagged write leaves, and whether a block was discarded. -/
def tagged (s : State) (lslot proof : Nat) (cells : List Host.Cell) : Tab Byte × Nat × Bool :=
  tagBlocks (((s.launch? lslot).map (·.budget)).getD 0) cells (Tab.get [] s.vers proof) (((s.launch? lslot).map (·.use)).getD 0)
    ((cells.filter fun c => c.1 < 2 ^ 72).map fun c => c.1 / 64).eraseDups

theorem storeTagged_vers (s : State) (lslot proof : Nat) (cells : List Host.Cell) :
    (s.storeTagged lslot proof cells).1.vers = Tab.set [] s.vers proof (tagged s lslot proof cells).1 := by
  unfold State.storeTagged State.updLaunch
  dsimp only
  split <;> rfl

/-- A tagged write changes versions and launches alone. -/
theorem storeTagged_eq (s : State) (lslot proof : Nat) (cells : List Host.Cell) : ∃ l, (s.storeTagged lslot proof cells).1 =
    { s with vers := Tab.set [] s.vers proof (tagged s lslot proof cells).1, launches := l } := by
  unfold State.storeTagged State.updLaunch
  dsimp only
  split
  · exact ⟨_, rfl⟩
  · exact ⟨s.launches, rfl⟩

theorem doom_eq (s : State) (lslot : Nat) : ∃ l, s.doom lslot = { s with launches := l } := by
  unfold State.doom State.updLaunch
  split
  · exact ⟨_, rfl⟩
  · exact ⟨s.launches, rfl⟩

/-- The end of an application that has met the shadow budget (R214). -/
theorem doomed_finish (s : State) (pos : Nat) (f : Master → Master) (lslot : Nat) (b : Batch) (words : List Nat) :
    ∃ l, BatchesMove { s with launches := l } (((((s.updM pos f).doom lslot).putBatch b).wakeWords words).wakeHolds) := by
  obtain ⟨l, h⟩ := doom_eq (s.updM pos f) lslot
  rw [h]
  exact ⟨l, .trans ⟨_, s.cores, s.banks, s.batches, rfl⟩ (batchesMove_finish _ _ _)⟩

/-- A write under a proof makes versions; the dies with a copy keep the versions that they read. -/
theorem applyBatch_tagged (s : State) (b : Batch) (hp : b.proof ≠ 0) : ∃ l, BatchesMove
    { s with
      vers := Tab.set [] s.vers b.proof (tagged s b.lslot b.proof b.cells).1
      stale := keepVers { s with stale := shownAt s b } (laterDies s b) b.proof b.cells
      launches := l } (s.applyBatch b) := by
  unfold State.applyBatch
  obtain ⟨m, c, k, h⟩ := waitsOnly_collectAt s b
  have hp' : (b.proof != 0) = true := by simpa using hp
  simp only [h, hp', if_true, State.applyTagged]
  obtain ⟨l, hl⟩ := storeTagged_eq { s with
    masters := m, cores := c, banks := k
    stale := keepVers { s with masters := m, cores := c, banks := k, stale := shownAt s b } (laterDies s b) b.proof b.cells } b.lslot b.proof b.cells
  unfold shownAt laterDies at hl
  simp only [hl]
  split
  · exact (doomed_finish _ _ _ _ _ _).imp fun l' h => .trans ⟨m, c, k, s.batches, rfl⟩ h
  · exact ⟨l, .trans ⟨m, c, k, s.batches, rfl⟩ (batchesMove_finish _ _ _)⟩

/-- The later applied batches that a die with a copy has still to apply (R235). -/
def laterOnes (s : State) (b : Batch) (die : Nat) : List Batch :=
  (s.batches.dropWhile fun x => x.id != b.id).tail.filter fun x => x.applied && x.todo.contains die

/-- A die with a copy that has no later batch to apply shows the batch from now on. -/
theorem applyCopy_eq (s : State) (b : Batch) (die : Nat) (h : laterOnes s b die = []) :
    BatchesMove { s with stale := Tab.set [] s.stale die (b.cells.foldl b.shown (Tab.get [] s.stale die)) } (s.applyCopy b die) := by
  unfold laterOnes at h
  unfold State.applyCopy
  obtain ⟨m, c, k, hc⟩ := waitsOnly_collectFor s b die
  simp only [h, hc, List.any_nil, Bool.false_eq_true, if_false]
  refine .trans ⟨m, c, k, s.batches, rfl⟩ ?_
  split
  · exact batchesMove_finish _ _ _
  · exact .trans ⟨m, c, k, _, rfl⟩ ((waitsOnly_wakeAll _ _).trans (waitsOnly_wakeHolds _)).batchesMove

/-! ## What a die reads after it -/

/-- Distinct cells are read back as they were written. -/
theorem get_setCells_distinct {cs : List Host.Cell} (h : Distinct cs) (m : Tab Byte) {c : Host.Cell} (hc : c ∈ cs) :
    Tab.get 0 (setCells m cs) c.1 = c.2 := by
  induction cs generalizing m with
  | nil => cases hc
  | cons d cs ih =>
    obtain ⟨hd, hcs⟩ := List.pairwise_cons.1 h
    rw [setCells_cons]
    obtain rfl | hc := List.mem_cons.1 hc
    · rw [get_setCells_of_notMem _ _ _ fun e he => (hd e he).symm, Tab.get_set_same]
    · exact ih hcs _ hc

/-- A fold over dies that each change their own table alone: another die's stays. -/
theorem get_foldl_set_of_notMem {g : Nat → Tab Byte → Tab Byte} (ds : List Nat) (st : Tab (Tab Byte)) {d : Nat} (h : d ∉ ds) :
    Tab.get [] (ds.foldl (fun st d => Tab.set [] st d (g d (Tab.get [] st d))) st) d = Tab.get [] st d := by
  induction ds generalizing st with
  | nil => rfl
  | cons e ds ih =>
    rw [List.mem_cons, not_or] at h
    rw [List.foldl_cons, ih _ h.2, Tab.get_set_ne _ _ _ h.1]

/-- A fold over dies that each change their own table: what a change keeps, and what it brings about and keeps, holds of each die's
table. -/
theorem get_foldl_set_of_mem {g : Nat → Tab Byte → Tab Byte} {P : Tab Byte → Prop} {d : Nat} (hg : ∀ t, P t → P (g d t))
    (ds : List Nat) (st : Tab (Tab Byte)) (hst : P (Tab.get [] st d)) :
    P (Tab.get [] (ds.foldl (fun st d => Tab.set [] st d (g d (Tab.get [] st d))) st) d) := by
  induction ds generalizing st with
  | nil => exact hst
  | cons e ds ih =>
    refine ih _ ?_
    by_cases he : d = e
    · subst he
      rw [Tab.get_set_same]
      exact hg _ hst
    · rwa [Tab.get_set_ne _ _ _ he]

/-- What each die's change brings about holds of the table of every die of the list. -/
theorem get_foldl_set_establishes {g : Nat → Tab Byte → Tab Byte} {P : Tab Byte → Prop} {d : Nat} (hg : ∀ t, P (g d t))
    {ds : List Nat} (st : Tab (Tab Byte)) (hd : d ∈ ds) :
    P (Tab.get [] (ds.foldl (fun st d => Tab.set [] st d (g d (Tab.get [] st d))) st) d) := by
  obtain ⟨before, behind, rfl⟩ := List.append_of_mem hd
  rw [List.foldl_append, List.foldl_cons]
  refine get_foldl_set_of_mem (fun t _ => hg t) _ _ ?_
  rw [Tab.get_set_same]
  exact hg _

/-- A die with a copy keeps a byte that it still reads. -/
def keepByte (m : Tab Byte) (t : Tab Byte) (c : Host.Cell) : Tab Byte :=
  match Tab.find? t c.1 with
  | some _ => t
  | none => Tab.put t c.1 (Tab.get 0 m c.1)

theorem keepStale_eq (s : State) (ds : List Nat) (cells : List Host.Cell) : keepStale s ds cells =
    ds.foldl (fun st d => Tab.set [] st d ((cells.filter fun c => s.copied d c.1).foldl (keepByte s.mem) (Tab.get [] st d))) s.stale := rfl

/-- A die that applies the batch now keeps nothing. -/
theorem keepStale_of_notMem (s : State) (cells : List Host.Cell) {ds : List Nat} {d : Nat} (h : d ∉ ds) :
    Tab.get [] (keepStale s ds cells) d = Tab.get [] s.stale d := by
  rw [keepStale_eq]
  exact get_foldl_set_of_notMem (g := fun d t => (cells.filter fun c => s.copied d c.1).foldl (keepByte s.mem) t) ds s.stale h

theorem find?_keepByte (m t : Tab Byte) (c : Host.Cell) (k : Nat) : Tab.find? (keepByte m t c) k =
    if k = c.1 then some ((Tab.find? t k).getD (Tab.get 0 m k)) else Tab.find? t k := by
  unfold keepByte
  split
  · next v hv =>
    split
    · next hk => rw [hk, hv]; rfl
    · rfl
  · next hv =>
    split
    · next hk => rw [hk, hv, Tab.find?_put_same]; rfl
    · next hk => rw [Tab.find?_put_ne _ _ hk]

/-- Keeping bytes changes no byte that the die reads. -/
theorem getD_foldl_keepByte (m : Tab Byte) (cs : List Host.Cell) (t : Tab Byte) (k : Nat) :
    (Tab.find? (cs.foldl (keepByte m) t) k).getD (Tab.get 0 m k) = (Tab.find? t k).getD (Tab.get 0 m k) := by
  induction cs generalizing t with
  | nil => rfl
  | cons c cs ih =>
    rw [List.foldl_cons, ih, find?_keepByte]
    split <;> rfl

/-- What is kept is kept, and a byte of a cell is. -/
theorem isSome_foldl_keepByte (m : Tab Byte) (cs : List Host.Cell) (t : Tab Byte) (k : Nat)
    (h : (Tab.find? t k).isSome = true ∨ ∃ c ∈ cs, c.1 = k) : (Tab.find? (cs.foldl (keepByte m) t) k).isSome = true := by
  induction cs generalizing t with
  | nil => simpa using h
  | cons c cs ih =>
    refine ih _ ?_
    rw [find?_keepByte]
    by_cases hk : k = c.1
    · simp [hk]
    · rw [if_neg hk]
      refine h.imp_right fun ⟨d, hd, hdk⟩ => ⟨d, (List.mem_cons.1 hd).resolve_left ?_, hdk⟩
      rintro rfl
      exact hk hdk.symm

/-- What a die reads of memory `m` with its table `t` of bytes kept. -/
def kept (t m : Tab Byte) (k : Nat) : Byte := (Tab.find? t k).getD (Tab.get 0 m k)

theorem dieByte_eq (s : State) (d k : Nat) : s.dieByte d k =
    ((Tab.find? (Tab.get [] s.halo d) k).getD (kept (Tab.get [] s.stale d) s.mem k)) := by
  unfold State.dieByte kept
  cases Tab.find? (Tab.get [] s.halo d) k with
  | some v => rfl
  | none => cases Tab.find? (Tab.get [] s.stale d) k <;> rfl

/-- A die with a copy reads after a write at the home what it read before, wherever it has a copy or the write has no cell. -/
theorem kept_keepStale (s : State) {ds : List Nat} {d : Nat} (hd : d ∈ ds) (cells : List Host.Cell) (k : Nat)
    (h : s.copied d k = true ∨ ∀ c ∈ cells, c.1 ≠ k) :
    kept (Tab.get [] (keepStale s ds cells) d) (setCells s.mem cells) k = kept (Tab.get [] s.stale d) s.mem k := by
  rw [keepStale_eq]
  have hread := get_foldl_set_of_mem (d := d) (g := fun d t => (cells.filter fun c => s.copied d c.1).foldl (keepByte s.mem) t)
    (P := fun t => (Tab.find? t k).getD (Tab.get 0 s.mem k) = (Tab.find? (Tab.get [] s.stale d) k).getD (Tab.get 0 s.mem k))
    (fun t ht => (getD_foldl_keepByte ..).trans ht) ds s.stale rfl
  by_cases hk : ∃ c ∈ cells, c.1 = k
  · obtain ⟨c, hc, rfl⟩ := hk
    have hcopied := h.resolve_right fun h => h c hc rfl
    have hsome := get_foldl_set_establishes (d := d) (g := fun d t => (cells.filter fun c => s.copied d c.1).foldl (keepByte s.mem) t)
      (P := fun t => (Tab.find? t c.1).isSome = true)
      (fun t => isSome_foldl_keepByte _ _ _ _ (.inr ⟨c, List.mem_filter.2 ⟨hc, hcopied⟩, rfl⟩)) s.stale hd
    obtain ⟨v, hv⟩ := Option.isSome_iff_exists.1 hsome
    unfold kept
    rw [← hread]
    simp only [hv, Option.getD_some]
  · push Not at hk
    unfold kept
    rw [get_setCells_of_notMem _ _ _ hk]
    exact hread

/-! ## What a die reads of a proof's versions -/

/-- A die with a copy keeps a version's byte that it still reads, or that it reads none. -/
def keepVer (old : Tab Byte) (proof : Nat) (t : Tab Byte) (c : Host.Cell) : Tab Byte :=
  if (Tab.find? t (verKey proof c.1)).isSome || (Tab.find? t (noVerKey proof c.1)).isSome then t
  else match Tab.find? old c.1 with
    | some v => Tab.put t (verKey proof c.1) v
    | none => Tab.put t (noVerKey proof c.1) 0

theorem keepVers_eq (s : State) (ds : List Nat) (proof : Nat) (cells : List Host.Cell) : keepVers s ds proof cells =
    ds.foldl (fun st d => Tab.set [] st d
      ((cells.filter fun c => s.copied d c.1).foldl (keepVer (Tab.get [] s.vers proof) proof) (Tab.get [] st d))) s.stale := rfl

/-- A die's table says what it reads of a proof's version at `k`. -/
def settled (t : Tab Byte) (proof k : Nat) : Bool := (Tab.find? t (verKey proof k)).isSome || (Tab.find? t (noVerKey proof k)).isSome

/-- The same of the version `old` below its table `t`. -/
def readVer (old t : Tab Byte) (proof k : Nat) : Option Byte :=
  match Tab.find? t (verKey proof k) with
  | some v => some v
  | none => if (Tab.find? t (noVerKey proof k)).isSome then none else Tab.find? old k

theorem dieVer_eq (vers : Tab (Tab Byte)) (t : Tab Byte) (proof k : Nat) :
    dieVer vers t proof k = readVer (Tab.get [] vers proof) t proof k := rfl

/-- What a settled table says does not depend on the versions. -/
theorem readVer_of_settled {t : Tab Byte} {proof k : Nat} (h : settled t proof k = true) (a b : Tab Byte) :
    readVer a t proof k = readVer b t proof k := by
  unfold settled at h
  unfold readVer
  cases hv : Tab.find? t (verKey proof k) with
  | some v => rfl
  | none =>
    rw [hv] at h
    have hn : (Tab.find? t (noVerKey proof k)).isSome = true := by simpa using h
    simp only [hn, if_true]

/-- The two kinds of keys of a proof's bytes below 2^95 are different, and each names its byte. -/
theorem verKey_inj {proof j k : Nat} : verKey proof j = verKey proof k ↔ j = k := by
  unfold verKey
  omega

theorem noVerKey_inj {proof j k : Nat} : noVerKey proof j = noVerKey proof k ↔ j = k := by
  unfold noVerKey verKey
  omega

theorem verKey_ne_noVerKey {proof j k : Nat} (hj : j < 2 ^ 95) : verKey proof j ≠ noVerKey proof k := by
  unfold noVerKey verKey
  omega

/-- Keeping a version's byte changes nothing that the die reads, and settles the byte. -/
theorem keepVer_reads (old : Tab Byte) (proof : Nat) (t : Tab Byte) (c : Host.Cell) (k : Nat) (hk : k < 2 ^ 95) (hc : c.1 < 2 ^ 95) :
    readVer old (keepVer old proof t c) proof k = readVer old t proof k ∧
      (settled t proof k = true ∨ k = c.1 → settled (keepVer old proof t c) proof k = true) := by
  unfold keepVer
  split
  · next h => exact ⟨rfl, fun hs => hs.elim id fun hkc => by rw [hkc]; exact h⟩
  · next h =>
    simp only [Bool.or_eq_true, not_or, Bool.not_eq_true, Option.isSome_eq_false_iff, Option.isNone_iff_eq_none] at h
    obtain ⟨hver, hno⟩ := h
    by_cases hkc : k = c.1
    · subst hkc
      split
      · next v hv => simp [readVer, settled, hver, hno, hv, Tab.find?_put_same]
      · next hv =>
        have hne := fun v => Tab.find?_put_ne t v (verKey_ne_noVerKey (proof := proof) (k := c.1) hk)
        simp [readVer, settled, hver, hno, hv, Tab.find?_put_same, hne]
    · have hother : ∀ (x : Nat) (v : Byte), x ≠ verKey proof k → x ≠ noVerKey proof k →
          readVer old (Tab.put t x v) proof k = readVer old t proof k ∧ settled (Tab.put t x v) proof k = settled t proof k := by
        intro x v hx hx'
        simp only [readVer, settled, Tab.find?_put_ne t v hx.symm, Tab.find?_put_ne t v hx'.symm, and_self]
      have hcase : ∀ t', readVer old t' proof k = readVer old t proof k ∧ settled t' proof k = settled t proof k →
          readVer old t' proof k = readVer old t proof k ∧ (settled t proof k = true ∨ k = c.1 → settled t' proof k = true) :=
        fun t' h => ⟨h.1, fun hs => h.2.trans (hs.resolve_right hkc)⟩
      split
      · exact hcase _ (hother _ _ (fun h => hkc (verKey_inj.1 h).symm) (verKey_ne_noVerKey hc))
      · exact hcase _ (hother _ _ (verKey_ne_noVerKey hk).symm fun h => hkc (noVerKey_inj.1 h).symm)

theorem foldl_keepVer_reads (old : Tab Byte) (proof : Nat) (cs : List Host.Cell) (t : Tab Byte) (k : Nat) (hk : k < 2 ^ 95)
    (hcs : ∀ c ∈ cs, c.1 < 2 ^ 95) :
    readVer old (cs.foldl (keepVer old proof) t) proof k = readVer old t proof k ∧
      ((settled t proof k = true ∨ ∃ c ∈ cs, c.1 = k) → settled (cs.foldl (keepVer old proof) t) proof k = true) := by
  induction cs generalizing t with
  | nil => exact ⟨rfl, fun h => by simpa using h⟩
  | cons c cs ih =>
    obtain ⟨hread, hsettle⟩ := keepVer_reads old proof t c k hk (hcs c List.mem_cons_self)
    obtain ⟨hread', hsettle'⟩ := ih (keepVer old proof t c) fun d hd => hcs d (List.mem_cons_of_mem _ hd)
    refine ⟨hread'.trans hread, fun h => hsettle' ?_⟩
    obtain h | ⟨d, hd, hdk⟩ := h
    · exact .inl (hsettle (.inl h))
    · obtain rfl | hd := List.mem_cons.1 hd
      · exact .inl (hsettle (.inr hdk.symm))
      · exact .inr ⟨d, hd, hdk⟩

/-- Tagged writes change versions at their cells alone. -/
theorem find?_tagBlocks_of_notMem (budget : Nat) (cells : List Host.Cell) (t : Tab Byte) (use : Nat) (bs : List Nat) (k : Nat)
    (h : ∀ c ∈ cells, c.1 ≠ k) : Tab.find? (tagBlocks budget cells t use bs).1 k = Tab.find? t k := by
  induction bs generalizing t use with
  | nil => rfl
  | cons b bs ih =>
    have hput : Tab.find? (putCells t (cells.filter fun c => blockOfCell c.1 = b)) k = Tab.find? t k :=
      find?_putCells_of_notMem _ _ _ fun c hc => h c (List.mem_filter.1 hc).1
    unfold tagBlocks
    dsimp only
    split
    · rw [ih, hput]
    split
    · rw [ih, hput]
    · exact ih _ _

/-- A die with a copy reads after a tagged write at the home the version that it read before. -/
theorem dieVer_keepVers (s : State) {ds : List Nat} {d : Nat} (hd : d ∈ ds) (lslot proof : Nat) (cells : List Host.Cell)
    (hcells : ∀ c ∈ cells, c.1 < 2 ^ 95) (k : Nat) (hk : k < 2 ^ 95) (hcopied : s.copied d k = true) (stale' : Tab (Tab Byte))
    (hstale : Tab.get [] stale' d = Tab.get [] s.stale d) :
    dieVer (Tab.set [] s.vers proof (tagged s lslot proof cells).1)
        (Tab.get [] (keepVers { s with stale := stale' } ds proof cells) d) proof k =
      dieVer s.vers (Tab.get [] s.stale d) proof k := by
  have hsub : ∀ c ∈ cells.filter (fun c => s.copied d c.1), c.1 < 2 ^ 95 := fun c hc => hcells c (List.mem_filter.1 hc).1
  let keep := fun d t => (cells.filter fun c => s.copied d c.1).foldl (keepVer (Tab.get [] s.vers proof) proof) t
  have hread := get_foldl_set_of_mem (d := d) (g := keep)
    (P := fun t => readVer (Tab.get [] s.vers proof) t proof k = readVer (Tab.get [] s.vers proof) (Tab.get [] s.stale d) proof k)
    (fun t ht => (foldl_keepVer_reads _ _ _ t k hk hsub).1.trans ht) ds stale' (by rw [hstale])
  have heq : keepVers { s with stale := stale' } ds proof cells =
    ds.foldl (fun st d => Tab.set [] st d (keep d (Tab.get [] st d))) stale' := rfl
  rw [dieVer_eq, dieVer_eq, Tab.get_set_same, heq, ← hread]
  by_cases hin : ∃ c ∈ cells, c.1 = k
  · obtain ⟨c, hc, rfl⟩ := hin
    refine readVer_of_settled (get_foldl_set_establishes (P := fun t => settled t proof c.1 = true) (fun t => ?_) stale' hd) _ _
    exact (foldl_keepVer_reads _ _ _ t c.1 hk hsub).2 (.inr ⟨c, List.mem_filter.2 ⟨hc, hcopied⟩, rfl⟩)
  · push Not at hin
    unfold readVer tagged
    rw [find?_tagBlocks_of_notMem _ _ _ _ _ _ hin]

/-! ## What a batch that has been shown leaves -/

theorem find?_del_of_none {α : Type} {t : Tab α} {k : Nat} (i : Nat) (h : Tab.find? t k = none) : Tab.find? (Tab.del t i) k = none := by
  by_cases hk : k = i
  · rw [hk, Tab.find?_del_same]
  · rwa [Tab.find?_del_ne _ hk]

/-- A byte that the batch shows is read from memory, or from its proof's version. -/
theorem find?_foldl_shown (b : Batch) (cs : List Host.Cell) (t : Tab Byte) (k : Nat) (hin : ∃ c ∈ cs, c.1 = k) :
    (b.proof = 0 → Tab.find? (cs.foldl b.shown t) k = none) ∧
      (b.proof ≠ 0 → Tab.find? (cs.foldl b.shown t) (verKey b.proof k) = none ∧
        Tab.find? (cs.foldl b.shown t) (noVerKey b.proof k) = none) := by
  have hstays : ∀ (cs : List Host.Cell) (t : Tab Byte) (x : Nat), Tab.find? t x = none → Tab.find? (cs.foldl b.shown t) x = none := by
    intro cs
    induction cs with
    | nil => exact fun _ _ h => h
    | cons c cs ih =>
      intro t x h
      refine ih _ _ ?_
      unfold Batch.shown
      split
      · exact find?_del_of_none _ h
      · exact find?_del_of_none _ (find?_del_of_none _ h)
  obtain ⟨c, hc, rfl⟩ := hin
  obtain ⟨before, behind, rfl⟩ := List.append_of_mem hc
  rw [List.foldl_append, List.foldl_cons]
  refine ⟨fun hp => hstays _ _ _ ?_, fun hp => ⟨hstays _ _ _ ?_, hstays _ _ _ ?_⟩⟩
  · rw [Batch.shown, if_pos hp, Tab.find?_del_same]
  · rw [Batch.shown, if_neg hp]
    exact find?_del_of_none _ (Tab.find?_del_same ..)
  · rw [Batch.shown, if_neg hp, Tab.find?_del_same]

/-! ## The events -/

theorem exec_writeBatchApply {s : State} {b : Batch} (hb : s.batch? s.cur = some b) (hcan : s.canApply b s.arg = true) :
    exec .writeBatchApply s = .next (if b.applied then s.applyCopy b s.arg else s.applyBatch b) := by
  simp only [exec, execWriteBatchApply, hb, hcan]
  rfl

theorem exec_writebackApply {s : State} {b : Batch} (hb : s.batch? s.cur = some b) (happ : b.applied = false)
    (hcan : s.canApply b b.home = true) : exec .writebackApply s = .next (s.applyBatch b) := by
  simp only [exec, execWritebackApply, hb, hcan, happ]
  rfl

theorem canApply_home {s : State} {b : Batch} (hpush : b.push = false) (happ : b.applied = false) (hwait : s.waiting b.after = false)
    (hhome : s.tokensFree b b.home = true) (hsrc : s.tokensFree b b.src = true) : s.canApply b b.home = true := by
  simp [State.canApply, hpush, happ, hwait, hhome, hsrc]

theorem canApply_copy {s : State} {b : Batch} {die : Nat} (hpush : b.push = false) (happ : b.applied = true)
    (hfree : s.tokensFree b die = true) (htodo : die ∈ b.todo) (hbehind : s.copyBehind b die = false) : s.canApply b die = true := by
  simp [State.canApply, hpush, happ, hfree, htodo, hbehind]

/-- What an application at the home shows (R203, R235). -/
theorem applyBatch_shows (s : State) (b : Batch) (hp : b.proof = 0) (hdist : Distinct b.cells) :
    (s.applyBatch b).vers = s.vers ∧ (∀ c ∈ b.cells, Tab.get 0 (s.applyBatch b).mem c.1 = c.2) ∧
      (∀ k, (∀ c ∈ b.cells, c.1 ≠ k) → Tab.get 0 (s.applyBatch b).mem k = Tab.get 0 s.mem k) ∧
      (isGlobKey (firstKey b) = true →
        (∀ d ∈ s.copyDies b.home b.cells, d ≠ b.src → ∀ k, (s.copied d k = true ∨ ∀ c ∈ b.cells, c.1 ≠ k) →
          (s.applyBatch b).dieByte d k = s.dieByte d k) ∧
        (Tab.get [] s.halo b.src = [] → ∀ c ∈ b.cells, (s.applyBatch b).dieByte b.src c.1 = c.2)) := by
  cases hg : isGlobKey (firstKey b) with
  | false =>
    obtain ⟨m, c, k, bs, h⟩ := applyBatch_other s b hp hg
    rw [h]
    exact ⟨rfl, fun _ hc => get_setCells_distinct hdist _ hc, fun _ hk => get_setCells_of_notMem _ _ _ hk, fun h => by cases h⟩
  | true =>
    obtain ⟨m, c, k, bs, h⟩ := applyBatch_glob s b hp hg
    rw [h]
    refine ⟨rfl, fun _ hc => get_setCells_distinct hdist _ hc, fun _ hk => get_setCells_of_notMem _ _ _ hk, fun _ => ⟨?_, ?_⟩⟩
    · intro d hd hne k hk
      have hlater : d ∈ laterDies s b := List.mem_filter.2 ⟨hd, by simpa using hne⟩
      have hkeep := kept_keepStale { s with stale := shownAt s b } hlater b.cells k hk
      rw [dieByte_eq, dieByte_eq]
      dsimp only at hkeep ⊢
      rw [hkeep, shownAt, Tab.get_set_ne _ _ _ hne]
    · intro hhalo e he
      rw [dieByte_eq]
      dsimp only
      have hnot : b.src ∉ laterDies s b := fun hin => by simpa using (List.mem_filter.1 hin).2
      rw [hhalo, keepStale_of_notMem _ _ hnot, shownAt, Tab.get_set_same, kept, (find?_foldl_shown b b.cells _ _ ⟨e, he, rfl⟩).1 hp]
      exact get_setCells_distinct hdist _ he

/-- Settles O47: the application at the home, of a tagged write, and at a copy. -/
theorem writeBatches : Obligations.WriteBatches := by
  unfold Obligations.WriteBatches
  intro s b hb hpush first
  refine ⟨fun i hi happ hwait hhome hsrc hp hdist => ?_, fun harg happ hwait hhome hsrc hp => ?_, fun happ hfree htodo hbehind hlast => ?_⟩
  · have hcan := canApply_home hpush happ hwait hhome hsrc
    have hexec : exec i s = .next (s.applyBatch b) := by
      obtain ⟨rfl, harg⟩ | rfl := hi
      · rw [exec_writeBatchApply hb (harg ▸ hcan), happ, if_neg Bool.false_ne_true]
      · exact exec_writebackApply hb happ hcan
    exact ⟨_, hexec, applyBatch_shows s b hp hdist⟩
  · have hexec : exec .writeBatchApply s = .next (s.applyBatch b) := by
      rw [exec_writeBatchApply hb (harg ▸ canApply_home hpush happ hwait hhome hsrc), happ, if_neg Bool.false_ne_true]
    obtain ⟨l, m, c, k, bs, h⟩ := applyBatch_tagged s b hp
    rw [h] at hexec
    refine ⟨_, hexec, rfl, (storeTagged_vers ..).symm, fun hcells d hd hne j hj hcopied => ?_⟩
    have hlater : d ∈ laterDies s b := List.mem_filter.2 ⟨hd, by simpa using hne⟩
    exact dieVer_keepVers s hlater b.lslot b.proof b.cells hcells j hj hcopied _ (Tab.get_set_ne _ _ _ hne)
  · have hlater : laterOnes s b s.arg = [] := by
      refine List.filter_eq_nil_iff.2 fun y hy => ?_
      obtain h | h := hlast y hy <;> simp [h]
    obtain ⟨m, c, k, bs, h⟩ := applyCopy_eq s b s.arg hlater
    have hexec := exec_writeBatchApply hb (canApply_copy hpush happ hfree htodo hbehind)
    rw [happ, if_pos rfl, h] at hexec
    refine ⟨_, hexec, rfl, rfl, ?_, ?_⟩
    · intro hp hhalo e he
      rw [dieByte_eq]
      dsimp only
      rw [hhalo, Tab.get_set_same, kept, (find?_foldl_shown b b.cells _ _ ⟨e, he, rfl⟩).1 hp]
      rfl
    · intro hp e he
      obtain ⟨hver, hno⟩ := (find?_foldl_shown b b.cells (Tab.get [] s.stale s.arg) _ ⟨e, he, rfl⟩).2 hp
      rw [dieVer_eq]
      dsimp only
      rw [Tab.get_set_same, readVer, hver, hno]
      rfl

end Sys2Proof.Machine
end

section

/-!
# What an access leaves as it was (spec/10, R213)
The frame of loads and stores: what an access does beside its data changes waits, tokens, kept values and TBMASK alone; and what
the completion of an instruction then shows.
-/

namespace Sys2Proof.Machine

open Sys2Proof.Claims

/-! ## Masters -/

/-- Two masters differ at most in whether and where they wait, in TBMASK, in a kept value, in their attempts on lines and in a
reserved slot. -/
def SameTask (m n : Master) : Prop :=
  ∃ st park wait woke place tb kept att8 resv,
    m = { n with st := st, park := park, wait := wait, woke := woke, place := place, tbmask := tb, kept := kept, att8 := att8, resv := resv }

theorem SameTask.refl (m : Master) : SameTask m m :=
  ⟨m.st, m.park, m.wait, m.woke, m.place, m.tbmask, m.kept, m.att8, m.resv, rfl⟩

theorem SameTask.trans {a b c : Master} (h : SameTask a b) (h' : SameTask b c) : SameTask a c := by
  obtain ⟨st, park, wait, woke, place, tb, kept, att8, resv, rfl⟩ := h
  obtain ⟨_, _, _, _, _, _, _, _, _, rfl⟩ := h'
  exact ⟨st, park, wait, woke, place, tb, kept, att8, resv, rfl⟩

theorem SameButWait.sameTask {m n : Master} (h : SameButWait m n) : SameTask m n := by
  obtain ⟨st, park, wait, woke, place, rfl⟩ := h
  exact ⟨st, park, wait, woke, place, n.tbmask, n.kept, n.att8, n.resv, rfl⟩

theorem SameTask.files {m n : Master} (h : SameTask m n) : SameFiles m n := by
  obtain ⟨_, _, _, _, _, _, _, _, _, rfl⟩ := h
  exact ⟨rfl, rfl, rfl, rfl, rfl⟩
theorem SameTask.specials {m n : Master} (h : SameTask m n) : SameSpecials m n := by
  obtain ⟨_, _, _, _, _, _, _, _, _, rfl⟩ := h
  exact ⟨rfl, rfl, rfl, rfl, rfl, rfl, rfl, rfl, rfl, rfl⟩
theorem SameTask.pc {m n : Master} (h : SameTask m n) : m.pc = n.pc := by
  obtain ⟨_, _, _, _, _, _, _, _, _, rfl⟩ := h
  rfl
theorem SameTask.o {m n : Master} (h : SameTask m n) : m.o = n.o := by
  obtain ⟨_, _, _, _, _, _, _, _, _, rfl⟩ := h
  rfl
theorem SameTask.kind {m n : Master} (h : SameTask m n) : m.kind = n.kind := by
  obtain ⟨_, _, _, _, _, _, _, _, _, rfl⟩ := h
  rfl
theorem SameTask.lslot {m n : Master} (h : SameTask m n) : m.lslot = n.lslot := by
  obtain ⟨_, _, _, _, _, _, _, _, _, rfl⟩ := h
  rfl
theorem SameTask.exiting {m n : Master} (h : SameTask m n) : m.exiting = n.exiting := by
  obtain ⟨_, _, _, _, _, _, _, _, _, rfl⟩ := h
  rfl

theorem sameTask_setTb (m : Master) (b : Option Nat) : SameTask (m.setTb b) m := by
  obtain ⟨tb, h⟩ := setTb_eq m b
  rw [h]
  exact ⟨m.st, m.park, m.wait, m.woke, m.place, tb, m.kept, m.att8, m.resv, rfl⟩

theorem sameTask_att8 (m : Master) (a : Tab Nat) : SameTask { m with att8 := a } m :=
  ⟨m.st, m.park, m.wait, m.woke, m.place, m.tbmask, m.kept, a, m.resv, rfl⟩

theorem sameTask_resv (m : Master) (r : Option Nat) : SameTask { m with resv := r } m :=
  ⟨m.st, m.park, m.wait, m.woke, m.place, m.tbmask, m.kept, m.att8, r, rfl⟩

/-- A register write other than one of o changes register files alone. -/
theorem land_files (m : Master) {w : RegW} (hw : ∀ x, w ≠ .o x) : ∃ s v c, m.land w = { m with s := s, v := v, c := c } := by
  cases w with
  | s r v =>
    unfold Master.land Master.ws
    dsimp only
    split
    · exact ⟨m.s, m.v, m.c, rfl⟩
    · exact ⟨_, m.v, m.c, rfl⟩
  | v r x => exact ⟨m.s, _, m.c, rfl⟩
  | vm r k x => exact ⟨m.s, _, m.c, rfl⟩
  | c r x =>
    unfold Master.land Master.wc
    dsimp only
    split
    · exact ⟨m.s, m.v, m.c, rfl⟩
    · exact ⟨m.s, m.v, _, rfl⟩
  | o x => exact absurd rfl (hw x)

/-- What a register write writes depends on the register files alone. -/
theorem sameFiles_land {m n : Master} (h : SameFiles m n) (w : RegW) : SameFiles (m.land w) (n.land w) := by
  obtain ⟨hs, hv, hm, hc, hq⟩ := h
  cases w with
  | s r v =>
    unfold Master.land Master.ws
    dsimp only
    split
    · exact ⟨hs, hv, hm, hc, hq⟩
    · exact ⟨by rw [hs], hv, hm, hc, hq⟩
  | v r x => exact ⟨hs, by unfold Master.land Master.wv; rw [hv], hm, hc, hq⟩
  | vm r k x => exact ⟨hs, by unfold Master.land Master.wv Master.rv; rw [hv], hm, hc, hq⟩
  | c r x =>
    unfold Master.land Master.wc
    dsimp only
    split
    · exact ⟨hs, hv, hm, hc, hq⟩
    · exact ⟨hs, hv, hm, by rw [hc], hq⟩
  | o x => exact ⟨hs, hv, hm, hc, hq⟩

theorem sameFiles_landAll {m n : Master} (h : SameFiles m n) (ws : List RegW) : SameFiles (m.landAll ws) (n.landAll ws) := by
  induction ws generalizing m n with
  | nil => exact h
  | cons w ws ih => exact ih (sameFiles_land h w)

theorem sameSpecials_trans {a b c : Master} (h : SameSpecials a b) (h' : SameSpecials b c) : SameSpecials a c := by
  unfold SameSpecials at h h' ⊢
  simp only [h, h', and_self]

/-! ## States -/

theorem sameReqs_refl (l : List Req) : SameReqs l l := rfl

/-- What requests keep changes in some of them alone. -/
theorem sameReqs_map {f : Req → Req} (hf : ∀ r, ∃ d, f r = { r with drop := d }) (l : List Req) : SameReqs (l.map f) l := by
  unfold SameReqs
  rw [List.map_map]
  refine List.map_congr_left fun r _ => ?_
  obtain ⟨d, h⟩ := hf r
  dsimp only [Function.comp]
  rw [h]

/-- The states differ at most in tokens, holders of copies, waits and what masters and requests keep. -/
def Aside (s u : State) : Prop :=
  ∃ ms cs bs cp rq, u = { s with masters := ms, cores := cs, banks := bs, copies := cp, reqs := rq } ∧
    SameReqs rq s.reqs ∧ ∀ p, SameTask (u.ms p) (s.ms p)

theorem Aside.refl (s : State) : Aside s s := ⟨s.masters, s.cores, s.banks, s.copies, s.reqs, rfl, rfl, fun _ => .refl _⟩

theorem Aside.trans {s u w : State} (h : Aside s u) (h' : Aside u w) : Aside s w := by
  obtain ⟨_, _, _, _, _, rfl, hreqs, hms⟩ := h
  obtain ⟨ms, cs, bs, cp, rq, rfl, hreqs', hms'⟩ := h'
  exact ⟨ms, cs, bs, cp, rq, rfl, hreqs'.trans hreqs, fun p => (hms' p).trans (hms p)⟩

theorem Aside.ms {s u : State} (h : Aside s u) (p : Nat) : SameTask (u.ms p) (s.ms p) := by
  obtain ⟨_, _, _, _, _, _, _, hms⟩ := h
  exact hms p
theorem Aside.reqs {s u : State} (h : Aside s u) : SameReqs u.reqs s.reqs := by
  obtain ⟨_, _, _, _, _, rfl, hreqs, _⟩ := h
  exact hreqs
theorem Aside.cur {s u : State} (h : Aside s u) : u.cur = s.cur := by
  obtain ⟨_, _, _, _, _, rfl, _⟩ := h
  rfl
theorem Aside.mem {s u : State} (h : Aside s u) : u.mem = s.mem := by
  obtain ⟨_, _, _, _, _, rfl, _⟩ := h
  rfl
theorem Aside.vers {s u : State} (h : Aside s u) : u.vers = s.vers := by
  obtain ⟨_, _, _, _, _, rfl, _⟩ := h
  rfl
theorem Aside.nextReq {s u : State} (h : Aside s u) : u.nextReq = s.nextReq := by
  obtain ⟨_, _, _, _, _, rfl, _⟩ := h
  rfl
theorem Aside.batches {s u : State} (h : Aside s u) : u.batches = s.batches := by
  obtain ⟨_, _, _, _, _, rfl, _⟩ := h
  rfl
theorem Aside.pages {s u : State} (h : Aside s u) : u.pages = s.pages := by
  obtain ⟨_, _, _, _, _, rfl, _⟩ := h
  rfl
theorem Aside.launches {s u : State} (h : Aside s u) : u.launches = s.launches := by
  obtain ⟨_, _, _, _, _, rfl, _⟩ := h
  rfl
theorem Aside.me {s u : State} (h : Aside s u) : SameTask u.me s.me := by
  have hme : u.me = u.ms s.cur := congrArg u.ms h.cur
  rw [hme]
  exact h.ms s.cur

theorem aside_updM (s : State) (pos : Nat) {f : Master → Master} (hf : ∀ m, SameTask (f m) m) : Aside s (s.updM pos f) := by
  refine ⟨_, s.cores, s.banks, s.copies, s.reqs, rfl, rfl, fun p => ?_⟩
  rw [State.updM, ms_setM]
  split
  · next h => rw [h]; exact hf _
  · exact .refl _

theorem aside_updCore (s : State) (n : Nat) (f : Core → Core) : Aside s (s.updCore n f) :=
  ⟨s.masters, _, s.banks, s.copies, s.reqs, rfl, rfl, fun _ => .refl _⟩

theorem aside_noteSent (s : State) (pos l : Nat) : Aside s (s.noteSent pos l) := by
  unfold State.noteSent
  split
  · exact .refl s
  · exact aside_updCore ..

theorem aside_noteRecv (s : State) (pos l : Nat) : Aside s (s.noteRecv pos l) := by
  unfold State.noteRecv
  split
  · exact .refl s
  · exact aside_updCore ..

theorem aside_touch (s : State) (pos k : Nat) : Aside s (s.touch pos k) := aside_updM s pos fun m => sameTask_setTb m _

theorem aside_wakeAll (s : State) (f : Nat → Master → Bool) : Aside s (s.wakeAll f) :=
  ⟨_, s.cores, s.banks, s.copies, s.reqs, rfl, rfl, fun p => (wakeAll_sameButWait s f p).sameTask⟩

theorem aside_collect (s : State) (die line : Nat) : Aside s (s.collect die line) :=
  ⟨s.masters, _, _, s.copies, s.reqs, rfl, rfl, fun _ => .refl _⟩

theorem aside_takeAll (s : State) (core line : Nat) : Aside s (s.takeAll core line) := (aside_collect ..).trans (aside_updCore ..)

theorem aside_takeOne (s : State) (core line : Nat) : Aside s (s.takeOne core line) := by
  unfold State.takeOne
  split
  · exact .refl s
  · refine .trans ?_ (aside_updCore ..)
    split
    · exact .refl s
    split
    · exact aside_updCore ..
    split
    · exact ⟨s.masters, s.cores, _, s.copies, s.reqs, rfl, rfl, fun _ => .refl _⟩
    · exact .refl s

theorem aside_lineLand (s : State) (core line : Nat) (write : Bool) : Aside s (s.lineLand core line write) := by
  have h : Aside s (s.takeTokens core line write) := by
    unfold State.takeTokens
    split
    · exact aside_takeAll ..
    · exact aside_takeOne ..
  rw [lineLand_eq]
  split
  · exact h
  · refine h.trans ?_
    generalize s.takeTokens core line write = u
    exact ⟨u.masters, u.cores, u.banks, _, u.reqs, rfl, rfl, fun _ => .refl _⟩

theorem aside_linesUsed (s : State) (ext : List (Nat × Nat)) : Aside s (s.linesUsed ext) := by
  refine foldl_related .refl .trans (fun u l => ?_) _ s
  dsimp only
  have h := aside_updM u u.cur (f := fun m => { m with att8 := Tab.set 0 m.att8 l 0 }) fun m => sameTask_att8 m _
  split
  · exact h.trans ((aside_updCore ..).trans (aside_wakeAll ..))
  · exact h

/-- Dropping kept values changes what the acting task and its requests keep. -/
theorem aside_unkeep (s : State) (f : Nat → Nat → Bool) : Aside s (s.unkeep f) := by
  have hkept : ∀ m : Master, SameTask (match m.kept with
      | some v => if f v.ea.toNat v.img.bytes.length then { m with kept := none } else m
      | none => m) m := fun m => by
    split
    · split
      · exact ⟨m.st, m.park, m.wait, m.woke, m.place, m.tbmask, none, m.att8, m.resv, rfl⟩
      · exact .refl m
    · exact .refl m
  refine (aside_updM s s.cur hkept).trans ?_
  refine ⟨_, s.cores, s.banks, s.copies, (s.unkeep f).reqs, rfl, ?_, fun _ => .refl _⟩
  refine sameReqs_map (fun r => ?_) _
  split
  · split
    · exact ⟨true, rfl⟩
    · exact ⟨r.drop, rfl⟩
  · exact ⟨r.drop, rfl⟩

theorem aside_dropKept (s : State) (sp : Nat) (ea : W64) (n : Nat) : Aside s (s.dropKept sp ea n) := by
  unfold State.dropKept
  split
  · exact aside_unkeep ..
  · exact .refl s

theorem aside_dropKeptAll (s : State) : Aside s s.dropKeptAll := aside_unkeep ..

/-- A request leaves the rest of the machine (R278). -/
theorem request_aside (s : State) (pos key : Nat) (slot mark : Bool) (k : ReqK) (after : List Nat) :
    ∃ r : Req, Aside { s with reqs := s.reqs ++ [r], nextReq := s.nextReq + 1 } (s.request pos key slot mark k after) ∧
      r.id = s.nextReq ∧ r.pos = pos ∧ r.pc = (s.ms pos).pc ∧ r.k = k ∧ r.mark = mark ∧ r.slot = slot ∧ r.lslot = s.party pos ∧
      r.after = after ∧ (s.request pos key slot mark k after).reqs = s.reqs ++ [r] := by
  refine ⟨{ id := s.nextReq, pos := pos, pc := (s.ms pos).pc, slot := slot, key := key, bank := s.bankOf key, mark := mark, k := k
            due := s.cyc + s.returnBound pos key, lslot := s.party pos, after := after, drop := false, proof := (s.ms pos).proof },
    ?_, rfl, rfl, rfl, rfl, rfl, rfl, rfl, rfl, ?_⟩
  · unfold State.request
    extract_lets lslot r s1
    have h : Aside { s with reqs := s.reqs ++ [r], nextReq := s.nextReq + 1 } s1 := aside_updM _ pos fun m => sameTask_resv m none
    split
    · exact h.trans (aside_noteSent ..)
    · exact h
  · unfold State.request
    extract_lets lslot r s1
    split
    · rw [noteSent_reqs]
      rfl
    · rfl

/-! ## Completion (R275) -/

/-- An instruction that has changed register files at most ends with RDY. -/
theorem ends_done {s u : State} {m : Master} (hcur : u.cur = s.cur) (hfiles : SameFiles u.me m) (hspec : SameSpecials u.me s.me)
    (hpc : u.me.pc = s.me.pc) (ho : u.me.o = s.me.o) (hms : ∀ p, p ≠ s.cur → SameFiles (u.ms p) (s.ms p)) (h : Hd) (words : Nat) :
    Ends s (u.done h words) m words (rdy s h) := by
  obtain ⟨gcur, -, -, gpc, go, gfiles, gspec, -, -, gms⟩ := done_kept u h words
  refine ⟨gcur.trans hcur, sameFiles_trans gfiles hfiles, sameSpecials_trans gspec hspec, ?_, ?_, fun p hp => ?_⟩
  · rw [gpc, Master.next, hpc]
    rfl
  · rw [go, rdy, rdy, ho]
  · rw [gms p (hcur ▸ hp)]
    exact hms p hp

theorem Aside.ends {s u : State} (h : Aside s u) (hd : Hd) (words : Nat) : Ends s (u.done hd words) s.me words (rdy s hd) :=
  ends_done h.cur h.me.files h.me.specials h.me.pc h.me.o (fun p _ => (h.ms p).files) hd words

/-- A register write lands in the acting master and the instruction ends. -/
theorem Aside.landed {s u : State} (h : Aside s u) {w : RegW} (hw : ∀ x, w ≠ .o x) (hd : Hd) (words : Nat) :
    Ends s ((u.upd fun m => m.landAll [w]).done hd words) (s.me.land w) words (rdy s hd) := by
  have hme : (u.upd fun m => m.landAll [w]).me = u.me.land w := me_upd ..
  obtain ⟨fs, fv, fc, hland⟩ := land_files u.me hw
  refine ends_done (u := u.upd fun m => m.landAll [w]) h.cur ?_ ?_ ?_ ?_ (fun p hp => ?_) hd words
  · rw [hme]
    exact sameFiles_land h.me.files w
  · rw [hme, hland]
    exact h.me.specials
  · rw [hme, hland]
    exact h.me.pc
  · rw [hme, hland]
    exact h.me.o
  · rw [State.upd, State.updM, ms_setM, if_neg (by rw [h.cur]; exact hp)]
    exact (h.ms p).files

end Sys2Proof.Machine
end

section

/-!
# Loads (spec/10, R213, R218, R219, R221)
What a clear load delivers, what it reads, and its register write: O19.
-/

namespace Sys2Proof.Machine

open Sys2Proof.Claims

/-! ## Accesses whose checks pass (R212, R213) -/

/-- An access that is clear is made, at its key. -/
theorem access_of_clear {s : State} {a : Acc} {key : Nat} (h : Clear s a key) (hd : Hd) (words : Nat) (k : State → Nat → State) :
    s.access hd words a k = k s key := by
  obtain ⟨hcheck, horphan, hkey, -, hwin, hslot, hsw, hover, -, -⟩ := h
  unfold State.access
  simp only [hcheck, proofCheck_of_none horphan, hkey, hwin, hslot, hsw, hover, Bool.or_self, Bool.false_eq_true, if_false]

/-- Nothing that a write must follow is nothing that a load must follow. -/
theorem loadAhead_of_unitAhead {s : State} {pos key len : Nat} (h : s.unitAhead pos key len = []) : s.loadAhead pos [(key, len)] = [] := by
  obtain ⟨hreqs, hheld⟩ := List.append_eq_nil_iff.1 h
  have hheld' : s.heldAhead pos (s.sameUnit · key) = [] := by
    unfold State.heldAhead at hheld ⊢
    rw [List.map_eq_nil_iff, List.filter_eq_nil_iff] at hheld ⊢
    intro b hb hcond
    refine hheld b hb ?_
    simp only [Bool.and_eq_true, List.any_eq_true] at hcond ⊢
    obtain ⟨hc, c, hcell, hunit⟩ := hcond
    exact ⟨hc, c, hcell, by rw [hunit, Bool.or_true]⟩
  simp only [State.loadAhead, List.flatMap_cons, List.flatMap_nil, hreqs, hheld']
  rfl

/-- The state in which a load of `n` bytes reads: values kept for the task are dropped (R213). -/
def readState (s : State) (ord : BitVec 2) (sp : Nat) (ea : W64) (n : Nat) : State :=
  if ordAcq ord then (s.dropKept sp ea n).dropKeptAll else s.dropKept sp ea n

theorem aside_readState (s : State) (ord : BitVec 2) (sp : Nat) (ea : W64) (n : Nat) : Aside s (readState s ord sp ea n) := by
  unfold readState
  split
  · exact (aside_dropKept ..).trans (aside_dropKeptAll _)
  · exact aside_dropKept ..

/-- What the register writes and the fault of a load at `key` are, at issue. -/
def loadResult (s : State) (i : Instr) (mem : MemOp) (key : Nat) : List RegW × Option Flt :=
  let img := s.readFor (s.rdr s.cur s.me.proof) i key
  loadRegs (maskOf s.me i) i (s.me.ea mem) key (s.restFlt s.cur i (s.me.rc mem.cap) (s.me.ea mem) img.bytes.length) img

/-- A clear load of the own LS, a bank or GLOB is delivered. -/
theorem load_of_clear {s : State} {g : Grp} {i : Instr} {h : Hd} {mem : MemOp} {perms : List Nat} {len align key n : Nat} {block : Bool}
    (hmay : s.me.mayIssue g h.nr = true) (hclear : Clear s (loadAcc s mem perms len align block) key) (hrem : remoteLs s.cur key = false)
    (hn : (s.readFor (s.rdr s.cur s.me.proof) i key).bytes.length = n)
    (hbusy : len < n → s.switching s.cur (s.me.rc mem.cap).space (s.me.ea mem).toNat n = false ∧
      s.me.overlaps s.cur (s.me.rc mem.cap).space (s.me.ea mem).toNat n false = false) (ord : BitVec 2) :
    load g i h ord mem perms len align block s = .next ((readState s ord (s.me.rc mem.cap).space (s.me.ea mem) n).deliver h h.words
      [(key, n)] (loadResult s i mem key).1 (loadResult s i mem key).2 (laterLoad s.me i (s.me.rc mem.cap) (s.me.ea mem) key)
      (s.loadAhead s.cur [(key, n)])) := by
  have hno : (n > len && (s.switching s.cur (s.me.rc mem.cap).space (s.me.ea mem).toNat n ||
      s.me.overlaps s.cur (s.me.rc mem.cap).space (s.me.ea mem).toNat n false)) = false := by
    by_cases hlt : len < n
    · obtain ⟨hsw, hover⟩ := hbusy hlt
      rw [hsw, hover, Bool.or_self, Bool.and_false]
    · rw [decide_eq_false hlt, Bool.false_and]
  unfold load
  rw [gate_of_mayIssue hmay]
  dsimp only
  rw [show ({ cap := s.me.rc mem.cap, perms := perms, sp := spLoad, ea := (s.me.ea mem).toNat, len := len, align := align, block := block } : Acc) =
    loadAcc s mem perms len align block from rfl, access_of_clear hclear]
  rw [hrem, if_neg Bool.false_ne_true, hn, hno, if_neg Bool.false_ne_true]
  unfold loadResult
  dsimp only
  rw [hn]
  rfl

/-- A load of the own LS that has nothing to follow lands at once. -/
theorem deliver_ownLs {u : State} {h : Hd} {words : Nat} {ext : List (Nat × Nat)} (hown : ∀ e ∈ ext, ownLs u.cur e.1 = true) (ws : List RegW)
    (k : ReqK) : u.deliver h words ext ws none k [] = (u.upd fun m => m.landAll ws).done h words := by
  have hall : (ext.all fun (k, _) => ownLs u.cur k) = true := List.all_eq_true.2 hown
  unfold State.deliver
  simp only [hall, if_true, List.isEmpty_nil]
  rfl

theorem remoteLs_of_ownLs {pos key : Nat} (h : ownLs pos key = true) : remoteLs pos key = false := by
  simp only [ownLs, Bool.and_eq_true, decide_eq_true_eq] at h
  simp [remoteLs, h.2]

/-- A clear load of the own LS with one register write lands it and ends (R213). -/
theorem load_ownLs {s : State} {g : Grp} {i : Instr} {h : Hd} {mem : MemOp} {perms : List Nat} {len align key n : Nat} {block : Bool}
    (hmay : s.me.mayIssue g h.nr = true) (hclear : Clear s (loadAcc s mem perms len align block) key) (hown : ownLs s.cur key = true)
    (hn : (s.readFor (s.rdr s.cur s.me.proof) i key).bytes.length = n)
    (hbusy : len < n → s.switching s.cur (s.me.rc mem.cap).space (s.me.ea mem).toNat n = false ∧
      s.me.overlaps s.cur (s.me.rc mem.cap).space (s.me.ea mem).toNat n false = false)
    (hahead : s.loadAhead s.cur [(key, n)] = []) {w : RegW} (hw : ∀ x, w ≠ .o x) (hres : loadResult s i mem key = ([w], none))
    (ord : BitVec 2) :
    ∃ t, load g i h ord mem perms len align block s = .next t ∧ t.mem = s.mem ∧ t.vers = s.vers ∧
      Ends s t (s.me.land w) h.words (rdy s h) := by
  have haside := aside_readState s ord (s.me.rc mem.cap).space (s.me.ea mem) n
  refine ⟨_, load_of_clear hmay hclear (remoteLs_of_ownLs hown) hn hbusy ord, ?_⟩
  rw [hahead, hres, deliver_ownLs (List.forall_mem_singleton.2 (by rw [haside.cur]; exact hown))]
  exact ⟨(done_mem ..).trans haside.mem, (done_vers ..).trans haside.vers, haside.landed hw h h.words⟩

/-! ## What a load reads (R213, R218) -/

theorem isCtl_of_not_glob {s : State} {key : Nat} (h : isGlobKey key = false) : s.isCtl key = false := by
  unfold State.isCtl
  rw [h, Bool.false_and, Bool.false_and]

theorem isGlobKey_add {key : Nat} (h : isGlobKey key = false) (i : Nat) : isGlobKey (key + i) = false := by
  unfold isGlobKey at h ⊢
  rw [decide_eq_false_iff_not] at h ⊢
  omega

theorem not_glob_of_ownLs {pos key : Nat} (h : ownLs pos key = true) : isGlobKey key = false := by
  simp only [ownLs, Bool.and_eq_true, decide_eq_true_eq] at h
  unfold isGlobKey
  rw [decide_eq_false_iff_not]
  omega

theorem loadBytes_length (s : State) (r : Rdr) (k n : Nat) : (s.loadBytes r k n).length = n := by
  induction n generalizing k with
  | zero => rfl
  | succ n ih => rw [State.loadBytes, List.length_cons, ih]

/-- Outside GLOB there are no control pages. -/
theorem loadBytes_of_not_glob {s : State} {r : Rdr} {k : Nat} (h : isGlobKey k = false) (n : Nat) : s.loadBytes r k n = s.rdBytes r k n := by
  induction n generalizing k with
  | zero => rfl
  | succ n ih =>
    rw [State.loadBytes, State.rdBytes, ih (isGlobKey_add h 1), State.loadByte, isCtl_of_not_glob h, if_neg Bool.false_ne_true]

theorem loadTag_of_not_glob {s : State} {r : Rdr} {k : Nat} (h : isGlobKey k = false) : s.loadTag r k = s.rdTag r k := by
  unfold State.loadTag
  rw [isCtl_of_not_glob h]
  rfl

theorem bad_of_ueIn {s : State} {r : Rdr} {k n : Nat} (h : s.ueIn r k n = none) : (s.loadImg r k n).bad = [] := by
  rw [State.ueIn, List.find?_eq_none] at h
  exact List.filter_eq_nil_iff.2 h

/-- The loads of one to eight bytes. -/
theorem scalarLoads_cases {P : (MemS → Instr) × Nat → Prop} (hb : P (.ldB, 1)) (hh : P (.ldH, 2)) (hw : P (.ldW, 4)) (hd : P (.ldD, 8)) :
    ∀ p ∈ scalarLoads, P p := by
  intro p hp
  simp only [scalarLoads, List.mem_cons, List.not_mem_nil, or_false] at hp
  obtain rfl | rfl | rfl | rfl := hp <;> assumption

/-- A load of one to eight bytes as the shared flow. -/
theorem exec_scalarLoad {p : (MemS → Instr) × Nat} (hp : p ∈ scalarLoads) (x : MemS) (s : State) :
    exec (p.1 x) s = load .access (p.1 x) x.h x.ord x.mem [pLoad] p.2 1 true s :=
  scalarLoads_cases (P := fun p => exec (p.1 x) s = load .access (p.1 x) x.h x.ord x.mem [pLoad] p.2 1 true s) rfl rfl rfl rfl p hp

theorem readFor_scalar {p : (MemS → Instr) × Nat} (hp : p ∈ scalarLoads) (x : MemS) (s : State) (r : Rdr) (key : Nat) :
    s.readFor r (p.1 x) key = s.loadImg r key p.2 :=
  scalarLoads_cases (P := fun p => s.readFor r (p.1 x) key = s.loadImg r key p.2) rfl rfl rfl rfl p hp

/-- It gives its bytes as a number, lowest first (R5, R218). -/
theorem loadRegs_scalar {p : (MemS → Instr) × Nat} (hp : p ∈ scalarLoads) (x : MemS) (mk : W128) (ea : W64) (key : Nat) (rest : Option Flt)
    {img : Img} (hbad : img.bad = []) : loadRegs mk (p.1 x) ea key rest img = ([.s x.sr.toNat (BitVec.ofNat 64 (leNat img.bytes))], none) := by
  refine scalarLoads_cases (P := fun p => loadRegs mk (p.1 x) ea key rest img = ([.s x.sr.toNat (BitVec.ofNat 64 (leNat img.bytes))], none))
    ?_ ?_ ?_ ?_ p hp
  all_goals
    unfold loadRegs
    simp only [hbad]

theorem readFor_ldc (x : MemC) (s : State) (r : Rdr) (key : Nat) : s.readFor r (.ldc x) key = s.loadImg r key 16 := rfl

theorem loadRegs_ldc (x : MemC) (mk : W128) (ea : W64) (key : Nat) (rest : Option Flt) {img : Img} (hbad : img.bad = []) :
    loadRegs mk (.ldc x) ea key rest img = ([.c x.c.toNat { bits := BitVec.ofNat 128 (leNat img.bytes), tag := img.tag }], none) := by
  unfold loadRegs
  simp only [hbad]

theorem loadResult_scalar {p : (MemS → Instr) × Nat} (hp : p ∈ scalarLoads) (x : MemS) {s : State} {key : Nat}
    (hue : s.ueIn (s.rdr s.cur s.me.proof) key p.2 = none) : loadResult s (p.1 x) x.mem key =
      ([.s x.sr.toNat (BitVec.ofNat 64 (leNat (s.loadBytes (s.rdr s.cur s.me.proof) key p.2)))], none) := by
  unfold loadResult
  rw [readFor_scalar hp]
  exact loadRegs_scalar hp x _ _ _ _ (bad_of_ueIn hue)

/-- LD of the own LS. -/
theorem ld_ownLs {s : State} {key : Nat} (hown : ownLs s.cur key = true) (x : MemS) {p : (MemS → Instr) × Nat} (hp : p ∈ scalarLoads)
    (hmay : May s .access x.h.nr) (hclear : Clear s (loadAcc s x.mem [pLoad] p.2 1 true) key)
    (hue : s.ueIn (s.rdr s.cur s.me.proof) key p.2 = none) :
    ∃ t, exec (p.1 x) s = .next t ∧ t.mem = s.mem ∧
      Ends s t (s.me.ws x.sr (BitVec.ofNat 64 (s.rdNat (s.rdr s.cur s.me.proof) key p.2))) x.h.words (rdy s x.h) := by
  have hres := loadResult_scalar hp x hue
  rw [loadBytes_of_not_glob (not_glob_of_ownLs hown)] at hres
  have hn : (s.readFor (s.rdr s.cur s.me.proof) (p.1 x) key).bytes.length = p.2 := by rw [readFor_scalar hp]; exact loadBytes_length ..
  obtain ⟨-, -, -, hahead, -⟩ := id hclear
  obtain ⟨t, hexec, hmem, -, hends⟩ := load_ownLs hmay.2 hclear hown hn (fun h => absurd h (lt_irrefl _)) (loadAhead_of_unitAhead hahead)
    (by simp) hres x.ord
  refine ⟨t, (exec_scalarLoad hp x s).trans hexec, hmem, ?_⟩
  have hland : s.me.land (.s x.sr.toNat (BitVec.ofNat 64 (leNat (s.rdBytes (s.rdr s.cur s.me.proof) key p.2)))) =
      s.me.ws x.sr (BitVec.ofNat 64 (s.rdNat (s.rdr s.cur s.me.proof) key p.2)) := by
    rw [Master.land, BitVec.ofNat_toNat, BitVec.setWidth_eq]
    rfl
  rwa [hland] at hends

/-- LDC of the own LS. -/
theorem ldc_ownLs {s : State} {key : Nat} (hown : ownLs s.cur key = true) (x : MemC) (hmay : May s .access x.h.nr)
    (hclear : Clear s (loadAcc s x.mem [pLoad, pLdcap] 16 16 false) key) (hue : s.ueIn (s.rdr s.cur s.me.proof) key 16 = none) :
    ∃ t, exec (.ldc x) s = .next t ∧ t.mem = s.mem ∧
      Ends s t (s.me.wc x.c { bits := BitVec.ofNat 128 (s.rdNat (s.rdr s.cur s.me.proof) key 16), tag := s.rdTag (s.rdr s.cur s.me.proof) key })
        x.h.words (rdy s x.h) := by
  have hglob := not_glob_of_ownLs hown
  have hres : loadResult s (.ldc x) x.mem key = ([.c x.c.toNat
      { bits := BitVec.ofNat 128 (s.rdNat (s.rdr s.cur s.me.proof) key 16), tag := s.rdTag (s.rdr s.cur s.me.proof) key }], none) := by
    unfold loadResult
    dsimp only
    rw [readFor_ldc, loadRegs_ldc x _ _ _ _ (bad_of_ueIn hue), State.rdNat, ← loadBytes_of_not_glob hglob, ← loadTag_of_not_glob hglob]
    rfl
  have hn : (s.readFor (s.rdr s.cur s.me.proof) (.ldc x) key).bytes.length = 16 := by
    rw [readFor_ldc]
    exact loadBytes_length ..
  obtain ⟨-, -, -, hahead, -⟩ := id hclear
  obtain ⟨t, hexec, hmem, -, hends⟩ := load_ownLs hmay.2 hclear hown hn (fun h => absurd h (lt_irrefl _))
    (loadAhead_of_unitAhead hahead) (by simp) hres x.ord
  refine ⟨t, hexec, hmem, ?_⟩
  rwa [Master.land, BitVec.ofNat_toNat, BitVec.setWidth_eq] at hends

/-! ## Byte lanes (R122, R124) -/

/-- A number made digit by digit, bit by bit. -/
theorem testBit_foldr_range {w : Nat} (hw : 0 < w) {d : Nat → Nat} (hd : ∀ j, d j < 2 ^ w) {n b : Nat} (hb : b < w * n) :
    ((List.range n).foldr (fun j a => d j + 2 ^ w * a) 0).testBit b = (d (b / w)).testBit (b % w) := by
  have hdigit := congrArg (Nat.testBit · (b % w)) (foldr_range_digit (Nat.one_lt_two_pow hw.ne') hd (Nat.div_lt_of_lt_mul hb))
  simp only [← pow_mul, Nat.testBit_mod_two_pow, Nat.testBit_div_two_pow, Nat.mod_lt b hw, decide_true, Bool.true_and] at hdigit
  rwa [Nat.add_comm, Nat.div_add_mod] at hdigit

theorem laneMask_getLsbD (k : W128) {b : Nat} (hb : b < 1024) : (laneMask k).getLsbD b = k.getLsbD (b / 8) := by
  have hd : ∀ j, (if k.getLsbD j then 255 else 0) < 2 ^ 8 := fun j => by split <;> omega
  have hbit := testBit_foldr_range (by omega) hd (n := 128) (b := b) (by omega)
  unfold laneMask
  rw [BitVec.getLsbD_ofNat, decide_eq_true hb, Bool.true_and]
  refine hbit.trans ?_
  have h8 : b % 8 < 8 := Nat.mod_lt _ (by omega)
  cases k.getLsbD (b / 8)
  · exact Nat.zero_testBit _
  · exact (Nat.testBit_two_pow_sub_one 8 (b % 8)).trans (decide_eq_true h8)

/-- A mask made lane by lane. -/
theorem getLsbD_lanes (p : Nat → Bool) {i : Nat} (hi : i < 128) :
    (BitVec.ofNat 128 ((List.range 128).foldr (fun i a => (if p i then 1 else 0) + 2 * a) 0)).getLsbD i = p i := by
  have hd : ∀ j, (if p j then 1 else 0) < 2 ^ 1 := fun j => by split <;> omega
  have hbit := testBit_foldr_range (by omega) hd (n := 128) (b := i) (by omega)
  rw [BitVec.getLsbD_ofNat, decide_eq_true hi, Bool.true_and]
  refine hbit.trans ?_
  rw [Nat.div_one, Nat.mod_one]
  cases p i <;> rfl

theorem activeLanes_getLsbD (mk : W128) (w : Nat) {i : Nat} (hi : i < 128) : (activeLanes mk w).getLsbD i = mk.getLsbD (i / w * w) :=
  getLsbD_lanes (fun i => active mk w (i / w)) hi

/-- The register that a write of the byte lanes `k` gives. -/
def mergeLanes (k : W128) (x old : W1024) : W1024 := (old &&& ~~~laneMask k) ||| (x &&& laneMask k)

theorem land_vm (m : Master) (v : VReg) (k : W128) (x : W1024) : m.land (.vm v.toNat k x) = m.wv v (mergeLanes k x (m.rv v)) := by
  rw [Master.land, BitVec.ofNat_toNat, BitVec.setWidth_eq]
  rfl

theorem mergeLanes_getLsbD (k : W128) (x old : W1024) {b : Nat} (hb : b < 1024) :
    (mergeLanes k x old).getLsbD b = if k.getLsbD (b / 8) then x.getLsbD b else old.getLsbD b := by
  have hmask := laneMask_getLsbD k hb
  unfold mergeLanes
  rw [BitVec.getLsbD_or, BitVec.getLsbD_and, BitVec.getLsbD_and, BitVec.getLsbD_not, hmask, decide_eq_true hb]
  cases k.getLsbD (b / 8) <;> simp

theorem vByte_mergeLanes (k : W128) (x old : W1024) {i : Nat} (hi : i < 128) :
    vByte (mergeLanes k x old) i = if k.getLsbD i then vByte x i else vByte old i := by
  refine BitVec.eq_of_getLsbD_eq fun t ht => ?_
  have hdiv : (8 * i + t) / 8 = i := by omega
  have hext : ∀ v : W1024, (vByte v i).getLsbD t = v.getLsbD (8 * i + t) := fun v => by
    rw [vByte, BitVec.getLsbD_extractLsb', decide_eq_true ht, Bool.true_and]
  rw [hext, mergeLanes_getLsbD _ _ _ (by omega), hdiv]
  split <;> rw [hext]

/-- A write of the lanes of active elements takes them whole. -/
theorem vElem_mergeLanes {w : Nat} (hw : LaneWidth w) (mk : W128) (x old : W1024) {j : Nat} (hj : j < 1024 / w) :
    vElem (mergeLanes (activeLanes mk (w / 8)) x old) w j = if mk.getLsbD (j * (w / 8)) then vElem x w j else vElem old w j := by
  have hbits : ∀ (v : W1024) (t : Nat), (vElem v w j).testBit t = (decide (t < w) && v.getLsbD (w * j + t)) := fun v t => by
    unfold vElem
    rw [Nat.testBit_mod_two_pow, Nat.testBit_div_two_pow, Nat.add_comm]
    rfl
  refine Nat.eq_of_testBit_eq fun t => ?_
  rw [hbits]
  by_cases ht : t < w
  · have hle : w * (j + 1) ≤ 1024 := hw.mul_count ▸ Nat.mul_le_mul_left w hj
    have hlt : w * j + t < 1024 := by rw [Nat.mul_add] at hle; omega
    have hw8 : w = 8 * (w / 8) := by obtain rfl | rfl | rfl | rfl := hw <;> rfl
    have hdiv : (w * j + t) / 8 / (w / 8) = j := by
      rw [Nat.div_div_eq_div_mul, ← hw8, Nat.mul_add_div hw.pos, Nat.div_eq_of_lt ht, Nat.add_zero]
    rw [mergeLanes_getLsbD _ _ _ hlt, activeLanes_getLsbD _ _ (by omega), hdiv]
    split <;> rw [hbits]
  · have hfalse : ∀ v : W1024, (vElem v w j).testBit t = false := fun v => by rw [hbits, decide_eq_false ht, Bool.false_and]
    rw [decide_eq_false ht, Bool.false_and]
    split <;> rw [hfalse]

theorem leNat_digit (bs : List Byte) (i : Nat) : leNat bs / 256 ^ i % 256 = (bs.getD i 0).toNat := by
  induction bs generalizing i with
  | nil => simp [leNat]
  | cons b bs ih =>
    have hb : b.toNat < 256 := b.isLt
    cases i with
    | zero =>
      rw [leNat, Nat.pow_zero, Nat.div_one, Nat.add_mul_mod_self_left, Nat.mod_eq_of_lt hb]
      rfl
    | succ i =>
      rw [leNat, Nat.pow_succ', ← Nat.div_div_eq_div_mul, Nat.add_mul_div_left _ _ (by omega), Nat.div_eq_of_lt hb, Nat.zero_add, ih]
      rfl

theorem leNat_lt (bs : List Byte) : leNat bs < 256 ^ bs.length := by
  induction bs with
  | nil => exact Nat.one_pos
  | cons b bs ih =>
    have hb : b.toNat < 256 := b.isLt
    rw [leNat, List.length_cons, Nat.pow_succ']
    omega

/-- A register made of bytes has them as its lanes. -/
theorem vByte_vOfBytes {bs : List Byte} (h : bs.length ≤ 128) (i : Nat) : vByte (vOfBytes bs) i = bs.getD i 0 := by
  have hlen : leNat bs < 2 ^ (8 * bs.length) := by
    rw [Nat.pow_mul]
    exact leNat_lt bs
  have hlt : leNat bs < 2 ^ 1024 := by
    refine hlen.trans_le ?_
    gcongr
    · omega
    · omega
  refine BitVec.eq_of_toNat_eq ?_
  rw [vByte, BitVec.extractLsb'_toNat, vOfBytes, toNat_ofNat_of_lt hlt, ← leNat_digit, Nat.shiftRight_eq_div_pow, Nat.pow_mul]

theorem rdBytes_getD (s : State) (r : Rdr) (k : Nat) {n i : Nat} (hi : i < n) : (s.rdBytes r k n).getD i 0 = s.rd8 r (k + i) := by
  induction n generalizing k i with
  | zero => omega
  | succ n ih =>
    cases i with
    | zero => rfl
    | succ i => rw [State.rdBytes, List.getD_cons_succ, ih _ (by omega), Nat.add_assoc, Nat.add_comm 1]

theorem rdBytes_length (s : State) (r : Rdr) (k n : Nat) : (s.rdBytes r k n).length = n := by
  induction n generalizing k with
  | zero => rfl
  | succ n ih => rw [State.rdBytes, List.length_cons, ih]

/-! ## LDV (R219) -/

theorem etBytes_one (et : BitVec 4) : etBytes 1 et = etWidth (if et = 0 then 1 else et.toNat) / 8 := rfl

theorem isConv_ldv {x : MemV} (h : x.et.toNat < 7) : isConv (.ldv x) = false := decide_eq_false (by omega)
theorem isConv_ldv_conv {x : MemV} (h : 7 ≤ x.et.toNat) : isConv (.ldv x) = true := decide_eq_true h

theorem readFor_ldv {x : MemV} (h : isConv (.ldv x) = false) (s : State) (r : Rdr) (key : Nat) :
    s.readFor r (.ldv x) key = s.loadImg r key 128 := by
  unfold State.readFor loadLen
  rw [h]
  rfl

theorem readFor_ldv_conv {x : MemV} (h : isConv (.ldv x) = true) (s : State) (r : Rdr) (key : Nat) (hf : fmtOk (bfdFmt (s.rdBfd r key)) = true) :
    s.readFor r (.ldv x) key = s.loadImg r key (convLen x.et (bfdFmt (s.rdBfd r key))) := by
  unfold State.readFor loadLen
  rw [h, hf]
  rfl

theorem loadRegs_ldv {x : MemV} (h : isConv (.ldv x) = false) (mk : W128) (ea : W64) (key : Nat) (rest : Option Flt) {img : Img}
    (hbad : img.bad = []) :
    loadRegs mk (.ldv x) ea key rest img = ([.vm x.v.toNat (activeLanes mk (etBytes 1 x.et)) (vOfBytes img.bytes)], none) := by
  unfold loadRegs
  simp only [h, hbad, List.filter_nil, Bool.false_eq_true, if_false]

theorem loadRegs_ldv_conv {x : MemV} (h : isConv (.ldv x) = true) (mk : W128) (ea : W64) (key : Nat) {img : Img}
    (hbad : img.bad = []) (hfmt : convFmt ea img = none) : loadRegs mk (.ldv x) ea key none img =
      ([.vm x.v.toNat (activeLanes mk (etWidth x.et.toNat / 8)) (convLanes x img)], none) := by
  unfold loadRegs
  simp only [h, hbad, hfmt, List.filter_nil, List.contains_nil, Bool.false_eq_true, if_false, if_true, ite_self]

theorem ldv_ownLs {s : State} {key : Nat} (hown : ownLs s.cur key = true) (x : MemV) (het : x.et.toNat < 7) (hmay : May s .noHandler x.h.nr)
    (hclear : Clear s (loadAcc s x.mem [pLoad] 128 1 false) key) (hue : s.ueIn (s.rdr s.cur s.me.proof) key 128 = none) :
    ∃ t v, exec (.ldv x) s = .next t ∧ t.mem = s.mem ∧ t.vers = s.vers ∧ Ends s t (s.me.wv x.v v) x.h.words (rdy s x.h) ∧
      ∀ i < 128, vByte v i = if (s.me.rm x.msk).getLsbD (i / etBytes 1 x.et * etBytes 1 x.et) then
        s.rd8 (s.rdr s.cur s.me.proof) (key + i) else vByte (s.me.rv x.v) i := by
  have hconv := isConv_ldv het
  let bytes := s.rdBytes (s.rdr s.cur s.me.proof) key 128
  have hres : loadResult s (.ldv x) x.mem key =
      ([.vm x.v.toNat (activeLanes (s.me.rm x.msk) (etBytes 1 x.et)) (vOfBytes bytes)], none) := by
    unfold loadResult
    dsimp only
    rw [readFor_ldv hconv, loadRegs_ldv hconv _ _ _ _ (bad_of_ueIn hue)]
    dsimp only [bytes]
    rw [← loadBytes_of_not_glob (not_glob_of_ownLs hown)]
    rfl
  have hn : (s.readFor (s.rdr s.cur s.me.proof) (.ldv x) key).bytes.length = 128 := by
    rw [readFor_ldv hconv]
    exact loadBytes_length ..
  obtain ⟨-, -, -, hahead, -⟩ := id hclear
  obtain ⟨t, hexec, hmem, hvers, hends⟩ := load_ownLs hmay.2 hclear hown hn (fun h => absurd h (lt_irrefl _))
    (loadAhead_of_unitAhead hahead) (by simp) hres x.ord
  rw [land_vm] at hends
  refine ⟨t, _, ?_, hmem, hvers, hends, fun i hi => ?_⟩
  · rw [← hexec, show exec (.ldv x) s = execLdv x s from rfl, execLdv, hconv, if_neg Bool.false_ne_true]
  · rw [vByte_mergeLanes _ _ _ hi, activeLanes_getLsbD _ _ hi, vByte_vOfBytes (rdBytes_length ..).le, rdBytes_getD _ _ _ hi]

/-! ### A converting LDV -/

theorem ds8Code_lt (u : Int) : ds8Code u < 256 := by
  unfold ds8Code
  dsimp only
  cases h : [0, 1, 2].findSome? fun n => ((List.range 256).filter fun c => ds8Units c = u).find? fun c => ds8Terms c = n with
  | none => simp
  | some c =>
    obtain ⟨n, -, hn⟩ := List.exists_of_findSome?_eq_some h
    exact List.mem_range.1 (List.mem_filter.1 (List.mem_of_find?_eq_some hn)).1

/-- A value rounds to an element of the floating lanes and DS8. -/
theorem etRound_lt {et : Nat} (h : et = 7 ∨ et = 8 ∨ et = 9 ∨ et = 10) (u : Bool) (rm : Nat) (ns : Bool) (x : Num) :
    etRound et u rm ns x < 2 ^ etWidth et := by
  obtain rfl | rfl | rfl | rfl := h
  · exact round_lt (.inr (.inl rfl)) rm ns x
  · exact round_lt (.inr (.inr rfl)) rm ns x
  · exact round_lt (.inl rfl) rm ns x
  · exact ds8Code_lt _

theorem etWidth_of_lt {et : Nat} (h : 10 < et) : etWidth et = 0 := by
  unfold etWidth
  split <;> omega

theorem vElem_convLanes {x : MemV} (h : 7 ≤ x.et.toNat) (img : Img) {j : Nat} (hj : j < 1024 / etWidth x.et.toNat) :
    vElem (convLanes x img) (etWidth x.et.toNat) j =
      let f := bfdFmt (img.fmts.headD 0)
      etRound x.et.toNat false x.rm.toNat x.ov (fmtNum f (fmtElem f img.bytes j) (bfdScale (img.fmts.getD (j * fmtBits f / 512) 0))) := by
  have het : x.et.toNat = 7 ∨ x.et.toNat = 8 ∨ x.et.toNat = 9 ∨ x.et.toNat = 10 := by
    by_contra hne
    rw [etWidth_of_lt (by omega)] at hj
    omega
  have hw : LaneWidth (etWidth x.et.toNat) := etWidth_lane (by omega) (by omega)
  have hB : 1 < 2 ^ etWidth x.et.toNat := Nat.one_lt_two_pow hw.pos.ne'
  have hd := fun j => etRound_lt het false x.rm.toNat x.ov (fmtNum (bfdFmt (img.fmts.headD 0)) (fmtElem (bfdFmt (img.fmts.headD 0)) img.bytes j)
    (bfdScale (img.fmts.getD (j * fmtBits (bfdFmt (img.fmts.headD 0)) / 512) 0)))
  have hlt := foldr_range_lt hB hd (1024 / etWidth x.et.toNat)
  rw [← pow_mul, hw.mul_count] at hlt
  have hlanes : (convLanes x img).toNat = _ := toNat_ofNat_of_lt hlt
  rw [vElem, hlanes, pow_mul]
  exact foldr_range_digit hB hd hj

theorem rdBfd_congr {s : State} {r : Rdr} {j k : Nat} (h : j / 64 = k / 64) : s.rdBfd r j = s.rdBfd r k := by
  unfold State.rdBfd bfdKey
  rw [h]

/-- Descriptor `i` of a run of blocks is that of the block `i` behind the first. -/
theorem fmts_getD (s : State) (r : Rdr) (key n i : Nat) (hi : i * 64 < n) :
    ((blocksOf key n).map fun b => s.rdBfd r b).getD i 0 = s.rdBfd r (key + i * 64) := by
  have hcount : i < (key + n - 1) / 64 - key / 64 + 1 := by omega
  unfold blocksOf
  rw [if_neg (by omega), List.map_map, List.getD_eq_getElem?_getD, List.getElem?_map, List.getElem?_range hcount]
  exact rdBfd_congr (show (key / 64 + i) * 64 / 64 = (key + i * 64) / 64 by omega)

theorem fmts_headD (s : State) (r : Rdr) (key : Nat) {n : Nat} (hn : 0 < n) :
    ((blocksOf key n).map fun b => s.rdBfd r b).headD 0 = s.rdBfd r key := by
  rw [List.headD_eq_head?_getD, List.head?_eq_getElem?, ← List.getD_eq_getElem?_getD, fmts_getD _ _ _ _ _ (by omega), Nat.zero_mul, Nat.add_zero]

theorem convFmt_none {s : State} {r : Rdr} {key n : Nat} {img : Img} (hfmts : img.fmts = (blocksOf key n).map fun b => s.rdBfd r b)
    (hn : 0 < n) (hok : fmtOk (bfdFmt (s.rdBfd r key)) = true) (hsame : ∀ b ∈ blocksOf key n, bfdFmt (s.rdBfd r b) = bfdFmt (s.rdBfd r key))
    (ea : W64) : convFmt ea img = none := by
  have hall : ∀ d ∈ img.fmts, bfdFmt d = bfdFmt (s.rdBfd r key) := by
    rw [hfmts]
    exact List.forall_mem_map.2 hsame
  unfold convFmt
  rw [Option.map_eq_none_iff, List.find?_eq_none]
  intro i hi
  rw [List.getD_eq_getElem _ _ (List.mem_range.1 hi), hall _ (List.getElem_mem _), hfmts, fmts_headD _ _ _ hn, hok]
  simp

theorem ldv_conv_ownLs {s : State} {key f n : Nat} (hown : ownLs s.cur key = true) (x : MemV) (het : 7 ≤ x.et.toNat)
    (hmay : May s .noHandler x.h.nr) (hclear : Clear s (loadAcc s x.mem [pLoad] 64 64 false) key)
    (hf : f = bfdFmt (s.rdBfd (s.rdr s.cur s.me.proof) key)) (hn : n = 1024 / etWidth x.et.toNat * fmtBits f / 8)
    (hlo : 1 ≤ f) (hhi : f ≤ 10) (hue : s.ueIn (s.rdr s.cur s.me.proof) key n = none)
    (hsame : ∀ b ∈ blocksOf key n, bfdFmt (s.rdBfd (s.rdr s.cur s.me.proof) b) = f)
    (hcheck : s.check s.cur (loadAcc s x.mem [pLoad] n 1 false) = none)
    (hover : s.me.overlaps s.cur (s.me.rc x.mem.cap).space (s.me.ea x.mem).toNat n false = false)
    (hsw : s.switching s.cur (s.me.rc x.mem.cap).space (s.me.ea x.mem).toNat n = false) (hahead : s.loadAhead s.cur [(key, n)] = []) :
    ∃ t v, exec (.ldv x) s = .next t ∧ t.mem = s.mem ∧ t.vers = s.vers ∧ Ends s t (s.me.wv x.v v) x.h.words (rdy s x.h) ∧
      ∀ j < 1024 / etWidth x.et.toNat, vElem v (etWidth x.et.toNat) j =
        if (s.me.rm x.msk).getLsbD (j * (etWidth x.et.toNat / 8)) then
          etRound x.et.toNat false x.rm.toNat x.ov (fmtNum f (fmtElem f (s.rdBytes (s.rdr s.cur s.me.proof) key n) j)
            (bfdScale (s.rdBfd (s.rdr s.cur s.me.proof) (key + j * fmtBits f / 512 * 64))))
        else vElem (s.me.rv x.v) (etWidth x.et.toNat) j := by
  have hconv := isConv_ldv_conv het
  have hok : fmtOk (bfdFmt (s.rdBfd (s.rdr s.cur s.me.proof) key)) = true := by
    rw [← hf]
    simp [fmtOk, hlo, hhi]
  have hread : s.readFor (s.rdr s.cur s.me.proof) (.ldv x) key = s.loadImg (s.rdr s.cur s.me.proof) key n := by
    rw [readFor_ldv_conv hconv _ _ _ hok, hn, hf]
    rfl
  have hbytes : (s.loadImg (s.rdr s.cur s.me.proof) key n).bytes = s.rdBytes (s.rdr s.cur s.me.proof) key n :=
    loadBytes_of_not_glob (not_glob_of_ownLs hown) n
  have hfmt : convFmt (s.me.ea x.mem) (s.loadImg (s.rdr s.cur s.me.proof) key n) = none := by
    obtain hn0 | hn0 := Nat.eq_zero_or_pos n
    · rw [hn0]
      rfl
    · exact convFmt_none rfl hn0 hok (fun b hb => (hsame b hb).trans hf) _
  have hlen : (s.loadImg (s.rdr s.cur s.me.proof) key n).bytes.length = n := loadBytes_length ..
  have hres : loadResult s (.ldv x) x.mem key = ([.vm x.v.toNat (activeLanes (s.me.rm x.msk) (etWidth x.et.toNat / 8))
      (convLanes x (s.loadImg (s.rdr s.cur s.me.proof) key n))], none) := by
    have hrest : s.restFlt s.cur (.ldv x) (s.me.rc x.mem.cap) (s.me.ea x.mem) n = none := by
      rw [State.restFlt, hconv, if_pos rfl]
      exact hcheck
    unfold loadResult
    dsimp only
    rw [hread, hlen, hrest, loadRegs_ldv_conv hconv _ _ _ (bad_of_ueIn hue) hfmt]
    rfl
  obtain ⟨t, hexec, hmem, hvers, hends⟩ := load_ownLs hmay.2 hclear hown (hread ▸ hlen) (fun _ => ⟨hsw, hover⟩) hahead (by simp) hres x.ord
  rw [land_vm] at hends
  refine ⟨t, _, ?_, hmem, hvers, hends, fun j hj => ?_⟩
  · rw [← hexec, show exec (.ldv x) s = execLdv x s from rfl, execLdv, hconv, if_pos rfl]
  · have hw : LaneWidth (etWidth x.et.toNat) := by
      by_cases h10 : x.et.toNat ≤ 10
      · exact etWidth_lane (by omega) h10
      · rw [etWidth_of_lt (by omega)] at hj
        omega
    have hbits : fmtBits f = 8 ∨ fmtBits f = 4 ∨ fmtBits f = 16 ∨ fmtBits f = 32 := by
      clear hf hn hsame
      interval_cases f <;> simp [fmtBits]
    have hblk : j * fmtBits f / 512 * 64 < n := by
      obtain h | h | h | h := hw <;> rw [h] at hn hj <;> obtain g | g | g | g := hbits <;> rw [g] at hn ⊢ <;> omega
    rw [vElem_mergeLanes hw _ _ _ hj, vElem_convLanes het _ hj, hbytes]
    have hhead : bfdFmt ((s.loadImg (s.rdr s.cur s.me.proof) key n).fmts.headD 0) = f := by
      rw [hf]
      exact congrArg bfdFmt (fmts_headD _ _ _ (by omega))
    have hget : (s.loadImg (s.rdr s.cur s.me.proof) key n).fmts.getD (j * fmtBits f / 512) 0 =
      s.rdBfd (s.rdr s.cur s.me.proof) (key + j * fmtBits f / 512 * 64) := fmts_getD _ _ _ _ _ hblk
    dsimp only
    rw [hhead, hget]

/-! ## Posted requests (R278) -/

/-- The state `v` has one more request of the acting master, which carries `k`, and is otherwise as before. -/
def Posts (s v : State) (k : ReqK) : Prop :=
  ∃ r : Req, Aside { s with reqs := s.reqs ++ [r], nextReq := s.nextReq + 1 } v ∧ r.id = s.nextReq ∧ r.pos = s.cur ∧ r.pc = s.me.pc ∧ r.k = k

theorem Aside.append {s u : State} (h : Aside s u) (r : Req) :
    Aside { s with reqs := s.reqs ++ [r], nextReq := s.nextReq + 1 } { u with reqs := u.reqs ++ [r], nextReq := u.nextReq + 1 } := by
  obtain ⟨ms, cs, bs, cp, rq, rfl, hreqs, hms⟩ := h
  refine ⟨ms, cs, bs, cp, rq ++ [r], rfl, ?_, hms⟩
  unfold SameReqs at hreqs ⊢
  rw [List.map_append, List.map_append, hreqs]

theorem posts_request {s u : State} (h : Aside s u) (key : Nat) (slot mark : Bool) (k : ReqK) (after : List Nat) :
    Posts s (u.request u.cur key slot mark k after) k := by
  obtain ⟨r, haside, hid, hpos, hpc, hk, -⟩ := request_aside u u.cur key slot mark k after
  exact ⟨r, (h.append r).trans haside, hid.trans h.nextReq, hpos.trans h.cur, hpc.trans h.me.pc, hk⟩

/-- The same of a request with its extents. -/
theorem posts_reaches {s u : State} (h : Aside s u) (key : Nat) (slot mark : Bool) (k : ReqK) (after : List Nat) (ext : List (Nat × Nat)) :
    Posts s ((u.request u.cur key slot mark k after).reaches ext) k := by
  obtain ⟨r, haside, hid, hpos, hpc, hk, -, -, -, -, hreqs⟩ := request_aside u u.cur key slot mark k after
  refine ⟨{ r with ext := ext }, (h.append _).trans ?_, hid.trans h.nextReq, hpos.trans h.cur, hpc.trans h.me.pc, hk⟩
  unfold State.reaches
  rw [hreqs, List.dropLast_concat, List.getLast?_concat]
  obtain ⟨ms, cs, bs, cp, rq, he, -, hms⟩ := haside
  rw [he] at hms ⊢
  exact ⟨ms, cs, bs, cp, _, rfl, rfl, hms⟩

theorem Posts.sent {s v : State} {k : ReqK} (h : Posts s v k) (hd : Hd) (words : Nat) : Sent s (v.done hd words) k := by
  obtain ⟨r, haside, hid, hpos, hpc, hk⟩ := h
  refine ⟨(done_mem ..).trans haside.mem, (done_vers ..).trans haside.vers, r, ?_, hid, hpos, hpc, hk⟩
  rw [done_reqs]
  exact haside.reqs

theorem Posts.ends {s v : State} {k : ReqK} (h : Posts s v k) (hd : Hd) (words : Nat) : Ends s (v.done hd words) s.me words (rdy s hd) := by
  obtain ⟨r, haside, -⟩ := h
  exact haside.ends hd words

theorem aside_landLines (s : State) (ls : List Nat) : Aside s (ls.foldl (fun s l => s.lineLand (l1Of s.cur) l false) s) := by
  induction ls generalizing s with
  | nil => exact .refl s
  | cons l ls ih => exact (aside_lineLand s (l1Of s.cur) l false).trans (ih _)

/-- A load outside the LSs in the default mode, whose lines are not in transfer, posts its result (R213). -/
theorem deliver_posts {s u : State} (h : Aside s u) {hd : Hd} (hnr : hd.nr = 0) {key n words : Nat} (hls : isLs key = false)
    (htake : ∀ l ∈ u.absent [(key, n)], u.canTake (l1Of u.cur) l false = true) (ws : List RegW) (k : ReqK) :
    ∃ v, u.deliver hd words [(key, n)] ws none k [] = v.done hd words ∧ Posts s v (.land ws none false) := by
  have hown : ownLs u.cur key = false := by
    unfold ownLs
    unfold isLs at hls
    rw [hls, Bool.false_and]
  unfold State.deliver
  extract_lets key' post land cached miss busy ea s1
  have hnot : ([(key, n)].all fun x => match x with | (k, _) => ownLs u.cur k) = false := by simp [hown]
  have hbusy : busy.isEmpty = true := by
    dsimp only [busy, miss]
    split
    · rw [List.isEmpty_iff, List.filter_eq_nil_iff]
      intro l hl
      rw [htake l hl]
      decide
    · rfl
  have haside : Aside s s1 := by
    dsimp only [s1]
    split
    · exact h.trans ((aside_landLines u miss).trans (aside_linesUsed _ _))
    · exact h
  clear_value s1
  rw [if_neg (by rw [hnot]; decide), if_neg (by rw [hbusy]; decide), if_neg (by simp [hnr])]
  dsimp only [post]
  rw [if_pos List.isEmpty_nil, show (hd.nr != 0) = false by simp [hnr]]
  exact ⟨_, rfl, posts_reaches haside ..⟩

/-! ## Replies (R280) -/

theorem sameTask_unpark (cyc : Nat) (m : Master) : SameTask (m.unpark cyc) m := (unpark_sameButWait cyc m).sameTask

theorem aside_slotFreed (s : State) (pool : Nat) : Aside s (s.slotFreed pool) := by
  unfold State.slotFreed
  split
  · exact .refl s
  · split
    · exact aside_updM s _ fun m => (sameTask_resv (m.unpark s.cyc) m.slotBank).trans (sameTask_unpark s.cyc m)
    · exact .refl s

theorem aside_markerWake {s : State} {pos : Nat} (h : (s.ms pos).exiting = false) : Aside s (s.markerWake pos) := by
  rcases markerWake_cases h with e | ⟨place, e⟩
  · rw [e]
    exact .refl s
  · rw [e]
    exact aside_updM s pos fun m => ⟨_, _, _, _, place, m.tbmask, m.kept, m.att8, m.resv, rfl⟩

/-- A request of a master that is not at its end ends: it leaves the list, and waits may end. -/
theorem aside_reqEnd {s : State} {r : Req} (h : (s.ms r.pos).exiting = false) :
    Aside { s with reqs := s.reqs.filter fun x => x.id != r.id } (s.reqEnd r) := by
  unfold State.reqEnd
  extract_lets s1 s2 s3
  have h2 : Aside s1 s2 := by
    dsimp only [s2]
    split
    · exact aside_noteRecv ..
    · exact .refl s1
  have h3 : Aside s1 s3 := by
    refine h2.trans ?_
    dsimp only [s3]
    split
    · exact aside_slotFreed ..
    · exact .refl s2
  exact h3.trans (aside_markerWake ((h3.ms r.pos).exiting.trans h))

theorem waitsOnly_slotFreed (s : State) (pool : Nat) : WaitsOnly s (s.slotFreed pool) := by
  obtain ⟨ms, h⟩ := slotFreed_eq s pool
  exact ⟨ms, s.cores, s.banks, h⟩

theorem waitsOnly_reqEnd (s : State) (r : Req) : WaitsOnly { s with reqs := s.reqs.filter fun x => x.id != r.id } (s.reqEnd r) := by
  unfold State.reqEnd
  extract_lets s1 s2 s3
  have h2 : WaitsOnly s1 s2 := by
    dsimp only [s2]
    split
    · exact waitsOnly_noteRecv ..
    · exact .refl s1
  refine .trans ?_ (waitsOnly_markerWake s3 r.pos)
  dsimp only [s3]
  split
  · exact h2.trans (waitsOnly_slotFreed ..)
  · exact h2

theorem reqEnd_reqs (s : State) (r : Req) : (s.reqEnd r).reqs = s.reqs.filter fun x => x.id != r.id := by
  obtain ⟨ms, cs, bs, h⟩ := waitsOnly_reqEnd s r
  rw [h]

theorem unkeep_eq (s : State) (f : Nat → Nat → Bool) : ∃ ms rq, s.unkeep f = { s with masters := ms, reqs := rq } := ⟨_, _, rfl⟩

/-- A load drops kept values, and nothing else changes before it is delivered. -/
theorem readState_eq (s : State) (ord : BitVec 2) (sp : Nat) (ea : W64) (n : Nat) :
    ∃ ms rq, readState s ord sp ea n = { s with masters := ms, reqs := rq } := by
  have hdrop : ∃ ms rq, s.dropKept sp ea n = { s with masters := ms, reqs := rq } := by
    unfold State.dropKept
    split
    · exact unkeep_eq ..
    · exact ⟨s.masters, s.reqs, rfl⟩
  obtain ⟨ms, rq, h⟩ := hdrop
  unfold readState
  rw [h]
  split
  · exact unkeep_eq ..
  · exact ⟨ms, rq, rfl⟩

theorem canTake_readState {s : State} {ord : BitVec 2} {sp : Nat} {ea : W64} {n : Nat} {ext : List (Nat × Nat)}
    (h : ∀ l ∈ s.absent ext, s.canTake (l1Of s.cur) l false = true) :
    ∀ l ∈ (readState s ord sp ea n).absent ext, (readState s ord sp ea n).canTake (l1Of (readState s ord sp ea n).cur) l false = true := by
  obtain ⟨ms, rq, e⟩ := readState_eq s ord sp ea n
  rw [e]
  exact h

/-- LD outside the LSs in the default mode (R213, R278). -/
theorem ld_posted {s : State} {key : Nat} (x : MemS) {p : (MemS → Instr) × Nat} (hp : p ∈ scalarLoads) (hls : isLs key = false)
    (hkind : NoHandler s) (hnr : x.h.nr = 0) (hclear : Clear s (loadAcc s x.mem [pLoad] p.2 1 true) key)
    (hue : s.ueIn (s.rdr s.cur s.me.proof) key p.2 = none) :
    ∃ t, exec (p.1 x) s = .next t ∧ Ends s t s.me x.h.words s.me.o ∧
      Sent s t (.land [.s x.sr.toNat (BitVec.ofNat 64 (leNat (s.loadBytes (s.rdr s.cur s.me.proof) key p.2)))] none false) := by
  have hmay : s.me.mayIssue .access x.h.nr = true := hkind.elim (fun h => mayIssue_task h _ _) fun h => mayIssue_svc h _ _
  have hn : (s.readFor (s.rdr s.cur s.me.proof) (p.1 x) key).bytes.length = p.2 := by rw [readFor_scalar hp]; exact loadBytes_length ..
  have hrem : remoteLs s.cur key = false := by rw [remoteLs, hls, Bool.false_and]
  obtain ⟨-, -, -, hahead, -, -, -, -, -, htake⟩ := id hclear
  have hexec := load_of_clear hmay hclear hrem hn (fun h => absurd h (lt_irrefl _)) x.ord
  obtain ⟨v, hv, hposts⟩ := deliver_posts (words := x.h.words) (aside_readState s x.ord (s.me.rc x.mem.cap).space (s.me.ea x.mem) p.2) hnr hls
    (canTake_readState (htake rfl)) [.s x.sr.toNat (BitVec.ofNat 64 (leNat (s.loadBytes (s.rdr s.cur s.me.proof) key p.2)))]
    (laterLoad s.me (p.1 x) (s.me.rc x.mem.cap) (s.me.ea x.mem) key)
  have hload : s.loadAhead s.cur [(key, p.2)] = [] := loadAhead_of_unitAhead hahead
  rw [loadResult_scalar hp x hue, hload] at hexec
  refine ⟨_, (exec_scalarLoad hp x s).trans (hexec.trans (congrArg _ hv)), ?_, hposts.sent x.h x.h.words⟩
  have hends := hposts.ends x.h x.h.words
  rwa [rdy, if_pos hnr] at hends

/-- The return of a posted result (R280). -/
theorem exec_postedResultReturn {s : State} {r : Req} {ws : List RegW} {tr : Bool} (hr : s.req? s.cur = some r) (hk : r.k = .land ws none tr)
    (hun : s.unapplied r.id = false) : exec .postedResultReturn s = .next ((s.updM r.pos fun m => m.landAll ws).reqEnd r) := by
  simp only [exec, execPostedResultReturn, hr, hun, hk]
  rfl

theorem landAll_exiting (m : Master) (ws : List RegW) : (m.landAll ws).exiting = m.exiting ∧ (m.landAll ws).pc = m.pc := by
  have hland : ∀ (m : Master) w, (m.land w).exiting = m.exiting ∧ (m.land w).pc = m.pc := by
    intro m w
    by_cases hw : ∃ x, w = .o x
    · obtain ⟨x, rfl⟩ := hw
      exact ⟨rfl, rfl⟩
    · obtain ⟨_, _, _, h⟩ := land_files m fun x hx => hw ⟨x, hx⟩
      rw [h]
      exact ⟨rfl, rfl⟩
  induction ws generalizing m with
  | nil => exact ⟨rfl, rfl⟩
  | cons w ws ih => exact ⟨(ih _).1.trans (hland m w).1, (ih _).2.trans (hland m w).2⟩

/-- A result lands, and its request ends. -/
theorem landed_reqEnd {s : State} {r : Req} (ws : List RegW) (h : (s.ms r.pos).exiting = false) :
    let t := (s.updM r.pos fun m => m.landAll ws).reqEnd r
    t.mem = s.mem ∧ t.reqs = s.reqs.filter (fun q => q.id != r.id) ∧ SameFiles (t.ms r.pos) ((s.ms r.pos).landAll ws) ∧ (t.ms r.pos).pc = (s.ms r.pos).pc := by
  have hms : (s.updM r.pos fun m => m.landAll ws).ms r.pos = (s.ms r.pos).landAll ws := ms_setM_same ..
  have h := aside_reqEnd (s := s.updM r.pos fun m => m.landAll ws) (r := r) (by rw [hms, (landAll_exiting ..).1, h])
  refine ⟨h.mem, reqEnd_reqs .., ?_, ?_⟩
  · rw [← hms]
    exact (h.ms r.pos).files
  · rw [← (landAll_exiting (s.ms r.pos) ws).2, ← hms]
    exact (h.ms r.pos).pc

/-- Settles O19, load by load. -/
theorem scalarAndVectorLoads : Obligations.ScalarAndVectorLoads := by
  unfold Obligations.ScalarAndVectorLoads
  refine ⟨fun s key hown => ⟨?_, ?_, ?_, ?_⟩, ?_, ?_⟩
  · exact fun x p hp hmay hclear hue => ld_ownLs hown x hp hmay hclear hue
  · exact fun x het hmay hclear hue => ldv_ownLs hown x het hmay hclear hue
  · exact fun x het hmay hclear hlo hhi hue hsame hcheck hover hsw hahead =>
      ldv_conv_ownLs hown x het hmay hclear rfl rfl hlo hhi hue hsame hcheck hover hsw hahead
  · exact fun x hmay hclear hue => ldc_ownLs hown x hmay hclear hue
  · exact fun s key x p hp hls hkind hnr hclear hue => ld_posted x hp hls hkind hnr hclear hue
  · intro s r ws tr hr hk hun hexit
    exact ⟨_, exec_postedResultReturn hr hk hun, landed_reqEnd ws hexit⟩

end Sys2Proof.Machine
end

section

/-!
# Gathers, scatters and the pieces of a store (spec/10, R197, R213, R220)
What the pieces of a store leave of the masters, what those outside GLOB write, and the elements of LDG and STS: O20.
-/

namespace Sys2Proof.Machine

open Sys2Proof.Claims

/-! ## Stores leave registers (R213) -/

/-- The acting position stands, and every master is the same but for waits, TBMASK and what it keeps. -/
def TasksKept (s u : State) : Prop := u.cur = s.cur ∧ ∀ p, SameTask (u.ms p) (s.ms p)

theorem TasksKept.refl (s : State) : TasksKept s s := ⟨rfl, fun _ => .refl _⟩

theorem TasksKept.trans {s u w : State} (h : TasksKept s u) (h' : TasksKept u w) : TasksKept s w :=
  ⟨h'.1.trans h.1, fun p => (h'.2 p).trans (h.2 p)⟩

theorem Aside.tasksKept {s u : State} (h : Aside s u) : TasksKept s u := ⟨h.cur, h.ms⟩

theorem MastersKept.tasksKept {s u : State} (h : MastersKept s u) : TasksKept s u := by
  obtain ⟨hcur, -, hms⟩ := h
  exact ⟨hcur, fun p => by rw [State.ms, hms]; exact .refl _⟩

theorem TasksKept.me {s u : State} (h : TasksKept s u) : SameTask u.me s.me := by
  have hme : u.me = u.ms s.cur := congrArg u.ms h.1
  rw [hme]
  exact h.2 s.cur

theorem TasksKept.ends {s u : State} (h : TasksKept s u) (hd : Hd) (words : Nat) : Ends s (u.done hd words) s.me words (rdy s hd) :=
  ends_done h.1 h.me.files h.me.specials h.me.pc h.me.o (fun p _ => (h.2 p).files) hd words

theorem tasksKept_request (s : State) (pos key : Nat) (slot mark : Bool) (k : ReqK) (after : List Nat) :
    TasksKept s (s.request pos key slot mark k after) := by
  obtain ⟨r, haside, -⟩ := request_aside s pos key slot mark k after
  exact TasksKept.trans (u := { s with reqs := s.reqs ++ [r], nextReq := s.nextReq + 1 }) ⟨rfl, fun _ => .refl _⟩ haside.tasksKept

/-- One piece of a store, and whether a block of it or of the pieces before was discarded. -/
def putPiece (req : Nat) (o : Ord) (x : State × Stored) (p : Nat × List Host.Cell) : State × Stored :=
  let a := x.1.store x.1.cur x.1.me.proof false req o p.1 p.2
  ((a.1.touch x.1.cur p.1).wakeWords ((p.2.filter fun c => c.1 < 2 ^ 72).map Prod.fst), if x.2 = .ovf || a.2 = .ovf then .ovf else a.2)

theorem tasksKept_putPiece (req : Nat) (o : Ord) (x : State × Stored) (p : Nat × List Host.Cell) :
    TasksKept x.1 (putPiece req o x p).1 :=
  (mastersKept_store ..).tasksKept.trans ((aside_touch ..).trans (aside_wakeAll ..)).tasksKept

theorem tasksKept_putPieces (req : Nat) (o : Ord) (ps : List (Nat × List Host.Cell)) (x : State × Stored) :
    TasksKept x.1 (ps.foldl (putPiece req o) x).1 := by
  induction ps generalizing x with
  | nil => exact .refl _
  | cons p ps ih => exact (tasksKept_putPiece ..).trans (ih _)

/-- The state in which the pieces are stored: a piece that is not the own LS's takes a slot. -/
def slotted (s : State) (pieces : List (Nat × List Host.Cell)) : State :=
  match (pieces.map Prod.fst).find? fun k => s.needsSlot s.cur k with
  | some k => s.request s.cur k true false .ack []
  | none => s

/-- The request that the store's acknowledgement ends; 0 when it takes no slot. -/
def slotReq (s : State) (pieces : List (Nat × List Host.Cell)) : Nat :=
  if ((pieces.map Prod.fst).find? fun k => s.needsSlot s.cur k).isSome then s.nextReq else 0

theorem tasksKept_slotted (s : State) (pieces : List (Nat × List Host.Cell)) : TasksKept s (slotted s pieces) := by
  unfold slotted
  split
  · exact tasksKept_request ..
  · exact .refl s

/-- A store as its slot, its pieces and the lines that it has used. -/
theorem putStore_eq (s : State) (after : List Nat) (pieces : List (Nat × List Host.Cell)) : ∃ rq ext,
    let x := pieces.foldl (putPiece (slotReq s pieces) { after := after, hold := !after.isEmpty }) (slotted s pieces, .performed)
    s.putStore after pieces = (State.linesUsed { x.1 with reqs := rq } ext, x.2) := by
  have hput : s.putStore after pieces =
      let x := pieces.foldl (putPiece (slotReq s pieces) { after := after, hold := !after.isEmpty }) (slotted s pieces, .performed)
      ((if x.1.batches.any fun b => b.req = slotReq s pieces && slotReq s pieces != 0 && b.proof != 0 then
          { x.1 with reqs := x.1.reqs.map fun q => if q.id = slotReq s pieces then { q with mark := true } else q } else x.1).linesUsed
        (((pieces.flatMap Prod.snd).filter fun (c : Host.Cell) => isGlobKey c.1).map fun (c : Host.Cell) => (c.1, 1)), x.2) := rfl
  rw [hput]
  generalize pieces.foldl (putPiece (slotReq s pieces) { after := after, hold := !after.isEmpty }) (slotted s pieces, .performed) = x
  dsimp only
  split
  · exact ⟨_, _, rfl⟩
  · exact ⟨x.1.reqs, _, rfl⟩

/-- A store leaves the registers of every master (R213). -/
theorem tasksKept_putStore (s : State) (after : List Nat) (pieces : List (Nat × List Host.Cell)) :
    TasksKept s (s.putStore after pieces).1 := by
  obtain ⟨rq, ext, h⟩ := putStore_eq s after pieces
  rw [h]
  refine .trans ?_ (aside_linesUsed ..).tasksKept
  exact (tasksKept_slotted s pieces).trans (tasksKept_putPieces (slotReq s pieces) { after := after, hold := !after.isEmpty } pieces
    (slotted s pieces, .performed))

theorem stored_of_ne {s : State} {h : Hd} {words : Nat} {r : Stored} (hr : r ≠ .ovf) : s.stored h words r = s.done h words := by
  cases r with
  | ovf => exact absurd rfl hr
  | performed | sent => rfl

/-! ## Stores outside GLOB (R197) -/

theorem slotted_mem (s : State) (pieces : List (Nat × List Host.Cell)) : (slotted s pieces).mem = s.mem := by
  unfold slotted
  split
  · exact request_mem ..
  · rfl

/-- Outside GLOB a store that waits for nothing is performed at once. -/
theorem putPiece_of_not_glob {p : Nat × List Host.Cell} (hp : isGlobKey p.1 = false) (req : Nat) {o : Ord} (ho : o.hold = false)
    {x : State × Stored} (hx : x.2 ≠ .ovf) :
    (putPiece req o x p).1.mem = setCells x.1.mem p.2 ∧ (putPiece req o x p).2 = .performed := by
  unfold putPiece State.store
  simp only [hp, ho, Bool.false_eq_true, if_false, hx, decide_false, Bool.or_self, reduceCtorEq]
  exact ⟨rfl, trivial⟩

theorem putPieces_of_not_glob {ps : List (Nat × List Host.Cell)} (hps : ∀ p ∈ ps, isGlobKey p.1 = false) (req : Nat) {o : Ord}
    (ho : o.hold = false) {x : State × Stored} (hx : x.2 = .performed) :
    (ps.foldl (putPiece req o) x).1.mem = setCells x.1.mem (ps.flatMap Prod.snd) ∧ (ps.foldl (putPiece req o) x).2 = .performed := by
  induction ps generalizing x with
  | nil => exact ⟨rfl, hx⟩
  | cons p ps ih =>
    obtain ⟨hmem, hr⟩ := putPiece_of_not_glob (hps p List.mem_cons_self) req ho (x := x) (by rw [hx]; decide)
    obtain ⟨hmem', hr'⟩ := ih (fun q hq => hps q (List.mem_cons_of_mem _ hq)) hr
    rw [List.foldl_cons, List.flatMap_cons, setCells_append, ← hmem]
    exact ⟨hmem', hr'⟩

theorem putStore_of_not_glob (s : State) {ps : List (Nat × List Host.Cell)} (hps : ∀ p ∈ ps, isGlobKey p.1 = false) :
    (s.putStore [] ps).1.mem = setCells s.mem (ps.flatMap Prod.snd) ∧ (s.putStore [] ps).2 = .performed := by
  obtain ⟨rq, ext, h⟩ := putStore_eq s [] ps
  obtain ⟨hmem, hr⟩ := putPieces_of_not_glob hps (slotReq s ps) (o := { after := [], hold := !([] : List Nat).isEmpty }) rfl
    (x := (slotted s ps, .performed)) rfl
  rw [h]
  refine ⟨(aside_linesUsed ..).mem.trans (hmem.trans ?_), hr⟩
  rw [slotted_mem]

/-! ## What an access follows, in a state aside -/

theorem reqsAhead_congr {s u : State} (hreqs : SameReqs u.reqs s.reqs) (hpages : u.pages = s.pages) (pos key len : Nat) :
    u.reqsAhead pos key len = s.reqsAhead pos key len := by
  have hunit : ∀ j k, u.sameUnit j k = s.sameUnit j k := fun j k => by
    unfold State.sameUnit State.msUnit
    simp only [pageOfKey_congr hpages]
  let f := fun r : Req => { r with drop := false, due := 0 }
  have hmap : ∀ l : List Req, ∀ p : Req → Bool, (∀ r, p (f r) = p r) → (l.filter p).map (·.id) = ((l.map f).filter p).map (·.id) := by
    intro l p hp
    rw [List.filter_map, List.map_map]
    have hcomp : p ∘ f = p := funext hp
    rw [hcomp]
    rfl
  unfold State.reqsAhead
  simp only [hunit]
  rw [hmap u.reqs _ fun r => rfl, hmap s.reqs _ fun r => rfl]
  exact congrArg (fun l => (List.filter _ l).map _) hreqs

theorem heldAhead_congr {s u : State} (hb : u.batches = s.batches) (pos : Nat) (f : Nat → Bool) : u.heldAhead pos f = s.heldAhead pos f := by
  unfold State.heldAhead
  rw [hb]

theorem Aside.unitAhead {s u : State} (h : Aside s u) (pos key len : Nat) : u.unitAhead pos key len = s.unitAhead pos key len := by
  have hunit : ∀ j k, u.sameUnit j k = s.sameUnit j k := fun j k => by
    unfold State.sameUnit State.msUnit
    simp only [pageOfKey_congr h.pages]
  unfold State.unitAhead
  rw [reqsAhead_congr h.reqs h.pages, heldAhead_congr h.batches]
  simp only [hunit]

theorem loadAhead_eq_nil {s : State} {pos : Nat} {ext : List (Nat × Nat)} (h : ∀ e ∈ ext, s.unitAhead pos e.1 e.2 = []) :
    s.loadAhead pos ext = [] := by
  have hall : (ext.flatMap fun e => s.reqsAhead pos e.1 e.2 ++ s.heldAhead pos (s.sameUnit · e.1)) = [] := by
    rw [List.flatMap_eq_nil_iff]
    intro e he
    obtain ⟨hreqs, hheld⟩ := List.append_eq_nil_iff.1 (h e he)
    rw [hreqs, List.nil_append]
    unfold State.heldAhead at hheld ⊢
    rw [List.map_eq_nil_iff, List.filter_eq_nil_iff] at hheld ⊢
    intro b hb hcond
    refine hheld b hb ?_
    simp only [Bool.and_eq_true, List.any_eq_true] at hcond ⊢
    obtain ⟨hc, c, hcell, hunit⟩ := hcond
    exact ⟨hc, c, hcell, by rw [hunit, Bool.or_true]⟩
  unfold State.loadAhead
  rw [hall]
  rfl

/-! ## The flow of LDG and STS (R220) -/

/-- The active elements with their keys. -/
def actsOf (s : State) (x : MemG) : List (Nat × Nat) := (elems s x).map fun j => (j, elemKey s x j)

/-- The state in which the elements are read or stored: kept values of their bytes are dropped. -/
def gatherState (s : State) (x : MemG) : State :=
  (actsOf s x).foldl (fun u a => u.dropKept (s.me.rc x.mem.cap).space (gatherEa (s.me.ea x.mem) (s.me.rv x.vi) a.1) (etBytes 3 x.et)) s

theorem aside_gatherState (s : State) (x : MemG) : Aside s (gatherState s x) := by
  unfold gatherState
  exact foldl_related (R := Aside) .refl .trans (fun _ _ => aside_dropKept ..) _ s

theorem find?_actsOf {s : State} {x : MemG} {f : Nat × Nat → Bool} (h : ∀ j ∈ elems s x, f (j, elemKey s x j) = false) :
    (actsOf s x).find? f = none := by
  rw [List.find?_eq_none]
  exact List.forall_mem_map.2 fun j hj => by rw [h j hj]; decide

theorem any_actsOf {s : State} {x : MemG} {f : Nat × Nat → Bool} (h : ∀ j ∈ elems s x, f (j, elemKey s x j) = false) :
    (actsOf s x).any f = false := by
  rw [List.any_eq_false]
  exact List.forall_mem_map.2 fun j hj => by rw [h j hj]; decide

theorem claimed_elems {s : State} {x : MemG} {write : Bool} (h : GatherClear s x write) (hw : write = true) :
    s.claimed s.cur ((actsOf s x).map fun a => (a.2, etBytes 3 x.et)) = [] := by
  have hext : ((actsOf s x).map fun a => (a.2, etBytes 3 x.et)) = (elems s x).map fun j => (elemKey s x j, etBytes 3 x.et) := by
    rw [actsOf, List.map_map]
    rfl
  rw [hext]
  cases hel : elems s x with
  | nil => rfl
  | cons j js =>
    obtain ⟨-, -, -, hall⟩ := h
    rw [← hel]
    exact (hall j (hel ▸ List.mem_cons_self)).2.2.2.1 hw

/-- A gather or scatter whose elements' checks pass, and which nothing holds back, acts on its elements. -/
theorem gather_of_clear {s : State} {x : MemG} {write : Bool} (h : GatherClear s x write)
    (hctl : write = true → ∀ j ∈ elems s x, s.isCtl (elemKey s x j) = false) (k : State → List (Nat × Nat) → State) :
    gather x write k s = .next (k (gatherState s x) (actsOf s x)) := by
  have hclaim := claimed_elems h
  obtain ⟨hmay, horphan, hflt, hall⟩ := h
  have hhold : (write && (actsOf s x).any fun a => s.isCtl a.2 && !(s.observed s.cur ++ s.unitAhead s.cur a.2 (etBytes 3 x.et)).isEmpty) = false := by
    cases write with
    | false => rfl
    | true =>
      rw [Bool.true_and]
      exact any_actsOf fun j hj => by rw [hctl rfl j hj, Bool.false_and]
  have hwin : (actsOf s x).find? (fun a => s.windowWaits a.2 (etBytes 3 x.et)) = none := find?_actsOf fun j hj => (hall j hj).2.2.1
  have hslot : (actsOf s x).find? (fun a => s.slotFull s.cur a.2) = none := find?_actsOf fun j hj => (hall j hj).2.1
  have hbusy : ((actsOf s x).any fun a =>
      s.switching s.cur (s.me.rc x.mem.cap).space (gatherEa (s.me.ea x.mem) (s.me.rv x.vi) a.1).toNat (etBytes 3 x.et) ||
      s.me.overlaps s.cur (s.me.rc x.mem.cap).space (gatherEa (s.me.ea x.mem) (s.me.rv x.vi) a.1).toNat (etBytes 3 x.et) write) = false :=
    any_actsOf fun j hj => by
      obtain ⟨-, -, -, -, hsw, hover⟩ := hall j hj
      rw [Bool.or_eq_false_iff]
      exact ⟨hsw, hover⟩
  have hclaim' : (write && !(s.claimed s.cur ((actsOf s x).map fun a => (a.2, etBytes 3 x.et))).isEmpty) = false := by
    cases write with
    | false => rfl
    | true => rw [hclaim rfl]; rfl
  have hacts : s.gatherActs s.cur x (s.me.rm x.msk) (s.me.rc x.mem.cap).space (s.me.ea x.mem) (s.me.rv x.vi) = actsOf s x := rfl
  unfold gather
  rw [gate_of_mayIssue hmay.2]
  dsimp only
  rw [hflt]
  dsimp only
  rw [proofCheck_of_none horphan, hacts, hhold, if_neg Bool.false_ne_true, hwin]
  dsimp only
  rw [hslot]
  dsimp only
  rw [hbusy, if_neg Bool.false_ne_true, hclaim', if_neg Bool.false_ne_true]
  rfl

/-! ## The elements of a gathered register -/

/-- Element `j` of a run of bytes replaced. -/
theorem patch_getD {bs f : List Byte} {j w i : Nat} (hw : f.length = w) (hj : j * w + w ≤ bs.length) (h0 : 0 < w) :
    (bs.take (j * w) ++ f ++ bs.drop (j * w + w)).getD i 0 = if i / w = j then f.getD (i % w) 0 else bs.getD i 0 := by
  have hlen : (bs.take (j * w)).length = j * w := List.length_take_of_le (by omega)
  have hdiv : i / w = j ↔ j * w ≤ i ∧ i < j * w + w := by
    rw [Nat.div_eq_iff h0]
    omega
  have hmod : i / w = j → i % w = i - j * w := fun h => by
    have := Nat.div_add_mod i w
    rw [h, Nat.mul_comm] at this
    omega
  simp only [List.getD_eq_getElem?_getD]
  by_cases hlo : i < j * w
  · rw [if_neg (by rw [hdiv]; omega), List.append_assoc, List.getElem?_append_left (by omega), List.getElem?_take_of_lt hlo]
  by_cases hhi : i < j * w + w
  · rw [if_pos (hdiv.2 (by omega)), hmod (hdiv.2 (by omega)), List.append_assoc, List.getElem?_append_right (by omega), hlen,
      List.getElem?_append_left (by omega)]
  · rw [if_neg (by rw [hdiv]; omega), List.getElem?_append_right (by rw [List.length_append]; omega), List.length_append, hlen, hw,
      List.getElem?_drop]
    congr 2
    omega

/-- What a gather makes of a run of bytes: elements, each at its place. -/
def patchAll (w : Nat) (f : Nat → List Byte) (acts : List (Nat × Nat)) (bs : List Byte) : List Byte :=
  acts.foldl (fun bs a => bs.take (a.1 * w) ++ f a.2 ++ bs.drop (a.1 * w + w)) bs

theorem patchAll_getD {w : Nat} {f : Nat → List Byte} (hf : ∀ k, (f k).length = w) (h0 : 0 < w) {acts : List (Nat × Nat)} {bs : List Byte}
    (hin : ∀ a ∈ acts, a.1 * w + w ≤ bs.length) (hne : acts.Pairwise fun a b => a.1 ≠ b.1) :
    (patchAll w f acts bs).length = bs.length ∧
      (∀ a ∈ acts, ∀ i, i / w = a.1 → (patchAll w f acts bs).getD i 0 = (f a.2).getD (i % w) 0) ∧
      ∀ i, (∀ a ∈ acts, a.1 ≠ i / w) → (patchAll w f acts bs).getD i 0 = bs.getD i 0 := by
  induction acts generalizing bs with
  | nil => exact ⟨rfl, fun _ h => (by cases h), fun _ _ => rfl⟩
  | cons a acts ih =>
    obtain ⟨hfirst, hrest⟩ := List.pairwise_cons.1 hne
    have ha := hin a List.mem_cons_self
    let bs' := bs.take (a.1 * w) ++ f a.2 ++ bs.drop (a.1 * w + w)
    have hlen : bs'.length = bs.length := by
      simp only [bs', List.length_append, List.length_take, List.length_drop, hf]
      omega
    obtain ⟨hlen', hact, hother⟩ := ih (bs := bs') (fun b hb => hlen ▸ hin b (List.mem_cons_of_mem _ hb)) hrest
    refine ⟨hlen'.trans hlen, fun b hb i hi => ?_, fun i hi => ?_⟩
    · obtain rfl | hb := List.mem_cons.1 hb
      · refine (hother i fun c hc => hi ▸ (hfirst c hc).symm).trans ?_
        rw [patch_getD (hf _) ha h0, if_pos hi]
      · exact hact b hb i hi
    · refine (hother i fun c hc => hi c (List.mem_cons_of_mem _ hc)).trans ?_
      rw [patch_getD (hf _) ha h0, if_neg (hi a List.mem_cons_self).symm]

theorem elems_lt {s : State} {x : MemG} {j : Nat} (h : j ∈ elems s x) : j * etBytes 3 x.et + etBytes 3 x.et ≤ 128 ∧ 0 < etBytes 3 x.et := by
  obtain ⟨hr, -⟩ := List.mem_filter.1 h
  have hj : j < 128 / etBytes 3 x.et := (List.mem_range.1 hr).trans_le (Nat.min_le_left ..)
  generalize etBytes 3 x.et = w at hj ⊢
  obtain rfl | hw := Nat.eq_zero_or_pos w
  · omega
  · exact ⟨by have := (Nat.le_div_iff_mul_le hw).1 hj; rwa [Nat.succ_mul] at this, hw⟩

theorem elems_pairwise (s : State) (x : MemG) : (elems s x).Pairwise (· < ·) := List.pairwise_lt_range.filter _

/-- The byte lanes of the active elements of a gather. -/
def elemLanes (s : State) (x : MemG) : W128 :=
  BitVec.ofNat 128 ((List.range 128).foldr (fun i a => (if (actsOf s x).any fun e => e.1 = i / etBytes 3 x.et then 1 else 0) + 2 * a) 0)

/-- The lanes that a gather gives, byte by byte. -/
theorem vByte_gathered (s : State) (x : MemG) {f : Nat → List Byte} (hf : ∀ k, (f k).length = etBytes 3 x.et) (old : W1024) {i : Nat} (hi : i < 128) :
    vByte (mergeLanes (elemLanes s x) (gatherLanes (actsOf s x) (etBytes 3 x.et) f) old) i =
      if i / etBytes 3 x.et ∈ elems s x then (f (elemKey s x (i / etBytes 3 x.et))).getD (i % etBytes 3 x.et) 0 else vByte old i := by
  have hany : ((actsOf s x).any fun e => e.1 = i / etBytes 3 x.et) = true ↔ i / etBytes 3 x.et ∈ elems s x := by
    simp [actsOf]
  rw [vByte_mergeLanes _ _ _ hi, elemLanes, getLsbD_lanes (fun i => (actsOf s x).any fun e => e.1 = i / etBytes 3 x.et) hi]
  by_cases hin : i / etBytes 3 x.et ∈ elems s x
  · obtain ⟨-, h0⟩ := elems_lt hin
    obtain ⟨hlen, hact, -⟩ := patchAll_getD (acts := actsOf s x) (bs := List.replicate 128 0) hf h0
      (List.forall_mem_map.2 fun j hj => by rw [List.length_replicate]; exact (elems_lt hj).1)
      (List.pairwise_map.2 ((elems_pairwise s x).imp fun h => (Nat.ne_of_lt h)))
    rw [List.length_replicate] at hlen
    have hlanes : gatherLanes (actsOf s x) (etBytes 3 x.et) f = vOfBytes (patchAll (etBytes 3 x.et) f (actsOf s x) (List.replicate 128 0)) := rfl
    rw [if_pos hin, if_pos (hany.2 hin), hlanes, vByte_vOfBytes hlen.le]
    exact hact _ (List.mem_map.2 ⟨_, hin, rfl⟩) i rfl
  · rw [if_neg hin, if_neg fun h => hin (hany.1 h)]

theorem gatherRegs_clear {s u : State} {x : MemG} {r : Rdr} (hue : ∀ j ∈ elems s x, u.ueIn r (elemKey s x j) (etBytes 3 x.et) = none)
    (ea : W64) (vi : W1024) : u.gatherRegs r x ea vi (actsOf s x) = ([.vm x.v.toNat (elemLanes s x)
      (gatherLanes (actsOf s x) (etBytes 3 x.et) fun key => u.loadBytes r key (etBytes 3 x.et))], none) := by
  have hnone : (actsOf s x).findSome? (fun a => (u.ueIn r a.2 (etBytes 3 x.et)).map fun b => blockEa (gatherEa ea vi a.1) a.2 b) = none := by
    rw [List.findSome?_eq_none_iff]
    exact List.forall_mem_map.2 fun j hj => by rw [hue j hj]; rfl
  unfold State.gatherRegs
  dsimp only
  rw [hnone]
  rfl

/-- Reads in a state aside see the same bytes. -/
theorem Aside.reads {s u : State} (h : Aside s u) : u.rdr u.cur u.me.proof = s.rdr s.cur s.me.proof ∧ (∀ r k n, u.ueIn r k n = s.ueIn r k n) ∧
    ∀ r k, u.rd8 r k = s.rd8 r k := by
  have hproof : u.me.proof = s.me.proof := h.me.specials.1
  rw [hproof, h.cur]
  obtain ⟨_, _, _, _, _, rfl, _⟩ := h
  exact ⟨rfl, fun _ _ _ => rfl, fun _ _ => rfl⟩

/-- LDG of the own LS. -/
theorem ldg_ownLs {s : State} {x : MemG} (h : GatherClear s x false) (hown : ∀ j ∈ elems s x, ownLs s.cur (elemKey s x j) = true)
    (hue : ∀ j ∈ elems s x, s.ueIn (s.rdr s.cur s.me.proof) (elemKey s x j) (etBytes 3 x.et) = none) :
    ∃ t v, exec (.ldg x) s = .next t ∧ t.mem = s.mem ∧ t.vers = s.vers ∧ Ends s t (s.me.wv x.v v) x.h.words (rdy s x.h) ∧
      ∀ i < 128, vByte v i = if i / etBytes 3 x.et ∈ elems s x then
        s.rd8 (s.rdr s.cur s.me.proof) (elemKey s x (i / etBytes 3 x.et) + i % etBytes 3 x.et) else vByte (s.me.rv x.v) i := by
  have haside := aside_gatherState s x
  have hexec := gather_of_clear h (fun h => by cases h) (fun s acts =>
    let m := s.me
    let c := m.rc x.mem.cap
    let ext := acts.map fun (_, key) => (key, etBytes 3 x.et)
    let (ws, flt) := s.gatherRegs (s.rdr s.cur m.proof) x (m.ea x.mem) (m.rv x.vi) acts
    let k : ReqK := .unit (.ldg x) (((acts.head?).map Prod.snd).getD 0) { sp := c.space, ea := m.ea x.mem } c
      ((m.rm x.msk).extractLsb' 0 64) ((m.rm x.msk).extractLsb' 64 64) (m.rv x.vi)
    s.deliver x.h x.h.words ext ws flt k (s.loadAhead s.cur ext))
  obtain ⟨hrdr, huein, hrd8⟩ := haside.reads
  have hahead : (gatherState s x).loadAhead (gatherState s x).cur ((actsOf s x).map fun a => (a.2, etBytes 3 x.et)) = [] := by
    refine loadAhead_eq_nil ?_
    rw [actsOf, List.map_map]
    refine List.forall_mem_map.2 fun j hj => ?_
    rw [haside.unitAhead, haside.cur]
    exact (h.2.2.2 j hj).1
  have hls : ∀ e ∈ (actsOf s x).map fun a => (a.2, etBytes 3 x.et), ownLs (gatherState s x).cur e.1 = true := by
    rw [actsOf, List.map_map, haside.cur]
    exact List.forall_mem_map.2 fun j hj => hown j hj
  dsimp only at hexec
  rw [gatherRegs_clear (fun j hj => by rw [hrdr, huein]; exact hue j hj), hahead, hrdr] at hexec
  dsimp only at hexec
  rw [deliver_ownLs hls] at hexec
  have hends := haside.landed (w := .vm x.v.toNat (elemLanes s x) (gatherLanes (actsOf s x) (etBytes 3 x.et) fun key =>
    (gatherState s x).loadBytes (s.rdr s.cur s.me.proof) key (etBytes 3 x.et))) (by simp) x.h x.h.words
  rw [land_vm] at hends
  refine ⟨_, _, hexec, (done_mem ..).trans haside.mem, (done_vers ..).trans haside.vers, hends, fun i hi => ?_⟩
  rw [vByte_gathered s x (fun _ => loadBytes_length ..) _ hi]
  split
  · next hin =>
    have h0 := (elems_lt hin).2
    rw [loadBytes_of_not_glob (not_glob_of_ownLs (hown _ hin)), rdBytes_getD _ _ _ (Nat.mod_lt _ h0), hrd8]
  · rfl

/-- The bytes of element `j` that STS stores. -/
def elemBytes (s : State) (x : MemG) (j : Nat) : List Byte := (List.range (etBytes 3 x.et)).map fun i => vByte (s.me.rv x.v) (j * etBytes 3 x.et + i)

/-- The pieces of STS. -/
def elemPieces (s : State) (x : MemG) : List (Nat × List Host.Cell) :=
  (actsOf s x).map fun a => (a.2, dataCells a.2 (elemBytes s x a.1))

theorem exec_sts_ownLs {s : State} {x : MemG} (h : GatherClear s x true) (hown : ∀ j ∈ elems s x, ownLs s.cur (elemKey s x j) = true) :
    exec (.sts x) s = .next (((gatherState s x).putStore [] (elemPieces s x)).1.stored x.h x.h.words
      ((gatherState s x).putStore [] (elemPieces s x)).2) := by
  have haside := aside_gatherState s x
  have hglob : ∀ j ∈ elems s x, isGlobKey (elemKey s x j) = false := fun j hj => not_glob_of_ownLs (hown j hj)
  have hexec := gather_of_clear h (fun _ j hj => isCtl_of_not_glob (hglob j hj)) (fun s acts =>
    let m := s.me
    let w := etBytes 3 x.et
    let bytes := fun (j : Nat) => (List.range w).map fun i => vByte (m.rv x.v) (j * w + i)
    let (regs, rest) := acts.partition fun (_, key) => s.isCtl key
    let s0 := regs.foldl (fun s ((j, key) : Nat × Nat) => (s.touch s.cur key).ctlStore (bytesAt key (bytes j))) s
    let (s1, r) := s0.putStore ((rest.flatMap fun (_, key) => s.unitAhead s.cur key w).eraseDups) (rest.map fun (j, key) => (key, dataCells key (bytes j)))
    s1.stored x.h x.h.words r)
  have hpart : (actsOf s x).partition (fun a => (gatherState s x).isCtl a.2) = ([], actsOf s x) := by
    have hctl : ∀ a ∈ actsOf s x, (gatherState s x).isCtl a.2 = false :=
      List.forall_mem_map.2 fun j hj => isCtl_of_not_glob (hglob j hj)
    rw [List.partition_eq_filter_filter, List.filter_eq_nil_iff.2 fun a ha => by rw [hctl a ha]; decide,
      List.filter_eq_self.2 fun a ha => by simp [hctl a ha]]
  have hahead : ((actsOf s x).flatMap fun a => (gatherState s x).unitAhead (gatherState s x).cur a.2 (etBytes 3 x.et)) = [] := by
    rw [List.flatMap_eq_nil_iff]
    refine List.forall_mem_map.2 fun j hj => ?_
    rw [haside.unitAhead, haside.cur]
    exact (h.2.2.2 j hj).1
  have hrv : (gatherState s x).me.rv x.v = s.me.rv x.v := by
    unfold Master.rv
    rw [haside.me.files.2.1]
  dsimp only at hexec
  rw [hpart] at hexec
  dsimp only at hexec
  rw [hahead, hrv] at hexec
  exact hexec

theorem elemPieces_cells (s : State) (x : MemG) : (elemPieces s x).flatMap Prod.snd =
    (elems s x).flatMap fun j => dataCells (elemKey s x j) (elemBytes s x j) := by
  rw [elemPieces, actsOf, List.map_map, List.flatMap_map]
  rfl

/-- A data cell of a write is one of its bytes. -/
theorem dataCells_key {k : Nat} {bs : List Byte} {c : Host.Cell} (h : c ∈ dataCells k bs) (hc : c.1 < 2 ^ 72) : k ≤ c.1 ∧ c.1 < k + bs.length := by
  rw [dataCells, List.append_assoc] at h
  obtain h | h := List.mem_append.1 h
  · exact bytesAt_key h
  · have := (tagClears_poisonClears_cell h).1
    omega

/-- STS to the own LS: its elements in ascending order, the later last. -/
theorem sts_ownLs {s : State} {x : MemG} (h : GatherClear s x true) (hown : ∀ j ∈ elems s x, ownLs s.cur (elemKey s x j) = true) :
    ∃ t, exec (.sts x) s = .next t ∧ Ends s t s.me x.h.words (rdy s x.h) ∧
      (∀ j ∈ elems s x, ∀ i < etBytes 3 x.et,
        (∀ l ∈ elems s x, j < l → ¬ (elemKey s x l ≤ elemKey s x j + i ∧ elemKey s x j + i < elemKey s x l + etBytes 3 x.et)) →
        Tab.get 0 t.mem (elemKey s x j + i) = vByte (s.me.rv x.v) (j * etBytes 3 x.et + i)) ∧
      ∀ k < 2 ^ 72, (∀ l ∈ elems s x, ¬ (elemKey s x l ≤ k ∧ k < elemKey s x l + etBytes 3 x.et)) → Tab.get 0 t.mem k = Tab.get 0 s.mem k := by
  have hlen : ∀ j, (elemBytes s x j).length = etBytes 3 x.et := fun j => by rw [elemBytes, List.length_map, List.length_range]
  have hkeep := (aside_gatherState s x).tasksKept.trans (tasksKept_putStore (gatherState s x) [] (elemPieces s x))
  obtain ⟨hmem, hr⟩ := putStore_of_not_glob (gatherState s x) (ps := elemPieces s x) (by
    rw [elemPieces, actsOf, List.map_map]
    exact List.forall_mem_map.2 fun j hj => not_glob_of_ownLs (hown j hj))
  rw [elemPieces_cells, (aside_gatherState s x).mem] at hmem
  have hexec := exec_sts_ownLs h hown
  rw [hr, stored_of_ne (by decide)] at hexec
  have htmem := (done_mem ((gatherState s x).putStore [] (elemPieces s x)).1 x.h x.h.words).trans hmem
  refine ⟨_, hexec, hkeep.ends x.h x.h.words, fun j hj i hi hlast => ?_, fun k hk hnone => ?_⟩
  · obtain ⟨before, behind, hsplit⟩ := List.append_of_mem hj
    have hpair := elems_pairwise s x
    rw [hsplit] at hpair
    have hlater : ∀ l ∈ behind, j < l := (List.pairwise_cons.1 (List.pairwise_append.1 hpair).2.1).1
    have hlo : elemKey s x j + i < 2 ^ 72 := by
      have hk := hown j hj
      simp only [ownLs, Bool.and_eq_true, decide_eq_true_eq] at hk
      have := (elems_lt hj).1
      omega
    rw [htmem, hsplit, List.flatMap_append, List.flatMap_cons, setCells_append, setCells_append, get_setCells_of_notMem,
      get_setCells_dataCells _ (by omega) (by rw [hlen]; have := (elems_lt hj).1; omega) (by rwa [hlen])]
    · rw [elemBytes, List.getD_eq_getElem _ _ (by simpa using hi), List.getElem_map, List.getElem_range]
    · intro c hc hck
      obtain ⟨l, hl, hcl⟩ := List.mem_flatMap.1 hc
      have hbyte := dataCells_key hcl (hck ▸ hlo)
      rw [hlen, hck] at hbyte
      exact hlast l (hsplit ▸ List.mem_append_right _ (List.mem_cons_of_mem _ hl)) (hlater l hl) hbyte
  · rw [htmem]
    refine get_setCells_of_notMem _ _ _ fun c hc hck => ?_
    obtain ⟨l, hl, hcl⟩ := List.mem_flatMap.1 hc
    have hbyte := dataCells_key hcl (hck ▸ hk)
    rw [hlen, hck] at hbyte
    exact hnone l hl hbyte

/-- Settles O20. -/
theorem gatherAndScatter : Obligations.GatherAndScatter := by
  unfold Obligations.GatherAndScatter
  exact ⟨fun s x _ h hown hue => ldg_ownLs h hown hue, fun s x _ h hown => sts_ownLs h hown⟩

end Sys2Proof.Machine
end

section

/-!
# Stores (spec/10, R197, R203, R213, R217, R407, R409)
O21 asks that a store whose block the shadow budget discards dooms the launch that its master's LNCHID names. A supervisor core belongs to no
launch, so the model dooms none for it (R354), whatever its special registers name: the statement fails there.
-/

namespace Sys2Proof.Machine

open Sys2Proof.Claims

/-! ## The supervisor core of die 0 under a proof -/

/-- A capability over all of GLOB. -/
def globCap : Cap := Cap.make 0 0x3FF 3 0 63 0 0 true

/-- A transactional page homed on die 0. -/
def transPage : Page :=
  { psz := 0, w := true, x := false, pl := false, imm := false, ms := false, abu := false, file := false, hpin := false, tier := 0, home := 0
    nsid := 0, flba := 0, t2 := false, wb := 0, again := false, dord := 0, svn := 0, stale := false, tsvn := none, ctl := false, fwd := [] }

/-- A running launch that has spent its shadow budget. -/
def spentLaunch : Launch :=
  { st := .running, gen := 1, part := 0, sq := 0, usertag := 0, compat := true, lease := 0, prio := 5, arg := Cap.null, entry := 0, root := 1
    gx := 1, gy := 1, gpg := 1, tpg := 1, pmode := 0, pdie := 0, pclu := 0, pcore := 0, stage := 0, nslice := 1, slots := 1, lsb := 1
    zacc := 2, hash := 0, foot := [], budget := 0x10000, use := 0x10000, gangs := 1, greqs := [], stages := [], clu := some 0, gov := false
    govNew := [], defers := [], halos := [], pend := [], bound := [], ord := 0, endAt := 0, sweep := none, stall := 0, stallRep := none
    prioAt := none }

/-- A supervisor core with a proof and a launch slot in its special registers, which stores through c2 at s4. -/
def svcStore : State :=
  { State.reset with
    cur := svcBase, agenda := []
    masters := [(svcBase, { aTask with kind := .svc, c := [(2, globCap)], s := [(4, 0x110000)], proof := 1 })]
    launches := [(1, spentLaunch)], pages := [(pageKey 0 0x110000 0, transPage)]
    ranges := [(0, { lease := 0, base := 0x100000, len := 0x40000, rev := false })]
    parts := [(0, { Part.empty with dies := [0], full := true })]
    dies := [(0, { Die.empty with joined := true, full := true })] }

/-- ST.B s0, [c2 + s4]. -/
def svcStB : MemS := ⟨⟨false, 0, true, 0⟩, 0, 0, 0, ⟨2, 0, 4, 0⟩⟩

/-- What a step makes of launch slot 1. -/
def launchAfter : Out → Option Launch
  | .next t => t.launch? 1
  | _ => none

theorem svcStore_launch : (launchAfter (exec (.stB svcStB) svcStore)).map (·.st) = some .running := by decide +kernel

theorem svcStore_clear : Clear svcStore (storeAcc svcStore svcStB.mem [pStore] 1 1 true) (globKey 0 0x110000) := by
  unfold Clear storeAcc loadAcc
  decide +kernel

theorem svcStore_page : isGlobKey (globKey 0 0x110000) = true ∧
    svcStore.pageOfKey (globKey 0 0x110000) = some (pageKey 0 0x110000 0, transPage) ∧ transPage.home = dieOf svcStore.cur ∧
    svcStore.observed svcStore.cur = [] ∧ svcStore.launch? svcStore.me.lslot = some spentLaunch ∧ svcStore.me.lslot = 1 ∧
    hasVersion (Tab.get [] svcStore.vers svcStore.me.proof) (globKey 0 0x110000 / 64) = false := by decide +kernel

theorem svcStore_may : May svcStore .access svcStB.h.nr ∧ svcStore.me.proof ≠ 0 := by
  unfold May
  decide +kernel

/-- Refutes O21: the supervisor core's store is discarded, and the running launch that its registers name runs on. -/
theorem not_stores : ¬ Obligations.Stores := by
  unfold Obligations.Stores
  rintro ⟨-, h⟩
  obtain ⟨hglob, hpage, hhome, hobs, hlaunch, hslot, hver⟩ := svcStore_page
  obtain ⟨hmay, hproof⟩ := svcStore_may
  obtain ⟨-, -, htrans⟩ := h svcStore (globKey 0 0x110000) (pageKey 0 0x110000 0) transPage svcStB (.stB, 1) List.mem_cons_self hglob hpage rfl
    hmay rfl svcStore_clear
  obtain ⟨-, hovf⟩ := htrans rfl hproof hhome hobs spentLaunch hlaunch
  obtain ⟨t, l, hexec, -, -, -, -, -, -, -, hl, hdoomed⟩ := hovf (by decide) hver
  have hruns := svcStore_launch
  rw [hexec, launchAfter, ← hslot, hl, Option.map_some, hdoomed rfl] at hruns
  cases hruns

end Sys2Proof.Machine
end

section

/-!
# Copies (spec/10, R224)
O22 asks where a chunk's bytes stand for every state. The partition of a die is a number: from partition 256 on, the key of a GLOB byte
lies behind the data plane, and the chunk of a copy there stores nothing.
-/

namespace Sys2Proof.Machine

open Sys2Proof.Claims

/-- A copy of one byte from the own LS to GLOB. -/
def byteCopy : Job :=
  { k := .copy ⟨3, 0⟩ ⟨1, 0⟩ 1 1 0 0 false, pc := 0x1000, ord := 0, proof := 0, acc := 0, dead := false, unit := 0, held := false, bad := false
    rd := [], wr := [], seen := [], res := none, kd := none, after := [], at' := 0 }

/-- A task on a die of partition 256, with the copy at the head of its queue and a byte 1 to copy. -/
def farPartition : State :=
  { oneTask { aTask with cpe := [byteCopy], cAcc := 1 } with
    mem := [(lsKey 0 0, 1)], dies := [(0, { Die.empty with joined := true, full := true, part := 256 })] }

def memAfter (k : Nat) : Out → Option Byte
  | .next t => some (Tab.get 0 t.mem k)
  | _ => none

theorem farPartition_key : physKey farPartition farPartition.cur 3 0 = some (2 ^ 72) ∧ isGlobKey (2 ^ 72) = false ∧
    physKey farPartition farPartition.cur 1 0 = some (lsKey 0 0) ∧ farPartition.rd8 (farPartition.jobRdr farPartition.cur byteCopy) (lsKey 0 0) = 1 ∧
    farPartition.rd8 (farPartition.jobRdr farPartition.cur byteCopy) (poisonKey (lsKey 0 0)) = 0 := by decide +kernel

theorem farPartition_atHead : AtHead farPartition 2 byteCopy := by
  unfold AtHead IsTask
  decide +kernel

theorem farPartition_copies : memAfter (2 ^ 72) (exec .cpeChunk farPartition) = some 0 := by decide +kernel

/-- Refutes O22: the byte that the copy reads does not stand at its place in GLOB. -/
theorem not_prefetchAndCopies : ¬ Obligations.PrefetchAndCopies := by
  unfold Obligations.PrefetchAndCopies
  rintro ⟨-, h⟩
  obtain ⟨hdst, hglob, hsrc, hbyte, hsound⟩ := farPartition_key
  have hone : ∀ o, 4096 * byteCopy.unit ≤ o → o < 4096 * byteCopy.unit + min 4096 (1 * 1 - 4096 * byteCopy.unit) → o = 0 := by
    intro o hlo hhi
    have hunit : byteCopy.unit = 0 := rfl
    rw [hunit] at hhi
    omega
  have hplane : isGlobKey ((physKey farPartition farPartition.cur 3 0).getD 0) = false := by
    rw [hdst]
    exact hglob
  obtain ⟨hcopied, -⟩ := h farPartition byteCopy ⟨3, 0⟩ ⟨1, 0⟩ 1 1 0 0 false farPartition_atHead rfl (by decide) (fun o hlo hhi => by
    obtain rfl := hone o hlo hhi
    exact ⟨congrArg Option.isSome hsrc, congrArg Option.isSome hdst, hplane⟩)
    (fun hblk => by cases hblk)
  obtain ⟨t, hexec, hbytes, -⟩ := hcopied fun o hlo hhi hbad => by
    obtain rfl := hone o hlo hhi
    exact hbad ((congrArg (fun k => farPartition.rd8 (farPartition.jobRdr farPartition.cur byteCopy) (poisonKey (k.getD 0))) hsrc).trans hsound)
  have hstands : Tab.get 0 t.mem ((physKey farPartition farPartition.cur 3 0).getD 0) =
      farPartition.rd8 (farPartition.jobRdr farPartition.cur byteCopy) ((physKey farPartition farPartition.cur 1 0).getD 0) :=
    hbytes 0 (by decide) (by decide) fun p hlo hhi hne => absurd (hone p hlo hhi) hne
  rw [hsrc, hdst, Option.getD_some, Option.getD_some, hbyte] at hstands
  have hruns := farPartition_copies
  rw [hexec, memAfter, hstands] at hruns
  cases hruns

end Sys2Proof.Machine
end

section

/-!
# Active messages and handlers (spec/10, R209 to R211, R227, R228)
The capability that a handler gets, and the steps of a message: O23.
-/

namespace Sys2Proof.Machine

open Sys2Proof.Claims

/-! ## The handler's capability (R22, R346, R349) -/

/-- A field of two appended vectors that lies in the upper or in the lower one. -/
theorem extractLsb'_append_upper {v w s l : Nat} (x : BitVec v) (y : BitVec w) (h : w ≤ s) : (x ++ y).extractLsb' s l = x.extractLsb' (s - w) l := by
  refine BitVec.eq_of_getLsbD_eq fun i hi => ?_
  rw [BitVec.getLsbD_extractLsb', BitVec.getLsbD_extractLsb', BitVec.getLsbD_append, if_neg (by omega), Nat.sub_add_comm h]

theorem extractLsb'_append_lower {v w s l : Nat} (x : BitVec v) (y : BitVec w) (h : s + l ≤ w) : (x ++ y).extractLsb' s l = y.extractLsb' s l := by
  refine BitVec.eq_of_getLsbD_eq fun i hi => ?_
  rw [BitVec.getLsbD_extractLsb', BitVec.getLsbD_extractLsb', BitVec.getLsbD_append, if_pos (by omega)]

/-- The fields of a capability made from its fields (R346). -/
theorem make_fields (cu : W64) (p : BitVec 16) (sp st scl bres glen : Nat) (t : Bool) : let c := Cap.make cu p sp st scl bres glen t
    c.tag = t ∧ c.cursor = cu ∧ c.perms = p ∧ c.space = sp % 2 ^ 4 ∧ c.sealT = st % 2 ^ 4 ∧ c.scl = scl % 2 ^ 6 ∧ c.bres = bres % 2 ^ 18 ∧
      c.glen = glen % 2 ^ 14 := by
  have hself : ∀ {n : Nat} (x : BitVec n), x.extractLsb' 0 n = x := fun x => by simp
  simp (disch := omega) only [Cap.make, Cap.cursor, Cap.perms, Cap.space, Cap.sealT, Cap.scl, Cap.bres, Cap.glen, extractLsb'_append_upper,
    extractLsb'_append_lower, Nat.sub_self, Nat.reduceSub, hself, BitVec.toNat_ofNat, and_self]

theorem withPerms_fields (c : Cap) (p : BitVec 16) : (c.withPerms p).perms = p ∧ (c.withPerms p).scl = c.scl ∧ (c.withPerms p).bres = c.bres ∧
    (c.withPerms p).glen = c.glen := by
  have hself : ∀ {n : Nat} (x : BitVec n), x.extractLsb' 0 n = x := fun x => by simp
  have hlow : ∀ s l, s + l ≤ 48 → (c.bits.extractLsb' 0 48).extractLsb' s l = c.bits.extractLsb' s l := fun s l h => by
    refine BitVec.eq_of_getLsbD_eq fun i hi => ?_
    rw [BitVec.getLsbD_extractLsb', BitVec.getLsbD_extractLsb', BitVec.getLsbD_extractLsb', Nat.zero_add, decide_eq_true (show s + i < 48 by omega),
      Bool.true_and]
  simp (disch := omega) only [Cap.withPerms, Cap.perms, Cap.scl, Cap.bres, Cap.glen, extractLsb'_append_upper,
    extractLsb'_append_lower, Nat.sub_self, hself, hlow, and_self]

/-- A capability over an extent is tagged and unsealed, with the space, permissions and cursor given. -/
theorem over_fields (sp : Nat) (p : BitVec 16) (lo len cu : Nat) : let c := Cap.over sp p lo len cu
    c.tag = true ∧ c.cursor = BitVec.ofNat 64 cu ∧ c.perms = p ∧ c.space = sp % 2 ^ 4 ∧ c.sealT = 0 := by
  obtain ⟨htag, hcu, hp, hsp, hseal, -⟩ := make_fields (BitVec.ofNat 64 cu)
    ((Cap.bound { bits := 0, tag := true } lo len ((scaleFor lo len).getD 50)).withPerms p).perms sp 0
    ((Cap.bound { bits := 0, tag := true } lo len ((scaleFor lo len).getD 50)).withPerms p).scl
    ((Cap.bound { bits := 0, tag := true } lo len ((scaleFor lo len).getD 50)).withPerms p).bres
    ((Cap.bound { bits := 0, tag := true } lo len ((scaleFor lo len).getD 50)).withPerms p).glen true
  exact ⟨htag, hcu, hp.trans (withPerms_fields ..).1, hsp, hseal⟩

theorem over_scale (sp : Nat) (p : BitVec 16) (lo len cu : Nat) : let c := Cap.over sp p lo len cu
    let e := (scaleFor lo len).getD 50
    c.scl = e % 2 ^ 6 ∧ c.bres = lo / 2 ^ e * 2 ^ e / 2 ^ e % 2 ^ 18 ∧ c.glen = (ceilDiv2 (lo + len) e - lo / 2 ^ e) % 2 ^ 14 := by
  intro c e
  obtain ⟨-, -, -, -, -, hscl, hbres, hglen⟩ := make_fields (BitVec.ofNat 64 (lo / 2 ^ e * 2 ^ e)) (Cap.perms { bits := 0, tag := true })
    (Cap.space { bits := 0, tag := true }) (Cap.sealT { bits := 0, tag := true }) e (lo / 2 ^ e * 2 ^ e / 2 ^ e % 2 ^ 18)
    (ceilDiv2 (lo + len) e - lo / 2 ^ e) true
  obtain ⟨-, wscl, wbres, wglen⟩ := withPerms_fields (Cap.bound { bits := 0, tag := true } lo len e) p
  obtain ⟨-, -, -, -, -, gscl, gbres, gglen⟩ := make_fields (BitVec.ofNat 64 cu)
    ((Cap.bound { bits := 0, tag := true } lo len e).withPerms p).perms sp 0 ((Cap.bound { bits := 0, tag := true } lo len e).withPerms p).scl
    ((Cap.bound { bits := 0, tag := true } lo len e).withPerms p).bres ((Cap.bound { bits := 0, tag := true } lo len e).withPerms p).glen true
  refine ⟨gscl.trans ?_, gbres.trans ?_, gglen.trans ?_⟩
  · rw [wscl]
    exact (congrArg (· % 2 ^ 6) hscl).trans (Nat.mod_mod _ _)
  · rw [wbres]
    exact ((congrArg (· % 2 ^ 18) hbres).trans (Nat.mod_mod _ _)).trans (Nat.mod_mod _ _)
  · rw [wglen]
    exact (congrArg (· % 2 ^ 14) hglen).trans (Nat.mod_mod _ _)

/-- Blocks of an LS are granules of the scale chosen for them. -/
theorem scaleFor_blocks {lo len : Nat} (hlo : lo % 64 = 0) (hlen : len % 64 = 0) (hfit : lo + len ≤ 2 ^ 18) :
    ∃ e ≤ 5, scaleFor lo len = some e ∧ ceilDiv2 (lo + len) e - lo / 2 ^ e ≤ 16383 := by
  have h5 : ceilDiv2 (lo + len) 5 - lo / 2 ^ 5 ≤ 16383 := by
    unfold ceilDiv2
    omega
  cases h : scaleFor lo len with
  | none =>
    have := List.find?_eq_none.1 h 5 (by decide)
    exact absurd (decide_eq_true h5) this
  | some e =>
    obtain ⟨hp, -, hmin⟩ := List.find?_range_eq_some.1 h
    refine ⟨e, ?_, rfl, of_decide_eq_true hp⟩
    by_contra hlt
    have := hmin 5 (by omega)
    rw [decide_eq_true h5] at this
    cases this

/-- Bounds on blocks of an LS are exact (R22, R349). -/
theorem over_bounds {lo len off : Nat} (sp : Nat) (p : BitVec 16) (hlo : lo % 64 = 0) (hlen : len % 64 = 0) (hfit : lo + len ≤ 2 ^ 18)
    (hoff : lo ≤ off) (hoff' : off < lo + len) : (Cap.over sp p lo len off).base = lo ∧ (Cap.over sp p lo len off).top = lo + len := by
  obtain ⟨e, he, hscale, hgran⟩ := scaleFor_blocks hlo hlen hfit
  obtain ⟨-, hcu, -⟩ := over_fields sp p lo len off
  obtain ⟨hscl, hbres, hglen⟩ := over_scale sp p lo len off
  rw [hscale, Option.getD_some] at hscl hbres hglen
  generalize Cap.over sp p lo len off = c at hcu hscl hbres hglen
  have hcu' : c.cursor.toNat = off := by
    rw [hcu, BitVec.toNat_ofNat]
    omega
  have hmod : lo % 2 ^ e = 0 ∧ (lo + len) % 2 ^ e = 0 := by interval_cases e <;> omega
  have hpos : 0 < 2 ^ e := Nat.two_pow_pos e
  have hceil : ceilDiv2 (lo + len) e = (lo + len) / 2 ^ e := by
    unfold ceilDiv2
    clear hscl hbres hglen hgran hscale
    interval_cases e <;> omega
  have hgran' : (lo + len) / 2 ^ e - lo / 2 ^ e ≤ 16383 := hceil ▸ hgran
  have hle : lo / 2 ^ e ≤ off / 2 ^ e ∧ off / 2 ^ e ≤ (lo + len) / 2 ^ e := ⟨Nat.div_le_div_right hoff, Nat.div_le_div_right hoff'.le⟩
  have hsmall : lo / 2 ^ e < 2 ^ 18 := (Nat.div_le_self ..).trans_lt (by omega)
  have hgb : c.gb = lo / 2 ^ e := by
    have hb : c.bres = lo / 2 ^ e := by rw [hbres, Nat.mul_div_cancel _ hpos, Nat.mod_eq_of_lt hsmall]
    have hs : c.scl = e := hscl.trans (Nat.mod_eq_of_lt (by omega))
    have hM : lo / 2 ^ e < 2 ^ (64 - e) := hsmall.trans (Nat.pow_lt_pow_right (by omega) (by omega))
    unfold Cap.gb
    rw [hcu', hs, hb]
    generalize lo / 2 ^ e = b at hle hgran' hsmall hM ⊢
    generalize off / 2 ^ e = g at hle ⊢
    have hd : (g + 2 ^ 18 - b) % 2 ^ 18 = g - b := by omega
    dsimp only
    rw [hd, if_pos (by omega), Nat.cast_sub hle.1, sub_sub_cancel]
    exact congrArg Int.toNat (Int.emod_eq_of_lt (Int.natCast_nonneg b) (Int.ofNat_lt.2 hM))
  have hs : c.scl = e := hscl.trans (Nat.mod_eq_of_lt (by omega))
  have hmul : lo / 2 ^ e * 2 ^ e = lo := Nat.div_mul_cancel (Nat.dvd_of_mod_eq_zero hmod.1)
  have htop : lo / 2 ^ e * 2 ^ e + c.glen * 2 ^ e = lo + len := by
    rw [hglen, hceil, Nat.mod_eq_of_lt (by omega), ← Nat.add_mul, Nat.add_sub_cancel' (hle.1.trans hle.2)]
    exact Nat.div_mul_cancel (Nat.dvd_of_mod_eq_zero hmod.2)
  unfold Cap.base Cap.top
  rw [hs, hgb, if_neg (by omega), if_neg (by omega), if_neg (by omega), htop, hmul]
  exact ⟨rfl, Nat.min_eq_left (by omega)⟩

/-! ## AMSG (R210, R227) -/

theorem noHandler_may {s : State} (h : NoHandler s) (g : Grp) (nr : BitVec 2) (hg : g = .noHandler ∨ g = .access) :
    s.me.mayIssue g nr = true := by
  obtain rfl | rfl := hg <;> exact h.elim (fun h => mayIssue_task h _ _) fun h => mayIssue_svc h _ _

theorem amsg_sent {s : State} {x : AmsgA} {key : Nat} (hk : NoHandler s) (horphan : s.me.orphan = none)
    (hcheck : s.check s.cur { cap := s.me.rc x.mem.cap, perms := [pLoad, pStore], sp := spAmsg, ea := (s.me.ea x.mem).toNat, len := 1 } = none)
    (hcode : CodeOk (s.me.rc x.cH) (wordAddr (s.me.rc x.cH).cursor)) (hkey : physKey s s.cur 1 (s.me.ea x.mem).toNat = some key)
    (hslot : s.slotFull s.cur key = false) :
    ∃ t, exec (.amsg x) s = .next t ∧ Ends s t s.me x.h.words (rdy s x.h) ∧
      Sent s t (.unit (.amsg x) key { sp := 1, ea := s.me.ea x.mem } (s.me.rc x.cH) (s.me.rs x.sd) 0 0) := by
  have hexec : exec (.amsg x) s = .next (((s.touch s.cur key).request s.cur key (s.needsSlot s.cur key) true
      (.unit (.amsg x) key { sp := 1, ea := s.me.ea x.mem } (s.me.rc x.cH) (s.me.rs x.sd) 0 0) []).done x.h x.h.words) := by
    rw [show exec (.amsg x) s = execAmsg x s from rfl, execAmsg, gate_of_mayIssue (noHandler_may hk _ _ (.inl rfl))]
    dsimp only
    rw [hcheck, codeFlt_of_codeOk 1 hcode]
    refine (congrArg Host.Outcome.next (proofCheck_of_none horphan _)).trans ?_
    rw [hkey, Option.getD_some, hslot, if_neg Bool.false_ne_true]
  have hposts := posts_request (aside_touch s s.cur key) key (s.needsSlot s.cur key) true
    (.unit (.amsg x) key { sp := 1, ea := s.me.ea x.mem } (s.me.rc x.cH) (s.me.rs x.sd) 0 0) []
  exact ⟨_, hexec, hposts.ends x.h x.h.words, hposts.sent x.h x.h.words⟩

/-! ## The handler (R210, R211, R228) -/

/-- The registers of a handler as it starts. -/
theorem handlerStart_step {s : State} {r : Req} {x : AmsgA} {key : Nat} {o : Opd} {ch : Cap} {a b : W64} {v : W1024} {al : Alloc}
    (hmsg : s.nextMsg s.cur = some r) (hk : r.k = .unit (.amsg x) key o ch a b v)
    (hal : (s.core s.cur).allocs.find? (fun y => y.lslot = (s.ms r.pos).lslot && y.base ≤ key - lsKey s.cur 0 &&
      key - lsKey s.cur 0 < y.base + y.size) = some al) :
    let off := key - lsKey s.cur 0
    let h0 : Master := { Master.empty with
      kind := .handler, st := .ready, pc := wordAddr ch.cursor, lslot := (s.ms r.pos).lslot, lgen := (s.ms r.pos).lgen, hreq := r.id, since := s.cyc }
    exec .handlerStart s = .next (s.setM (s.cur * 16 + 15) ((((h0.ws 1 (BitVec.ofNat 64 (coreOf r.pos % 16 * 16 + slotOf r.pos))).ws 2 a).ws 3
      (BitVec.ofNat 64 off)).wc 1 (Cap.over 1 0x0003 al.base al.size off))) := by
  intro off h0
  rw [show exec .handlerStart s = execHandlerStart s from rfl, execHandlerStart, hmsg]
  dsimp only
  rw [hk]
  dsimp only
  rw [hal]

theorem handler_started {s : State} {r : Req} {x : AmsgA} {key : Nat} {o : Opd} {ch : Cap} {a b : W64} {v : W1024} {al : Alloc}
    (hmsg : s.nextMsg s.cur = some r) (hk : r.k = .unit (.amsg x) key o ch a b v) {off : Nat} (hoff : off = key - lsKey s.cur 0)
    (hal : (s.core s.cur).allocs.find? (fun y => y.lslot = (s.ms r.pos).lslot && y.base ≤ off && off < y.base + y.size) = some al) :
    ∃ t, exec .handlerStart s = .next t ∧ t.mem = s.mem ∧
      let h := t.ms (s.cur * 16 + 15)
      h.kind = .handler ∧ h.st = .ready ∧ h.pc = wordAddr ch.cursor ∧ h.hreq = r.id ∧ h.hcount = 0 ∧
      (∀ i, h.rs i = if i = 1 then BitVec.ofNat 64 (coreOf r.pos % 16 * 16 + slotOf r.pos) else if i = 2 then a
        else if i = 3 then BitVec.ofNat 64 off else 0) ∧
      (h.rc 1).tag = true ∧ (h.rc 1).space = 1 ∧ (h.rc 1).perms = 0x0003 ∧ (h.rc 1).cursor = BitVec.ofNat 64 off ∧
      (h.rc 1).sealT = 0 ∧ (∀ i, i ≠ 1 → h.rc i = Cap.null) ∧ h.o = 0 ∧
      (al.base % 64 = 0 → al.size % 64 = 0 → al.base + al.size ≤ 2 ^ 18 → (h.rc 1).base = al.base ∧ (h.rc 1).top = al.base + al.size) ∧
      ∀ p, p ≠ s.cur * 16 + 15 → t.ms p = s.ms p := by
  subst hoff
  refine ⟨_, handlerStart_step hmsg hk hal, rfl, ?_⟩
  obtain ⟨htag, hcu, hperms, hspace, hseal⟩ := over_fields 1 0x0003 al.base al.size (key - lsKey s.cur 0)
  have hin := List.find?_some hal
  simp only [Bool.and_eq_true, decide_eq_true_eq] at hin
  dsimp only
  rw [ms_setM_same]
  have hrc : ∀ (m : Master) (c : Cap), (m.wc 1 c).rc 1 = c := fun m c => by rw [rc_wc]; rfl
  rw [hrc]
  refine ⟨by simp, by simp, by simp, by simp, by simp [Master.empty], fun i => ?_, htag, hspace, hperms, hcu, hseal, fun i hi => ?_,
    by simp [Master.empty], fun h1 h2 h3 => over_bounds 1 3 h1 h2 h3 hin.1.2 hin.2, fun p hp => ?_⟩
  · have hempty : ∀ (m : Master), m.s = [] → m.rs i = 0 := fun m hm => by
      unfold Master.rs
      rw [hm]
      split <;> rfl
    rw [wc_rs, rs_ws, rs_ws, rs_ws, hempty _ rfl]
    by_cases h0 : i = 0
    · subst h0
      rfl
    · simp only [if_neg h0]
      by_cases h1 : i = 1
      · subst h1
        rfl
      · simp only [if_neg h1]
        by_cases h2 : i = 2
        · subst h2
          rfl
        · simp only [if_neg h2]
  · rw [rc_wc, if_neg hi]
    split
    · rfl
    · unfold Master.rc
      simp only [ws_c]
      split <;> rfl
  · rw [ms_setM, if_neg hp]

/-- What HRET makes of a request: the answered message carries the value. -/
def hretReq (id : Nat) (v : W64) (r : Req) : Req :=
  if r.id = id then
    match r.k with
    | .unit (.amsg y) _ _ _ _ _ _ => { r with k := .done [RegW.s y.sd.toNat v] }
    | _ => r
  else r

theorem hretReq_id (id : Nat) (v : W64) (r : Req) : (hretReq id v r).id = r.id := by
  unfold hretReq
  split
  · split <;> rfl
  · rfl

theorem exec_hret {s : State} (x : S1) (hkind : s.me.kind = .handler) (hcount : s.me.hcount ≤ 64) :
    exec (.hret x) s = .next (State.setM { s with reqs := s.reqs.map (hretReq s.me.hreq (s.me.rs x.sr)) } s.cur Master.empty) := by
  have hmay : s.me.mayIssue .handler 0 = true := by
    unfold Master.mayIssue
    rw [hkind]
    exact decide_eq_true hcount
  rw [show exec (.hret x) s = execHret x s from rfl, execHret, gate_of_mayIssue hmay]
  rfl

/-- HRET ends the handler, and its value stands in the sender's request (R228). -/
theorem handler_returned {s : State} (x : S1) {r : Req} {y : AmsgA} {key : Nat} {o : Opd} {ch : Cap} {a b : W64} {v : W1024}
    (hkind : s.me.kind = .handler) (hcount : s.me.hcount ≤ 64) (hr : s.req? s.me.hreq = some r) (hk : r.k = .unit (.amsg y) key o ch a b v) :
    ∃ t, exec (.hret x) s = .next t ∧ t.mem = s.mem ∧ t.ms s.cur = Master.empty ∧
      t.req? s.me.hreq = some { r with k := .done [.s y.sd.toNat (s.me.rs x.sr)] } ∧ ∀ p, p ≠ s.cur → t.ms p = s.ms p := by
  refine ⟨_, exec_hret x hkind hcount, rfl, ms_setM_same .., ?_, fun p hp => (ms_setM ..).trans (if_neg hp)⟩
  have hid : r.id = s.me.hreq := by simpa using List.find?_some hr
  have hreq : hretReq s.me.hreq (s.me.rs x.sr) r = { r with k := .done [.s y.sd.toNat (s.me.rs x.sr)] } := by
    unfold hretReq
    rw [if_pos hid, hk]
  unfold State.req? at hr ⊢
  rw [setM_reqs, List.find?_map]
  simp only [Function.comp_def, hretReq_id]
  rw [hr, Option.map_some, hreq]

/-! ## Replies (R211, R227) -/

theorem exec_amsgReply_done {s : State} {r : Req} {ws : List RegW} (hr : s.req? s.cur = some r) (hk : r.k = .done ws) :
    exec .amsgReply s = .next ((s.updM r.pos fun m => m.landAll ws).reqEnd r) := by
  simp only [exec, execAmsgReply, hr, hk]
  rfl

/-- A handler that a fault has frozen is answered with 0 and ERR. -/
theorem exec_amsgReply_frozen {s : State} {r : Req} {y : AmsgA} {key : Nat} {o : Opd} {ch : Cap} {a b : W64} {v : W1024}
    (hr : s.req? s.cur = some r) (hk : r.k = .unit (.amsg y) key o ch a b v) (hkind : (s.ms (coreOfLsKey key * 16 + 15)).kind = .handler)
    (hreq : (s.ms (coreOfLsKey key * 16 + 15)).hreq = r.id) (hst : (s.ms (coreOfLsKey key * 16 + 15)).st = .frozen)
    (hflt : (s.ms (coreOfLsKey key * 16 + 15)).flt = true) :
    exec .amsgReply s = .next ((s.updM r.pos fun m => m.landAll [.s y.sd.toNat 0, .o oErr]).reqEnd r) := by
  simp only [exec, execAmsgReply, hr, hk, hkind, hreq, hst, hflt]
  rfl

theorem landed_error {s : State} {r : Req} (sd : SReg) (h : (s.ms r.pos).exiting = false) :
    let t := (s.updM r.pos fun m => m.landAll [.s sd.toNat 0, .o oErr]).reqEnd r
    t.mem = s.mem ∧ t.reqs = s.reqs.filter (fun q => q.id != r.id) ∧ SameFiles (t.ms r.pos) ((s.ms r.pos).ws sd 0) ∧ (t.ms r.pos).o = 0x8 := by
  obtain ⟨hmem, hreqs, hfiles, -⟩ := landed_reqEnd [.s sd.toNat 0, .o oErr] h
  have hland : SameFiles ((s.ms r.pos).landAll [.s sd.toNat 0, .o oErr]) ((s.ms r.pos).ws sd 0) := by
    rw [Master.landAll, List.foldl_cons, Master.land, BitVec.ofNat_toNat, BitVec.setWidth_eq]
    exact ⟨rfl, rfl, rfl, rfl, rfl⟩
  refine ⟨hmem, hreqs, sameFiles_trans hfiles hland, ?_⟩
  have hms : (s.updM r.pos fun m => m.landAll [.s sd.toNat 0, .o oErr]).ms r.pos = (s.ms r.pos).landAll [.s sd.toNat 0, .o oErr] :=
    ms_setM_same ..
  have hend := aside_reqEnd (s := s.updM r.pos fun m => m.landAll [.s sd.toNat 0, .o oErr]) (r := r) (by rw [hms, (landAll_exiting ..).1, h])
  exact (hend.ms r.pos).o.trans (congrArg Master.o hms)

/-! ## The built-in handler (R209, R211) -/

theorem SameButWait.kept {m n : Master} (h : SameButWait m n) : m.kept = n.kept := by
  obtain ⟨_, _, _, _, _, rfl⟩ := h
  rfl

/-- The end of a request and the wakes that follow leave every kept value. -/
theorem kept_updM (s : State) (pos : Nat) {f : Master → Master} (hf : (f (s.ms pos)).kept = (s.ms pos).kept) (p : Nat) :
    ((s.updM pos f).ms p).kept = (s.ms p).kept := by
  rw [State.updM, ms_setM]
  split
  · next h => rw [hf, h]
  · rfl

theorem kept_slotFreed (s : State) (pool p : Nat) : ((s.slotFreed pool).ms p).kept = (s.ms p).kept := by
  unfold State.slotFreed
  split
  · rfl
  · split
    · exact kept_updM s _ (f := fun m => { m.unpark s.cyc with resv := m.slotBank }) (unpark_sameButWait s.cyc (s.ms _)).kept p
    · rfl

theorem kept_markerWake {s : State} {pos : Nat} (h : (s.ms pos).exiting = false) (p : Nat) : ((s.markerWake pos).ms p).kept = (s.ms p).kept := by
  rcases markerWake_cases h with e | ⟨place, e⟩
  · rw [e]
  rw [e]
  exact kept_updM s pos (f := fun m => { m.unpark s.cyc with place := place }) (unpark_sameButWait s.cyc (s.ms pos)).kept p

theorem kept_reqEnd {s : State} {r : Req} (h : (s.ms r.pos).exiting = false) (p : Nat) : ((s.reqEnd r).ms p).kept = (s.ms p).kept := by
  unfold State.reqEnd
  extract_lets s1 s2 s3
  have h2 : ∀ p, s2.ms p = s.ms p := fun p => by
    dsimp only [s2]
    split
    · unfold State.noteRecv
      split <;> rfl
    · rfl
  have h3 : ∀ p, (s3.ms p).kept = (s.ms p).kept ∧ (s3.ms p).exiting = (s.ms p).exiting := fun p => by
    rw [← h2 p]
    dsimp only [s3]
    split
    · exact ⟨kept_slotFreed .., ((aside_slotFreed ..).ms p).exiting⟩
    · exact ⟨rfl, rfl⟩
  exact (kept_markerWake ((h3 r.pos).2.trans h) p).trans (h3 p).1

theorem message_ls {r : Req} {core : Nat} (h : r.message = some core) {i : Instr} {key : Nat} {o : Opd} {c : Cap} {a b : W64} {v : W1024}
    (hk : r.k = .unit i key o c a b v) : isLs key = true := by
  unfold Req.message at h
  rw [hk] at h
  dsimp only at h
  split at h
  · next hc => simp only [Bool.and_eq_true] at hc; exact hc.1.1
  · cases h

theorem nextMsg_ls {s : State} {core : Nat} {r : Req} (h : s.nextMsg core = some r) {i : Instr} {key : Nat} {o : Opd} {c : Cap} {a b : W64} {v : W1024}
    (hk : r.k = .unit i key o c a b v) : isLs key = true := by
  unfold State.nextMsg at h
  split at h
  · cases h
  · have hmem := List.mem_of_mem_take (List.mem_of_mem_head? h)
    have hf := (List.mem_filter.1 hmem).2
    simp only [Bool.and_eq_true, decide_eq_true_eq] at hf
    exact message_ls hf.1 hk

theorem readFor_scalar_ls {p : (MemS → Instr) × Nat} (hp : p ∈ scalarLoads) (x : MemS) {s : State} {r : Rdr} {key : Nat} (hls : isLs key = true) :
    (s.readFor r (p.1 x) key).bytes = s.rdBytes r key p.2 := by
  have hglob : isGlobKey key = false := by
    simp only [isLs, Bool.and_eq_true, decide_eq_true_eq] at hls
    simp only [isGlobKey, decide_eq_false_iff_not]
    omega
  rw [readFor_scalar hp]
  exact loadBytes_of_not_glob hglob p.2

theorem rdBytes_congr {s u : State} {r : Rdr} (h : ∀ k, u.rd8 r k = s.rd8 r k) (k n : Nat) : u.rdBytes r k n = s.rdBytes r k n := by
  induction n generalizing k with
  | zero => rfl
  | succ n ih => rw [State.rdBytes, State.rdBytes, h, ih]

/-- A load that has been kept for its task: its slot frees and its line wakes. -/
def keptReturn (s : State) (r : Req) (key : Nat) (kv : Kept) : State :=
  ((s.updM r.pos fun m => if r.drop then m else { m with kept := some kv }).reqEnd r).wakeLine (l1Of r.pos) (key / 64)

theorem exec_serve_try {s : State} {r : Req} {x : MemS} {key : Nat} {o : Opd} {c : Cap} {a b : W64} {v : W1024} (hmsg : s.nextMsg s.cur = some r)
    (hturn : s.turn15 s.cur = true) {p : (MemS → Instr) × Nat} (hp : p ∈ scalarLoads) (hk : r.k = .unit (p.1 x) key o c a b v) (hnr : x.h.nr ≠ 0) :
    exec .activeMessageServe s =
      .next (keptReturn (s.useTurn15 s.cur) r key { ea := o.ea, img := (s.useTurn15 s.cur).readFor (s.rdr r.pos 0) (p.1 x) key }) := by
  revert hk
  refine scalarLoads_cases (P := fun p => r.k = .unit (p.1 x) key o c a b v → exec .activeMessageServe s =
      .next (keptReturn (s.useTurn15 s.cur) r key { ea := o.ea, img := (s.useTurn15 s.cur).readFor (s.rdr r.pos 0) (p.1 x) key })) ?_ ?_ ?_ ?_ p hp
  all_goals
    intro hk
    rw [show exec .activeMessageServe s = execActiveMessageServe s from rfl, execActiveMessageServe, hmsg]
    dsimp only
    rw [hk]
    dsimp only
    rw [hturn, if_neg (by exact Bool.false_ne_true), if_pos (by simpa [isTry] using hnr)]
    rfl

theorem exec_serve_plain {s : State} {r : Req} {x : MemS} {key : Nat} {o : Opd} {c : Cap} {a b : W64} {v : W1024} (hmsg : s.nextMsg s.cur = some r)
    (hturn : s.turn15 s.cur = true) {p : (MemS → Instr) × Nat} (hp : p ∈ scalarLoads) (hk : r.k = .unit (p.1 x) key o c a b v) (hnr : x.h.nr = 0)
    (hue : s.ueIn (s.rdr r.pos 0) key p.2 = none) :
    exec .activeMessageServe s = .next (((s.useTurn15 s.cur).updM r.pos fun m => m.landAll
      [.s x.sr.toNat (BitVec.ofNat 64 (leNat ((s.useTurn15 s.cur).readFor (s.rdr r.pos 0) (p.1 x) key).bytes))]).reqEnd r) := by
  have hbad : ((s.useTurn15 s.cur).readFor (s.rdr r.pos 0) (p.1 x) key).bad = [] := by
    rw [readFor_scalar hp]
    exact bad_of_ueIn hue
  have hregs := fun rest => loadRegs_scalar hp x (b ++ a) o.ea key rest hbad
  revert hk hregs
  refine scalarLoads_cases (P := fun p => r.k = .unit (p.1 x) key o c a b v →
    (∀ rest, loadRegs (b ++ a) (p.1 x) o.ea key rest ((s.useTurn15 s.cur).readFor (s.rdr r.pos 0) (p.1 x) key) =
      ([.s x.sr.toNat (BitVec.ofNat 64 (leNat ((s.useTurn15 s.cur).readFor (s.rdr r.pos 0) (p.1 x) key).bytes))], none)) →
    exec .activeMessageServe s = .next (((s.useTurn15 s.cur).updM r.pos fun m => m.landAll
      [.s x.sr.toNat (BitVec.ofNat 64 (leNat ((s.useTurn15 s.cur).readFor (s.rdr r.pos 0) (p.1 x) key).bytes))]).reqEnd r)) ?_ ?_ ?_ ?_ p hp
  all_goals
    intro hk hregs
    rw [show exec .activeMessageServe s = execActiveMessageServe s from rfl, execActiveMessageServe, hmsg]
    dsimp only
    rw [hk]
    dsimp only
    rw [hturn, if_neg (by exact Bool.false_ne_true), if_neg (by simpa [isTry] using hnr)]
    rw [show (s.useTurn15 s.cur).rdr r.pos 0 = s.rdr r.pos 0 from rfl, hregs]
    rfl

theorem keptReturn_spec {s : State} {r : Req} (key : Nat) (kv : Kept) (h : (s.ms r.pos).exiting = false) : let t := keptReturn s r key kv
    t.mem = s.mem ∧ t.reqs = s.reqs.filter (fun q => q.id != r.id) ∧ SameFiles (t.ms r.pos) (s.ms r.pos) ∧
      (r.drop = true → (t.ms r.pos).kept = (s.ms r.pos).kept) ∧ (r.drop = false → (t.ms r.pos).kept = some kv) := by
  intro t
  have hms : (s.updM r.pos fun m => if r.drop then m else { m with kept := some kv }).ms r.pos =
      if r.drop then s.ms r.pos else { s.ms r.pos with kept := some kv } := ms_setM_same ..
  have hex : ((s.updM r.pos fun m => if r.drop then m else { m with kept := some kv }).ms r.pos).exiting = false := by
    rw [hms]
    split <;> exact h
  have hend := (aside_reqEnd hex).trans (aside_wakeAll _ fun k m => l1Of k = l1Of r.pos && m.park = .line (key / 64))
  have hkept : (t.ms r.pos).kept = (if r.drop then s.ms r.pos else { s.ms r.pos with kept := some kv }).kept := by
    rw [← hms]
    exact (wakeAll_sameButWait ..).kept.trans (kept_reqEnd hex r.pos)
  refine ⟨hend.mem, reqEnd_reqs .., ?_, fun hd => ?_, fun hd => ?_⟩
  · refine sameFiles_trans (hend.ms r.pos).files ?_
    rw [show State.ms { (s.updM r.pos fun m => if r.drop then m else { m with kept := some kv }) with
      reqs := (s.updM r.pos fun m => if r.drop then m else { m with kept := some kv }).reqs.filter fun x => x.id != r.id } r.pos = _ from hms]
    split <;> exact ⟨rfl, rfl, rfl, rfl, rfl⟩
  · rw [hkept, hd]
    rfl
  · rw [hkept, hd]
    rfl

/-- A load is served: its value lands, or is kept for a try mode's task. -/
theorem load_served {s : State} {r : Req} {x : MemS} {key : Nat} {o : Opd} {c : Cap} {a b : W64} {v : W1024} (hmsg : s.nextMsg s.cur = some r)
    (hturn : s.turn15 s.cur = true) (hex : (s.ms r.pos).exiting = false) {p : (MemS → Instr) × Nat} (hp : p ∈ scalarLoads)
    (hk : r.k = .unit (p.1 x) key o c a b v) (hue : s.ueIn (s.rdr r.pos 0) key p.2 = none) :
    ∃ t, exec .activeMessageServe s = .next t ∧ t.mem = s.mem ∧ t.reqs = s.reqs.filter (fun q => q.id != r.id) ∧
      if x.h.nr = 0 then SameFiles (t.ms r.pos) ((s.ms r.pos).ws x.sr (BitVec.ofNat 64 (s.rdNat (s.rdr r.pos 0) key p.2)))
      else SameFiles (t.ms r.pos) (s.ms r.pos) ∧ (r.drop = true → (t.ms r.pos).kept = (s.ms r.pos).kept) ∧
        (r.drop = false → ∃ kv, (t.ms r.pos).kept = some kv ∧ kv.ea = o.ea ∧ kv.img.bytes = s.rdBytes (s.rdr r.pos 0) key p.2) := by
  have hbytes : ((s.useTurn15 s.cur).readFor (s.rdr r.pos 0) (p.1 x) key).bytes = s.rdBytes (s.rdr r.pos 0) key p.2 :=
    (readFor_scalar_ls hp x (nextMsg_ls hmsg hk)).trans (rdBytes_congr (s := s) (u := s.useTurn15 s.cur) (fun _ => rfl) key p.2)
  split
  · next hnr =>
    have hexec := exec_serve_plain hmsg hturn hp hk hnr hue
    rw [hbytes] at hexec
    obtain ⟨hmem, hreqs, hfiles, -⟩ := landed_reqEnd (s := s.useTurn15 s.cur) (r := r)
      [.s x.sr.toNat (BitVec.ofNat 64 (leNat (s.rdBytes (s.rdr r.pos 0) key p.2)))] hex
    refine ⟨_, hexec, hmem, hreqs, sameFiles_trans hfiles ?_⟩
    rw [Master.landAll, List.foldl_cons, List.foldl_nil, Master.land, BitVec.ofNat_toNat, BitVec.setWidth_eq]
    exact ⟨rfl, rfl, rfl, rfl, rfl⟩
  · next hnr =>
    obtain ⟨hmem, hreqs, hfiles, hdrop, hkept⟩ := keptReturn_spec (s := s.useTurn15 s.cur) (r := r) key
      { ea := o.ea, img := (s.useTurn15 s.cur).readFor (s.rdr r.pos 0) (p.1 x) key } hex
    exact ⟨_, exec_serve_try hmsg hturn hp hk hnr, hmem, hreqs, hfiles, hdrop, fun hd => ⟨_, hkept hd, rfl, hbytes⟩⟩

/-! ### Stores -/

/-- What the write of a few bytes of data leaves (R217). -/
theorem wrote_dataCells {s t : State} {k : Nat} {bs : List Byte} (hk : k < 2 ^ 71) (h0 : bs ≠ []) (hn : bs.length < 64)
    (hmem : t.mem = setCells s.mem (dataCells k bs)) : Wrote s t k bs := by
  have hpois : poisonClears k bs.length = [] := by
    unfold poisonClears
    refine List.filterMap_eq_nil_iff.2 fun b _ => ?_
    rw [if_neg]
    simp only [Bool.and_eq_true, decide_eq_true_eq]
    omega
  have hpos : 0 < bs.length := List.length_pos_of_ne_nil h0
  have htag : ∀ c ∈ tagClears k bs.length, ∃ i < bs.length, c.1 = tagKey (k + i) := fun c hc => by
    unfold tagClears at hc
    rw [if_neg (by omega)] at hc
    obtain ⟨j, hj, rfl⟩ := List.mem_map.1 hc
    have hj := List.mem_range.1 hj
    by_cases hj0 : j = 0
    · exact ⟨0, hpos, by simp only [tagKey, hj0, Nat.add_zero]⟩
    · refine ⟨(k / 16 + j) * 16 - k, by omega, ?_⟩
      simp only [tagKey]
      omega
  rw [Wrote, hmem]
  refine ⟨fun i hi => ⟨get_setCells_dataCells _ (by omega) (by omega) hi, ?_⟩, fun j hout hne => ?_⟩
  · have hin : ∃ c ∈ tagClears k bs.length, c.1 = tagKey (k + i) := by
      unfold tagClears
      rw [if_neg (by omega)]
      refine ⟨_, List.mem_map.2 ⟨(k + i) / 16 - k / 16, List.mem_range.2 (by omega), rfl⟩, ?_⟩
      simp only [tagKey]
      omega
    rw [dataCells, hpois, List.append_nil, setCells_append]
    exact get_setCells_of_mem hin fun c hc _ => (tagClears_poisonClears_cell (List.mem_append_left _ hc)).2
  · rw [dataCells, hpois, List.append_nil]
    refine get_setCells_of_notMem _ _ _ fun c hc hcj => ?_
    obtain hc | hc := List.mem_append.1 hc
    · have := bytesAt_key hc
      omega
    · obtain ⟨i, hi, hci⟩ := htag c hc
      exact hne i hi (hcj ▸ hci)

theorem scalarStores_cases {P : (MemS → Instr) × Nat → Prop} (hb : P (.stB, 1)) (hh : P (.stH, 2)) (hw : P (.stW, 4)) (hd : P (.stD, 8)) :
    ∀ p ∈ scalarStores, P p := by
  intro p hp
  simp only [scalarStores, List.mem_cons, List.not_mem_nil, or_false] at hp
  obtain rfl | rfl | rfl | rfl := hp <;> assumption

theorem exec_serve_store {s : State} {r : Req} {x : MemS} {key : Nat} {o : Opd} {c : Cap} {a b : W64} {v : W1024} (hmsg : s.nextMsg s.cur = some r)
    (hturn : s.turn15 s.cur = true) {p : (MemS → Instr) × Nat} (hp : p ∈ scalarStores) (hk : r.k = .unit (p.1 x) key o c a b v) :
    ∃ keys, exec .activeMessageServe s = .next
      ((State.wakeWords { s.useTurn15 s.cur with mem := setCells s.mem (dataCells key (leBytes p.2 a.toNat)) } keys).reqEnd r) := by
  revert hk
  refine scalarStores_cases (P := fun p => r.k = .unit (p.1 x) key o c a b v → ∃ keys, exec .activeMessageServe s = .next
      ((State.wakeWords { s.useTurn15 s.cur with mem := setCells s.mem (dataCells key (leBytes p.2 a.toNat)) } keys).reqEnd r)) ?_ ?_ ?_ ?_ p hp
  all_goals
    intro hk
    rw [show exec .activeMessageServe s = execActiveMessageServe s from rfl, execActiveMessageServe, hmsg]
    dsimp only
    rw [hk]
    dsimp only
    rw [hturn, if_neg (by exact Bool.false_ne_true)]
    exact ⟨_, rfl⟩

/-- A store is served: it is performed. -/
theorem store_served {s : State} {r : Req} {x : MemS} {key : Nat} {o : Opd} {c : Cap} {a b : W64} {v : W1024} (hmsg : s.nextMsg s.cur = some r)
    (hturn : s.turn15 s.cur = true) (hex : (s.ms r.pos).exiting = false) {p : (MemS → Instr) × Nat} (hp : p ∈ scalarStores)
    (hk : r.k = .unit (p.1 x) key o c a b v) :
    ∃ t, exec .activeMessageServe s = .next t ∧ Wrote s t key (leBytes p.2 a.toNat) ∧ t.reqs = s.reqs.filter (fun q => q.id != r.id) ∧
      SameFiles (t.ms r.pos) (s.ms r.pos) := by
  obtain ⟨keys, hexec⟩ := exec_serve_store hmsg hturn hp hk
  have hls := nextMsg_ls hmsg hk
  simp only [isLs, Bool.and_eq_true, decide_eq_true_eq] at hls
  have hlt : ∀ {n}, n < 64 → (leBytes n a.toNat).length < 64 := fun h => (leBytes_length ..).trans_lt h
  have hlen : leBytes p.2 a.toNat ≠ [] ∧ (leBytes p.2 a.toNat).length < 64 :=
    scalarStores_cases (P := fun p => leBytes p.2 a.toNat ≠ [] ∧ (leBytes p.2 a.toNat).length < 64)
      ⟨List.cons_ne_nil _ _, hlt (by decide)⟩ ⟨List.cons_ne_nil _ _, hlt (by decide)⟩ ⟨List.cons_ne_nil _ _, hlt (by decide)⟩ ⟨List.cons_ne_nil _ _, hlt (by decide)⟩ p hp
  have hwake : Aside { s.useTurn15 s.cur with mem := setCells s.mem (dataCells key (leBytes p.2 a.toNat)) }
      (State.wakeWords { s.useTurn15 s.cur with mem := setCells s.mem (dataCells key (leBytes p.2 a.toNat)) } keys) := aside_wakeAll ..
  have hend := aside_reqEnd (r := r) ((hwake.ms r.pos).exiting.trans hex)
  refine ⟨_, hexec, wrote_dataCells (by omega) hlen.1 hlen.2 (hend.mem.trans hwake.mem), reqEnd_reqs .., ?_⟩
  exact sameFiles_trans (hend.ms r.pos).files (hwake.ms r.pos).files

/-- Settles O23: each step of a message by its own lemma. -/
theorem activeMessagesAndHandlers : Obligations.ActiveMessagesAndHandlers := by
  unfold Obligations.ActiveMessagesAndHandlers
  refine ⟨⟨fun s x key hk horphan hcheck hcode hkey hslot => amsg_sent hk horphan hcheck hcode hkey hslot, ?_, ?_, ?_⟩, ?_⟩
  · intro s r x key o ch a b v al hmsg hk off hal
    exact handler_started hmsg hk rfl hal
  · intro s x r y key o ch a b v hkind hcount hr hk
    exact handler_returned x hkind hcount hr hk
  · refine fun s r hr hex => ⟨fun ws hk => ?_, fun y key o ch a b v hk hkind hreq hst hflt => ?_⟩
    · obtain ⟨hmem, hreqs, hfiles, -⟩ := landed_reqEnd (r := r) ws hex
      exact ⟨_, exec_amsgReply_done hr hk, hmem, hreqs, hfiles⟩
    · exact ⟨_, exec_amsgReply_frozen hr hk hkind hreq hst hflt, landed_error y.sd hex⟩
  · intro s r x key o c a b v hmsg hturn hex
    exact ⟨fun p hp hk hue => load_served hmsg hturn hex hp hk hue, fun p hp hk => store_served hmsg hturn hex hp hk⟩

end Sys2Proof.Machine
end

section

/-!
# Halo pushes (spec/10, R206, R231)
O24 asks what a replica die takes of a push for every state. The partition of a region is a number: from partition 256 on, the keys of its
bytes lie behind the data plane, where no byte belongs to the block of its strip, and the push takes nothing.
-/

namespace Sys2Proof.Machine

open Sys2Proof.Claims

/-- A region of two tiles, on dies 0 and 1, with strips of one block. -/
def twoTiles : Halo := { lo := 0, hi := 0x20000, ts := 0x10000, hw := 1, own := [0, 1] }

/-- A push of its first tile in partition 256, which die 1 has not taken. -/
def farPush : Batch :=
  { id := 5, src := 0, pos := 0, lslot := 0, home := 0, chan := globKey 256 0, cells := [], proof := 0, after := [], hold := false, applied := false
    todo := [1], req := 4, push := true }

/-- Die 1 takes the push. -/
def farRegion : State :=
  { oneTask aTask with cur := 5, arg := 1, parts := [(256, { Part.empty with halos := [twoTiles] })], batches := [farPush] }

def takenAfter (die k : Nat) : Out → Option (Option Byte)
  | .next t => some (Tab.find? (Tab.get [] t.halo die) k)
  | _ => none

theorem farRegion_tile : farRegion.haloTile (farPush.chan / 2 ^ 64) (farPush.chan % 2 ^ 64) = some (twoTiles, 0) ∧
    farRegion.waiting farPush.after = false ∧ (1, [0xFFC0]) ∈ twoTiles.replicas 0 := by decide +kernel

/-- The strip's first byte is not taken. -/
theorem farRegion_takes : takenAfter 1 (globKey 256 0xFFC0) (exec .haloPushApply farRegion) = some none := by decide +kernel

/-- Refutes O24: a replica die takes no byte of a push in partition 256. -/
theorem not_bankModesAndHaloTiles : ¬ Obligations.BankModesAndHaloTiles := by
  unfold Obligations.BankModesAndHaloTiles
  rintro ⟨-, -, -, -, h⟩
  obtain ⟨htile, hwait, hrep⟩ := farRegion_tile
  obtain ⟨t, hexec, -, -, htaken⟩ := h farRegion farPush twoTiles 0 rfl rfl (List.mem_singleton.2 rfl) hwait
    (fun y hy _ _ _ _ => (List.mem_singleton.1 hy) ▸ Nat.le_refl _) htile rfl rfl
  have hbyte : Tab.find? (Tab.get [] t.halo 1) (globKey 256 0xFFC0) = some _ :=
    (htaken [0xFFC0] hrep 0xFFC0 (List.mem_singleton.2 rfl) 0 (by decide)).1 rfl
  have hruns := farRegion_takes
  rw [hexec, takenAfter, hbyte] at hruns
  cases hruns

end Sys2Proof.Machine
end
